-- ==== Sys2Proof/Word.lean ====
section
/-!
DEFINITION. Sys2Proof/Word.lean: the words of the Claral 800 and their plainest arithmetic
(R2: bit 0 is least significant; multi-byte values are little-endian).
-/
namespace Sys2Proof

/-- One byte (R2). -/
abbrev Byte := BitVec 8
/-- A scalar: bits [63:0] of a register (R113). -/
abbrev Word := BitVec 64
/-- The 256 bits of a register (R113). -/
abbrev W256 := BitVec 256
/-- A register number: c0 to c63 (R65). -/
abbrev Reg := BitVec 6
/-- A core index, 0 to 511 (R12). -/
abbrev CoreIx := BitVec 9
/-- A slot of a core, 0 to 7 (R9). -/
abbrev SlotIx := BitVec 3
/-- A cluster index, 0 to 63 (R12). -/
abbrev ClusterIx := BitVec 6
/-- An address space identifier: 512 of them (R9). -/
abbrev Asid := BitVec 9
/-- A PCI Express function, 0 to 64 (R442). -/
abbrev FnIx := BitVec 7
/-- A chip index in the tenant partition (R443). -/
abbrev ChipIx := BitVec 8
/-- An engine number of R412. -/
abbrev EngineIx := BitVec 8

/-- A register: 256 bits and the tag that tells a capability from data (R113). -/
structure RegVal where
  val : W256 := 0
  tag : Bool := false
deriving DecidableEq, Repr

/-- The field `[lo + w - 1 : lo]` of a natural number. -/
def bitsOf (n lo w : Nat) : Nat := n / 2 ^ lo % 2 ^ w

end Sys2Proof
end

