-- ==== Sys2Proof/Config.lean ====
section
/-!
DEFINITION. Sys2Proof/Config.lean: what an implementation of the Claral 800 fixes, and the free values.
Every constant here is opaque: nothing in Lean can evaluate it, so a claim about it holds for every value.
-/
namespace Sys2Proof.Config

/-- Free choice of the machine: the `n`-th open pick (R6). A pick among `k` outcomes is this value modulo `k`
(log entry 10). -/
opaque freePick : Nat → Nat

/-- Free value: the `n`-th value that the manual leaves unstated (log entry 10). -/
opaque freeWord : Nat → BitVec 64

/-- The digest of the immutable boot ROM's own code (R453). -/
opaque romDigest : BitVec 384

/-- The root key digest held in the boot ROM (R452). -/
opaque rootKeyDigest : BitVec 384

/-- SLH-DSA-SHA2-192s verification (FIPS 205), public key, 48-byte message, signature (R452; log entry 11). -/
opaque slhDsaVerify : List Byte → List Byte → List Byte → Bool

/-- The ECDSA P-384 signature of the DOE responder over a transcript, by the device key that meas.0 to meas.4 fix
(R453; log entry 11). -/
opaque deviceSign : List (BitVec 384) → List Byte → List Byte

/-- The certificate chain that the DOE responder holds for the device key fixed by meas.0 to meas.4 (R453). -/
opaque deviceCert : List (BitVec 384) → List Byte

/-- Whether, at a cycle, the chip that homes a fabric page refuses an access of an engine, of a string or of fetching, or
its link is lost (R365; log entry 35): cycle, and chip with page. -/
opaque farRefuses : Nat → Nat → Bool

/-- Whether zero times infinity plus a quiet NaN counts as invalid, which IEEE 754 leaves to the implementation (R108; log
entry 56). -/
opaque fmaInvalid : Bool

/-- Engine idle cycles that the power limit inserts into one job while it holds (R21; log entry 12). -/
opaque idleCycles : Nat → Nat

/-- The latency of one access to the farthest line, where the manual gives an approximate figure only (R242, R319). -/
opaque farLatency : Nat → Nat

/-- Nolost hops between two chips of which neither is a neighbour of the other by a port of this chip (R379; log entry 13). -/
opaque nolostHops : Nat → Nat → Nat

/-- Home core of a byte of another chip's export, which that chip's page tables decide (R379; log entry 13): chip, handle,
offset. -/
opaque farHome : Nat → Nat → Nat → Nat

/-- Which of the ports that reach a chip lies nearest to a core, the places of the ports not being given (R18, R196): core,
chip (log entry 65). -/
opaque nearPort : Nat → Nat → Nat

end Sys2Proof.Config
end

