-- ==== Sys2Proof/Syntax.lean ====
section
/-!
DEFINITION. Sys2Proof/Syntax.lean: the ONE inductive of instructions and machine steps. One constructor per row of
spec/opcode_table.json. The first 215 constructors are the instructions of the opcode map (R68, R69); the others are
the machine's own steps (tile commands, packets, completions, transactions between chips), whose operands carry what
the step's agent brings to it.
-/
namespace Sys2Proof

/-- An immediate field of width `w` with the H of its EXT prefix, if it has one (R70, R71). -/
structure Imm (w : Nat) where
  ext : Option (BitVec 26)
  field : BitVec w
deriving DecidableEq, Repr

/-- Compare conditions (R68, R130). -/
inductive Cond where
  | eq | ne | lt | ge | ltu | geu | tst | ntst
deriving DecidableEq, Repr

/-- Size codes 0 to 6 (R68). Code 7 is ILLEGAL. -/
inductive MemSize where
  | b8 | b16 | b32 | b64 | b128 | b256 | cap
deriving DecidableEq, Repr

/-- Scope codes 0 to 4 (R68, R233). Codes 5 to 7 are ILLEGAL. -/
inductive Scope where
  | core | clu | pkg | ten | sys
deriving DecidableEq, Repr

/-- Orders of a strong access (R72, R234). -/
inductive Order where
  | rlx | acq | rel | ar
deriving DecidableEq, Repr

/-- FENCE kinds 0 to 2 (R249). Kind 3 is ILLEGAL. -/
inductive FenceKind where
  | acq | rel | full
deriving DecidableEq, Repr

/-- Lane types of layout V and 0x26 (R69, R256). -/
inductive LaneType where
  | s8 | s16 | s32 | s64 | bf16 | f16 | f32 | f64
deriving DecidableEq, Repr

/-- The type field of VDIV and VSQRT (R262). -/
inductive FloatLane where
  | f16 | bf16 | f32 | f64
deriving DecidableEq, Repr

/-- The type field of VIDIV and VIREM (R262). -/
inductive IntLane where
  | s8 | s16 | s32 | s64
deriving DecidableEq, Repr

/-- Element size of major 0x2A (R69, R270). -/
inductive ElemSize where
  | e8 | e16 | e32 | e64
deriving DecidableEq, Repr

/-- Element types, codes 0x00 to 0x11 (R88). Codes 0x12 to 0x1F are reserved. -/
inductive ElemType where
  | b1 | s4 | s8 | s16 | s32 | s64 | n8 | n16 | n32 | n64
  | e2m1 | e5m2 | e4m3 | cx8 | bf16 | f16 | f32 | f64
deriving DecidableEq, Repr

/-- Order and scope that QUAL gives LD, ST, LDX or STX; rlx with core leaves the access plain (R74). -/
structure MemOrder where
  order : Order := .rlx
  scope : Scope := .core
deriving DecidableEq, Repr

/-- Order, scope and width that QUAL gives ATOM; relaxed, package scope and 64 bits without one (R73, R74). -/
structure AtomOrder where
  order : Order := .rlx
  scope : Scope := .pkg
  w32 : Bool := false
deriving DecidableEq, Repr

/-- The guard of a QUAL prefix: register, bit and sense (R72, R75). -/
structure Guard where
  reg : Reg
  bit : BitVec 8
  sense : Bool
deriving DecidableEq, Repr

/-- One issue slot of the package. -/
structure SlotId where
  core : CoreIx
  slot : SlotIx
deriving DecidableEq, Repr

/-- What a completing long-latency access receives (R81, R242): its own package's memory, a value that a peer or the
host link brings, or an uncorrectable error (R222). -/
inductive LoadReply where
  | local_
  | remote (data : W256)
  | memError
deriving DecidableEq, Repr

/-- A name component: 1 to 31 bytes (R183). -/
abbrev Name := List Byte

/-- A peer's answer to NWALK (R196, R253, R254). -/
inductive WalkReply where
  | ok (node : BitVec 23) (gen : BitVec 24) (kind : BitVec 3) (mask : BitVec 12) (extent : Word)
  | fail (code : BitVec 8) (comp : BitVec 8) (kind : BitVec 3)
deriving DecidableEq, Repr

/-- A peer's answer to NOPEN (R196, R202). -/
inductive OpenReply where
  | ok (handle : BitVec 24) (gen : BitVec 24)
  | fail (code : BitVec 8)
deriving DecidableEq, Repr

/-- A peer's answer to NREAD, NWRITE, NQOP or NCLOSE (R196, R440). -/
inductive AccessReply where
  | data (v : W256)
  | ack
  | held
  | refused (cause : BitVec 8)
deriving DecidableEq, Repr

/-- What a peer asks of this chip's fabric window (R364). -/
inductive FabricOp where
  | load (n : Nat)
  | store (bytes : List Byte)
  | atom (fn : BitVec 4) (w32 : Bool) (y : W256)
deriving DecidableEq, Repr

/-- What a peer's bulk engine or port asks of a pinned export (R366). -/
inductive KeyedOp where
  | read (n : Nat)
  | write (bytes : List Byte)
  | add (value : Word)
deriving DecidableEq, Repr

/-- What a box row of a re-sharding plan meets (R378): its bytes moved (`remote` holds those a peer supplied), the
link lost, or an access that faulted. -/
inductive RowOutcome where
  | moved (remote : List Byte)
  | linkLost
  | faulted (cause : BitVec 8)
deriving DecidableEq, Repr

/-- The addresses in /mem that the loader chooses for one launch (R52, R62, R308). -/
structure LoaderChoice where
  textVa : Word
  dataVa : Word
  argVa : Word
deriving DecidableEq, Repr

/-- A firmware image as the boot ROM reads it (R452). -/
structure BootImage where
  body : List Byte
  version : Nat
  rsaModulus : Nat
  rsaSig : Nat
  slhKey : List Byte
  slhSig : List Byte
deriving DecidableEq, Repr

/-- The fields of the signed configuration image (R454). -/
structure BootConfig where
  watts : BitVec 16
  vfs : BitVec 7
  chip : ChipIx
  part : BitVec 8
  /-- `MAXSCOPE` and exchange weight of each function that the image names. -/
  fns : List (FnIx × BitVec 3 × BitVec 8)
  /-- Package key store slots (R396, R454). -/
  keys : List (BitVec 8 × W256)
  /-- The chip table of the tenant partition: name and chip index (R185). -/
  chips : List (Name × ChipIx)
deriving DecidableEq, Repr

/-- The instructions of the opcode map, and the machine's own steps. -/
inductive Instr where
  -- major 0x01 (R68, R69)
  /-- ADD (R125): Adds two 64-bit scalars. -/
  | add (d a b : Reg)
  /-- SUB (R125): Subtracts two 64-bit scalars. -/
  | sub (d a b : Reg)
  /-- AND (R125): Bitwise AND of two scalars. -/
  | and_ (d a b : Reg)
  /-- OR (R125): Bitwise OR of two scalars. -/
  | or_ (d a b : Reg)
  /-- XOR (R125): Bitwise XOR of two scalars. -/
  | xor (d a b : Reg)
  /-- ANDN (R125): x AND NOT y. -/
  | andn (d a b : Reg)
  /-- SLL (R125): Shift left by y[5:0]. -/
  | sll (d a b : Reg)
  /-- SRL (R125): Logical shift right by y[5:0]. -/
  | srl (d a b : Reg)
  /-- SRA (R125): Arithmetic shift right by y[5:0]. -/
  | sra (d a b : Reg)
  /-- ROL (R125): Rotate left by y[5:0]. -/
  | rol (d a b : Reg)
  /-- ROR (R125): Rotate right by y[5:0]. -/
  | ror (d a b : Reg)
  /-- MIN (R125): Signed minimum. -/
  | min (d a b : Reg)
  /-- MAX (R125): Signed maximum. -/
  | max (d a b : Reg)
  /-- MINU (R125): Unsigned minimum. -/
  | minu (d a b : Reg)
  /-- MAXU (R125): Unsigned maximum. -/
  | maxu (d a b : Reg)
  /-- ADDW (R125): 32-bit add, sign-extended. -/
  | addw (d a b : Reg)
  /-- SUBW (R125): 32-bit subtract, sign-extended. -/
  | subw (d a b : Reg)
  /-- IDX2 (R125): (x << 1) + y. -/
  | idx2 (d a b : Reg)
  /-- IDX4 (R125): (x << 2) + y. -/
  | idx4 (d a b : Reg)
  /-- IDX8 (R125): (x << 3) + y. -/
  | idx8 (d a b : Reg)
  /-- IDX32 (R125): (x << 5) + y. -/
  | idx32 (d a b : Reg)
  /-- CLEAD (R125): Count leading zeros. -/
  | clead (d a : Reg)
  /-- CTRAIL (R125): Count trailing zeros. -/
  | ctrail (d a : Reg)
  /-- CONES (R125): Count set bits. -/
  | cones (d a : Reg)
  /-- BYTEREV (R125): Reverse the 8 bytes. -/
  | byterev (d a : Reg)
  /-- EXTS (R125): Sign-extend from width n+1. -/
  | exts (d a b : Reg)
  /-- EXTZ (R125): Zero-extend from width n+1. -/
  | extz (d a b : Reg)
  /-- MOV (R125): Copies all 256 bits and the tag. -/
  | mov (d a : Reg)
  /-- BSET (R125): Copies c[a] with bit y[7:0] set. -/
  | bset (d a b : Reg)
  /-- BCLR (R125): Copies c[a] with bit y[7:0] cleared. -/
  | bclr (d a b : Reg)
  /-- BINV (R125): Copies c[a] with bit y[7:0] inverted. -/
  | binv (d a b : Reg)
  /-- BEXT (R125): Extracts bit y[7:0] of c[a]. -/
  | bext (d a b : Reg)
  -- major 0x02 (R68, R69)
  /-- ADDI (R126): Adds a signed immediate. -/
  | addi (d a : Reg) (imm : Imm 14)
  -- major 0x03 (R68, R69)
  /-- ANDI (R127): AND with signed immediate. -/
  | andi (d a : Reg) (imm : Imm 11)
  /-- ORI (R127): OR with signed immediate. -/
  | ori (d a : Reg) (imm : Imm 11)
  /-- XORI (R127): XOR with signed immediate. -/
  | xori (d a : Reg) (imm : Imm 11)
  /-- SLLI (R127): Shift left by immediate. -/
  | slli (d a : Reg) (imm : BitVec 11)
  /-- SRLI (R127): Logical shift right by immediate. -/
  | srli (d a : Reg) (imm : BitVec 11)
  /-- SRAI (R127): Arithmetic shift right by immediate. -/
  | srai (d a : Reg) (imm : BitVec 11)
  /-- ADDWI (R127): 32-bit add of immediate, sign-extended. -/
  | addwi (d a : Reg) (imm : Imm 11)
  /-- RORI (R127): Rotate right by immediate. -/
  | rori (d a : Reg) (imm : BitVec 11)
  -- major 0x04 (R68, R69)
  /-- MOVH (R128): Places a signed 20-bit value at bit 14. -/
  | movh (d : Reg) (imm : BitVec 20)
  -- major 0x05 (R68, R69)
  /-- ORSH (R128): Shifts c[d] left 20 and ORs in 20 bits. -/
  | orsh (d : Reg) (imm : BitVec 20)
  -- major 0x06 (R68, R69)
  /-- BSETI (R129): Copies c[a] with an immediate bit set. -/
  | bseti (d a : Reg) (bit : BitVec 8)
  /-- BCLRI (R129): Copies c[a] with an immediate bit cleared. -/
  | bclri (d a : Reg) (bit : BitVec 8)
  /-- BINVI (R129): Copies c[a] with an immediate bit inverted. -/
  | binvi (d a : Reg) (bit : BitVec 8)
  /-- BEXTI (R129): Extracts an immediate bit. -/
  | bexti (d a : Reg) (bit : BitVec 8)
  /-- BDEPI (R129): Deposits c[a][0] at an immediate bit of c[d]. -/
  | bdepi (d a : Reg) (bit : BitVec 8)
  /-- BNDEPI (R129): Deposits NOT c[a][0] at an immediate bit of c[d]. -/
  | bndepi (d a : Reg) (bit : BitVec 8)
  -- major 0x07 (R68, R69)
  /-- CMP (R130): Compares two registers into one predicate bit. -/
  | cmp (cond : Cond) (d a b : Reg) (bit : BitVec 5)
  -- major 0x08 (R68, R69)
  /-- CMPI (R130): Compares a register with an immediate into one predicate bit. -/
  | cmpi (cond : Cond) (d a : Reg) (bit : BitVec 5) (imm : Imm 6)
  -- major 0x09 (R68, R69)
  /-- MUL (R131): Low 64 bits of the product. -/
  | mul (la : BitVec 4) (d a b : Reg)
  /-- MULH (R131): High 64 bits of the signed product. -/
  | mulh (la : BitVec 4) (d a b : Reg)
  /-- MULHU (R131): High 64 bits of the unsigned product. -/
  | mulhu (la : BitVec 4) (d a b : Reg)
  /-- MULHSN (R131): High 64 bits of signed by natural product. -/
  | mulhsn (la : BitVec 4) (d a b : Reg)
  /-- DIV (R132): Signed divide on the shared divider. -/
  | div (la : BitVec 4) (d a b : Reg)
  /-- DIVU (R132): Unsigned divide. -/
  | divu (la : BitVec 4) (d a b : Reg)
  /-- REM (R132): Signed remainder. -/
  | rem (la : BitVec 4) (d a b : Reg)
  /-- REMU (R132): Unsigned remainder. -/
  | remu (la : BitVec 4) (d a b : Reg)
  /-- MULW (R131): 32-bit multiply, sign-extended. -/
  | mulw (la : BitVec 4) (d a b : Reg)
  -- major 0x0A (R68, R69)
  /-- BCC (R160): Branches when two registers satisfy a condition. -/
  | bcc (cond : Cond) (a b : Reg) (imm : Imm 11)
  -- major 0x0B (R68, R69)
  /-- BB (R161): Branches on one bit of a register. -/
  | bb (sense : Bool) (a : Reg) (bit : BitVec 8) (imm : Imm 11)
  -- major 0x0C (R68, R69)
  /-- J (R162): Jumps by a 26-bit displacement. -/
  | j (imm : BitVec 26)
  -- major 0x0D (R68, R69)
  /-- JAL (R162): Jumps and links in c1. -/
  | jal (imm : BitVec 26)
  -- major 0x0E (R68, R69)
  /-- JALR (R163): Jumps to a register plus immediate and links. -/
  | jalr (d a : Reg) (imm : Imm 14)
  -- major 0x0F (R68, R69)
  /-- DBNZ (R164): Decrements and branches if nonzero. -/
  | dbnz (a : Reg) (imm : Imm 20)
  -- major 0x10 (R68, R69)
  /-- CGETOFF (R134): Reads OFFSET. -/
  | cgetoff (d a : Reg)
  /-- CGETBASE (R134): Reads BASE. -/
  | cgetbase (d a : Reg)
  /-- CGETLIM (R134): Reads LIMIT. -/
  | cgetlim (d a : Reg)
  /-- CGETPERM (R134): Reads PERM. -/
  | cgetperm (d a : Reg)
  /-- CGETHND (R134): Reads HANDLE. -/
  | cgethnd (d a : Reg)
  /-- CGETGEN (R134): Reads GEN as held. -/
  | cgetgen (d a : Reg)
  /-- CGETKIND (R134): Reads KIND and SEALED. -/
  | cgetkind (d a : Reg)
  /-- CCUR (R135): Sets a capability's cursor. -/
  | ccur (d a b : Reg)
  /-- CSTEP (R135): Steps a capability's cursor. -/
  | cstep (d a b : Reg)
  /-- CNARROW (R135): Narrows the window to [cursor, y). -/
  | cnarrow (d a b : Reg)
  /-- CDROP (R135): Drops the named permissions. -/
  | cdrop (d a b : Reg)
  /-- CCOVER (R136): Seals a view under an S authority. -/
  | ccover (d a b : Reg)
  /-- CUNCOVER (R136): Unseals a view under an S authority. -/
  | cuncover (d a b : Reg)
  /-- CPLAIN (R137): Copies a register as plain data. -/
  | cplain (d a : Reg)
  /-- CPROBE (R137): Returns tag, in-bounds, sealed and walk-reference bits. -/
  | cprobe (d a : Reg)
  /-- CDIST (R137): Checked distance between two cursors of one opening. -/
  | cdist (d a b : Reg)
  -- major 0x11 (R68, R69)
  /-- CINCI (R138): Moves a capability's cursor by an immediate. -/
  | cinci (d a : Reg) (imm : Imm 14)
  -- major 0x12 (R68, R69)
  /-- WALK (R201): Resolves a path to a walk reference. -/
  | walk (la : BitVec 4) (d a b : Reg)
  /-- OPEN (R202): Opens a handle from a walk reference. -/
  | open_ (la : BitVec 4) (d a b : Reg)
  /-- CLOSE (R203): Closes and revokes a handle. -/
  | close (la : BitVec 4) (d a : Reg)
  /-- BIND (R204): Binds a handle under a name in a directory. -/
  | bind (la : BitVec 4) (d a b : Reg)
  /-- UNBIND (R205): Removes a name from a directory. -/
  | unbind (la : BitVec 4) (d a b : Reg)
  /-- REVOKE (R206): Bumps a node generation and revokes every handle on it. -/
  | revoke (la : BitVec 4) (d a : Reg)
  /-- STAT (R207): Returns a node status record. -/
  | stat (la : BitVec 4) (d a : Reg)
  /-- DUP (R208): Opens a new handle on a capability's node. -/
  | dup (la : BitVec 4) (d a b : Reg)
  /-- MKNODE (R209): Makes a detached memory, queue or directory node. -/
  | mknode (la : BitVec 4) (d a b : Reg)
  /-- EXPORT (R210): Binds a node in the partition's export directory. -/
  | export_ (la : BitVec 4) (d a b : Reg)
  -- major 0x13 (R68, R69)
  /-- QPUSH (R213): Pushes a register to a queue, blocking when full. -/
  | qpush (data a : Reg)
  /-- QPOP (R213): Pops a queue entry, blocking when empty. -/
  | qpop (data a : Reg)
  /-- QPUSH_NB (R213): Non-blocking push that reports success in a predicate bit. -/
  | qpushNb (data a preg : Reg) (bit : BitVec 6)
  /-- QPOP_NB (R213): Non-blocking pop that reports success in a predicate bit. -/
  | qpopNb (data a preg : Reg) (bit : BitVec 6)
  -- major 0x14 (R68, R69)
  /-- LD (R241): Loads through a capability plus scaled displacement. -/
  | ld (ord : MemOrder) (size : MemSize) (sign : Bool) (la : BitVec 4) (d a : Reg) (imm : Imm 6)
  -- major 0x15 (R68, R69)
  /-- ST (R243): Stores through a capability plus scaled displacement. -/
  | st (ord : MemOrder) (size : MemSize) (s a : Reg) (imm : Imm 10)
  -- major 0x16 (R68, R69)
  /-- LDX (R241): Loads through a capability plus scaled index. -/
  | ldx (ord : MemOrder) (size : MemSize) (sign : Bool) (la : BitVec 4) (d a b : Reg)
  -- major 0x17 (R68, R69)
  /-- STX (R243): Stores through a capability plus scaled index. -/
  | stx (ord : MemOrder) (size : MemSize) (s a b : Reg)
  -- major 0x18 (R68, R69)
  /-- AADD (R246): Atomic add. -/
  | aadd (ord : AtomOrder) (la : BitVec 4) (d a b : Reg)
  /-- AAND (R246): Atomic AND. -/
  | aand (ord : AtomOrder) (la : BitVec 4) (d a b : Reg)
  /-- AOR (R246): Atomic OR. -/
  | aor (ord : AtomOrder) (la : BitVec 4) (d a b : Reg)
  /-- AXOR (R246): Atomic XOR. -/
  | axor (ord : AtomOrder) (la : BitVec 4) (d a b : Reg)
  /-- AMIN (R246): Atomic signed minimum. -/
  | amin (ord : AtomOrder) (la : BitVec 4) (d a b : Reg)
  /-- AMAX (R246): Atomic signed maximum. -/
  | amax (ord : AtomOrder) (la : BitVec 4) (d a b : Reg)
  /-- AMINU (R246): Atomic unsigned minimum. -/
  | aminu (ord : AtomOrder) (la : BitVec 4) (d a b : Reg)
  /-- AMAXU (R246): Atomic unsigned maximum. -/
  | amaxu (ord : AtomOrder) (la : BitVec 4) (d a b : Reg)
  /-- AXCHG (R246): Atomic exchange. -/
  | axchg (ord : AtomOrder) (la : BitVec 4) (d a b : Reg)
  /-- ACAS (R246): Atomic compare and swap. -/
  | acas (ord : AtomOrder) (la : BitVec 4) (d a b : Reg)
  /-- AFADD (R247): Atomic floating add, RNE. -/
  | afadd (ord : AtomOrder) (la : BitVec 4) (d a b : Reg)
  /-- AINCS (R246): Atomic saturating unsigned add. -/
  | aincs (ord : AtomOrder) (la : BitVec 4) (d a b : Reg)
  -- major 0x19 (R68, R69)
  /-- FENCE (R249): Orders the context's accesses at a scope. -/
  | fence (scope : Scope) (kind : FenceKind)
  /-- HFENCE (R250): Holds later accesses until those through one handle perform. -/
  | hfence (a : Reg)
  -- major 0x1A (R68, R69)
  /-- LDA (R244): Acquire load at a scope. -/
  | lda (size : MemSize) (la : BitVec 4) (d a : Reg) (scope : Scope)
  -- major 0x1B (R68, R69)
  /-- STL (R244): Release store at a scope. -/
  | stl (size : MemSize) (s a : Reg) (scope : Scope)
  -- major 0x1C (R68, R69)
  /-- PREF (R252): Prefetches a line into L1. -/
  | pref (a : Reg)
  /-- CLWB (R252): Writes a modified line back to its home. -/
  | clwb (a : Reg)
  /-- CLINV (R252): Writes back and invalidates a line. -/
  | clinv (a : Reg)
  /-- CLZERO (R252): Zeroes a 64-byte line. -/
  | clzero (a : Reg)
  /-- STASHFL (R252): Drains one stash sector. -/
  | stashfl (a : Reg)
  /-- STASHINV (R252): Discards one stash sector. -/
  | stashinv (a : Reg)
  -- major 0x1D (R68, R69)
  /-- BARINIT (R295): Initialises a transaction barrier. -/
  | barinit (a b : Reg)
  /-- BARARV (R295): Arrives at a barrier. -/
  | bararv (d a : Reg)
  /-- BAREXP (R295): Adds expected sectors to a barrier. -/
  | barexp (a b : Reg)
  /-- BARWAIT (R296): Waits for a barrier phase change or poison. -/
  | barwait (d a b : Reg)
  /-- BARTEST (R295): Tests a barrier without waiting. -/
  | bartest (d a b : Reg)
  /-- BARPOIS (R295): Poisons a barrier. -/
  | barpois (a : Reg)
  /-- GANGBAR (R297): Arrives at the gang barrier. -/
  | gangbar (d : Reg)
  /-- SPANBAR (R298): Arrives at the span barrier. -/
  | spanbar (d : Reg)
  /-- BARRD (R295): Reads a barrier, relaxed. -/
  | barrd (d a : Reg)
  -- major 0x1E (R68, R69)
  /-- SPAWN (R173): Creates a one-task gang. -/
  | spawn (d a b : Reg)
  /-- RETIRE (R174): Ends the task with an exit value. -/
  | retire (a : Reg)
  /-- YIELD (R175): Leaves the slot for an equal or higher ready gang. -/
  | yield
  /-- SLEEP (R176): Waits for a wake, a signal or a timeout. -/
  | sleep (d a : Reg)
  /-- WAKE (R177): Sets a context's WOKEN and readies it if sleeping. -/
  | wake (d a : Reg)
  /-- SELF (R179): Returns a capability to the own context. -/
  | self (d : Reg)
  /-- HPUSH (R180): Pushes an entry into a Carafe heap. -/
  | hpush (a b : Reg)
  /-- HPOP (R180): Pops a Carafe entry, waiting if empty. -/
  | hpop (d a : Reg)
  /-- EVPOST (R181): Posts a record to the cluster event queue. -/
  | evpost (d a b : Reg)
  /-- EVWAIT (R182): Waits to consume an event record with a key. -/
  | evwait (d a : Reg)
  /-- SIGNAL (R178): Sets a pending signal bit of a context. -/
  | signal (d a b : Reg)
  /-- HTRY (R180): Pops a Carafe entry without waiting. -/
  | htry (d a : Reg)
  -- major 0x1F (R68, R69)
  /-- ENQ (R301): Validates and enqueues a tile command word. -/
  | enq (la : BitVec 4) (d a b : Reg)
  /-- JWAIT (R302): Waits for a job to finish and returns its status. -/
  | jwait (d a b : Reg)
  /-- JTEST (R302): Returns a job's status word. -/
  | jtest (la : BitVec 4) (d a b : Reg)
  /-- JSTAT (R303): Returns the engine status word. -/
  | jstat (la : BitVec 4) (d a : Reg)
  /-- ASWAP (R304): Exchanges an accumulator tile's banks once it falls quiet. -/
  | aswap (la : BitVec 4) (d a b : Reg)
  /-- JCANCEL (R305): Aborts a queued job or unstarted transfer. -/
  | jcancel (la : BitVec 4) (d a b : Reg)
  -- major 0x20 (R68, R69)
  /-- VADD (R261): Lane-wise add. -/
  | vadd (lane : LaneType) (mask : BitVec 3) (d a b : Reg)
  /-- VSUB (R261): Lane-wise subtract. -/
  | vsub (lane : LaneType) (mask : BitVec 3) (d a b : Reg)
  /-- VMUL (R261): Lane-wise multiply. -/
  | vmul (lane : LaneType) (mask : BitVec 3) (d a b : Reg)
  /-- VFMA (R261): Lane-wise fused multiply-add into c[d]. -/
  | vfma (lane : LaneType) (mask : BitVec 3) (d a b : Reg)
  -- major 0x21 (R68, R69)
  /-- VMIN (R261): Lane-wise minimum. -/
  | vmin (lane : LaneType) (mask : BitVec 3) (d a b : Reg)
  /-- VMAX (R261): Lane-wise maximum. -/
  | vmax (lane : LaneType) (mask : BitVec 3) (d a b : Reg)
  /-- VABS (R261): Lane-wise absolute value. -/
  | vabs (lane : LaneType) (mask : BitVec 3) (d a : Reg)
  /-- VNEG (R261): Lane-wise negation. -/
  | vneg (lane : LaneType) (mask : BitVec 3) (d a : Reg)
  -- major 0x22 (R68, R69)
  /-- VAND (R261): Lane-wise AND. -/
  | vand (lane : LaneType) (mask : BitVec 3) (d a b : Reg)
  /-- VOR (R261): Lane-wise OR. -/
  | vor (lane : LaneType) (mask : BitVec 3) (d a b : Reg)
  /-- VXOR (R261): Lane-wise XOR. -/
  | vxor (lane : LaneType) (mask : BitVec 3) (d a b : Reg)
  /-- VANDN (R261): Lane-wise AND NOT. -/
  | vandn (lane : LaneType) (mask : BitVec 3) (d a b : Reg)
  -- major 0x23 (R68, R69)
  /-- VSLL (R261): Lane-wise shift left. -/
  | vsll (lane : LaneType) (mask : BitVec 3) (d a b : Reg)
  /-- VSRL (R261): Lane-wise logical shift right. -/
  | vsrl (lane : LaneType) (mask : BitVec 3) (d a b : Reg)
  /-- VSRA (R261): Lane-wise arithmetic shift right. -/
  | vsra (lane : LaneType) (mask : BitVec 3) (d a b : Reg)
  /-- VMULH (R261): Lane-wise high half of the signed product. -/
  | vmulh (lane : LaneType) (mask : BitVec 3) (d a b : Reg)
  -- major 0x24 (R68, R69)
  /-- VDIV (R262): Lane-wise floating divide on the vector divide unit. -/
  | vdiv (ty : FloatLane) (la : BitVec 4) (d a b : Reg)
  /-- VSQRT (R262): Lane-wise square root. -/
  | vsqrt (ty : FloatLane) (la : BitVec 4) (d a : Reg)
  /-- VIDIV (R262): Lane-wise integer divide. -/
  | vidiv (ty : IntLane) (la : BitVec 4) (d a b : Reg)
  /-- VIREM (R262): Lane-wise integer remainder. -/
  | virem (ty : IntLane) (la : BitVec 4) (d a b : Reg)
  -- major 0x25 (R68, R69)
  /-- VCMPEQ (R264): Lane compare equal into a bit string. -/
  | vcmpeq (lane : LaneType) (mask : BitVec 3) (d a b : Reg)
  /-- VCMPLT (R264): Lane compare less-than into a bit string. -/
  | vcmplt (lane : LaneType) (mask : BitVec 3) (d a b : Reg)
  /-- VCMPLE (R264): Lane compare less-or-equal into a bit string. -/
  | vcmple (lane : LaneType) (mask : BitVec 3) (d a b : Reg)
  /-- VCMPUN (R264): Lane compare unordered into a bit string. -/
  | vcmpun (lane : LaneType) (mask : BitVec 3) (d a b : Reg)
  -- major 0x26 (R68, R69)
  /-- VCVT (R265): Converts lanes rounding by fpctl.RM. -/
  | vcvt (lane : LaneType) (target : ElemType) (mask : BitVec 3) (d a : Reg)
  /-- VCVTZ (R265): Converts lanes rounding toward zero. -/
  | vcvtz (lane : LaneType) (target : ElemType) (mask : BitVec 3) (d a : Reg)
  /-- VCVTS (R265): Converts lanes RNE with saturation. -/
  | vcvts (lane : LaneType) (target : ElemType) (mask : BitVec 3) (d a : Reg)
  /-- VCVTR (R265): Converts lanes RNE without saturation. -/
  | vcvtr (lane : LaneType) (target : ElemType) (mask : BitVec 3) (d a : Reg)
  -- major 0x27 (R68, R69)
  /-- VSHUF (R267): Permutes lanes by index lanes. -/
  | vshuf (lane : LaneType) (mask : BitVec 3) (d a b : Reg)
  /-- VBCAST (R267): Broadcasts one lane. -/
  | vbcast (lane : LaneType) (mask : BitVec 3) (d a b : Reg)
  /-- VSLIDE (R267): Slides lanes by a signed count. -/
  | vslide (lane : LaneType) (mask : BitVec 3) (d a b : Reg)
  /-- VZIP (R267): Interleaves lanes of two registers. -/
  | vzip (lane : LaneType) (mask : BitVec 3) (d a b : Reg)
  -- major 0x28 (R68, R69)
  /-- VRSUM (R268): Horizontal sum in ascending lane order. -/
  | vrsum (lane : LaneType) (mask : BitVec 3) (d a : Reg)
  /-- VRMAX (R268): Horizontal maximum. -/
  | vrmax (lane : LaneType) (mask : BitVec 3) (d a : Reg)
  /-- VRMIN (R268): Horizontal minimum. -/
  | vrmin (lane : LaneType) (mask : BitVec 3) (d a : Reg)
  /-- VRDOT (R268): Horizontal dot product. -/
  | vrdot (lane : LaneType) (mask : BitVec 3) (d a b : Reg)
  -- major 0x29 (R68, R69)
  /-- VMAXW (R269): Running maximum with witness lanes. -/
  | vmaxw (lane : LaneType) (mask : BitVec 3) (d a b : Reg)
  /-- VMINW (R269): Running minimum with witness lanes. -/
  | vminw (lane : LaneType) (mask : BitVec 3) (d a b : Reg)
  /-- VCLMPW (R269): Clamp with witness codes. -/
  | vclmpw (lane : LaneType) (mask : BitVec 3) (d a b : Reg)
  /-- VADJB (R269): Routes a gradient where witness lanes match. -/
  | vadjb (lane : LaneType) (mask : BitVec 3) (d a b : Reg)
  -- major 0x2A (R68, R69)
  /-- VGATH (R270): Gathers elements by index lanes. -/
  | vgath (esz : ElemSize) (la : BitVec 4) (d a b : Reg)
  /-- VSCAT (R270): Scatters elements by index lanes. -/
  | vscat (esz : ElemSize) (s a b : Reg)
  /-- VLDS (R270): Strided vector load. -/
  | vlds (esz : ElemSize) (la : BitVec 4) (d a b : Reg)
  /-- VSTS (R270): Strided vector store. -/
  | vsts (esz : ElemSize) (s a b : Reg)
  -- major 0x2B (R68, R69)
  /-- VSEL (R273): Selects lanes by a mask register. -/
  | vsel (lane : LaneType) (mask : BitVec 3) (d a b : Reg)
  /-- VIOTA (R273): Counts enabled lanes below each lane. -/
  | viota (lane : LaneType) (mask : BitVec 3) (d : Reg)
  /-- VDUP (R273): Duplicates a scalar into every lane. -/
  | vdup (lane : LaneType) (mask : BitVec 3) (d a : Reg)
  /-- VEXT (R273): Extracts one lane as a scalar. -/
  | vext (lane : LaneType) (d a b : Reg)
  -- major 0x2C (R68, R69)
  /-- CTLR (R391): Reads a control register. -/
  | ctlr (d : Reg) (num : BitVec 12)
  /-- CTLW (R391): Writes a control register. -/
  | ctlw (s : Reg) (num : BitVec 12)
  /-- CTLS (R391): Sets bits of a control register. -/
  | ctls (s : Reg) (num : BitVec 12)
  /-- CTLC (R391): Clears bits of a control register. -/
  | ctlc (s : Reg) (num : BitVec 12)
  -- major 0x2D (R68, R69)
  /-- TRAP (R402): Freezes the context with SYSCALL. -/
  | trap (imm : BitVec 12)
  /-- ERET (R403): Returns a handler from an interruption. -/
  | eret
  /-- PHINT (R404): Records a liveness hint; a pending pre-emption is served here. -/
  | phint (a b : Reg)
  /-- SAVE (R405): Writes a full image of a context. -/
  | save (d a b : Reg)
  /-- RESUME (R406): Checks and restores a context image. -/
  | resume (d a b : Reg)
  /-- FREEZE (R407): Freezes a target context without a record. -/
  | freeze (d a : Reg)
  /-- THAW (R407): Makes a frozen context ready at a PC. -/
  | thaw (d a b : Reg)
  /-- WAITEV (R408): Waits for a trap record in the inbox. -/
  | waitev (d a : Reg)
  /-- BKPT (R402): Freezes the context with BKPT. -/
  | bkpt
  /-- KILL (R409): Ends a target context with an exit value. -/
  | kill (d a b : Reg)
  -- major 0x2E (R68, R69)
  /-- XGO (R359): Checks a timetable and arrives for an exchange phase. -/
  | xgo (d a b : Reg)
  /-- XSTAT (R362): Returns exchange status or a port latency word. -/
  | xstat (d a : Reg)
  /-- SUMCOL (R363): Span barrier round summing the event counters. -/
  | sumcol (d a b : Reg)
  -- machine steps that other definitions build (the compiler numbers only the first 245 constructors with operands)
  /-- NWALK (R196). -/
  | nwalk (chip : ChipIx) (txn : Nat) (part : BitVec 8) (comps : List Name) (used : Nat)
  /-- NOPEN (R196). -/
  | nopen (chip : ChipIx) (txn : Nat) (node : BitVec 23) (gen : BitVec 24) (mask : BitVec 12)
  /-- NREAD (R197). -/
  | nread (chip : ChipIx) (txn : Nat) (handle gen : BitVec 24) (seq : Nat) (off : Word) (size : MemSize)
  /-- NWRITE (R197). -/
  | nwrite (chip : ChipIx) (txn : Nat) (handle gen : BitVec 24) (seq : Nat) (off : Word) (size : MemSize) (data : W256)
  /-- NQOP (R197). -/
  | nqop (chip : ChipIx) (txn : Nat) (handle gen : BitVec 24) (seq : Nat) (push : Bool) (entry : W256)
  /-- NCLOSE (R196). -/
  | nclose (chip : ChipIx) (txn : Nat) (handle gen : BitVec 24)
  /-- NSTALE (R196): a remote handle held here has gone stale. -/
  | nstale (chip : ChipIx) (handle : BitVec 24)
  /-- FQ_DONE (R422): fq.done is written. -/
  | fqDone (value : Word)
  /-- TLB_INV (R418): tlb.inv is written. -/
  | tlbInv (value : Word)
  /-- ENG_THAW (R412): eng.thaw is written. -/
  | engThaw (value : Word)
  /-- KQ_TAIL_WRITE (R446): function `fn` writes kq.tail of queue `q`. -/
  | kqTailWrite (fn : FnIx) (q : BitVec 5) (value : Word)
  /-- KQ_ENABLE (R444): function 0 writes kq.ctl of queue `q`. -/
  | kqEnable (q : BitVec 5) (value : Word)
  /-- REGISTER_WRITE (R390, R442): a package register with no behaviour of its own is written. -/
  | registerWrite (num : BitVec 12) (value : Word)
  /-- LOAD_DATA_RETURN (R242): the `i`-th pending access of the slot's context receives its data. -/
  | loadDataReturn (sl : SlotId) (i : Nat) (r : LoadReply)
  /-- STORE_PERFORM (R219): entry `i` of the slot's store queue performs. -/
  | storePerform (sl : SlotId) (i : Nat)
  /-- FENCE_COMPLETE (R251): the accesses awaited by the slot's fence have performed. -/
  | fenceComplete (sl : SlotId)
  /-- QUAD_FILL (R150): quad `q` of the slot's context is brought into the register cache. -/
  | quadFill (sl : SlotId) (q : BitVec 4)
  /-- BIND_RECORD (R153): words 0, 1, 3 and then 2 of a slot record are written. -/
  | bindRecord (sl : SlotId) (w0 w1 w2 w3 : Word)
  /-- SLOT_BIND (R153): the dispatch hardware carries out the slot's record. -/
  | slotBind (sl : SlotId)
  /-- TRAP_RECORD_DELIVERY (R385): the oldest record that a core holds is sent. -/
  | trapRecordDelivery (core : CoreIx)
  /-- BARISTA_TRAP_RECORD (R428, R449): Barista handles the oldest record at its cluster. -/
  | baristaTrapRecord (cluster : ClusterIx)
  /-- JOB_COMPLETION (R292): a job whose work has ended reaches its final status. -/
  | jobCompletion (e : EngineIx) (id : BitVec 16)
  /-- COPY_SECTOR (R284): one destination sector of a transfer is moved. -/
  | copySector (cluster : ClusterIx) (xid : BitVec 16) (sector : Nat)
  /-- TRANSFER_ACCEPT (R282): the copy unit accepts a waiting read of cpy.go. -/
  | transferAccept (sl : SlotId)
  /-- NAME_INVALIDATION (R192): a cluster's name unit drops old entries and acknowledges revocation `rev`. -/
  | nameInvalidation (rev : Nat) (cluster : ClusterIx)
  /-- REVOCATION_COMPLETE (R192): all 64 acknowledgements of `rev` have arrived. -/
  | revocationComplete (rev : Nat)
  /-- QUEUE_WAIT_COMPLETE (R213). -/
  | queueWaitComplete (sl : SlotId)
  /-- LAUNCH (R448): the packet at the head of queue `q`. -/
  | launch (q : BitVec 5) (ch : LoaderChoice)
  /-- GANG_PLACEMENT (R143): Kettle places a gang on a cluster; `bases` are the allotments reserved (R53). -/
  | gangPlacement (gang : BitVec 32) (cluster : ClusterIx) (bases : List (CoreIx × Nat))
  -- steps of the scheduler
  /-- QUANTUM_EXPIRY (R153): the occupant's `QUANTUM` cycles have passed. -/
  | quantumExpiry (sl : SlotId)
  /-- AGING_INTERVAL_EXPIRY (R155): a ready, unbound gang rises one level. -/
  | agingIntervalExpiry (gang : BitVec 32)
  /-- FORCED_SAVE (R393): no PHINT in time, or a blocked occupant: a full save. -/
  | forcedSave (sl : SlotId)
  /-- SAVE_COMPLETE (R427): the image of a leaving context completes. -/
  | saveComplete (ctx : BitVec 32)
  /-- WATCHDOG (R388): the slot's context has retired nothing for the limit. -/
  | watchdog (sl : SlotId)
  /-- HANDLER_INTERRUPT (R386): a handler with `IE` set is interrupted. -/
  | handlerInterrupt (core : CoreIx)
  -- writes of registers by the driver, the host or firmware
  /-- TLB_INV_COMPLETE (R418): the oldest invalidation completes. -/
  | tlbInvComplete
  /-- MX_OWN_WRITE (R313, R332): mx.own<n> of a cluster is written. -/
  | mxOwnWrite (cluster : ClusterIx) (n : BitVec 4) (value : Word)
  /-- CLU_NCINV (R389): clu.ncinv of a cluster is written. -/
  | cluNcinv (cluster : ClusterIx) (value : Word)
  /-- VF_UNFREEZE (R446): 1 is written to `FROZEN` of vf.ctl<f>. -/
  | vfUnfreeze (f : FnIx)
  /-- MEAS_EXTEND (R453): function `fn` extends meas.k with a digest. -/
  | measExtend (fn : FnIx) (k : BitVec 3) (digest : BitVec 384)
  -- steps of the copy unit and of waiting instructions
  /-- CPY_GO (R281): the current context reads cpy.go into `d`. -/
  | cpyGo (d : Reg)
  /-- BARWAIT_RELEASE (R296). -/
  | barwaitRelease (sl : SlotId)
  /-- GANGBAR_RELEASE (R297). -/
  | gangbarRelease (gang : BitVec 32)
  /-- SPANBAR_RELEASE (R298). -/
  | spanbarRelease (span : BitVec 32)
  /-- JWAIT_RETURN (R302). -/
  | jwaitReturn (sl : SlotId)
  /-- ASWAP_EXCHANGE (R304): the oldest waiting ASWAP of a cluster's engine exchanges its banks. -/
  | aswapExchange (cluster : ClusterIx)
  /-- HPOP_RETURN (R180). -/
  | hpopReturn (sl : SlotId)
  /-- EVWAIT_CONSUME (R182). -/
  | evwaitConsume (sl : SlotId)
  /-- SLEEP_TIMEOUT (R176). -/
  | sleepTimeout (sl : SlotId)
  -- replies to this chip's own transactions; `txn` is this chip's label
  /-- NWALK_REPLY (R253, R254). -/
  | nwalkReply (txn : Nat) (r : WalkReply)
  /-- NOPEN_REPLY (R202, R208). -/
  | nopenReply (txn : Nat) (r : OpenReply)
  /-- NREAD_REPLY (R197). -/
  | nreadReply (txn : Nat) (r : AccessReply)
  /-- NWRITE_REPLY (R197). -/
  | nwriteReply (txn : Nat) (r : AccessReply)
  /-- NQOP_REPLY (R440). -/
  | nqopReply (txn : Nat) (r : AccessReply)
  /-- NCLOSE_REPLY (R203). -/
  | ncloseReply (txn : Nat) (r : AccessReply)
  /-- LINK_RECOVERY_EXPIRY (R197, R365): transaction `txn` is still unanswered. -/
  | linkRecoveryExpiry (txn : Nat)
  /-- PORT_LINK_LOSS (R440, R378): a port reports its link lost. -/
  | portLinkLoss (port : BitVec 4)
  /-- FABRIC_REFUSAL (R365): a target's fabric MMU refuses access `i` (pending access or store) of a slot. -/
  | fabricRefusal (sl : SlotId) (store : Bool) (i : Nat)
  /-- HOST_WRITE_TO_PACKAGE (R221). -/
  | hostWriteToPackage (pa : Nat) (bytes : List Byte)
  /-- HOST_READ_OF_PACKAGE (R221). -/
  | hostReadOfPackage (pa n : Nat)
  -- the timed exchange
  /-- EXCHANGE_GRANT (R357): the scheduler visits the functions and grants a phase. -/
  | exchangeGrant
  /-- SEND (R354): the next item of the phase, a SEND's flit. -/
  | send
  /-- RECV (R354): the next item of the phase, a RECV's flit. -/
  | recv
  /-- RECVADD (R354): the next item of the phase, a RECVADD's flit. -/
  | recvadd
  /-- RECVADDSEND (R354): the next item of the phase, a RECVADDSEND's flit. -/
  | recvaddsend
  /-- XGO_RETURN (R359): the phase ends and each XGO returns. -/
  | xgoReturn
  -- tile commands: the engine's next job of that command runs (R86)
  /-- NOP (R86). -/
  | nop (e : EngineIx)
  /-- MMA (R323). -/
  | mma (e : EngineIx)
  /-- MMAS (R325). -/
  | mmas (e : EngineIx)
  /-- MZERO (R326). -/
  | mzero (e : EngineIx)
  /-- MLDA (R328). -/
  | mlda (e : EngineIx)
  /-- MSTA (R328). -/
  | msta (e : EngineIx)
  /-- MCVT (R330). -/
  | mcvt (e : EngineIx)
  /-- RED (R343). -/
  | red (e : EngineIx)
  /-- ADJB (R345). -/
  | adjb (e : EngineIx)
  /-- WREL (R346). -/
  | wrel (e : EngineIx)
  /-- CREPLAY (R306). -/
  | creplay (e : EngineIx)
  /-- CABORT (R307). -/
  | cabort (e : EngineIx)
  /-- RESHARD (R378). -/
  | reshard (e : EngineIx)
  /-- RSRESUME (R380). -/
  | rsresume (e : EngineIx)
  /-- RSQUERY (R380). -/
  | rsquery (e : EngineIx)
  /-- BOX_ROW_COMPLETE (R378): the row at the cursors completes or stops the plan. -/
  | boxRowComplete (o : RowOutcome)
  /-- BCOPY (R370); `remote` holds source bytes that a peer supplies. -/
  | bcopy (e : EngineIx) (remote : List Byte)
  /-- BFILL (R370). -/
  | bfill (e : EngineIx)
  /-- TRIG (R371): a TRIG job of the engine is evaluated at its enqueue. -/
  | trig (e : EngineIx)
  /-- TRIG_FIRE (R372): an armed TRIG fires. -/
  | trigFire (e : EngineIx) (id : BitVec 16)
  /-- TCOUNT (R373). -/
  | tcount (e : EngineIx)
  -- Kettle's packets (R447)
  /-- WAIT packet (R447). -/
  | waitPacket (q : BitVec 5)
  /-- A blocked WAIT packet's condition holds (R447). -/
  | waitPacketSatisfied (q : BitVec 5)
  /-- SIGNAL packet (R447). -/
  | signalPacket (q : BitVec 5)
  /-- FENCE packet (R447). -/
  | fencePacket (q : BitVec 5)
  /-- NOP packet (R447). -/
  | nopPacket (q : BitVec 5)
  -- package
  /-- POWER_LIMIT_EXCEEDED (R21). -/
  | powerLimitExceeded
  /-- PACKAGE_RESET (R452): the boot ROM verifies and loads four images; `cfg` is the fourth image's content. -/
  | packageReset (imgs : List BootImage) (cfg : BootConfig)
  /-- GET_VERSION (R453). -/
  | getVersion
  /-- GET_CAPABILITIES (R453). -/
  | getCapabilities
  /-- NEGOTIATE_ALGORITHMS (R453). -/
  | negotiateAlgorithms
  /-- GET_DIGESTS (R453). -/
  | getDigests
  /-- GET_CERTIFICATE (R453). -/
  | getCertificate (off len : Nat)
  /-- CHALLENGE (R453). -/
  | challenge (nonce : List Byte)
  /-- GET_MEASUREMENTS (R453). -/
  | getMeasurements (nonce : List Byte)
  /-- LONG_LATENCY_COMPLETION (R79): the `i`-th pending instruction of the slot's context completes. -/
  | longLatencyCompletion (sl : SlotId) (i : Nat)
  /-- FABRIC_ACCESS (R364): a peer's access of fabric window page `page` arrives. -/
  | fabricAccess (chip : ChipIx) (txn : Nat) (part : BitVec 8) (page : BitVec 28) (off : BitVec 16) (op : FabricOp)
  /-- KEYED_ACCESS (R366): a keyed access arrives at this chip's port. -/
  | keyedAccess (chip : ChipIx) (txn : Nat) (key : W256) (off : Word) (op : KeyedOp)
  /-- PRG_RESPONSE (R423): the host answers page request group `prg` of function `fn`. -/
  | prgResponse (fn : FnIx) (prg : BitVec 9)
  /-- PORT_RESET (R411): a port is released for a partition. -/
  | portReset (port : BitVec 4) (part : BitVec 8)
  /-- PORT_LINK_RESTORED (R362): a link comes back and its latency is calibrated. -/
  | portLinkRestored (port : BitVec 4) (lat : BitVec 32) (peer : ChipIx) (exmode : Bool)
  /-- POWER_UNDER_LIMIT (R21). -/
  | powerUnderLimit
deriving DecidableEq, Repr

/-- A unit: an instruction with its guard, if it has one (R76). EXT and the order, scope and size of QUAL stand in the
instruction's own operands. -/
structure IUnit where
  guard : Option Guard
  instr : Instr
deriving DecidableEq, Repr

end Sys2Proof
end

