-- ==== Sys2Proof/WellFormed.lean ====
section
/-!
DEFINITION. Sys2Proof/WellFormed.lean: which terms of Syntax.lean stand for legal instruction words: what a field of
the word may hold beyond what its operand's type says (R66, R68 to R70, R259, R389, R391). Machine steps have no word
and need no check.
-/
namespace Sys2Proof

/-- The control numbers that name registers (R389). -/
def ctlNumbers : List Nat :=
  [0x000, 0x001, 0x002, 0x003, 0x004, 0x008, 0x00C, 0x010, 0x011, 0x012, 0x013, 0x014, 0x015, 0x016, 0x017, 0x020,
    0x030, 0x040, 0x041, 0x042, 0x043, 0x044, 0x045, 0x046, 0x047, 0x04F, 0x100, 0x101, 0x102, 0x103, 0x104, 0x108,
    0x109, 0x10A, 0x10C, 0x10D, 0x220, 0x221, 0x222, 0x223, 0x224, 0x300, 0x310, 0x318, 0x320]

/-- A control number names a register (R68, R389): one of the list, the slot table, or mx.own and mx.wit. -/
def ctlNamed (n : Nat) : Bool :=
  ctlNumbers.contains n || (0x200 ≤ n && n < 0x220) || (0x340 ≤ n && n < 0x360)

/-- CTLW is legal on every register but cpy.go (R391). -/
def ctlwLegal (n : Nat) : Bool := ctlNamed n && n != 0x04F

/-- CTLS and CTLC are moreover illegal on cpy.src, cpy.dst and cpy.bar (R391). -/
def ctlscLegal (n : Nat) : Bool := ctlwLegal n && n != 0x040 && n != 0x041 && n != 0x046

/-- An integer lane type, the only ones VSLL, VSRL, VSRA and VMULH accept (R260). -/
def LaneType.isInt : LaneType → Bool
  | .s8 | .s16 | .s32 | .s64 => true
  | .bf16 | .f16 | .f32 | .f64 => false

/-- A size whose loads may extend a sign: sign must be 0 for sizes 3 to 6 (R68). -/
def MemSize.extends : MemSize → Bool
  | .b8 | .b16 | .b32 => true
  | .b64 | .b128 | .b256 | .cap => false

/-- The instruction's fields hold values that its word may hold. -/
def Instr.wf : Instr → Bool
  | .slli _ _ imm | .srli _ _ imm | .srai _ _ imm | .rori _ _ imm => imm.toNat < 64
  | .ld _ size sign _ _ _ _ | .ldx _ size sign _ _ _ _ => !sign || size.extends
  | .vsll lane _ _ _ _ | .vsrl lane _ _ _ _ | .vsra lane _ _ _ _ | .vmulh lane _ _ _ _ => lane.isInt
  | .vcmpun lane _ _ _ _ => !lane.isInt
  | .vsel _ mask _ _ _ => mask != 0
  | .ctlr _ num => ctlNamed num.toNat
  | .ctlw _ num => ctlwLegal num.toNat
  | .ctls _ num | .ctlc _ num => ctlscLegal num.toNat
  | _ => true

/-- The unit's instruction is well formed. A guard may name any register and bit (R72). -/
def IUnit.wf (u : IUnit) : Bool := u.instr.wf

end Sys2Proof
end

