-- ==== Sys2Proof/Decode.lean ====
section
/-!
DEFINITION. Sys2Proof/Decode.lean: from instruction words to units and back (R65 to R78). Decoding is total; what is
refused is refused with the word that is illegal. The encoder below the decoder is written from the same tables.
-/
namespace Sys2Proof

/-- The register field at bit `lo`. -/
def reg (w lo : Nat) : Reg := .ofNat 6 (w / 2 ^ lo)

/-- cond codes (R68). -/
def Cond.ofCode : Nat → Cond
  | 0 => .eq | 1 => .ne | 2 => .lt | 3 => .ge | 4 => .ltu | 5 => .geu | 6 => .tst | _ => .ntst

/-- cond codes (R68). -/
def Cond.code : Cond → Nat
  | .eq => 0 | .ne => 1 | .lt => 2 | .ge => 3 | .ltu => 4 | .geu => 5 | .tst => 6 | .ntst => 7

/-- Size codes (R68). -/
def MemSize.ofCode : Nat → Option MemSize
  | 0 => some .b8 | 1 => some .b16 | 2 => some .b32 | 3 => some .b64 | 4 => some .b128 | 5 => some .b256
  | 6 => some .cap | _ => none

/-- Size codes (R68). -/
def MemSize.code : MemSize → Nat
  | .b8 => 0 | .b16 => 1 | .b32 => 2 | .b64 => 3 | .b128 => 4 | .b256 => 5 | .cap => 6

/-- Scope codes (R68). -/
def Scope.ofCode : Nat → Option Scope
  | 0 => some .core | 1 => some .clu | 2 => some .pkg | 3 => some .ten | 4 => some .sys | _ => none

/-- Scope codes (R68). -/
def Scope.code : Scope → Nat
  | .core => 0 | .clu => 1 | .pkg => 2 | .ten => 3 | .sys => 4

/-- ORDER codes (R72). -/
def Order.ofCode : Nat → Order
  | 0 => .rlx | 1 => .acq | 2 => .rel | _ => .ar

/-- ORDER codes (R72). -/
def Order.code : Order → Nat
  | .rlx => 0 | .acq => 1 | .rel => 2 | .ar => 3

/-- FENCE kinds (R249). -/
def FenceKind.ofCode : Nat → Option FenceKind
  | 0 => some .acq | 1 => some .rel | 2 => some .full | _ => none

/-- FENCE kinds (R249). -/
def FenceKind.code : FenceKind → Nat
  | .acq => 0 | .rel => 1 | .full => 2

/-- Lane type codes (R69). -/
def LaneType.ofCode : Nat → LaneType
  | 0 => .s8 | 1 => .s16 | 2 => .s32 | 3 => .s64 | 4 => .bf16 | 5 => .f16 | 6 => .f32 | _ => .f64

/-- Lane type codes (R69). -/
def LaneType.code : LaneType → Nat
  | .s8 => 0 | .s16 => 1 | .s32 => 2 | .s64 => 3 | .bf16 => 4 | .f16 => 5 | .f32 => 6 | .f64 => 7

/-- Type field of VDIV and VSQRT (R262). -/
def FloatLane.ofCode : Nat → FloatLane
  | 0 => .f16 | 1 => .bf16 | 2 => .f32 | _ => .f64

/-- Type field of VDIV and VSQRT (R262). -/
def FloatLane.code : FloatLane → Nat
  | .f16 => 0 | .bf16 => 1 | .f32 => 2 | .f64 => 3

/-- Type field of VIDIV and VIREM (R262). -/
def IntLane.ofCode : Nat → IntLane
  | 0 => .s8 | 1 => .s16 | 2 => .s32 | _ => .s64

/-- Type field of VIDIV and VIREM (R262). -/
def IntLane.code : IntLane → Nat
  | .s8 => 0 | .s16 => 1 | .s32 => 2 | .s64 => 3

/-- Element sizes of major 0x2A (R69). -/
def ElemSize.ofCode : Nat → ElemSize
  | 0 => .e8 | 1 => .e16 | 2 => .e32 | _ => .e64

/-- Element sizes of major 0x2A (R69). -/
def ElemSize.code : ElemSize → Nat
  | .e8 => 0 | .e16 => 1 | .e32 => 2 | .e64 => 3

/-- Element type codes (R88); 0x12 and above are reserved. -/
def ElemType.ofCode : Nat → Option ElemType
  | 0 => some .b1 | 1 => some .s4 | 2 => some .s8 | 3 => some .s16 | 4 => some .s32 | 5 => some .s64
  | 6 => some .n8 | 7 => some .n16 | 8 => some .n32 | 9 => some .n64
  | 0xA => some .e2m1 | 0xB => some .e5m2 | 0xC => some .e4m3 | 0xD => some .cx8
  | 0xE => some .bf16 | 0xF => some .f16 | 0x10 => some .f32 | 0x11 => some .f64 | _ => none

/-- Element type codes (R88). -/
def ElemType.code : ElemType → Nat
  | .b1 => 0 | .s4 => 1 | .s8 => 2 | .s16 => 3 | .s32 => 4 | .s64 => 5
  | .n8 => 6 | .n16 => 7 | .n32 => 8 | .n64 => 9
  | .e2m1 => 0xA | .e5m2 => 0xB | .e4m3 => 0xC | .cx8 => 0xD
  | .bf16 => 0xE | .f16 => 0xF | .f32 => 0x10 | .f64 => 0x11

/-- Major 0x01 (R68, R69). -/
def decode01 (w : Nat) : Option Instr :=
  match bitsOf w 24 8 with
  | 0 => some (.add (reg w 6) (reg w 12) (reg w 18))
  | 1 => some (.sub (reg w 6) (reg w 12) (reg w 18))
  | 2 => some (.and_ (reg w 6) (reg w 12) (reg w 18))
  | 3 => some (.or_ (reg w 6) (reg w 12) (reg w 18))
  | 4 => some (.xor (reg w 6) (reg w 12) (reg w 18))
  | 5 => some (.andn (reg w 6) (reg w 12) (reg w 18))
  | 6 => some (.sll (reg w 6) (reg w 12) (reg w 18))
  | 7 => some (.srl (reg w 6) (reg w 12) (reg w 18))
  | 8 => some (.sra (reg w 6) (reg w 12) (reg w 18))
  | 9 => some (.rol (reg w 6) (reg w 12) (reg w 18))
  | 10 => some (.ror (reg w 6) (reg w 12) (reg w 18))
  | 11 => some (.min (reg w 6) (reg w 12) (reg w 18))
  | 12 => some (.max (reg w 6) (reg w 12) (reg w 18))
  | 13 => some (.minu (reg w 6) (reg w 12) (reg w 18))
  | 14 => some (.maxu (reg w 6) (reg w 12) (reg w 18))
  | 15 => some (.addw (reg w 6) (reg w 12) (reg w 18))
  | 16 => some (.subw (reg w 6) (reg w 12) (reg w 18))
  | 17 => some (.idx2 (reg w 6) (reg w 12) (reg w 18))
  | 18 => some (.idx4 (reg w 6) (reg w 12) (reg w 18))
  | 19 => some (.idx8 (reg w 6) (reg w 12) (reg w 18))
  | 20 => some (.idx32 (reg w 6) (reg w 12) (reg w 18))
  | 21 => if bitsOf w 18 6 = 0 then some (.clead (reg w 6) (reg w 12)) else none
  | 22 => if bitsOf w 18 6 = 0 then some (.ctrail (reg w 6) (reg w 12)) else none
  | 23 => if bitsOf w 18 6 = 0 then some (.cones (reg w 6) (reg w 12)) else none
  | 24 => if bitsOf w 18 6 = 0 then some (.byterev (reg w 6) (reg w 12)) else none
  | 25 => some (.exts (reg w 6) (reg w 12) (reg w 18))
  | 26 => some (.extz (reg w 6) (reg w 12) (reg w 18))
  | 27 => if bitsOf w 18 6 = 0 then some (.mov (reg w 6) (reg w 12)) else none
  | 32 => some (.bset (reg w 6) (reg w 12) (reg w 18))
  | 33 => some (.bclr (reg w 6) (reg w 12) (reg w 18))
  | 34 => some (.binv (reg w 6) (reg w 12) (reg w 18))
  | 35 => some (.bext (reg w 6) (reg w 12) (reg w 18))
  | _ => none

/-- Major 0x02 (R68, R69). -/
def decode02 (w : Nat) : Option Instr := some (.addi (reg w 6) (reg w 12) ⟨none, .ofNat 14 (w / 2 ^ 18)⟩)

/-- Major 0x03 (R68, R69). -/
def decode03 (w : Nat) : Option Instr :=
  match bitsOf w 18 3 with
  | 0 => some (.andi (reg w 6) (reg w 12) ⟨none, .ofNat 11 (w / 2 ^ 21)⟩)
  | 1 => some (.ori (reg w 6) (reg w 12) ⟨none, .ofNat 11 (w / 2 ^ 21)⟩)
  | 2 => some (.xori (reg w 6) (reg w 12) ⟨none, .ofNat 11 (w / 2 ^ 21)⟩)
  | 3 => some (.slli (reg w 6) (reg w 12) (.ofNat 11 (w / 2 ^ 21)))
  | 4 => some (.srli (reg w 6) (reg w 12) (.ofNat 11 (w / 2 ^ 21)))
  | 5 => some (.srai (reg w 6) (reg w 12) (.ofNat 11 (w / 2 ^ 21)))
  | 6 => some (.addwi (reg w 6) (reg w 12) ⟨none, .ofNat 11 (w / 2 ^ 21)⟩)
  | 7 => some (.rori (reg w 6) (reg w 12) (.ofNat 11 (w / 2 ^ 21)))
  | _ => none

/-- Major 0x04 (R68, R69). -/
def decode04 (w : Nat) : Option Instr := some (.movh (reg w 6) (.ofNat 20 (w / 2 ^ 12)))

/-- Major 0x05 (R68, R69). -/
def decode05 (w : Nat) : Option Instr := some (.orsh (reg w 6) (.ofNat 20 (w / 2 ^ 12)))

/-- Major 0x06 (R68, R69). -/
def decode06 (w : Nat) : Option Instr :=
  match bitsOf w 26 6 with
  | 0 => some (.bseti (reg w 6) (reg w 12) (.ofNat 8 (w / 2 ^ 18)))
  | 1 => some (.bclri (reg w 6) (reg w 12) (.ofNat 8 (w / 2 ^ 18)))
  | 2 => some (.binvi (reg w 6) (reg w 12) (.ofNat 8 (w / 2 ^ 18)))
  | 3 => some (.bexti (reg w 6) (reg w 12) (.ofNat 8 (w / 2 ^ 18)))
  | 4 => some (.bdepi (reg w 6) (reg w 12) (.ofNat 8 (w / 2 ^ 18)))
  | 5 => some (.bndepi (reg w 6) (reg w 12) (.ofNat 8 (w / 2 ^ 18)))
  | _ => none

/-- Major 0x07 (R68, R69). -/
def decode07 (w : Nat) : Option Instr :=
  some (.cmp (Cond.ofCode (bitsOf w 24 3)) (reg w 6) (reg w 12) (reg w 18) (.ofNat 5 (w / 2 ^ 27)))

/-- Major 0x08 (R68, R69). -/
def decode08 (w : Nat) : Option Instr := some (.cmpi (Cond.ofCode (bitsOf w 18 3)) (reg w 6) (reg w 12) (.ofNat 5 (w / 2 ^ 21)) ⟨none, .ofNat 6 (w / 2 ^ 26)⟩)

/-- Major 0x09 (R68, R69). -/
def decode09 (w : Nat) : Option Instr :=
  match bitsOf w 28 4 with
  | 0 => some (.mul (.ofNat 4 (w / 2 ^ 24)) (reg w 6) (reg w 12) (reg w 18))
  | 1 => some (.mulh (.ofNat 4 (w / 2 ^ 24)) (reg w 6) (reg w 12) (reg w 18))
  | 2 => some (.mulhu (.ofNat 4 (w / 2 ^ 24)) (reg w 6) (reg w 12) (reg w 18))
  | 3 => some (.mulhsn (.ofNat 4 (w / 2 ^ 24)) (reg w 6) (reg w 12) (reg w 18))
  | 4 => some (.div (.ofNat 4 (w / 2 ^ 24)) (reg w 6) (reg w 12) (reg w 18))
  | 5 => some (.divu (.ofNat 4 (w / 2 ^ 24)) (reg w 6) (reg w 12) (reg w 18))
  | 6 => some (.rem (.ofNat 4 (w / 2 ^ 24)) (reg w 6) (reg w 12) (reg w 18))
  | 7 => some (.remu (.ofNat 4 (w / 2 ^ 24)) (reg w 6) (reg w 12) (reg w 18))
  | 8 => some (.mulw (.ofNat 4 (w / 2 ^ 24)) (reg w 6) (reg w 12) (reg w 18))
  | _ => none

/-- Major 0x0A (R68, R69). -/
def decode0A (w : Nat) : Option Instr :=
  some (.bcc (Cond.ofCode (bitsOf w 18 3)) (reg w 6) (reg w 12) ⟨none, .ofNat 11 (w / 2 ^ 21)⟩)

/-- Major 0x0B (R68, R69). -/
def decode0B (w : Nat) : Option Instr :=
  some (.bb (bitsOf w 20 1 == 1) (reg w 6) (.ofNat 8 (w / 2 ^ 12)) ⟨none, .ofNat 11 (w / 2 ^ 21)⟩)

/-- Major 0x0C (R68, R69). -/
def decode0C (w : Nat) : Option Instr := some (.j (.ofNat 26 (w / 2 ^ 6)))

/-- Major 0x0D (R68, R69). -/
def decode0D (w : Nat) : Option Instr := some (.jal (.ofNat 26 (w / 2 ^ 6)))

/-- Major 0x0E (R68, R69). -/
def decode0E (w : Nat) : Option Instr := some (.jalr (reg w 6) (reg w 12) ⟨none, .ofNat 14 (w / 2 ^ 18)⟩)

/-- Major 0x0F (R68, R69). -/
def decode0F (w : Nat) : Option Instr := some (.dbnz (reg w 6) ⟨none, .ofNat 20 (w / 2 ^ 12)⟩)

/-- Major 0x10 (R68, R69). -/
def decode10 (w : Nat) : Option Instr :=
  match bitsOf w 24 8 with
  | 0 => if bitsOf w 18 6 = 0 then some (.cgetoff (reg w 6) (reg w 12)) else none
  | 1 => if bitsOf w 18 6 = 0 then some (.cgetbase (reg w 6) (reg w 12)) else none
  | 2 => if bitsOf w 18 6 = 0 then some (.cgetlim (reg w 6) (reg w 12)) else none
  | 3 => if bitsOf w 18 6 = 0 then some (.cgetperm (reg w 6) (reg w 12)) else none
  | 4 => if bitsOf w 18 6 = 0 then some (.cgethnd (reg w 6) (reg w 12)) else none
  | 5 => if bitsOf w 18 6 = 0 then some (.cgetgen (reg w 6) (reg w 12)) else none
  | 6 => if bitsOf w 18 6 = 0 then some (.cgetkind (reg w 6) (reg w 12)) else none
  | 8 => some (.ccur (reg w 6) (reg w 12) (reg w 18))
  | 9 => some (.cstep (reg w 6) (reg w 12) (reg w 18))
  | 10 => some (.cnarrow (reg w 6) (reg w 12) (reg w 18))
  | 11 => some (.cdrop (reg w 6) (reg w 12) (reg w 18))
  | 12 => some (.ccover (reg w 6) (reg w 12) (reg w 18))
  | 13 => some (.cuncover (reg w 6) (reg w 12) (reg w 18))
  | 14 => if bitsOf w 18 6 = 0 then some (.cplain (reg w 6) (reg w 12)) else none
  | 15 => if bitsOf w 18 6 = 0 then some (.cprobe (reg w 6) (reg w 12)) else none
  | 16 => some (.cdist (reg w 6) (reg w 12) (reg w 18))
  | _ => none

/-- Major 0x11 (R68, R69). -/
def decode11 (w : Nat) : Option Instr := some (.cinci (reg w 6) (reg w 12) ⟨none, .ofNat 14 (w / 2 ^ 18)⟩)

/-- Major 0x12 (R68, R69). -/
def decode12 (w : Nat) : Option Instr :=
  match bitsOf w 28 4 with
  | 0 => some (.walk (.ofNat 4 (w / 2 ^ 24)) (reg w 6) (reg w 12) (reg w 18))
  | 1 => some (.open_ (.ofNat 4 (w / 2 ^ 24)) (reg w 6) (reg w 12) (reg w 18))
  | 2 => if bitsOf w 18 6 = 0 then some (.close (.ofNat 4 (w / 2 ^ 24)) (reg w 6) (reg w 12)) else none
  | 3 => some (.bind (.ofNat 4 (w / 2 ^ 24)) (reg w 6) (reg w 12) (reg w 18))
  | 4 => some (.unbind (.ofNat 4 (w / 2 ^ 24)) (reg w 6) (reg w 12) (reg w 18))
  | 5 => if bitsOf w 18 6 = 0 then some (.revoke (.ofNat 4 (w / 2 ^ 24)) (reg w 6) (reg w 12)) else none
  | 6 => if bitsOf w 18 6 = 0 then some (.stat (.ofNat 4 (w / 2 ^ 24)) (reg w 6) (reg w 12)) else none
  | 7 => some (.dup (.ofNat 4 (w / 2 ^ 24)) (reg w 6) (reg w 12) (reg w 18))
  | 8 => some (.mknode (.ofNat 4 (w / 2 ^ 24)) (reg w 6) (reg w 12) (reg w 18))
  | 9 => some (.export_ (.ofNat 4 (w / 2 ^ 24)) (reg w 6) (reg w 12) (reg w 18))
  | _ => none

/-- Major 0x13 (R68, R69). -/
def decode13 (w : Nat) : Option Instr :=
  match bitsOf w 24 2 with
  | 2 => if bitsOf w 18 6 = 0 ∧ bitsOf w 26 6 = 0 then some (.qpush (reg w 6) (reg w 12)) else none
  | 0 => if bitsOf w 18 6 = 0 ∧ bitsOf w 26 6 = 0 then some (.qpop (reg w 6) (reg w 12)) else none
  | 3 => some (.qpushNb (reg w 6) (reg w 12) (reg w 18) (.ofNat 6 (w / 2 ^ 26)))
  | 1 => some (.qpopNb (reg w 6) (reg w 12) (reg w 18) (.ofNat 6 (w / 2 ^ 26)))
  | _ => none

/-- Major 0x14 (R68, R69). -/
def decode14 (w : Nat) : Option Instr := (MemSize.ofCode (bitsOf w 18 3)).bind fun size =>
  some (.ld {} size (bitsOf w 21 1 == 1) (.ofNat 4 (w / 2 ^ 22)) (reg w 6) (reg w 12) ⟨none, .ofNat 6 (w / 2 ^ 26)⟩)

/-- Major 0x15 (R68, R69). -/
def decode15 (w : Nat) : Option Instr :=
  if bitsOf w 21 1 = 0 then
    (MemSize.ofCode (bitsOf w 18 3)).bind fun size => some (.st {} size (reg w 6) (reg w 12) ⟨none, .ofNat 10 (w / 2 ^ 22)⟩) else none

/-- Major 0x16 (R68, R69). -/
def decode16 (w : Nat) : Option Instr := (MemSize.ofCode (bitsOf w 18 3)).bind fun size =>
  some (.ldx {} size (bitsOf w 21 1 == 1) (.ofNat 4 (w / 2 ^ 22)) (reg w 6) (reg w 12) (reg w 26))

/-- Major 0x17 (R68, R69). -/
def decode17 (w : Nat) : Option Instr :=
  if bitsOf w 21 3 = 0 ∧ bitsOf w 30 2 = 0 then
    (MemSize.ofCode (bitsOf w 18 3)).bind fun size => some (.stx {} size (reg w 6) (reg w 12) (reg w 24)) else none

/-- Major 0x18 (R68, R69). -/
def decode18 (w : Nat) : Option Instr :=
  match bitsOf w 28 4 with
  | 0 => some (.aadd {} (.ofNat 4 (w / 2 ^ 24)) (reg w 6) (reg w 12) (reg w 18))
  | 1 => some (.aand {} (.ofNat 4 (w / 2 ^ 24)) (reg w 6) (reg w 12) (reg w 18))
  | 2 => some (.aor {} (.ofNat 4 (w / 2 ^ 24)) (reg w 6) (reg w 12) (reg w 18))
  | 3 => some (.axor {} (.ofNat 4 (w / 2 ^ 24)) (reg w 6) (reg w 12) (reg w 18))
  | 4 => some (.amin {} (.ofNat 4 (w / 2 ^ 24)) (reg w 6) (reg w 12) (reg w 18))
  | 5 => some (.amax {} (.ofNat 4 (w / 2 ^ 24)) (reg w 6) (reg w 12) (reg w 18))
  | 6 => some (.aminu {} (.ofNat 4 (w / 2 ^ 24)) (reg w 6) (reg w 12) (reg w 18))
  | 7 => some (.amaxu {} (.ofNat 4 (w / 2 ^ 24)) (reg w 6) (reg w 12) (reg w 18))
  | 8 => some (.axchg {} (.ofNat 4 (w / 2 ^ 24)) (reg w 6) (reg w 12) (reg w 18))
  | 9 => some (.acas {} (.ofNat 4 (w / 2 ^ 24)) (reg w 6) (reg w 12) (reg w 18))
  | 10 => some (.afadd {} (.ofNat 4 (w / 2 ^ 24)) (reg w 6) (reg w 12) (reg w 18))
  | 11 => some (.aincs {} (.ofNat 4 (w / 2 ^ 24)) (reg w 6) (reg w 12) (reg w 18))
  | _ => none

/-- Major 0x19 (R68, R69). -/
def decode19 (w : Nat) : Option Instr :=
  match bitsOf w 26 6 with
  | 0 =>
    if bitsOf w 6 6 = 0 ∧ bitsOf w 17 9 = 0 then
      (Scope.ofCode (bitsOf w 14 3)).bind fun scope => (FenceKind.ofCode (bitsOf w 12 2)).bind fun kind => some (.fence scope kind) else none
  | 1 => if bitsOf w 12 14 = 0 then some (.hfence (reg w 6)) else none
  | _ => none

/-- Major 0x1A (R68, R69). -/
def decode1A (w : Nat) : Option Instr :=
  if bitsOf w 28 4 = 0 then
    (MemSize.ofCode (bitsOf w 18 3)).bind fun size => (Scope.ofCode (bitsOf w 21 3)).bind fun scope => some (.lda size (.ofNat 4 (w / 2 ^ 24)) (reg w 6) (reg w 12) scope) else none

/-- Major 0x1B (R68, R69). -/
def decode1B (w : Nat) : Option Instr :=
  if bitsOf w 24 8 = 0 then
    (MemSize.ofCode (bitsOf w 18 3)).bind fun size => (Scope.ofCode (bitsOf w 21 3)).bind fun scope => some (.stl size (reg w 6) (reg w 12) scope) else none

/-- Major 0x1C (R68, R69). -/
def decode1C (w : Nat) : Option Instr :=
  match bitsOf w 26 6 with
  | 0 => if bitsOf w 6 6 = 0 ∧ bitsOf w 18 8 = 0 then some (.pref (reg w 12)) else none
  | 1 => if bitsOf w 6 6 = 0 ∧ bitsOf w 18 8 = 0 then some (.clwb (reg w 12)) else none
  | 2 => if bitsOf w 6 6 = 0 ∧ bitsOf w 18 8 = 0 then some (.clinv (reg w 12)) else none
  | 3 => if bitsOf w 6 6 = 0 ∧ bitsOf w 18 8 = 0 then some (.clzero (reg w 12)) else none
  | 4 => if bitsOf w 6 6 = 0 ∧ bitsOf w 18 8 = 0 then some (.stashfl (reg w 12)) else none
  | 5 => if bitsOf w 6 6 = 0 ∧ bitsOf w 18 8 = 0 then some (.stashinv (reg w 12)) else none
  | _ => none

/-- Major 0x1D (R68, R69). -/
def decode1D (w : Nat) : Option Instr :=
  match bitsOf w 24 8 with
  | 0 => if bitsOf w 6 6 = 0 then some (.barinit (reg w 12) (reg w 18)) else none
  | 1 => if bitsOf w 18 6 = 0 then some (.bararv (reg w 6) (reg w 12)) else none
  | 2 => if bitsOf w 6 6 = 0 then some (.barexp (reg w 12) (reg w 18)) else none
  | 3 => some (.barwait (reg w 6) (reg w 12) (reg w 18))
  | 4 => some (.bartest (reg w 6) (reg w 12) (reg w 18))
  | 5 => if bitsOf w 6 6 = 0 ∧ bitsOf w 18 6 = 0 then some (.barpois (reg w 12)) else none
  | 6 => if bitsOf w 12 12 = 0 then some (.gangbar (reg w 6)) else none
  | 7 => if bitsOf w 12 12 = 0 then some (.spanbar (reg w 6)) else none
  | 8 => if bitsOf w 18 6 = 0 then some (.barrd (reg w 6) (reg w 12)) else none
  | _ => none

/-- Major 0x1E (R68, R69). -/
def decode1E (w : Nat) : Option Instr :=
  match bitsOf w 24 8 with
  | 0 => some (.spawn (reg w 6) (reg w 12) (reg w 18))
  | 1 => if bitsOf w 6 6 = 0 ∧ bitsOf w 18 6 = 0 then some (.retire (reg w 12)) else none
  | 2 => if bitsOf w 6 18 = 0 then some .yield else none
  | 3 => if bitsOf w 18 6 = 0 then some (.sleep (reg w 6) (reg w 12)) else none
  | 4 => if bitsOf w 18 6 = 0 then some (.wake (reg w 6) (reg w 12)) else none
  | 5 => if bitsOf w 12 12 = 0 then some (.self (reg w 6)) else none
  | 6 => if bitsOf w 6 6 = 0 then some (.hpush (reg w 12) (reg w 18)) else none
  | 7 => if bitsOf w 18 6 = 0 then some (.hpop (reg w 6) (reg w 12)) else none
  | 8 => some (.evpost (reg w 6) (reg w 12) (reg w 18))
  | 9 => if bitsOf w 18 6 = 0 then some (.evwait (reg w 6) (reg w 12)) else none
  | 10 => some (.signal (reg w 6) (reg w 12) (reg w 18))
  | 11 => if bitsOf w 18 6 = 0 then some (.htry (reg w 6) (reg w 12)) else none
  | _ => none

/-- Major 0x1F (R68, R69). -/
def decode1F (w : Nat) : Option Instr :=
  match bitsOf w 28 4 with
  | 0 => some (.enq (.ofNat 4 (w / 2 ^ 24)) (reg w 6) (reg w 12) (reg w 18))
  | 1 => if bitsOf w 24 4 = 0 then some (.jwait (reg w 6) (reg w 12) (reg w 18)) else none
  | 2 => some (.jtest (.ofNat 4 (w / 2 ^ 24)) (reg w 6) (reg w 12) (reg w 18))
  | 3 => if bitsOf w 18 6 = 0 then some (.jstat (.ofNat 4 (w / 2 ^ 24)) (reg w 6) (reg w 12)) else none
  | 4 => some (.aswap (.ofNat 4 (w / 2 ^ 24)) (reg w 6) (reg w 12) (reg w 18))
  | 5 => some (.jcancel (.ofNat 4 (w / 2 ^ 24)) (reg w 6) (reg w 12) (reg w 18))
  | _ => none

/-- Major 0x20 (R68, R69). -/
def decode20 (w : Nat) : Option Instr :=
  match bitsOf w 30 2 with
  | 0 => some (.vadd (LaneType.ofCode (bitsOf w 27 3)) (.ofNat 3 (w / 2 ^ 24)) (reg w 6) (reg w 12) (reg w 18))
  | 1 => some (.vsub (LaneType.ofCode (bitsOf w 27 3)) (.ofNat 3 (w / 2 ^ 24)) (reg w 6) (reg w 12) (reg w 18))
  | 2 => some (.vmul (LaneType.ofCode (bitsOf w 27 3)) (.ofNat 3 (w / 2 ^ 24)) (reg w 6) (reg w 12) (reg w 18))
  | 3 => some (.vfma (LaneType.ofCode (bitsOf w 27 3)) (.ofNat 3 (w / 2 ^ 24)) (reg w 6) (reg w 12) (reg w 18))
  | _ => none

/-- Major 0x21 (R68, R69). -/
def decode21 (w : Nat) : Option Instr :=
  match bitsOf w 30 2 with
  | 0 => some (.vmin (LaneType.ofCode (bitsOf w 27 3)) (.ofNat 3 (w / 2 ^ 24)) (reg w 6) (reg w 12) (reg w 18))
  | 1 => some (.vmax (LaneType.ofCode (bitsOf w 27 3)) (.ofNat 3 (w / 2 ^ 24)) (reg w 6) (reg w 12) (reg w 18))
  | 2 =>
    if bitsOf w 18 6 = 0 then
      some (.vabs (LaneType.ofCode (bitsOf w 27 3)) (.ofNat 3 (w / 2 ^ 24)) (reg w 6) (reg w 12)) else none
  | 3 =>
    if bitsOf w 18 6 = 0 then
      some (.vneg (LaneType.ofCode (bitsOf w 27 3)) (.ofNat 3 (w / 2 ^ 24)) (reg w 6) (reg w 12)) else none
  | _ => none

/-- Major 0x22 (R68, R69). -/
def decode22 (w : Nat) : Option Instr :=
  match bitsOf w 30 2 with
  | 0 => some (.vand (LaneType.ofCode (bitsOf w 27 3)) (.ofNat 3 (w / 2 ^ 24)) (reg w 6) (reg w 12) (reg w 18))
  | 1 => some (.vor (LaneType.ofCode (bitsOf w 27 3)) (.ofNat 3 (w / 2 ^ 24)) (reg w 6) (reg w 12) (reg w 18))
  | 2 => some (.vxor (LaneType.ofCode (bitsOf w 27 3)) (.ofNat 3 (w / 2 ^ 24)) (reg w 6) (reg w 12) (reg w 18))
  | 3 => some (.vandn (LaneType.ofCode (bitsOf w 27 3)) (.ofNat 3 (w / 2 ^ 24)) (reg w 6) (reg w 12) (reg w 18))
  | _ => none

/-- Major 0x23 (R68, R69). -/
def decode23 (w : Nat) : Option Instr :=
  match bitsOf w 30 2 with
  | 0 => some (.vsll (LaneType.ofCode (bitsOf w 27 3)) (.ofNat 3 (w / 2 ^ 24)) (reg w 6) (reg w 12) (reg w 18))
  | 1 => some (.vsrl (LaneType.ofCode (bitsOf w 27 3)) (.ofNat 3 (w / 2 ^ 24)) (reg w 6) (reg w 12) (reg w 18))
  | 2 => some (.vsra (LaneType.ofCode (bitsOf w 27 3)) (.ofNat 3 (w / 2 ^ 24)) (reg w 6) (reg w 12) (reg w 18))
  | 3 => some (.vmulh (LaneType.ofCode (bitsOf w 27 3)) (.ofNat 3 (w / 2 ^ 24)) (reg w 6) (reg w 12) (reg w 18))
  | _ => none

/-- Major 0x24 (R68, R69). -/
def decode24 (w : Nat) : Option Instr :=
  match bitsOf w 30 2 with
  | 0 => some (.vdiv (FloatLane.ofCode (bitsOf w 24 2)) (.ofNat 4 (w / 2 ^ 26)) (reg w 6) (reg w 12) (reg w 18))
  | 1 =>
    if bitsOf w 18 6 = 0 then
      some (.vsqrt (FloatLane.ofCode (bitsOf w 24 2)) (.ofNat 4 (w / 2 ^ 26)) (reg w 6) (reg w 12)) else none
  | 2 => some (.vidiv (IntLane.ofCode (bitsOf w 24 2)) (.ofNat 4 (w / 2 ^ 26)) (reg w 6) (reg w 12) (reg w 18))
  | 3 => some (.virem (IntLane.ofCode (bitsOf w 24 2)) (.ofNat 4 (w / 2 ^ 26)) (reg w 6) (reg w 12) (reg w 18))
  | _ => none

/-- Major 0x25 (R68, R69). -/
def decode25 (w : Nat) : Option Instr :=
  match bitsOf w 30 2 with
  | 0 => some (.vcmpeq (LaneType.ofCode (bitsOf w 27 3)) (.ofNat 3 (w / 2 ^ 24)) (reg w 6) (reg w 12) (reg w 18))
  | 1 => some (.vcmplt (LaneType.ofCode (bitsOf w 27 3)) (.ofNat 3 (w / 2 ^ 24)) (reg w 6) (reg w 12) (reg w 18))
  | 2 => some (.vcmple (LaneType.ofCode (bitsOf w 27 3)) (.ofNat 3 (w / 2 ^ 24)) (reg w 6) (reg w 12) (reg w 18))
  | 3 => some (.vcmpun (LaneType.ofCode (bitsOf w 27 3)) (.ofNat 3 (w / 2 ^ 24)) (reg w 6) (reg w 12) (reg w 18))
  | _ => none

/-- Major 0x26 (R68, R69). -/
def decode26 (w : Nat) : Option Instr :=
  match bitsOf w 30 2 with
  | 0 => if bitsOf w 23 1 = 0 then (ElemType.ofCode (bitsOf w 18 5)).bind fun target =>
    some (.vcvt (LaneType.ofCode (bitsOf w 27 3)) target (.ofNat 3 (w / 2 ^ 24)) (reg w 6) (reg w 12)) else none
  | 1 => if bitsOf w 23 1 = 0 then (ElemType.ofCode (bitsOf w 18 5)).bind fun target =>
    some (.vcvtz (LaneType.ofCode (bitsOf w 27 3)) target (.ofNat 3 (w / 2 ^ 24)) (reg w 6) (reg w 12)) else none
  | 2 => if bitsOf w 23 1 = 0 then (ElemType.ofCode (bitsOf w 18 5)).bind fun target =>
    some (.vcvts (LaneType.ofCode (bitsOf w 27 3)) target (.ofNat 3 (w / 2 ^ 24)) (reg w 6) (reg w 12)) else none
  | 3 => if bitsOf w 23 1 = 0 then (ElemType.ofCode (bitsOf w 18 5)).bind fun target =>
    some (.vcvtr (LaneType.ofCode (bitsOf w 27 3)) target (.ofNat 3 (w / 2 ^ 24)) (reg w 6) (reg w 12)) else none
  | _ => none

/-- Major 0x27 (R68, R69). -/
def decode27 (w : Nat) : Option Instr :=
  match bitsOf w 30 2 with
  | 0 => some (.vshuf (LaneType.ofCode (bitsOf w 27 3)) (.ofNat 3 (w / 2 ^ 24)) (reg w 6) (reg w 12) (reg w 18))
  | 1 => some (.vbcast (LaneType.ofCode (bitsOf w 27 3)) (.ofNat 3 (w / 2 ^ 24)) (reg w 6) (reg w 12) (reg w 18))
  | 2 => some (.vslide (LaneType.ofCode (bitsOf w 27 3)) (.ofNat 3 (w / 2 ^ 24)) (reg w 6) (reg w 12) (reg w 18))
  | 3 => some (.vzip (LaneType.ofCode (bitsOf w 27 3)) (.ofNat 3 (w / 2 ^ 24)) (reg w 6) (reg w 12) (reg w 18))
  | _ => none

/-- Major 0x28 (R68, R69). -/
def decode28 (w : Nat) : Option Instr :=
  match bitsOf w 30 2 with
  | 0 =>
    if bitsOf w 18 6 = 0 then
      some (.vrsum (LaneType.ofCode (bitsOf w 27 3)) (.ofNat 3 (w / 2 ^ 24)) (reg w 6) (reg w 12)) else none
  | 1 =>
    if bitsOf w 18 6 = 0 then
      some (.vrmax (LaneType.ofCode (bitsOf w 27 3)) (.ofNat 3 (w / 2 ^ 24)) (reg w 6) (reg w 12)) else none
  | 2 =>
    if bitsOf w 18 6 = 0 then
      some (.vrmin (LaneType.ofCode (bitsOf w 27 3)) (.ofNat 3 (w / 2 ^ 24)) (reg w 6) (reg w 12)) else none
  | 3 => some (.vrdot (LaneType.ofCode (bitsOf w 27 3)) (.ofNat 3 (w / 2 ^ 24)) (reg w 6) (reg w 12) (reg w 18))
  | _ => none

/-- Major 0x29 (R68, R69). -/
def decode29 (w : Nat) : Option Instr :=
  match bitsOf w 30 2 with
  | 0 => some (.vmaxw (LaneType.ofCode (bitsOf w 27 3)) (.ofNat 3 (w / 2 ^ 24)) (reg w 6) (reg w 12) (reg w 18))
  | 1 => some (.vminw (LaneType.ofCode (bitsOf w 27 3)) (.ofNat 3 (w / 2 ^ 24)) (reg w 6) (reg w 12) (reg w 18))
  | 2 => some (.vclmpw (LaneType.ofCode (bitsOf w 27 3)) (.ofNat 3 (w / 2 ^ 24)) (reg w 6) (reg w 12) (reg w 18))
  | 3 => some (.vadjb (LaneType.ofCode (bitsOf w 27 3)) (.ofNat 3 (w / 2 ^ 24)) (reg w 6) (reg w 12) (reg w 18))
  | _ => none

/-- Major 0x2A (R68, R69). -/
def decode2A (w : Nat) : Option Instr :=
  match bitsOf w 30 2 with
  | 0 => some (.vgath (ElemSize.ofCode (bitsOf w 24 2)) (.ofNat 4 (w / 2 ^ 26)) (reg w 6) (reg w 12) (reg w 18))
  | 1 =>
    if bitsOf w 26 4 = 0 then
      some (.vscat (ElemSize.ofCode (bitsOf w 24 2)) (reg w 6) (reg w 12) (reg w 18)) else none
  | 2 => some (.vlds (ElemSize.ofCode (bitsOf w 24 2)) (.ofNat 4 (w / 2 ^ 26)) (reg w 6) (reg w 12) (reg w 18))
  | 3 =>
    if bitsOf w 26 4 = 0 then some (.vsts (ElemSize.ofCode (bitsOf w 24 2)) (reg w 6) (reg w 12) (reg w 18)) else none
  | _ => none

/-- Major 0x2B (R68, R69). -/
def decode2B (w : Nat) : Option Instr :=
  match bitsOf w 30 2 with
  | 0 => some (.vsel (LaneType.ofCode (bitsOf w 27 3)) (.ofNat 3 (w / 2 ^ 24)) (reg w 6) (reg w 12) (reg w 18))
  | 1 =>
    if bitsOf w 12 12 = 0 then
      some (.viota (LaneType.ofCode (bitsOf w 27 3)) (.ofNat 3 (w / 2 ^ 24)) (reg w 6)) else none
  | 2 =>
    if bitsOf w 18 6 = 0 then
      some (.vdup (LaneType.ofCode (bitsOf w 27 3)) (.ofNat 3 (w / 2 ^ 24)) (reg w 6) (reg w 12)) else none
  | 3 =>
    if bitsOf w 24 3 = 0 then some (.vext (LaneType.ofCode (bitsOf w 27 3)) (reg w 6) (reg w 12) (reg w 18)) else none
  | _ => none

/-- Major 0x2C (R68, R69). -/
def decode2C (w : Nat) : Option Instr :=
  match bitsOf w 24 2 with
  | 0 => if bitsOf w 26 6 = 0 then some (.ctlr (reg w 6) (.ofNat 12 (w / 2 ^ 12))) else none
  | 1 => if bitsOf w 26 6 = 0 then some (.ctlw (reg w 6) (.ofNat 12 (w / 2 ^ 12))) else none
  | 2 => if bitsOf w 26 6 = 0 then some (.ctls (reg w 6) (.ofNat 12 (w / 2 ^ 12))) else none
  | 3 => if bitsOf w 26 6 = 0 then some (.ctlc (reg w 6) (.ofNat 12 (w / 2 ^ 12))) else none
  | _ => none

/-- Major 0x2D (R68, R69). -/
def decode2D (w : Nat) : Option Instr :=
  match bitsOf w 24 8 with
  | 0 => if bitsOf w 6 6 = 0 then some (.trap (.ofNat 12 (w / 2 ^ 12))) else none
  | 1 => if bitsOf w 6 18 = 0 then some .eret else none
  | 2 => if bitsOf w 6 6 = 0 then some (.phint (reg w 12) (reg w 18)) else none
  | 3 => some (.save (reg w 6) (reg w 12) (reg w 18))
  | 4 => some (.resume (reg w 6) (reg w 12) (reg w 18))
  | 5 => if bitsOf w 18 6 = 0 then some (.freeze (reg w 6) (reg w 12)) else none
  | 6 => some (.thaw (reg w 6) (reg w 12) (reg w 18))
  | 7 => if bitsOf w 18 6 = 0 then some (.waitev (reg w 6) (reg w 12)) else none
  | 8 => if bitsOf w 6 18 = 0 then some .bkpt else none
  | 9 => some (.kill (reg w 6) (reg w 12) (reg w 18))
  | _ => none

/-- Major 0x2E (R68, R69). -/
def decode2E (w : Nat) : Option Instr :=
  match bitsOf w 24 8 with
  | 0 => some (.xgo (reg w 6) (reg w 12) (reg w 18))
  | 1 => if bitsOf w 18 6 = 0 then some (.xstat (reg w 6) (reg w 12)) else none
  | 2 => some (.sumcol (reg w 6) (reg w 12) (reg w 18))
  | _ => none

/-- The instruction of a word as its fields stand, by major opcode (R68). -/
def decodeRaw (w : Nat) : Option Instr :=
  match bitsOf w 0 6 with
  | 0x01 => decode01 w
  | 0x02 => decode02 w
  | 0x03 => decode03 w
  | 0x04 => decode04 w
  | 0x05 => decode05 w
  | 0x06 => decode06 w
  | 0x07 => decode07 w
  | 0x08 => decode08 w
  | 0x09 => decode09 w
  | 0x0A => decode0A w
  | 0x0B => decode0B w
  | 0x0C => decode0C w
  | 0x0D => decode0D w
  | 0x0E => decode0E w
  | 0x0F => decode0F w
  | 0x10 => decode10 w
  | 0x11 => decode11 w
  | 0x12 => decode12 w
  | 0x13 => decode13 w
  | 0x14 => decode14 w
  | 0x15 => decode15 w
  | 0x16 => decode16 w
  | 0x17 => decode17 w
  | 0x18 => decode18 w
  | 0x19 => decode19 w
  | 0x1A => decode1A w
  | 0x1B => decode1B w
  | 0x1C => decode1C w
  | 0x1D => decode1D w
  | 0x1E => decode1E w
  | 0x1F => decode1F w
  | 0x20 => decode20 w
  | 0x21 => decode21 w
  | 0x22 => decode22 w
  | 0x23 => decode23 w
  | 0x24 => decode24 w
  | 0x25 => decode25 w
  | 0x26 => decode26 w
  | 0x27 => decode27 w
  | 0x28 => decode28 w
  | 0x29 => decode29 w
  | 0x2A => decode2A w
  | 0x2B => decode2B w
  | 0x2C => decode2C w
  | 0x2D => decode2D w
  | 0x2E => decode2E w
  | _ => none

/-- What a repair may refuse beyond WellFormed.lean: nothing so far. -/
def legalFields (i : Instr) : Bool := i.wf

/-- The instruction of a word that stands without prefixes, or none where the word is ILLEGAL (R66). -/
def decodeWord (w : Nat) : Option Instr := (decodeRaw w).filter legalFields

/-- The fields of a QUAL word (R72). -/
structure QualWord where
  guard : Option Guard
  order : Order
  scope : Scope
  size : Nat
deriving DecidableEq, Repr

/-- A QUAL word whose own fields are legal (R72). -/
def decodeQual (w : Nat) : Option QualWord :=
  (Scope.ofCode (bitsOf w 24 3)).bind fun scope =>
    let guard : Option Guard :=
      if bitsOf w 21 1 = 1 then some ⟨reg w 6, .ofNat 8 (w / 2 ^ 12), bitsOf w 20 1 == 1⟩ else none
    if bitsOf w 29 3 = 0 ∧ (bitsOf w 21 1 = 1 ∨ bitsOf w 6 15 = 0) then
      some ⟨guard, Order.ofCode (bitsOf w 22 2), scope, bitsOf w 27 2⟩
    else none

/-- The instruction with the H of an EXT prefix, where it accepts one (R70, R71). -/
def Instr.withExt (h : BitVec 26) : Instr → Option Instr
  | .addi d a imm => some (.addi d a { imm with ext := some h })
  | .andi d a imm => some (.andi d a { imm with ext := some h })
  | .ori d a imm => some (.ori d a { imm with ext := some h })
  | .xori d a imm => some (.xori d a { imm with ext := some h })
  | .addwi d a imm => some (.addwi d a { imm with ext := some h })
  | .cmpi c d a bit imm => some (.cmpi c d a bit { imm with ext := some h })
  | .bcc c a b imm => some (.bcc c a b { imm with ext := some h })
  | .bb s a bit imm => some (.bb s a bit { imm with ext := some h })
  | .jalr d a imm => some (.jalr d a { imm with ext := some h })
  | .dbnz a imm => some (.dbnz a { imm with ext := some h })
  | .cinci d a imm => some (.cinci d a { imm with ext := some h })
  | .ld o z g la d a imm => some (.ld o z g la d a { imm with ext := some h })
  | .st o z s a imm => some (.st o z s a { imm with ext := some h })
  | _ => none

/-- Order, scope and width of an ATOM from its QUAL (R73, R74). -/
def QualWord.atom (q : QualWord) : Option AtomOrder :=
  if q.size ≤ 1 then some ⟨q.order, q.scope, q.size == 1⟩ else none

/-- Order and scope of LD, ST, LDX and STX from their QUAL (R73, R74). -/
def QualWord.mem (q : QualWord) : Option MemOrder := if q.size = 0 then some ⟨q.order, q.scope⟩ else none

/-- The instruction with what a QUAL prefix gives it besides the guard, where it accepts that (R73, R74). -/
def Instr.withQual (q : QualWord) : Instr → Option Instr
  | .ld _ z g la d a imm => q.mem.map fun o => .ld o z g la d a imm
  | .st _ z s a imm => q.mem.map fun o => .st o z s a imm
  | .ldx _ z g la d a b => q.mem.map fun o => .ldx o z g la d a b
  | .stx _ z s a b => q.mem.map fun o => .stx o z s a b
  | .aadd _ la d a b => q.atom.map fun o => .aadd o la d a b
  | .aand _ la d a b => q.atom.map fun o => .aand o la d a b
  | .aor _ la d a b => q.atom.map fun o => .aor o la d a b
  | .axor _ la d a b => q.atom.map fun o => .axor o la d a b
  | .amin _ la d a b => q.atom.map fun o => .amin o la d a b
  | .amax _ la d a b => q.atom.map fun o => .amax o la d a b
  | .aminu _ la d a b => q.atom.map fun o => .aminu o la d a b
  | .amaxu _ la d a b => q.atom.map fun o => .amaxu o la d a b
  | .axchg _ la d a b => q.atom.map fun o => .axchg o la d a b
  | .acas _ la d a b => q.atom.map fun o => .acas o la d a b
  | .afadd _ la d a b => q.atom.map fun o => .afadd o la d a b
  | .aincs _ la d a b => q.atom.map fun o => .aincs o la d a b
  | i => if q.order = .rlx ∧ q.scope = .core ∧ q.size = 0 then some i else none

/-- What the words fetched so far for one unit say. -/
inductive UnitWords where
  /-- a whole unit -/
  | done (u : IUnit)
  /-- the unit is ILLEGAL; `w` is the illegal word, which trap.val receives (R66) -/
  | illegal (w : Nat)
  /-- prefixes only so far: the next word belongs to the unit -/
  | more
deriving DecidableEq, Repr

/-- Major 0x3E (R72). -/
def isQual (w : Nat) : Bool := bitsOf w 0 6 == 0x3E
/-- Major 0x3F (R71). -/
def isExt (w : Nat) : Bool := bitsOf w 0 6 == 0x3F

/-- A unit whose words have all been read: the instruction word is judged first, then EXT, then QUAL (log entry 7). -/
def finishUnit (qual ext : Option Nat) (w : Nat) : UnitWords :=
  match decodeWord w with
  | none => .illegal w
  | some i =>
    match ext with
    | some e =>
      match i.withExt (.ofNat 26 (e / 2 ^ 6)) with
      | none => .illegal e
      | some i' =>
        match qual with
        | none => .done ⟨none, i'⟩
        | some q =>
          match (decodeQual q).bind fun qw => (i'.withQual qw).map fun i'' => IUnit.mk qw.guard i'' with
          | none => .illegal q
          | some u => .done u
    | none =>
      match qual with
      | none => .done ⟨none, i⟩
      | some q =>
        match (decodeQual q).bind fun qw => (i.withQual qw).map fun i'' => IUnit.mk qw.guard i'' with
        | none => .illegal q
        | some u => .done u

/-- The decoder: the words of a unit, in address order (R76, R77). Of three prefixes the EXT word is taken for the first
prefix word of the sequence that R76 refuses (DEDUCED, log entry 7). -/
def decodeUnit : List Nat → UnitWords
  | [w] => if isQual w || isExt w then .more else finishUnit none none w
  | [p, w] =>
    if isQual p then
      if isQual w then .illegal p else if isExt w then .more else finishUnit (some p) none w
    else if isQual w || isExt w then .illegal p
    else finishUnit none (some p) w
  | [q, e, w] => if isQual w || isExt w then .illegal e else finishUnit (some q) (some e) w
  | _ => .more

/-- The instruction read from a word alone, for the host's question about an opcode-table row. -/
def decodeTableWord (nbits w : Nat) : Option Instr :=
  if nbits = 32 then
    match decodeUnit [w % 2 ^ 32] with
    | .done u => some u.instr
    | .illegal _ => none
    | .more => none
  else none

/-- A word: its fixed bits, and fields with their lowest bits. -/
def word (fixed : Nat) (fields : List (Nat × Nat)) : Option Nat :=
  some (fields.foldl (fun w f => w + f.1 * 2 ^ f.2) fixed)

/-- The instruction word (R68, R69), without what prefixes carry. None: a machine step has no word. -/
def encodeWord : Instr → Option Nat
  | .add d a b => word 0x1 [(d.toNat, 6), (a.toNat, 12), (b.toNat, 18)]
  | .sub d a b => word 0x1000001 [(d.toNat, 6), (a.toNat, 12), (b.toNat, 18)]
  | .and_ d a b => word 0x2000001 [(d.toNat, 6), (a.toNat, 12), (b.toNat, 18)]
  | .or_ d a b => word 0x3000001 [(d.toNat, 6), (a.toNat, 12), (b.toNat, 18)]
  | .xor d a b => word 0x4000001 [(d.toNat, 6), (a.toNat, 12), (b.toNat, 18)]
  | .andn d a b => word 0x5000001 [(d.toNat, 6), (a.toNat, 12), (b.toNat, 18)]
  | .sll d a b => word 0x6000001 [(d.toNat, 6), (a.toNat, 12), (b.toNat, 18)]
  | .srl d a b => word 0x7000001 [(d.toNat, 6), (a.toNat, 12), (b.toNat, 18)]
  | .sra d a b => word 0x8000001 [(d.toNat, 6), (a.toNat, 12), (b.toNat, 18)]
  | .rol d a b => word 0x9000001 [(d.toNat, 6), (a.toNat, 12), (b.toNat, 18)]
  | .ror d a b => word 0xa000001 [(d.toNat, 6), (a.toNat, 12), (b.toNat, 18)]
  | .min d a b => word 0xb000001 [(d.toNat, 6), (a.toNat, 12), (b.toNat, 18)]
  | .max d a b => word 0xc000001 [(d.toNat, 6), (a.toNat, 12), (b.toNat, 18)]
  | .minu d a b => word 0xd000001 [(d.toNat, 6), (a.toNat, 12), (b.toNat, 18)]
  | .maxu d a b => word 0xe000001 [(d.toNat, 6), (a.toNat, 12), (b.toNat, 18)]
  | .addw d a b => word 0xf000001 [(d.toNat, 6), (a.toNat, 12), (b.toNat, 18)]
  | .subw d a b => word 0x10000001 [(d.toNat, 6), (a.toNat, 12), (b.toNat, 18)]
  | .idx2 d a b => word 0x11000001 [(d.toNat, 6), (a.toNat, 12), (b.toNat, 18)]
  | .idx4 d a b => word 0x12000001 [(d.toNat, 6), (a.toNat, 12), (b.toNat, 18)]
  | .idx8 d a b => word 0x13000001 [(d.toNat, 6), (a.toNat, 12), (b.toNat, 18)]
  | .idx32 d a b => word 0x14000001 [(d.toNat, 6), (a.toNat, 12), (b.toNat, 18)]
  | .clead d a => word 0x15000001 [(d.toNat, 6), (a.toNat, 12)]
  | .ctrail d a => word 0x16000001 [(d.toNat, 6), (a.toNat, 12)]
  | .cones d a => word 0x17000001 [(d.toNat, 6), (a.toNat, 12)]
  | .byterev d a => word 0x18000001 [(d.toNat, 6), (a.toNat, 12)]
  | .exts d a b => word 0x19000001 [(d.toNat, 6), (a.toNat, 12), (b.toNat, 18)]
  | .extz d a b => word 0x1a000001 [(d.toNat, 6), (a.toNat, 12), (b.toNat, 18)]
  | .mov d a => word 0x1b000001 [(d.toNat, 6), (a.toNat, 12)]
  | .bset d a b => word 0x20000001 [(d.toNat, 6), (a.toNat, 12), (b.toNat, 18)]
  | .bclr d a b => word 0x21000001 [(d.toNat, 6), (a.toNat, 12), (b.toNat, 18)]
  | .binv d a b => word 0x22000001 [(d.toNat, 6), (a.toNat, 12), (b.toNat, 18)]
  | .bext d a b => word 0x23000001 [(d.toNat, 6), (a.toNat, 12), (b.toNat, 18)]
  | .addi d a imm => word 0x2 [(d.toNat, 6), (a.toNat, 12), (imm.field.toNat, 18)]
  | .andi d a imm => word 0x3 [(d.toNat, 6), (a.toNat, 12), (imm.field.toNat, 21)]
  | .ori d a imm => word 0x40003 [(d.toNat, 6), (a.toNat, 12), (imm.field.toNat, 21)]
  | .xori d a imm => word 0x80003 [(d.toNat, 6), (a.toNat, 12), (imm.field.toNat, 21)]
  | .slli d a imm => word 0xc0003 [(d.toNat, 6), (a.toNat, 12), (imm.toNat, 21)]
  | .srli d a imm => word 0x100003 [(d.toNat, 6), (a.toNat, 12), (imm.toNat, 21)]
  | .srai d a imm => word 0x140003 [(d.toNat, 6), (a.toNat, 12), (imm.toNat, 21)]
  | .addwi d a imm => word 0x180003 [(d.toNat, 6), (a.toNat, 12), (imm.field.toNat, 21)]
  | .rori d a imm => word 0x1c0003 [(d.toNat, 6), (a.toNat, 12), (imm.toNat, 21)]
  | .movh d imm => word 0x4 [(d.toNat, 6), (imm.toNat, 12)]
  | .orsh d imm => word 0x5 [(d.toNat, 6), (imm.toNat, 12)]
  | .bseti d a bit => word 0x6 [(d.toNat, 6), (a.toNat, 12), (bit.toNat, 18)]
  | .bclri d a bit => word 0x4000006 [(d.toNat, 6), (a.toNat, 12), (bit.toNat, 18)]
  | .binvi d a bit => word 0x8000006 [(d.toNat, 6), (a.toNat, 12), (bit.toNat, 18)]
  | .bexti d a bit => word 0xc000006 [(d.toNat, 6), (a.toNat, 12), (bit.toNat, 18)]
  | .bdepi d a bit => word 0x10000006 [(d.toNat, 6), (a.toNat, 12), (bit.toNat, 18)]
  | .bndepi d a bit => word 0x14000006 [(d.toNat, 6), (a.toNat, 12), (bit.toNat, 18)]
  | .cmp cond d a b bit => word 0x7 [(cond.code, 24), (d.toNat, 6), (a.toNat, 12), (b.toNat, 18), (bit.toNat, 27)]
  | .cmpi cond d a bit imm => word 0x8 [(cond.code, 18), (d.toNat, 6), (a.toNat, 12), (bit.toNat, 21), (imm.field.toNat, 26)]
  | .mul la d a b => word 0x9 [(la.toNat, 24), (d.toNat, 6), (a.toNat, 12), (b.toNat, 18)]
  | .mulh la d a b => word 0x10000009 [(la.toNat, 24), (d.toNat, 6), (a.toNat, 12), (b.toNat, 18)]
  | .mulhu la d a b => word 0x20000009 [(la.toNat, 24), (d.toNat, 6), (a.toNat, 12), (b.toNat, 18)]
  | .mulhsn la d a b => word 0x30000009 [(la.toNat, 24), (d.toNat, 6), (a.toNat, 12), (b.toNat, 18)]
  | .div la d a b => word 0x40000009 [(la.toNat, 24), (d.toNat, 6), (a.toNat, 12), (b.toNat, 18)]
  | .divu la d a b => word 0x50000009 [(la.toNat, 24), (d.toNat, 6), (a.toNat, 12), (b.toNat, 18)]
  | .rem la d a b => word 0x60000009 [(la.toNat, 24), (d.toNat, 6), (a.toNat, 12), (b.toNat, 18)]
  | .remu la d a b => word 0x70000009 [(la.toNat, 24), (d.toNat, 6), (a.toNat, 12), (b.toNat, 18)]
  | .mulw la d a b => word 0x80000009 [(la.toNat, 24), (d.toNat, 6), (a.toNat, 12), (b.toNat, 18)]
  | .bcc cond a b imm => word 0xa [(cond.code, 18), (a.toNat, 6), (b.toNat, 12), (imm.field.toNat, 21)]
  | .bb sense a bit imm => word 0xb [(sense.toNat, 20), (a.toNat, 6), (bit.toNat, 12), (imm.field.toNat, 21)]
  | .j imm => word 0xc [(imm.toNat, 6)]
  | .jal imm => word 0xd [(imm.toNat, 6)]
  | .jalr d a imm => word 0xe [(d.toNat, 6), (a.toNat, 12), (imm.field.toNat, 18)]
  | .dbnz a imm => word 0xf [(a.toNat, 6), (imm.field.toNat, 12)]
  | .cgetoff d a => word 0x10 [(d.toNat, 6), (a.toNat, 12)]
  | .cgetbase d a => word 0x1000010 [(d.toNat, 6), (a.toNat, 12)]
  | .cgetlim d a => word 0x2000010 [(d.toNat, 6), (a.toNat, 12)]
  | .cgetperm d a => word 0x3000010 [(d.toNat, 6), (a.toNat, 12)]
  | .cgethnd d a => word 0x4000010 [(d.toNat, 6), (a.toNat, 12)]
  | .cgetgen d a => word 0x5000010 [(d.toNat, 6), (a.toNat, 12)]
  | .cgetkind d a => word 0x6000010 [(d.toNat, 6), (a.toNat, 12)]
  | .ccur d a b => word 0x8000010 [(d.toNat, 6), (a.toNat, 12), (b.toNat, 18)]
  | .cstep d a b => word 0x9000010 [(d.toNat, 6), (a.toNat, 12), (b.toNat, 18)]
  | .cnarrow d a b => word 0xa000010 [(d.toNat, 6), (a.toNat, 12), (b.toNat, 18)]
  | .cdrop d a b => word 0xb000010 [(d.toNat, 6), (a.toNat, 12), (b.toNat, 18)]
  | .ccover d a b => word 0xc000010 [(d.toNat, 6), (a.toNat, 12), (b.toNat, 18)]
  | .cuncover d a b => word 0xd000010 [(d.toNat, 6), (a.toNat, 12), (b.toNat, 18)]
  | .cplain d a => word 0xe000010 [(d.toNat, 6), (a.toNat, 12)]
  | .cprobe d a => word 0xf000010 [(d.toNat, 6), (a.toNat, 12)]
  | .cdist d a b => word 0x10000010 [(d.toNat, 6), (a.toNat, 12), (b.toNat, 18)]
  | .cinci d a imm => word 0x11 [(d.toNat, 6), (a.toNat, 12), (imm.field.toNat, 18)]
  | .walk la d a b => word 0x12 [(la.toNat, 24), (d.toNat, 6), (a.toNat, 12), (b.toNat, 18)]
  | .open_ la d a b => word 0x10000012 [(la.toNat, 24), (d.toNat, 6), (a.toNat, 12), (b.toNat, 18)]
  | .close la d a => word 0x20000012 [(la.toNat, 24), (d.toNat, 6), (a.toNat, 12)]
  | .bind la d a b => word 0x30000012 [(la.toNat, 24), (d.toNat, 6), (a.toNat, 12), (b.toNat, 18)]
  | .unbind la d a b => word 0x40000012 [(la.toNat, 24), (d.toNat, 6), (a.toNat, 12), (b.toNat, 18)]
  | .revoke la d a => word 0x50000012 [(la.toNat, 24), (d.toNat, 6), (a.toNat, 12)]
  | .stat la d a => word 0x60000012 [(la.toNat, 24), (d.toNat, 6), (a.toNat, 12)]
  | .dup la d a b => word 0x70000012 [(la.toNat, 24), (d.toNat, 6), (a.toNat, 12), (b.toNat, 18)]
  | .mknode la d a b => word 0x80000012 [(la.toNat, 24), (d.toNat, 6), (a.toNat, 12), (b.toNat, 18)]
  | .export_ la d a b => word 0x90000012 [(la.toNat, 24), (d.toNat, 6), (a.toNat, 12), (b.toNat, 18)]
  | .qpush data a => word 0x2000013 [(data.toNat, 6), (a.toNat, 12)]
  | .qpop data a => word 0x13 [(data.toNat, 6), (a.toNat, 12)]
  | .qpushNb data a preg bit => word 0x3000013 [(data.toNat, 6), (a.toNat, 12), (preg.toNat, 18), (bit.toNat, 26)]
  | .qpopNb data a preg bit => word 0x1000013 [(data.toNat, 6), (a.toNat, 12), (preg.toNat, 18), (bit.toNat, 26)]
  | .ld _ size sign la d a imm => word 0x14 [(size.code, 18), (sign.toNat, 21), (la.toNat, 22), (d.toNat, 6), (a.toNat, 12), (imm.field.toNat, 26)]
  | .st _ size s a imm => word 0x15 [(size.code, 18), (s.toNat, 6), (a.toNat, 12), (imm.field.toNat, 22)]
  | .ldx _ size sign la d a b => word 0x16 [(size.code, 18), (sign.toNat, 21), (la.toNat, 22), (d.toNat, 6), (a.toNat, 12), (b.toNat, 26)]
  | .stx _ size s a b => word 0x17 [(size.code, 18), (s.toNat, 6), (a.toNat, 12), (b.toNat, 24)]
  | .aadd _ la d a b => word 0x18 [(la.toNat, 24), (d.toNat, 6), (a.toNat, 12), (b.toNat, 18)]
  | .aand _ la d a b => word 0x10000018 [(la.toNat, 24), (d.toNat, 6), (a.toNat, 12), (b.toNat, 18)]
  | .aor _ la d a b => word 0x20000018 [(la.toNat, 24), (d.toNat, 6), (a.toNat, 12), (b.toNat, 18)]
  | .axor _ la d a b => word 0x30000018 [(la.toNat, 24), (d.toNat, 6), (a.toNat, 12), (b.toNat, 18)]
  | .amin _ la d a b => word 0x40000018 [(la.toNat, 24), (d.toNat, 6), (a.toNat, 12), (b.toNat, 18)]
  | .amax _ la d a b => word 0x50000018 [(la.toNat, 24), (d.toNat, 6), (a.toNat, 12), (b.toNat, 18)]
  | .aminu _ la d a b => word 0x60000018 [(la.toNat, 24), (d.toNat, 6), (a.toNat, 12), (b.toNat, 18)]
  | .amaxu _ la d a b => word 0x70000018 [(la.toNat, 24), (d.toNat, 6), (a.toNat, 12), (b.toNat, 18)]
  | .axchg _ la d a b => word 0x80000018 [(la.toNat, 24), (d.toNat, 6), (a.toNat, 12), (b.toNat, 18)]
  | .acas _ la d a b => word 0x90000018 [(la.toNat, 24), (d.toNat, 6), (a.toNat, 12), (b.toNat, 18)]
  | .afadd _ la d a b => word 0xa0000018 [(la.toNat, 24), (d.toNat, 6), (a.toNat, 12), (b.toNat, 18)]
  | .aincs _ la d a b => word 0xb0000018 [(la.toNat, 24), (d.toNat, 6), (a.toNat, 12), (b.toNat, 18)]
  | .fence scope kind => word 0x19 [(scope.code, 14), (kind.code, 12)]
  | .hfence a => word 0x4000019 [(a.toNat, 6)]
  | .lda size la d a scope => word 0x1a [(size.code, 18), (la.toNat, 24), (d.toNat, 6), (a.toNat, 12), (scope.code, 21)]
  | .stl size s a scope => word 0x1b [(size.code, 18), (s.toNat, 6), (a.toNat, 12), (scope.code, 21)]
  | .pref a => word 0x1c [(a.toNat, 12)]
  | .clwb a => word 0x400001c [(a.toNat, 12)]
  | .clinv a => word 0x800001c [(a.toNat, 12)]
  | .clzero a => word 0xc00001c [(a.toNat, 12)]
  | .stashfl a => word 0x1000001c [(a.toNat, 12)]
  | .stashinv a => word 0x1400001c [(a.toNat, 12)]
  | .barinit a b => word 0x1d [(a.toNat, 12), (b.toNat, 18)]
  | .bararv d a => word 0x100001d [(d.toNat, 6), (a.toNat, 12)]
  | .barexp a b => word 0x200001d [(a.toNat, 12), (b.toNat, 18)]
  | .barwait d a b => word 0x300001d [(d.toNat, 6), (a.toNat, 12), (b.toNat, 18)]
  | .bartest d a b => word 0x400001d [(d.toNat, 6), (a.toNat, 12), (b.toNat, 18)]
  | .barpois a => word 0x500001d [(a.toNat, 12)]
  | .gangbar d => word 0x600001d [(d.toNat, 6)]
  | .spanbar d => word 0x700001d [(d.toNat, 6)]
  | .barrd d a => word 0x800001d [(d.toNat, 6), (a.toNat, 12)]
  | .spawn d a b => word 0x1e [(d.toNat, 6), (a.toNat, 12), (b.toNat, 18)]
  | .retire a => word 0x100001e [(a.toNat, 12)]
  | .yield => word 0x200001e []
  | .sleep d a => word 0x300001e [(d.toNat, 6), (a.toNat, 12)]
  | .wake d a => word 0x400001e [(d.toNat, 6), (a.toNat, 12)]
  | .self d => word 0x500001e [(d.toNat, 6)]
  | .hpush a b => word 0x600001e [(a.toNat, 12), (b.toNat, 18)]
  | .hpop d a => word 0x700001e [(d.toNat, 6), (a.toNat, 12)]
  | .evpost d a b => word 0x800001e [(d.toNat, 6), (a.toNat, 12), (b.toNat, 18)]
  | .evwait d a => word 0x900001e [(d.toNat, 6), (a.toNat, 12)]
  | .signal d a b => word 0xa00001e [(d.toNat, 6), (a.toNat, 12), (b.toNat, 18)]
  | .htry d a => word 0xb00001e [(d.toNat, 6), (a.toNat, 12)]
  | .enq la d a b => word 0x1f [(la.toNat, 24), (d.toNat, 6), (a.toNat, 12), (b.toNat, 18)]
  | .jwait d a b => word 0x1000001f [(d.toNat, 6), (a.toNat, 12), (b.toNat, 18)]
  | .jtest la d a b => word 0x2000001f [(la.toNat, 24), (d.toNat, 6), (a.toNat, 12), (b.toNat, 18)]
  | .jstat la d a => word 0x3000001f [(la.toNat, 24), (d.toNat, 6), (a.toNat, 12)]
  | .aswap la d a b => word 0x4000001f [(la.toNat, 24), (d.toNat, 6), (a.toNat, 12), (b.toNat, 18)]
  | .jcancel la d a b => word 0x5000001f [(la.toNat, 24), (d.toNat, 6), (a.toNat, 12), (b.toNat, 18)]
  | .vadd lane mask d a b => word 0x20 [(lane.code, 27), (mask.toNat, 24), (d.toNat, 6), (a.toNat, 12), (b.toNat, 18)]
  | .vsub lane mask d a b => word 0x40000020 [(lane.code, 27), (mask.toNat, 24), (d.toNat, 6), (a.toNat, 12), (b.toNat, 18)]
  | .vmul lane mask d a b => word 0x80000020 [(lane.code, 27), (mask.toNat, 24), (d.toNat, 6), (a.toNat, 12), (b.toNat, 18)]
  | .vfma lane mask d a b => word 0xc0000020 [(lane.code, 27), (mask.toNat, 24), (d.toNat, 6), (a.toNat, 12), (b.toNat, 18)]
  | .vmin lane mask d a b => word 0x21 [(lane.code, 27), (mask.toNat, 24), (d.toNat, 6), (a.toNat, 12), (b.toNat, 18)]
  | .vmax lane mask d a b => word 0x40000021 [(lane.code, 27), (mask.toNat, 24), (d.toNat, 6), (a.toNat, 12), (b.toNat, 18)]
  | .vabs lane mask d a => word 0x80000021 [(lane.code, 27), (mask.toNat, 24), (d.toNat, 6), (a.toNat, 12)]
  | .vneg lane mask d a => word 0xc0000021 [(lane.code, 27), (mask.toNat, 24), (d.toNat, 6), (a.toNat, 12)]
  | .vand lane mask d a b => word 0x22 [(lane.code, 27), (mask.toNat, 24), (d.toNat, 6), (a.toNat, 12), (b.toNat, 18)]
  | .vor lane mask d a b => word 0x40000022 [(lane.code, 27), (mask.toNat, 24), (d.toNat, 6), (a.toNat, 12), (b.toNat, 18)]
  | .vxor lane mask d a b => word 0x80000022 [(lane.code, 27), (mask.toNat, 24), (d.toNat, 6), (a.toNat, 12), (b.toNat, 18)]
  | .vandn lane mask d a b => word 0xc0000022 [(lane.code, 27), (mask.toNat, 24), (d.toNat, 6), (a.toNat, 12), (b.toNat, 18)]
  | .vsll lane mask d a b => word 0x23 [(lane.code, 27), (mask.toNat, 24), (d.toNat, 6), (a.toNat, 12), (b.toNat, 18)]
  | .vsrl lane mask d a b => word 0x40000023 [(lane.code, 27), (mask.toNat, 24), (d.toNat, 6), (a.toNat, 12), (b.toNat, 18)]
  | .vsra lane mask d a b => word 0x80000023 [(lane.code, 27), (mask.toNat, 24), (d.toNat, 6), (a.toNat, 12), (b.toNat, 18)]
  | .vmulh lane mask d a b => word 0xc0000023 [(lane.code, 27), (mask.toNat, 24), (d.toNat, 6), (a.toNat, 12), (b.toNat, 18)]
  | .vdiv ty la d a b => word 0x24 [(ty.code, 24), (la.toNat, 26), (d.toNat, 6), (a.toNat, 12), (b.toNat, 18)]
  | .vsqrt ty la d a => word 0x40000024 [(ty.code, 24), (la.toNat, 26), (d.toNat, 6), (a.toNat, 12)]
  | .vidiv ty la d a b => word 0x80000024 [(ty.code, 24), (la.toNat, 26), (d.toNat, 6), (a.toNat, 12), (b.toNat, 18)]
  | .virem ty la d a b => word 0xc0000024 [(ty.code, 24), (la.toNat, 26), (d.toNat, 6), (a.toNat, 12), (b.toNat, 18)]
  | .vcmpeq lane mask d a b => word 0x25 [(lane.code, 27), (mask.toNat, 24), (d.toNat, 6), (a.toNat, 12), (b.toNat, 18)]
  | .vcmplt lane mask d a b => word 0x40000025 [(lane.code, 27), (mask.toNat, 24), (d.toNat, 6), (a.toNat, 12), (b.toNat, 18)]
  | .vcmple lane mask d a b => word 0x80000025 [(lane.code, 27), (mask.toNat, 24), (d.toNat, 6), (a.toNat, 12), (b.toNat, 18)]
  | .vcmpun lane mask d a b => word 0xc0000025 [(lane.code, 27), (mask.toNat, 24), (d.toNat, 6), (a.toNat, 12), (b.toNat, 18)]
  | .vcvt lane target mask d a => word 0x26 [(lane.code, 27), (target.code, 18), (mask.toNat, 24), (d.toNat, 6), (a.toNat, 12)]
  | .vcvtz lane target mask d a => word 0x40000026 [(lane.code, 27), (target.code, 18), (mask.toNat, 24), (d.toNat, 6), (a.toNat, 12)]
  | .vcvts lane target mask d a => word 0x80000026 [(lane.code, 27), (target.code, 18), (mask.toNat, 24), (d.toNat, 6), (a.toNat, 12)]
  | .vcvtr lane target mask d a => word 0xc0000026 [(lane.code, 27), (target.code, 18), (mask.toNat, 24), (d.toNat, 6), (a.toNat, 12)]
  | .vshuf lane mask d a b => word 0x27 [(lane.code, 27), (mask.toNat, 24), (d.toNat, 6), (a.toNat, 12), (b.toNat, 18)]
  | .vbcast lane mask d a b => word 0x40000027 [(lane.code, 27), (mask.toNat, 24), (d.toNat, 6), (a.toNat, 12), (b.toNat, 18)]
  | .vslide lane mask d a b => word 0x80000027 [(lane.code, 27), (mask.toNat, 24), (d.toNat, 6), (a.toNat, 12), (b.toNat, 18)]
  | .vzip lane mask d a b => word 0xc0000027 [(lane.code, 27), (mask.toNat, 24), (d.toNat, 6), (a.toNat, 12), (b.toNat, 18)]
  | .vrsum lane mask d a => word 0x28 [(lane.code, 27), (mask.toNat, 24), (d.toNat, 6), (a.toNat, 12)]
  | .vrmax lane mask d a => word 0x40000028 [(lane.code, 27), (mask.toNat, 24), (d.toNat, 6), (a.toNat, 12)]
  | .vrmin lane mask d a => word 0x80000028 [(lane.code, 27), (mask.toNat, 24), (d.toNat, 6), (a.toNat, 12)]
  | .vrdot lane mask d a b => word 0xc0000028 [(lane.code, 27), (mask.toNat, 24), (d.toNat, 6), (a.toNat, 12), (b.toNat, 18)]
  | .vmaxw lane mask d a b => word 0x29 [(lane.code, 27), (mask.toNat, 24), (d.toNat, 6), (a.toNat, 12), (b.toNat, 18)]
  | .vminw lane mask d a b => word 0x40000029 [(lane.code, 27), (mask.toNat, 24), (d.toNat, 6), (a.toNat, 12), (b.toNat, 18)]
  | .vclmpw lane mask d a b => word 0x80000029 [(lane.code, 27), (mask.toNat, 24), (d.toNat, 6), (a.toNat, 12), (b.toNat, 18)]
  | .vadjb lane mask d a b => word 0xc0000029 [(lane.code, 27), (mask.toNat, 24), (d.toNat, 6), (a.toNat, 12), (b.toNat, 18)]
  | .vgath esz la d a b => word 0x2a [(esz.code, 24), (la.toNat, 26), (d.toNat, 6), (a.toNat, 12), (b.toNat, 18)]
  | .vscat esz s a b => word 0x4000002a [(esz.code, 24), (s.toNat, 6), (a.toNat, 12), (b.toNat, 18)]
  | .vlds esz la d a b => word 0x8000002a [(esz.code, 24), (la.toNat, 26), (d.toNat, 6), (a.toNat, 12), (b.toNat, 18)]
  | .vsts esz s a b => word 0xc000002a [(esz.code, 24), (s.toNat, 6), (a.toNat, 12), (b.toNat, 18)]
  | .vsel lane mask d a b => word 0x2b [(lane.code, 27), (mask.toNat, 24), (d.toNat, 6), (a.toNat, 12), (b.toNat, 18)]
  | .viota lane mask d => word 0x4000002b [(lane.code, 27), (mask.toNat, 24), (d.toNat, 6)]
  | .vdup lane mask d a => word 0x8000002b [(lane.code, 27), (mask.toNat, 24), (d.toNat, 6), (a.toNat, 12)]
  | .vext lane d a b => word 0xc000002b [(lane.code, 27), (d.toNat, 6), (a.toNat, 12), (b.toNat, 18)]
  | .ctlr d num => word 0x2c [(d.toNat, 6), (num.toNat, 12)]
  | .ctlw s num => word 0x100002c [(s.toNat, 6), (num.toNat, 12)]
  | .ctls s num => word 0x200002c [(s.toNat, 6), (num.toNat, 12)]
  | .ctlc s num => word 0x300002c [(s.toNat, 6), (num.toNat, 12)]
  | .trap imm => word 0x2d [(imm.toNat, 12)]
  | .eret => word 0x100002d []
  | .phint a b => word 0x200002d [(a.toNat, 12), (b.toNat, 18)]
  | .save d a b => word 0x300002d [(d.toNat, 6), (a.toNat, 12), (b.toNat, 18)]
  | .resume d a b => word 0x400002d [(d.toNat, 6), (a.toNat, 12), (b.toNat, 18)]
  | .freeze d a => word 0x500002d [(d.toNat, 6), (a.toNat, 12)]
  | .thaw d a b => word 0x600002d [(d.toNat, 6), (a.toNat, 12), (b.toNat, 18)]
  | .waitev d a => word 0x700002d [(d.toNat, 6), (a.toNat, 12)]
  | .bkpt => word 0x800002d []
  | .kill d a b => word 0x900002d [(d.toNat, 6), (a.toNat, 12), (b.toNat, 18)]
  | .xgo d a b => word 0x2e [(d.toNat, 6), (a.toNat, 12), (b.toNat, 18)]
  | .xstat d a => word 0x100002e [(d.toNat, 6), (a.toNat, 12)]
  | .sumcol d a b => word 0x200002e [(d.toNat, 6), (a.toNat, 12), (b.toNat, 18)]
  | _ => none

/-- The H of the instruction's EXT prefix, if it has one (R71). -/
def Instr.ext : Instr → Option (BitVec 26)
  | .addi _ _ imm | .jalr _ _ imm | .cinci _ _ imm => imm.ext
  | .andi _ _ imm | .ori _ _ imm | .xori _ _ imm | .addwi _ _ imm => imm.ext
  | .cmpi _ _ _ _ imm => imm.ext
  | .bcc _ _ _ imm => imm.ext
  | .bb _ _ _ imm => imm.ext
  | .dbnz _ imm => imm.ext
  | .ld _ _ _ _ _ _ imm => imm.ext
  | .st _ _ _ _ imm => imm.ext
  | _ => none

/-- The order, scope and size that the instruction's QUAL carries; none where the defaults need no QUAL (R73, R74). -/
def Instr.qualFields : Instr → Option (Order × Scope × Bool)
  | .ld o _ _ _ _ _ _ | .st o _ _ _ _ | .ldx o _ _ _ _ _ _ | .stx o _ _ _ _ =>
    if o = {} then none else some (o.order, o.scope, false)
  | .aadd o _ _ _ _ | .aand o _ _ _ _ | .aor o _ _ _ _ | .axor o _ _ _ _ | .amin o _ _ _ _ | .amax o _ _ _ _
  | .aminu o _ _ _ _ | .amaxu o _ _ _ _ | .axchg o _ _ _ _ | .acas o _ _ _ _ | .afadd o _ _ _ _
  | .aincs o _ _ _ _ => if o = {} then none else some (o.order, o.scope, o.w32)
  | _ => none

/-- ATOM, whose QUAL always carries order and scope (R74). -/
def Instr.isAtom : Instr → Bool
  | .aadd .. | .aand .. | .aor .. | .axor .. | .amin .. | .amax .. | .aminu .. | .amaxu .. | .axchg .. | .acas ..
  | .afadd .. | .aincs .. => true
  | _ => false

/-- The guard's bits of a QUAL word (R72). -/
def Guard.bits : Option Guard → Nat
  | none => 0
  | some g => g.reg.toNat * 2 ^ 6 + g.bit.toNat * 2 ^ 12 + g.sense.toNat * 2 ^ 20 + 2 ^ 21

/-- The QUAL word of a unit, if it needs one (R72 to R74). -/
def IUnit.qualWord (u : IUnit) : Option Nat :=
  match u.instr.qualFields, u.guard with
  | none, none => none
  | some (o, s, z), g => some (0x3E + Guard.bits g + o.code * 2 ^ 22 + s.code * 2 ^ 24 + z.toNat * 2 ^ 27)
  | none, some g =>
    some (0x3E + Guard.bits (some g) + (if u.instr.isAtom then Scope.pkg.code * 2 ^ 24 else 0))

/-- The encoder: the words of a unit in address order, none for a machine step. -/
def encodeUnit (u : IUnit) : Option (List Nat) :=
  (encodeWord u.instr).map fun w =>
    u.qualWord.toList ++ (u.instr.ext.map fun h => 0x3F + h.toNat * 2 ^ 6).toList ++ [w]

/-- The words of an instruction that stands without a guard. -/
def encode (i : Instr) : Option (List Nat) := encodeUnit ⟨none, i⟩

/-- The bytes of words as the hardware stores them (R2, R65). -/
def wordBytes (ws : List Nat) : List Byte :=
  ws.flatMap fun w => [.ofNat 8 w, .ofNat 8 (w / 2 ^ 8), .ofNat 8 (w / 2 ^ 16), .ofNat 8 (w / 2 ^ 24)]

end Sys2Proof
end

