-- ==== Sys2Proof/Machine/Numbers.lean ====
section
/-!
DEFINITION. Sys2Proof/Machine/Numbers.lean: the element types of R88, exact values, rounding and conversion (R91 to
R93, R456), the cx8 code (R94 to R97) and the packing of blocks into planes (R98 to R103). Arithmetic is exact on
dyadic numbers and is rounded once, where the manual rounds.
-/
namespace Sys2Proof

/-- The value of `n` bits of `v` as a two's-complement integer. -/
def sextInt (v n : Nat) : Int := if v % 2 ^ n < 2 ^ (n - 1) then (v % 2 ^ n : Nat) else (v % 2 ^ n : Nat) - 2 ^ n

/-- The low `n` bits of an integer. -/
def wrapNat (v : Int) (n : Nat) : Nat := (v % 2 ^ n).toNat

/-- Bytes of each size code (R70). -/
def MemSize.bytes : MemSize → Nat
  | .b8 => 1 | .b16 => 2 | .b32 => 4 | .b64 => 8 | .b128 => 16 | .b256 | .cap => 32

/-- The events that one element meets, bit i for counter nec.i (R108). -/
abbrev Ev := BitVec 8

/-- inexact -/
def evInexact : Ev := 0x01
/-- overflow -/
def evOverflow : Ev := 0x02
/-- flush-to-zero -/
def evFlush : Ev := 0x04
/-- NaN produced -/
def evNan : Ev := 0x08
/-- invalid -/
def evInvalid : Ev := 0x10
/-- saturation -/
def evSat : Ev := 0x20
/-- plane truncation -/
def evTrunc : Ev := 0x40
/-- integer divide by zero -/
def evDivZero : Ev := 0x80

/-- An event that occurs under a condition. -/
def evIf (b : Bool) (e : Ev) : Ev := if b then e else 0

/-- Per counter, the number of elements in which its event occurred (R108). -/
def evCounts (evs : List Ev) : List Nat := (List.range 8).map fun i => evs.countP fun e => e.getLsbD i

/-- Rounding modes (R91, R92). -/
inductive Rounding where
  | rne | rz | rd | ru
deriving DecidableEq, Repr

/-- `RM` of fpctl (R92). -/
def Rounding.ofCode : Nat → Rounding
  | 0 => .rne | 1 => .rz | 2 => .rd | _ => .ru

/-- An exact value: NaN (`true`: signalling), an infinity, or (-1)^neg * m * 2^e. -/
inductive Num where
  | nan (signalling : Bool)
  | inf (neg : Bool)
  | fin (neg : Bool) (m : Nat) (e : Int)
deriving DecidableEq, Repr

/-- The exact value of an integer. -/
def Num.ofInt (v : Int) : Num := .fin (v < 0) v.natAbs 0

/-- What a floating format has besides finite values (R88). -/
inductive Specials where
  | ieee | nanOnly | none
deriving DecidableEq, Repr

/-- A floating format: exponent bits, fraction bits, bias (R88). -/
structure Fmt where
  eb : Nat
  fb : Nat
  bias : Nat
  special : Specials
deriving DecidableEq, Repr

/-- The floating formats of R88. -/
def ElemType.fmt : ElemType → Option Fmt
  | .e2m1 => some ⟨2, 1, 1, .none⟩
  | .e5m2 => some ⟨5, 2, 15, .ieee⟩
  | .e4m3 => some ⟨4, 3, 7, .nanOnly⟩
  | .bf16 => some ⟨8, 7, 127, .ieee⟩
  | .f16 => some ⟨5, 10, 15, .ieee⟩
  | .f32 => some ⟨8, 23, 127, .ieee⟩
  | .f64 => some ⟨11, 52, 1023, .ieee⟩
  | .b1 | .s4 | .s8 | .s16 | .s32 | .s64 | .n8 | .n16 | .n32 | .n64 | .cx8 => none

/-- Width of one element in bits; a cx8 element is a byte of its block (R88, R103). -/
def ElemType.bits : ElemType → Nat
  | .b1 => 1
  | .s4 | .e2m1 => 4
  | .s8 | .n8 | .e5m2 | .e4m3 | .cx8 => 8
  | .s16 | .n16 | .bf16 | .f16 => 16
  | .s32 | .n32 | .f32 => 32
  | .s64 | .n64 | .f64 => 64

/-- A signed integer type. -/
def ElemType.isSigned : ElemType → Bool
  | .s4 | .s8 | .s16 | .s32 | .s64 => true
  | .b1 | .n8 | .n16 | .n32 | .n64 | .e2m1 | .e5m2 | .e4m3 | .cx8 | .bf16 | .f16 | .f32 | .f64 => false

/-- An integer type, b1 among them. -/
def ElemType.isInt : ElemType → Bool
  | .b1 | .s4 | .s8 | .s16 | .s32 | .s64 | .n8 | .n16 | .n32 | .n64 => true
  | .e2m1 | .e5m2 | .e4m3 | .cx8 | .bf16 | .f16 | .f32 | .f64 => false

/-- The name of a type in a path or an operand (R88). -/
def ElemType.name : ElemType → String
  | .b1 => "b1" | .s4 => "s4" | .s8 => "s8" | .s16 => "s16" | .s32 => "s32" | .s64 => "s64"
  | .n8 => "n8" | .n16 => "n16" | .n32 => "n32" | .n64 => "n64" | .e2m1 => "e2m1" | .e5m2 => "e5m2"
  | .e4m3 => "e4m3" | .cx8 => "cx8" | .bf16 => "bf16" | .f16 => "f16" | .f32 => "f32" | .f64 => "f64"

/-- Width of a format. -/
def Fmt.width (f : Fmt) : Nat := 1 + f.eb + f.fb

/-- The exponent of the largest binade. -/
def Fmt.emax (f : Fmt) : Int := (2 ^ f.eb : Nat) - (if f.special = .ieee then 2 else 1) - f.bias

/-- The significand of the largest finite magnitude, times 2^(emax - fb). -/
def Fmt.maxSig (f : Fmt) : Nat := 2 ^ (f.fb + 1) - (if f.special = .nanOnly then 2 else 1)

/-- The exponent of the least subnormal. -/
def Fmt.emin (f : Fmt) : Int := 1 - f.bias - f.fb

/-- The bits of the largest finite magnitude. -/
def Fmt.maxBits (f : Fmt) (neg : Bool) : Nat :=
  (f.maxSig - 2 ^ f.fb) + (f.emax + f.bias).toNat * 2 ^ f.fb + neg.toNat * 2 ^ (f.eb + f.fb)

/-- The bits of an infinity. -/
def Fmt.infBits (f : Fmt) (neg : Bool) : Nat := (2 ^ f.eb - 1) * 2 ^ f.fb + neg.toNat * 2 ^ (f.eb + f.fb)

/-- The canonical NaN (R90): 0x7F in e4m3, the quiet NaN with a clear payload elsewhere. -/
def Fmt.nanBits (f : Fmt) : Nat :=
  if f.special = .nanOnly then (2 ^ f.eb - 1) * 2 ^ f.fb + (2 ^ f.fb - 1)
  else (2 ^ f.eb - 1) * 2 ^ f.fb + 2 ^ (f.fb - 1)

/-- The value of bits in a format (R88). -/
def Fmt.decode (f : Fmt) (b : Nat) : Num :=
  let frac := bitsOf b 0 f.fb
  let ex := bitsOf b f.fb f.eb
  let neg := bitsOf b (f.fb + f.eb) 1 == 1
  if f.special = .ieee ∧ ex = 2 ^ f.eb - 1 then
    if frac = 0 then .inf neg else .nan (bitsOf b (f.fb - 1) 1 == 0)
  else if f.special = .nanOnly ∧ ex = 2 ^ f.eb - 1 ∧ frac = 2 ^ f.fb - 1 then .nan false
  else if ex = 0 then .fin neg frac f.emin
  else .fin neg (2 ^ f.fb + frac) (f.emin + (ex - 1 : Nat))

/-- Subnormal bits: exponent field 0, fraction not 0. -/
def Fmt.isSubnormal (f : Fmt) (b : Nat) : Bool := bitsOf b f.fb f.eb == 0 && bitsOf b 0 f.fb != 0

/-- m * 2^e rounded to a multiple of 2^q: the multiple and whether anything was lost (R91). -/
def roundQuantum (rm : Rounding) (neg : Bool) (m : Nat) (e q : Int) : Nat × Bool :=
  if q ≤ e then (m * 2 ^ (e - q).toNat, false)
  else
    let sh := (q - e).toNat
    let k := m / 2 ^ sh
    let r := m % 2 ^ sh
    let up : Bool := match rm with
      | .rne => decide (2 ^ (sh - 1) < r) || (decide (r = 2 ^ (sh - 1)) && k % 2 == 1)
      | .rz => false
      | .rd => neg && r != 0
      | .ru => !neg && r != 0
    (if up then k + 1 else k, r != 0)

/-- Compare |m1 * 2^e1| < |m2 * 2^e2|. -/
def magLt (m1 : Nat) (e1 : Int) (m2 : Nat) (e2 : Int) : Bool :=
  let e := min e1 e2
  m1 * 2 ^ (e1 - e).toNat < m2 * 2 ^ (e2 - e).toNat

/-- floor(log2(m * 2^e)) for m ≠ 0. -/
def magLog2 (m : Nat) (e : Int) : Int := m.log2 + e

/-- The bits of k * 2^q in a format, where that value is representable. -/
def Fmt.encodeFin (f : Fmt) (neg : Bool) (k : Nat) (q : Int) : Nat :=
  let s := neg.toNat * 2 ^ (f.eb + f.fb)
  if k = 0 then s
  else
    let l := magLog2 k q
    if l < 1 - (f.bias : Int) then s + k * 2 ^ (q - f.emin).toNat
    else
      let sig := if q ≤ l - f.fb then k / 2 ^ ((l - f.fb - q).toNat) else k * 2 ^ (q - (l - f.fb)).toNat
      s + (l + f.bias).toNat * 2 ^ f.fb + (sig - 2 ^ f.fb)

/-- The largest finite magnitude or an infinity, as IEEE 754 gives for an overflow in a mode (R93). -/
def Fmt.overflowBits (f : Fmt) (rm : Rounding) (neg : Bool) : Nat :=
  let toInf : Bool := match rm with
    | .rne => true
    | .rz => false
    | .rd => neg
    | .ru => !neg
  if toInf then f.infBits neg else f.maxBits neg

/-- Round a value into a floating format: bits and events (R91, R93, R456). `sat`: the form saturates. -/
def Fmt.round (f : Fmt) (rm : Rounding) (sat : Bool) (x : Num) : Nat × Ev :=
  match x with
  | .nan s =>
    if f.special = .none then (0, evInvalid) else (f.nanBits, evNan ||| evIf s evInvalid)
  | .inf neg =>
    match f.special with
    | .none => (f.maxBits neg, evSat)
    | .ieee => if sat then (f.maxBits neg, evSat) else (f.infBits neg, 0)
    | .nanOnly => if sat then (f.maxBits neg, evSat) else (f.nanBits, evInvalid ||| evNan)
  | .fin neg 0 _ => (neg.toNat * 2 ^ (f.eb + f.fb), 0)
  | .fin neg m e =>
    let q0 := magLog2 m e - f.fb
    let (k0, _) := roundQuantum rm neg m e q0
    if magLt f.maxSig (f.emax - f.fb) k0 q0 then
      if sat || f.special == .none then (f.maxBits neg, evSat ||| evInexact)
      else if f.special = .nanOnly then (f.nanBits, evOverflow ||| evInexact ||| evNan)
      else (f.overflowBits rm neg, evOverflow ||| evInexact)
    else
      let q := max q0 f.emin
      let (k, lost) := roundQuantum rm neg m e q
      (f.encodeFin neg k q, evIf lost evInexact)

/-- The least value of an integer type. -/
def ElemType.lo (t : ElemType) : Int := if t.isSigned then -(2 ^ (t.bits - 1) : Nat) else 0
/-- The greatest value of an integer type. -/
def ElemType.hi (t : ElemType) : Int := if t.isSigned then (2 ^ (t.bits - 1) : Nat) - 1 else (2 ^ t.bits : Nat) - 1

/-- Convert a value into an integer type, which always saturates (R93, R266, R456). A negative value into an n type
gives 0 and counts a saturation (R266), and also counts inexact where its magnitude is beyond Max (R456). -/
def ElemType.roundInt (t : ElemType) (rm : Rounding) (x : Num) : Nat × Ev :=
  match x with
  | .nan _ => (0, evInvalid)
  | .inf neg => if t = .b1 then (1, 0) else (wrapNat (if neg then t.lo else t.hi) t.bits, evSat)
  | .fin neg m e =>
    if t = .b1 then (if m = 0 then 0 else 1, 0)
    else
      let (k, lost) := roundQuantum rm neg m e 0
      let v : Int := if neg then -(k : Int) else k
      if neg && m != 0 && !t.isSigned then (0, evSat ||| evIf (decide (t.hi < k)) evInexact)
      else if v < t.lo then (wrapNat t.lo t.bits, evSat ||| evInexact)
      else if t.hi < v then (wrapNat t.hi t.bits, evSat ||| evInexact)
      else (wrapNat v t.bits, evIf lost evInexact)

/-- Convert a value into an element type other than cx8 (R93, R456). -/
def ElemType.round (t : ElemType) (rm : Rounding) (sat : Bool) (x : Num) : Nat × Ev :=
  match t.fmt with
  | some f => f.round rm sat x
  | none => t.roundInt rm x

/-- The value of an element's bits, for every type but cx8 (R88). -/
def ElemType.decode (t : ElemType) (b : Nat) : Num :=
  match t.fmt with
  | some f => f.decode b
  | none => .ofInt (if t.isSigned then sextInt b t.bits else (b % 2 ^ t.bits : Nat))

/-- A value's sign. -/
def Num.neg? : Num → Bool
  | .nan _ => false
  | .inf n => n
  | .fin n _ _ => n

/-- The value with its sign inverted. -/
def Num.negate : Num → Num
  | .nan s => .nan s
  | .inf n => .inf (!n)
  | .fin n m e => .fin (!n) m e

/-- A NaN. -/
def Num.isNan : Num → Bool
  | .nan _ => true
  | .inf _ | .fin _ _ _ => false

/-- A signalling NaN counts as invalid wherever it is read (R90). -/
def Num.sigEv : Num → Ev
  | .nan s => evIf s evInvalid
  | .inf _ | .fin _ _ _ => 0

/-- A zero of either sign. -/
def Num.isZero : Num → Bool
  | .fin _ m _ => m == 0
  | .nan _ | .inf _ => false

/-- Neither NaN nor infinite. -/
def Num.isFinite : Num → Bool
  | .fin _ _ _ => true
  | .nan _ | .inf _ => false

/-- The sum of two values, exact; a zero sum of opposite signs is +0, or -0 under RD (IEEE 754). -/
def Num.add (rm : Rounding) (x y : Num) : Num × Ev :=
  match x, y with
  | .nan a, .nan b => (.nan false, evIf (a || b) evInvalid)
  | .nan a, _ => (.nan false, evIf a evInvalid)
  | _, .nan b => (.nan false, evIf b evInvalid)
  | .inf a, .inf b => if a = b then (.inf a, 0) else (.nan false, evInvalid)
  | .inf a, _ => (.inf a, 0)
  | _, .inf b => (.inf b, 0)
  | .fin a m e, .fin b n g =>
    let q := min e g
    let v : Int := (if a then -1 else 1) * (m * 2 ^ (e - q).toNat : Nat)
      + (if b then -1 else 1) * (n * 2 ^ (g - q).toNat : Nat)
    if v = 0 then (.fin (if a = b then a else rm == .rd) 0 0, 0) else (.fin (v < 0) v.natAbs q, 0)

/-- The product of two values, exact. -/
def Num.mul (x y : Num) : Num × Ev :=
  match x, y with
  | .nan a, .nan b => (.nan false, evIf (a || b) evInvalid)
  | .nan a, _ => (.nan false, evIf a evInvalid)
  | _, .nan b => (.nan false, evIf b evInvalid)
  | .inf a, z => if z.isZero then (.nan false, evInvalid) else (.inf (a != z.neg?), 0)
  | z, .inf b => if z.isZero then (.nan false, evInvalid) else (.inf (b != z.neg?), 0)
  | .fin a m e, .fin b n g => (.fin (a != b) (m * n) (e + g), 0)

/-- c + x * y, exact. An invalid product counts, but where c is a quiet NaN IEEE 754 leaves it to the implementation
whether zero times infinity is invalid (log entry 56). -/
def Num.fma (rm : Rounding) (c x y : Num) : Num × Ev :=
  let (p, e1) := x.mul y
  let (r, e2) := c.add rm p
  let open_ := c == .nan false && !x.isNan && !y.isNan && p.isNan
  (r, (if open_ then evIf Config.fmaInvalid evInvalid else e1) ||| e2)

/-- The quotient of two values; a finite inexact quotient carries a sticky last bit below any rounding position. -/
def Num.div (x y : Num) : Num × Ev :=
  match x, y with
  | .nan a, .nan b => (.nan false, evIf (a || b) evInvalid)
  | .nan a, _ => (.nan false, evIf a evInvalid)
  | _, .nan b => (.nan false, evIf b evInvalid)
  | .inf _, .inf _ => (.nan false, evInvalid)
  | .inf a, .fin b _ _ => (.inf (a != b), 0)
  | .fin a _ _, .inf b => (.fin (a != b) 0 0, 0)
  | .fin a m e, .fin b n g =>
    if n = 0 then (if m = 0 then (.nan false, evInvalid) else (.inf (a != b), 0))
    else
      let sh := 128 + n.log2
      let q := m * 2 ^ sh / n
      let sticky := if m * 2 ^ sh % n = 0 then 0 else 1
      (.fin (a != b) (2 * q + sticky) (e - g - sh - 1), 0)

/-- Integer square root by bisection on `n` bits. -/
def isqrt (v : Nat) : Nat → Nat → Nat
  | 0, r => r
  | n + 1, r => isqrt v n (if (r + 2 ^ n) * (r + 2 ^ n) ≤ v then r + 2 ^ n else r)

/-- The square root; an inexact root carries a sticky last bit (R262). -/
def Num.sqrt (x : Num) : Num × Ev :=
  match x with
  | .nan a => (.nan false, evIf a evInvalid)
  | .inf neg => if neg then (.nan false, evInvalid) else (.inf false, 0)
  | .fin neg m e =>
    if m = 0 then (.fin neg 0 0, 0)
    else if neg then (.nan false, evInvalid)
    else
      let odd := (e % 2).toNat
      let v := m * 2 ^ (odd + 160)
      let r := isqrt v (v.log2 / 2 + 1) 0
      let sticky := if r * r = v then 0 else 1
      (.fin false (2 * r + sticky) ((e - odd - 160) / 2 - 1), 0)

/-- x < y on values that are not NaN; zeros of either sign are equal. -/
def Num.lt (x y : Num) : Bool :=
  match x, y with
  | .nan _, _ | _, .nan _ => false
  | .inf a, .inf b => a && !b
  | .inf a, .fin _ _ _ => a
  | .fin _ _ _, .inf b => !b
  | .fin a m e, .fin b n g =>
    let q := min e g
    let v : Int := (if a then -1 else 1) * (m * 2 ^ (e - q).toNat : Nat)
    let w : Int := (if b then -1 else 1) * (n * 2 ^ (g - q).toNat : Nat)
    v < w

/-- x = y on values that are not NaN. -/
def Num.eq (x y : Num) : Bool := !x.isNan && !y.isNan && !x.lt y && !y.lt x

/-- The smaller, with -0 below +0, NaN if either is NaN (R261). -/
def Num.min (x y : Num) : Num :=
  if x.isNan || y.isNan then .nan false
  else if x.lt y then x else if y.lt x then y else if x.neg? then x else y

/-- The larger, with +0 above -0, NaN if either is NaN (R261). -/
def Num.max (x y : Num) : Num :=
  if x.isNan || y.isNan then .nan false
  else if x.lt y then y else if y.lt x then x else if x.neg? then y else x

/-- The exact values are the same number (zeros of either sign are). -/
def Num.same (x y : Num) : Bool := x.isNan && y.isNan || x.eq y

/-! ### cx8 (R94 to R97) -/

/-- The token of δ in a table: the shortest, most significant bit first; the escape form where no shorter one exists
(R95). -/
def cxToken (tbl : Nat) (delta : Nat) : List Bool :=
  let dddd : List Bool := [8, 4, 2, 1].map fun k => delta / k % 2 == 1
  match tbl, delta with
  | 0, 0 => [false]
  | 0, 1 => [true, false]
  | 1, 0 => [false, false]
  | 1, 1 => [false, true]
  | 1, 2 => [true, false]
  | 2, 0 => [false, false]
  | 2, 1 => [false, true]
  | 2, 2 => [true, false, false]
  | 2, 3 => [true, false, true]
  | 3, _ => false :: dddd
  | _, _ => [true, true, true] ++ dddd

/-- The token of a zero element (R95). -/
def cxZeroToken (tbl : Nat) : List Bool := if tbl = 3 then [true] else [true, true, false]

/-- δ of the four bits of an escape. -/
def cxNibble : List Bool → Option (Nat × List Bool)
  | a :: b :: c :: d :: rest => some (8 * a.toNat + 4 * b.toNat + 2 * c.toNat + d.toNat, rest)
  | _ => none

/-- The next token of a stream: a zero element (`none`) or a δ (R95). -/
def cxRead (tbl : Nat) : List Bool → Option (Option Nat × List Bool)
  | true :: true :: false :: rest =>
    if tbl = 3 then some (none, true :: false :: rest) else some (none, rest)
  | true :: true :: true :: rest =>
    if tbl = 3 then some (none, true :: true :: rest)
    else (cxNibble rest).map fun r => (some r.1, r.2)
  | true :: false :: x :: rest =>
    match tbl with
    | 0 => some (some 1, x :: rest)
    | 1 => some (some 2, x :: rest)
    | 2 => some (some (2 + x.toNat), rest)
    | _ => some (none, false :: x :: rest)
  | true :: false :: [] =>
    match tbl with
    | 0 => some (some 1, [])
    | 1 => some (some 2, [])
    | 2 => none
    | _ => some (none, [false])
  | true :: true :: [] => if tbl = 3 then some (none, [true]) else none
  | true :: [] => if tbl = 3 then some (none, []) else none
  | false :: rest =>
    match tbl with
    | 0 => some (some 0, rest)
    | 3 => (cxNibble rest).map fun r => (some r.1, r.2)
    | _ =>
      match rest with
      | x :: rest' => some (some x.toNat, rest')
      | [] => none
  | [] => none

/-- Read `n` tokens. -/
def cxReadAll (tbl : Nat) : Nat → List Bool → Option (List (Option Nat))
  | 0, _ => some []
  | n + 1, s =>
    match cxRead tbl s with
    | none => none
    | some (d, rest) => (cxReadAll tbl n rest).map (d :: ·)

/-- The 88 token bits, from bit 7 of byte 21 downward (R94). -/
def cxStream (b : Nat) : List Bool :=
  (List.range 11).flatMap fun i => (List.range 8).map fun j => bitsOf b (168 + 8 * i + (7 - j)) 1 == 1

/-- What a block decodes to (R96): special, all zero, or its `EMAX` and elements. -/
inductive CxBlock where
  | special
  | zero
  | values (emax : Nat) (xs : List Num)
deriving DecidableEq, Repr

/-- Decode one block (R96). -/
def cxDecode (b : Nat) : CxBlock :=
  if bitsOf b 7 1 = 1 then (if bitsOf b 0 7 = 0 then .zero else .special)
  else
    let emax := bitsOf b 0 5
    match cxReadAll (bitsOf b 5 2) 32 (cxStream b) with
    | none => .special
    | some ds =>
      .values emax ((List.range 32).zip ds |>.map fun (i, d) =>
        match d with
        | none => .fin false 0 0
        | some delta =>
          let f := bitsOf b (8 + 5 * i) 5
          .fin (f / 16 == 1) (16 + f % 16) ((emax : Int) - 15 - delta - 4))

/-- The 32 values of a block: NaN throughout for a special block (R96). -/
def CxBlock.nums : CxBlock → List Num
  | .special => List.replicate 32 (.nan false)
  | .zero => List.replicate 32 (.fin false 0 0)
  | .values _ xs => xs

/-- One element under encoding: its source, and sign, exponent and mantissa while it is not zero. -/
structure CxElem where
  src : Num
  nz : Option (Bool × Int × Nat)
  ev : Ev
deriving DecidableEq, Repr

/-- Step 2 of R97. -/
def cxElem (x : Num) : CxElem :=
  match x with
  | .fin neg m e =>
    if m = 0 then ⟨x, none, 0⟩
    else
      let l := magLog2 m e
      let (k, _) := roundQuantum .rne false m e (l - 4)
      ⟨x, some (if k = 32 then (neg, l + 1, 0) else (neg, l, k - 16)), 0⟩
  | .nan _ | .inf _ => ⟨x, none, 0⟩

/-- δ of an element. -/
def CxElem.delta (emax : Int) (x : CxElem) : Option Nat := x.nz.map fun (_, e, _) => (emax - 15 - e).toNat

/-- Bits that a table needs for the elements. -/
def cxCost (tbl : Nat) (emax : Int) (xs : List CxElem) : Nat :=
  (xs.map fun x => match x.delta emax with
    | some d => (cxToken tbl d).length
    | none => (cxZeroToken tbl).length).sum

/-- The table with the fewest bits, ties to the lower number, and its cost (R97 step 6). -/
def cxBest (emax : Int) (xs : List CxElem) : Nat × Nat :=
  [1, 2, 3].foldl (fun best t => if cxCost t emax xs < best.2 then (t, cxCost t emax xs) else best)
    (0, cxCost 0 emax xs)

/-- Zero the element of the greatest δ, the highest index among equals (R97 step 6). -/
def cxDrop (emax : Int) (xs : List CxElem) : List CxElem :=
  let best := (xs.zipIdx).foldl (fun (acc : Option (Nat × Nat)) (x, i) =>
    match x.delta emax, acc with
    | none, a => a
    | some d, none => some (d, i)
    | some d, some (d', i') => if d' ≤ d then some (d, i) else some (d', i')) none
  match best with
  | none => xs
  | some (_, i) => xs.zipIdx.map fun (x, j) => if i = j then { x with nz := none, ev := x.ev ||| evFlush } else x

/-- Repeat step 6 until the block fits; 32 drops always suffice. -/
def cxFit (emax : Int) : Nat → List CxElem → List CxElem
  | 0, xs => xs
  | n + 1, xs => if 88 < (cxBest emax xs).2 then cxFit emax n (cxDrop emax xs) else xs

/-- Encode 32 values as one block, with each element's events (R97). -/
def cxEncode (vals : List Num) : Nat × List Ev :=
  if vals.any fun x => !x.isFinite then (0xFF, vals.map fun _ => 0)
  else
    let xs := vals.map cxElem
    match xs.filterMap (fun x => x.nz.map fun (_, e, _) => e) with
    | [] => (0x80, vals.map fun _ => 0)
    | e0 :: es =>
      let top := es.foldl max e0
      let emax : Int := min (max (top + 15) 0) 31
      let xs := xs.map fun x => match x.nz with
        | some (s, e, _) =>
          if emax - 15 < e then { x with nz := some (s, emax - 15, 15), ev := x.ev ||| evSat } else x
        | none => x
      let xs := xs.map fun x => match x.delta emax with
        | some d => if 15 < d then { x with nz := none, ev := x.ev ||| evFlush } else x
        | none => x
      let done (xs : List CxElem) : List Ev := xs.map fun x =>
        let v : Num := match x.nz with
          | some (s, e, m) => .fin s (16 + m) (e - 4)
          | none => .fin false 0 0
        x.ev ||| evIf (!v.same x.src) evInexact
      if xs.all fun x => x.nz.isNone then (0x80, done xs)
      else
        let xs := cxFit emax 32 xs
        let tbl := (cxBest emax xs).1
        let fields := xs.zipIdx.foldl (fun acc (x, i) => match x.nz with
          | some (s, _, m) => acc + (16 * s.toNat + m) * 2 ^ (8 + 5 * i)
          | none => acc) 0
        let stream := xs.flatMap fun x => match x.delta emax with
          | some d => cxToken tbl d
          | none => cxZeroToken tbl
        let tokens := stream.zipIdx.foldl (fun acc (b, i) =>
          acc + b.toNat * 2 ^ (168 + 8 * (i / 8) + (7 - i % 8))) 0
        (emax.toNat + tbl * 32 + fields + tokens, done xs)

/-! ### Planes (R98 to R103) -/

/-- Declared plane counts a type allows (R98). -/
def ElemType.planesOk (t : ElemType) (p : Nat) : Bool :=
  match t with
  | .b1 => p == 1
  | .s4 => p == 4
  | .s8 => p == 8
  | .s16 => p == 16
  | .n8 => p == 9
  | .n16 => p == 17
  | .e2m1 | .e5m2 | .e4m3 | .cx8 | .bf16 | .f16 | .f32 | .f64 => 2 ≤ p && p ≤ 64
  | .s32 | .s64 | .n32 | .n64 => false

/-- Default plane counts (R101). -/
def ElemType.defaultPlanes : ElemType → Nat
  | .b1 => 1 | .s4 | .e2m1 => 4 | .e5m2 => 5 | .e4m3 => 6 | .cx8 => 7 | .s8 => 8 | .n8 => 9 | .s16 => 16
  | .n16 => 17 | .bf16 => 10 | .f16 => 13 | .f32 => 26 | .f64 => 56 | .s32 | .s64 | .n32 | .n64 => 0

/-- `Eb` of a special block, as its 16 stored bits (R99). -/
def ebSpecial : Nat := 0x7FFF
/-- `Eb` of a zero block (R99). -/
def ebZero : Nat := 0x8000

/-- A packed block: `Eb` as stored, and 32 integers. -/
structure PlaneBlock where
  eb : Nat
  a : List Int
deriving DecidableEq, Repr

/-- One element of a block packed at its `Eb`, and whether it is a truncation (R99). -/
def packElem (p : Nat) (eb : Int) (x : Num) : Int × Bool :=
  match x with
  | .fin neg m e =>
    let (k, lost) := roundQuantum .rne neg m e (eb - (p - 2 : Nat))
    let v : Int := if neg then -(k : Int) else k
    if v = (2 ^ (p - 1) : Nat) then (v - 1, true) else (v, lost)
  | .nan _ | .inf _ => (0, false)

/-- Pack floating values at `Eb` (R99, R100): the integers, and the events of each element. -/
def packAt (p : Nat) (eb : Int) (xs : List Num) : PlaneBlock × List Ev :=
  let rs := xs.map (packElem p eb)
  (⟨wrapNat eb 16, rs.map (·.1)⟩, rs.map fun r => evIf r.2 evTrunc)

/-- Pack a block of 32 floating values (R99). A signalling NaN among them counts nothing: R104 names what packing counts
(DEDUCED, log entry 69). -/
def packFloat (p : Nat) (xs : List Num) : PlaneBlock × List Ev :=
  if xs.any fun x => !x.isFinite then (⟨ebSpecial, List.replicate 32 0⟩, [])
  else
    match xs.filterMap (fun x => match x with
      | .fin _ m e => if m = 0 then none else some (magLog2 m e)
      | .nan _ | .inf _ => none) with
    | [] => (⟨ebZero, List.replicate 32 0⟩, [])
    | e0 :: es => packAt p (es.foldl max e0) xs

/-- Pack 32 elements of a type (R99). -/
def packBlock (t : ElemType) (p : Nat) (raw : List Nat) : PlaneBlock × List Ev :=
  match t.fmt with
  | some f => packFloat p (raw.map f.decode)
  | none => (⟨0, raw.map fun b => if t.isSigned then sextInt b t.bits else (b % 2 ^ t.bits : Nat)⟩, [])

/-- Pack a cx8 block at `p` planes (R100). -/
def packCx (p : Nat) (b : Nat) : PlaneBlock × List Ev :=
  match cxDecode b with
  | .special => (⟨ebSpecial, List.replicate 32 0⟩, [])
  | .zero => (⟨ebZero, List.replicate 32 0⟩, [])
  | .values emax xs => packAt p ((emax : Int) - 15) xs

/-- The exact values that a block's planes hold; `isFloat`: the type is floating, so `Eb` scales them (R103, R105). -/
def PlaneBlock.nums (b : PlaneBlock) (isFloat : Bool) (p : Nat) : List Num :=
  if !isFloat then b.a.map Num.ofInt
  else if b.eb = ebSpecial then b.a.map fun _ => .nan false
  else if b.eb = ebZero then b.a.map fun _ => .fin false 0 0
  else b.a.map fun v => .fin (v < 0) v.natAbs (sextInt b.eb 16 - (p - 2 : Nat))

/-- A block as a reader of a window of type `t` sees it: 32 elements' bits (R103). Rounding them counts no event (DESIGN
CHOICE, log entry 69). -/
def PlaneBlock.read (b : PlaneBlock) (t : ElemType) (p : Nat) : List Nat :=
  match t.fmt with
  | some f =>
    if b.eb = ebSpecial then b.a.map fun _ => if f.special = .none then 0 else f.nanBits
    else (b.nums true p).map fun x => (f.round .rne false x).1
  | none => b.a.map fun v => if b.eb = ebSpecial ∨ b.eb = ebZero then 0 else wrapNat v t.bits

/-- A block as a reader of a cx8 window sees it (R103). -/
def PlaneBlock.readCx (b : PlaneBlock) (p : Nat) : Nat :=
  if b.eb = ebSpecial then 0xFF else if b.eb = ebZero then 0x80 else (cxEncode (b.nums true p)).1

end Sys2Proof
end

