-- ==== Sys2Proof/Machine/State.lean ====
section
/-!
DEFINITION. Sys2Proof/Machine/State.lean: everything the manual gives one package, as plain data: memory, contexts,
cores, clusters, name spaces, engines, Kettle's queues and the package registers; the reasons a step can stop; and the
package right after reset. What stands outside the package (the host, peer chips, time) reaches it through `agenda`
and `pace` (log entries 1 and 2) and is told through the outboxes.
-/
namespace Sys2Proof.Machine

/-- A map with natural keys, as a list; an unlisted key reads as the entry's reset value. -/
abbrev Table (α : Type) := List (Nat × α)

/-- Memory: (address, byte) pairs, addresses strictly rising, no listed byte equal to what an unlisted address reads
as, which is 0 (log entry 3). Keys are those of `Place.key`. -/
abbrev Memory := List Host.Cell

/-- Where a byte lives (R14, R85, R215, R221, R312). -/
inductive Place where
  | dram (pa : Nat)
  | spad (core : CoreIx) (off : Nat)
  | acc (cluster : ClusterIx) (tile : BitVec 4) (bank : Bool) (off : Nat)
  | host (addr : Nat)
deriving DecidableEq, Repr

/-- Trap causes (R381). -/
inductive Cause where
  | illegal | priv | lookahead | capTag | capBounds | capPerm | capStale | capSealed | align
  | pageFault | pageProt | rdupWrite | ctxFault | nameUnbound | nameFault | queueFault | enqInvalid
  | syscall | bkpt | watchdog | memError | fabric | violation
deriving DecidableEq, Repr

/-- What an access reaches once its checks have passed (R187, R215). `key` is the key of the first byte. -/
inductive Target where
  /-- bytes at `key`; `tags`: the place holds granule tags (R216) -/
  | bytes (key : Nat) (tags : Bool)
  /-- a stash window's bytes (R225) -/
  | stash (key : Nat)
  /-- a plane or cx8 window (R103): storage key of the allotment, element type, planes, element offset -/
  | plane (key : Nat) (ty : ElemType) (planes : Nat) (off : Nat)
  /-- a queue node (R211) and the effective offset -/
  | queue (asid : Asid) (node : BitVec 23) (off : Word)
  /-- a context descriptor (R187) -/
  | ctx (id : BitVec 32) (off : Nat)
  /-- a peer's node through a local handle (R197) -/
  | peer (asid : Asid) (handle : BitVec 24) (off : Word)
  /-- a package register (R390) -/
  | pkg (off : Nat)
  /-- a fabric page homed on another chip (R364) -/
  | fabric (chip : ChipIx) (page : BitVec 28) (off : BitVec 16) (va : Word)
  /-- the witness of a slot from byte `off` on, at `key` as the slot stands: bytes past its end read zero (R334) -/
  | wit (key : Nat) (cluster : ClusterIx) (n : BitVec 4) (off : Nat)
deriving DecidableEq, Repr

/-- What a BAR form that releases does to its barrier once it performs (R295). -/
inductive BarOp where
  | init (n : BitVec 24)
  | expect (n : BitVec 32)
  | poison
deriving DecidableEq, Repr

/-- One store of the slot's store queue (R220). -/
structure StoreEntry where
  target : Target
  /-- bytes written -/
  n : Nat
  data : W256
  /-- the size code, which a queue entry records (R211) -/
  size : MemSize
  /-- the tag a `.cap` store writes -/
  tag : Bool := false
  /-- a release: performs only after every earlier entry (R234) -/
  rel : Bool := false
  /-- a FENCE.rel marker: no later store performs before it (R249) -/
  marker : Bool := false
  /-- the handle the store went through (R194) -/
  handle : BitVec 24 := 0
  /-- its label: of the transaction that carries it to another chip, or of the store that waits at a full queue -/
  sent : Option Nat := none
  /-- the address of the unit that stored -/
  pc : Word := 0
  /-- elements of one VSCAT or VSTS share a label: they count as one entry (R271) -/
  group : Option Nat := none
  /-- a BAR form that performs as a store does: it updates the barrier at its target (R295) -/
  bar : Option BarOp := none
deriving DecidableEq, Repr

/-- What a pending long-latency instruction still has to do (R79, R81). -/
inductive PendKind where
  /-- its result is written; only its window is open -/
  | done
  /-- a load whose value is not fixed yet: bytes, size code, sign, and whether it is a strong access (R229, R232) -/
  | load (t : Target) (n : Nat) (size : MemSize) (sign strong : Bool)
  /-- a load whose value is fixed and not yet written to its register -/
  | value (v : W256) (tag : Bool)
  /-- a forwarded or fabric access that waits for transaction `txn`, with what it reaches -/
  | remote (txn : Nat) (size : MemSize) (sign : Bool) (t : Target)
  /-- a VGATH or VLDS: its elements' targets in lane order, and `n` bytes each (R270) -/
  | gather (ts : List Target) (n : Nat)
  /-- a VGATH or VLDS with elements on fabric pages: the transactions that it waits for, each with its lane, the lanes it
  has, the bytes of a lane, and what the awaited lanes reach (R270, R364) -/
  | gatherFar (left : List (Nat × Nat)) (lanes : W256) (n : Nat) (ts : List Target)
  /-- a name form that waits for its reply or its revocation (R192, R201) -/
  | name (label : Nat)
  /-- an EXPORT that waits for its pages (R210) -/
  | pinning (d a b : Reg) (name : Option (List Byte))
deriving DecidableEq, Repr

/-- A long-latency instruction and its lookahead window (R79, R80). -/
structure Pending where
  /-- address of its instruction word -/
  pc : Word
  /-- units that may still issue before it completes -/
  left : Nat
  /-- its destinations and sources: register numbers, and 64 for name.stat (R80, R200) -/
  dst : List Nat
  src : List Nat
  /-- the register that it still has to write (log entry 9) -/
  wr : Option Reg
  kind : PendKind
deriving DecidableEq, Repr

/-- A trap record (R384). -/
structure TrapRec where
  cause : BitVec 8
  ulen : BitVec 2
  slot : SlotIx
  core : CoreIx
  asid : Asid
  ctxId : BitVec 32
  pc : Word
  val : Word
  cdva : Word
  ctxH : BitVec 24
  ctxGen : BitVec 24
  seq : BitVec 16
  cycle : Word
  gang : BitVec 32
  member : BitVec 8
  /-- MODEL: the trapping access was a store, which a fault record repeats (R428) -/
  wr : Bool := false
deriving DecidableEq, Repr

/-- Why a context leaves its slot once its earlier stores have performed (R383, R393): a trap, whose record then goes toward
the buddy; FREEZE, which sends none; or a pre-emption, saved in full or under the hint. -/
inductive Leaving where
  | trap (r : TrapRec)
  | freeze
  | save (full : Bool)
deriving DecidableEq, Repr

/-- What a blocked instruction waits for. `none`: it is not blocked. A `.queue` form may push or pop (R213). -/
inductive Wait where
  | none
  | fence
  | hfence (handle : BitVec 24)
  | bar (d a b : Reg)
  | gang (d : Reg)
  | span (d : Reg)
  | sumcol (d a : Reg) (clear : Bool)
  | job (d a b : Reg)
  /-- ENQ on a full queue, with the copy of a TRIG's inner command that it has made (R301, R371) -/
  | enq (la : BitVec 4) (d a b : Reg) (kept : Option (W256 × List RegVal))
  | aswap (la : BitVec 4) (d a b : Reg)
  | cpyGo (d : Reg)
  | queue (push : Bool) (data a : Reg) (nb : Option (Reg × BitVec 6))
  | heap (d a : Reg)
  | event (d a : Reg)
  /-- the cycle at which its limit ends; no narrowing (R8, R176) -/
  | sleep (d : Reg) (until_ : Option Nat)
  | record (d a : Reg)
  | xgo (d : Reg)
  | txn (label : Nat)
  | save (d a b : Reg)
  /-- SPAWN waits for the pool, which Barista grows (R173) -/
  | spawn (d a b : Reg)
  /-- a name form reads its string through another chip: the bytes so far, and the transaction of the next (R200) -/
  | string (i : Instr) (got : List Byte) (txn : Option Nat)
  /-- it leaves the slot once its stores have performed (R383, R393) -/
  | leave (why : Leaving)
deriving DecidableEq, Repr

/-- Residency of a context (R146). -/
inductive Residency where
  | dormant | resident | bound
deriving DecidableEq, Repr

/-- `RUN` of a context (R146). -/
inductive RunState where
  | ready | sleeping | waiting | frozen | retired
deriving DecidableEq, Repr

/-- The per-context copy registers (R274 to R278). -/
structure CopyRegs where
  src : RegVal := {}
  dst : RegVal := {}
  bar : RegVal := {}
  shape : Word := 0
  sstride : Word := 0
  dstride : Word := 0
  clip : Word := 0
  mode : Word := 0
deriving DecidableEq, Repr

/-- The trap registers (R382). -/
structure TrapRegs where
  cause : BitVec 8 := 0
  pc : Word := 0
  val : Word := 0
  ctx : Word := 0
  vec : Word := 0
deriving DecidableEq, Repr

/-- The save header of a context descriptor (R394). -/
structure SaveHeader where
  imgCap : RegVal := {}
  saved : Bool := false
  live : Word := 0
  ranges : W256 := 0
  hintCyc : Word := 0
deriving DecidableEq, Repr

/-- One stash buffer sector (R225): key of the sector, and each byte buffered (offset in the sector, byte). -/
structure StashSector where
  key : Nat
  bytes : List (Nat × Byte)
deriving DecidableEq, Repr

/-- A fault that arrived late and is taken at a later unit (R81, R197, R365). -/
structure LateFault where
  cause : Cause
  val : Word
  /-- taken only at a unit that accesses this handle or waits (R197); `none`: at the first unit that has not issued -/
  handle : Option (BitVec 24) := none
deriving DecidableEq, Repr

/-- The unit in flight: address of its first word, of its instruction word, and its length in words (R76, R77). -/
structure UnitInfo where
  first : Word := 0
  addr : Word := 0
  words : Nat := 1
  /-- the register that its guard reads (R75) -/
  guard : List Nat := []
  /-- its instruction stores: a store, an atomic, CLZERO or CLINV (`WR` of R421 and R428) -/
  stores : Bool := false
deriving DecidableEq, Repr

/-- A context: its descriptor (R145, R146), its registers, its slot's queues and what it waits for. -/
structure Ctx where
  id : BitVec 32 := 0
  asid : Asid := 0
  cdva : Word := 0
  /-- the handle on its own /ctx node, and that handle's generation when it was opened (R152, R179) -/
  ctxHandle : BitVec 24 := 0
  ctxGen : BitVec 24 := 0
  root : BitVec 23 := 0
  launch : Nat := 0
  fn : FnIx := 0
  -- work fields (R147)
  tileX : BitVec 16 := 0
  tileY : BitVec 16 := 0
  tileZ : BitVec 16 := 0
  gang : BitVec 32 := 0
  member : BitVec 8 := 0
  count : BitVec 8 := 0
  span : BitVec 32 := 0
  gangIdx : BitVec 8 := 0
  gangs : BitVec 8 := 0
  -- header (R146)
  res : Residency := .dormant
  run : RunState := .ready
  savePending : Bool := false
  incomplete : Bool := false
  protected_ : Bool := false
  woken : Bool := false
  pcTag : Bool := true
  pcCap : W256 := 0
  qvalid : BitVec 16 := 0
  prio : BitVec 2 := 0
  saveCnt : Word := 0
  keySlot : BitVec 8 := 0
  exit : Word := 0
  sigPend : Word := 0
  -- registers and the register cache (R113, R148, R149)
  regs : Vector RegVal 64 := Vector.replicate 64 {}
  qcached : BitVec 16 := 0
  qdirty : BitVec 16 := 0
  qpinned : BitVec 16 := 0
  -- per-context control registers (R389)
  nec : Vector (BitVec 32) 8 := Vector.replicate 8 0
  necFlags : BitVec 8 := 0
  nameStat : Word := 0
  fpctl : BitVec 4 := 0
  stkOvf : BitVec 48 := 0
  copy : CopyRegs := {}
  trap : TrapRegs := {}
  priv : Bool := false
  ie : Bool := false
  handler : Bool := false
  save : SaveHeader := {}
  -- placement: core and slot (of the last binding), stack carve-out with the core that holds it (R53, R226)
  core : CoreIx := 0
  slot : SlotIx := 0
  stackCore : CoreIx := 0
  stackBase : Nat := 0
  stackSize : Nat := 0
  /-- the carve-out is held: from a binding until the context retires or is saved (R53) -/
  stackHeld : Bool := false
  -- the slot's store queue, stash buffer and windows (R79, R220, R225)
  storeQ : List StoreEntry := []
  stash : List StashSector := []
  pend : List Pending := []
  late : List LateFault := []
  wait : Wait := .none
  /-- the unit it executes or waits in -/
  unit : UnitInfo := {}
  -- pre-emption (R153, R393): request outstanding, cycle of the request, full save wanted
  preempt : Bool := false
  preemptCyc : Word := 0
  fullSave : Bool := false
  bindCyc : Word := 0
  quantum : BitVec 32 := 0
  retireCyc : Word := 0
  /-- it left its slot alone, by freezing, while its gang stayed bound (R142) -/
  alone : Bool := false
  freezeReq : Bool := false
  killReq : Option Word := none
  -- the image area the loader bound with `img` (R425), the last XGO's status (R362), unopened peer nodes (R253)
  imgRegion : RegVal := {}
  xstat : W256 := 0
  peerNodes : List (BitVec 23) := []
  /-- MODEL: a wake or signal that no SLEEP has returned yet came from another cluster, so that its acquire is at package
  scope (R178) -/
  wokenFar : Bool := false
deriving DecidableEq, Repr

/-- A name bound in a directory (R193): node and mask. -/
structure Binding where
  name : Name
  node : BitVec 23
  mask : BitVec 12
deriving DecidableEq, Repr

/-- Who waits at a queue's home (R213, R440): a context, a peer's operation by its transaction, with the remote handle it came
through and the entry it pushes, or a store (R211). -/
inductive QWaiter where
  | ctx (id : BitVec 32) (push : Bool)
  | peer (chip : ChipIx) (txn : Nat) (handle : BitVec 24) (push : Bool) (entry : W256)
  /-- a store of a context of this chip that found the queue full, under its label (R211) -/
  | store (id : BitVec 32) (label : Nat)
deriving DecidableEq, Repr

/-- A queue node's ring (R209, R211): the storage capability's handle, generation and offset, 2^`log2` entries, head
and tail counts, and the present entries of a ring in host memory, which no store to the ring's bytes changes (R255). -/
structure Queue where
  handle : BitVec 24
  gen : BitVec 24
  off : Nat
  log2 : Nat
  head : Nat := 0
  tail : Nat := 0
  hostRing : Bool := false
  copy : List RegVal := []
  /-- the home core (R195, R255) -/
  home : CoreIx := 0
  /-- contexts and held peer operations that wait, in order of arrival (R213, R440) -/
  waiters : List QWaiter := []
deriving DecidableEq, Repr

/-- What a node stands for (R185, R187). -/
inductive NodeBody where
  | mem
  | raw (core : CoreIx) (base : Nat)
  | plane (core : CoreIx) (base : Nat) (ty : ElemType) (planes : Nat)
  | cx8 (core : CoreIx) (base : Nat)
  | stash (core : CoreIx) (base : Nat)
  | acc (cluster : ClusterIx) (tile : BitVec 4)
  | wit (cluster : ClusterIx) (n : BitVec 4)
  | engine (e : EngineIx)
  | heap (cluster : ClusterIx)
  | ctx (id : BitVec 32)
  | host (addr : Nat)
  | pkg
  | stack (ctx : BitVec 32)
  | sub (handle gen : BitVec 24) (off : Nat)
  | queue (q : Queue)
  | dir (entries : List Binding)
  /-- /peer/<name>: the chip (R196) -/
  | peerRoot (chip : ChipIx)
  /-- a remote node (R253): chip, remote index and generation, remote kind -/
  | peerNode (chip : ChipIx) (node : BitVec 23) (gen : BitVec 24) (kind : BitVec 3)
deriving DecidableEq, Repr

/-- A node of an ASID (R189). A dead node keeps its index and generation. -/
structure Node where
  ix : BitVec 23
  gen : BitVec 24 := 0
  live : Bool := true
  body : NodeBody
  extent : Nat
  pinned : Bool := false
  /-- the directory /spad/<core>, with the allotment's core, first byte and size: it also holds every plane window (R186) -/
  spad : Option (CoreIx × Nat × Nat) := none
  /-- its generation had reached the last one: the index is never used again -/
  retired : Bool := false
deriving DecidableEq, Repr

/-- A slot of an ASID's handle table (R188). `node = none`: closed. For a peer proxy it owns a remote handle and a
sequence number (R197). -/
structure Handle where
  ix : BitVec 24
  gen : BitVec 24 := 0
  node : Option (BitVec 23) := none
  /-- a context node of another ASID, which WAITEV opens (R408) -/
  foreign : Option (BitVec 32) := none
  remote : Option (ChipIx × BitVec 24 × BitVec 24) := none
  seq : Nat := 0
  /-- its generation had reached the last one: the slot is never used again -/
  retired : Bool := false
deriving DecidableEq, Repr

/-- The node and handle tables of an ASID (R188, R189). -/
structure Space where
  nodes : List Node := []
  handles : List Handle := []
deriving DecidableEq, Repr

/-- A forwarded access as it stands at the exporter (R196, R197). -/
inductive PeerAccess where
  | read (off : Word) (size : MemSize)
  | write (off : Word) (size : MemSize) (data : W256)
  | qop (push : Bool) (entry : W256)
deriving DecidableEq, Repr

/-- An entry of a tenant partition's export directory (R210). -/
structure Export where
  part : BitVec 8
  name : Name
  asid : Asid
  handle : BitVec 24
  gen : BitVec 24
  node : BitVec 23
  mask : BitVec 12
  keyTag : BitVec 16
  pin : Bool
deriving DecidableEq, Repr

/-- A remote handle that this chip's exports have given a peer (R196, R197): the node it is open on, the export's handle
on which it rests, the next sequence number, the accesses that arrived early (sequence number, transaction, access), and
the replies already given. -/
structure RemoteHandle where
  ix : BitVec 24
  gen : BitVec 24
  chip : ChipIx
  asid : Asid
  local_ : BitVec 24
  localGen : BitVec 24
  node : BitVec 23
  nodeGen : BitVec 24
  mask : BitVec 12
  next : Nat := 0
  /-- the last operation performed is held at a queue (R440) -/
  busy : Bool := false
  early : List (Nat × Nat × PeerAccess) := []
  answered : List (Nat × AccessReply) := []
deriving DecidableEq, Repr

/-- A revocation under way (R192): the clusters that have not acknowledged, and who waits for it. -/
structure Revocation where
  label : Nat
  asid : Asid
  handles : List (BitVec 24)
  waiting : List ClusterIx
  /-- the NCLOSE replies still due -/
  closes : List Nat := []
  ctx : Option (BitVec 32)
  /-- its form: CLOSE 2, REVOKE 5 (R199) -/
  form : Nat := 0
  /-- a peer that an NCLOSE was due to could not be reached -/
  down : Bool := false
deriving DecidableEq, Repr

/-- What a transaction of this chip is for (R196). -/
inductive TxnKind where
  | walk (d : Reg) (used : Nat)
  | open_ (d : Reg) (node : BitVec 23) (handle : BitVec 24) (mask : BitVec 12)
  | dup (d a : Reg) (node : BitVec 23) (handle : BitVec 24) (mask : BitVec 12)
  | close (rev : Nat)
  | load
  | store
  /-- an atomic on a fabric page: function, width, operand (R364) -/
  | atom (fn : BitVec 4) (w32 : Bool) (y : W256)
  /-- one byte of a name form's string (R200) -/
  | byte
  | push (nb : Option (Reg × BitVec 6))
  | pop (data : Reg) (nb : Option (Reg × BitVec 6))
  /-- a launch's walk of a `.bind` or `img` path, and the open that follows it (R55) -/
  | bindWalk (launch : Nat) (used : Nat)
  | bindOpen (launch : Nat) (node : BitVec 23) (handle : BitVec 24) (mask : BitVec 12)
  | job (e : EngineIx) (id : BitVec 16)
deriving DecidableEq, Repr

/-- A transaction awaiting its answer (R197). `held`: the exporter holds it (R440). -/
structure Txn where
  label : Nat
  ctx : BitVec 32
  asid : Asid
  handle : BitVec 24
  off : Word
  chip : ChipIx
  sent : Word
  held : Bool := false
  /-- this chip has asked the exporter to withdraw the held operation (R440) -/
  withdrawn : Bool := false
  /-- an access of a fabric page, not of a peer's node (R364) -/
  fabric : Bool := false
  /-- the port that carries it: the nearest (R18, R196; log entry 65) -/
  port : BitVec 4 := 0
  kind : TxnKind
deriving DecidableEq, Repr

/-- What the packages of one span tell each other (R298, R357, R363; log entry 66): a member, by 64 times its gang's index and
its number, has arrived in its barrier, with the counters of a SUMCOL; one has ended; one has arrived in XGO, with its phase
length; gang 0's package has granted the phase, or refused it. -/
inductive SpanMsg where
  | arrive (member : Nat) (counts : Option (List Nat))
  | gone (member : Nat) (killed : Bool)
  | xgo (member d : Nat)
  | grant (t0 : Word) (dp : Nat)
  | refuse
deriving DecidableEq, Repr

/-- A message that leaves the package for a peer chip (R196, R364, R366). -/
inductive NetMsg where
  | step (chip : ChipIx) (i : Instr)
  | walkReply (chip : ChipIx) (txn : Nat) (r : WalkReply)
  | openReply (chip : ChipIx) (txn : Nat) (r : OpenReply)
  | accessReply (chip : ChipIx) (txn : Nat) (r : AccessReply)
  | fabric (chip : ChipIx) (txn : Nat) (ctx : BitVec 32) (page : BitVec 28) (off : BitVec 16) (op : FabricOp)
  /-- the answer to an access of this chip's fabric pages: the data, or a refusal (R364, R365) -/
  | fabricReply (chip : ChipIx) (txn : Nat) (data : Option W256)
  /-- a keyed access, with the port that carries it and its number among those of its queue pair to that chip (R18, R366,
  R369) -/
  | keyed (chip : ChipIx) (job : BitVec 16) (key : W256) (off : Word) (op : KeyedOp) (port : BitVec 4) (seq : Nat)
  | keyedReply (chip : ChipIx) (txn : Nat) (cause : BitVec 8) (data : List Byte)
  | withdraw (chip : ChipIx) (txn : Nat)
  /-- to another package of a span (R298, R357) -/
  | span (chip : ChipIx) (span : BitVec 32) (m : SpanMsg)
  | flit (port : BitVec 4) (cycle : Word) (data : W256)
deriving DecidableEq, Repr

/-- Something the host sees (R221, R423, R444, R453). -/
inductive HostMsg where
  | pageRequest (fn : FnIx) (prg : BitVec 9) (addr : Nat) (write : Bool)
  | readData (pa : Nat) (bytes : List Byte)
  | msix (fn : FnIx) (vector : Nat)
  | completion (addr : Word) (value : Word)
  | doe (name : String) (body : List Byte)
  | measurements (nonce : List Byte) (regs : List (BitVec 384)) (sig : List Byte)
deriving DecidableEq, Repr

/-- The bind record of a slot (R152). -/
structure BindRec where
  w0 : Word := 0
  w1 : Word := 0
  w2 : Word := 0
  w3 : Word := 0
deriving DecidableEq, Repr

/-- A TLB entry: a leaf of one ASID as the walk found it (R417). `shift` is the page size's log2. -/
structure TlbEntry where
  asid : Asid
  va : Nat
  shift : Nat
  pte : Word
  pteAddr : Nat
deriving DecidableEq, Repr

/-- A core: its slot table, its privileged registers, its trap inbox and its register cache (R148, R152, R385, R389). -/
structure Core where
  records : Vector BindRec 8 := Vector.replicate 8 {}
  /-- the context bound in each slot -/
  bound : Vector (Option (BitVec 32)) 8 := Vector.replicate 8 none
  buddy : BitVec 13 := 0
  temp : BitVec 16 := 0
  droop : BitVec 16 := 0
  wdog : BitVec 32 := 0x4000000
  inbox : List TrapRec := []
  /-- bit s: a record that arrived with `IE` set will interrupt the handler in slot s (R386) -/
  ints : BitVec 8 := 0
  /-- the slot that issued most recently (R10) -/
  last : SlotIx := 0
  /-- records this core holds until the inbox they go to has room (R385) -/
  held : List TrapRec := []
  seq : BitVec 16 := 0
  /-- register cache lines, most recently used first: context, quad (R148) -/
  lines : List (BitVec 32 × BitVec 4) := []
  /-- the L1 TLB, most recently filled first (R417) -/
  tlb : List TlbEntry := []
deriving DecidableEq, Repr

/-- mx.wit<n> (R332). -/
structure WitSlot where
  gen : BitVec 24 := 0
  valid : Bool := false
  core : BitVec 3 := 0
  off : BitVec 17 := 0
  /-- where the tile begins in that core's scratchpad -/
  base : Nat := 0
deriving DecidableEq, Repr

/-- An engine counter set (R111): launch, TID, eight counts. -/
structure CounterSet where
  launch : Nat
  tid : BitVec 16
  counts : List Nat
deriving DecidableEq, Repr

/-- An entry of a name cache: a handle slot with its generation and node, or a binding of a directory (R191). -/
inductive NameEntry where
  | handle (a : Asid) (ix gen : BitVec 24) (node : Option (BitVec 23))
  | binding (a : Asid) (dir : BitVec 23) (name : Name) (node : BitVec 23) (mask : BitVec 12)
deriving DecidableEq, Repr

/-- A cluster: event queue, heaps, tile owners, witness slots, counter sets, TLB and name cache (R165 to R170, R191,
R312, R313, R332, R389, R417). -/
structure Cluster where
  evq : List W256 := []
  /-- records that found the queue full (R170) -/
  evHeld : List W256 := []
  /-- contexts that wait in EVWAIT, in order of arrival (R170) -/
  evWait : List (BitVec 32) := []
  /-- per ASID: the pops served since its last push, and its entries (R166, R167) -/
  heaps : List (Asid × Nat × List W256) := []
  /-- entries that stand in their heap's spill region: ASID, slot of the region, entry (R166; log entry 64) -/
  spilled : List (Asid × Nat × W256) := []
  /-- contexts that wait in HPOP, in order of arrival (R167) -/
  heapWait : List (BitVec 32) := []
  heapSpill : BitVec 48 := 0
  aging : BitVec 32 := 0x100000
  own : Vector (BitVec 10) 16 := Vector.replicate 16 0
  wit : Vector WitSlot 16 := Vector.replicate 16 {}
  /-- bit n: which physical bank of tile n is visible (R304, R312) -/
  visible : BitVec 16 := 0
  counters : List CounterSet := []
  tlb : List TlbEntry := []
  /-- the entries of the name cache, most recently filled first (R191) -/
  names : List NameEntry := []
  /-- trap records at the cluster management core (R385) -/
  barista : List TrapRec := []
deriving DecidableEq, Repr

/-- The stage of an engine job (R293, R315). `ended`: its work is over and its status fixed, not yet completed. -/
inductive JobStage where
  | queued | running | ended
deriving DecidableEq, Repr

/-- What a job that moves sectors has still to do: move its `i`-th sector, or put bytes that it has read for a multicast into
one member core, at a byte of the job (R328, R351, R368, R370). -/
inductive Piece where
  | move (i : Nat)
  | put (member off : Nat) (bytes : List Byte)
deriving DecidableEq, Repr

/-- An engine job (R290 to R293, R301). -/
structure Job where
  id : BitVec 16
  word : W256
  caps : List RegVal
  asid : Asid
  ctx : BitVec 32
  launch : Nat
  cluster : ClusterIx
  stage : JobStage := .queued
  code : BitVec 8 := 0
  cause : BitVec 8 := 0
  value0 : BitVec 32 := 0
  value1 : BitVec 32 := 0
  /-- per event, the elements in which it occurred (R111) -/
  counts : List Nat := []
  /-- an armed TRIG's kept inner command, and whether it has fired (R371, R372) -/
  inner : Option (W256 × List RegVal) := none
  /-- the TRIG has been evaluated at its enqueue -/
  seen : Bool := false
  fired : Bool := false
  /-- the barrier of the transfer that a CREPLAY or CABORT names (R292, R306, R307) -/
  xbar : RegVal := {}
  /-- its place in the package's order of acceptance, in which TRIGs on one counter are evaluated (R372) -/
  seq : Nat := 0
  /-- what it has still to do, once it has begun to move sectors (R328, R368) -/
  todo : Option (List Piece) := none
  /-- it waits for the driver's answer to its fault record (R368, R422) -/
  parked : Bool := false
  /-- the tiles whose visible banks its operands reach through /acc (R348) -/
  reads : List (BitVec 4) := []
  /-- the scope at which its DONE is an acquire of its writes (R302, R368, R380) -/
  scope : Scope := .pkg
deriving DecidableEq, Repr

/-- A copy transfer (R279 to R286). -/
structure Xfer where
  id : BitVec 16
  asid : Asid
  ctx : BitVec 32
  launch : Nat
  core : CoreIx
  regs : CopyRegs
  /-- destination sectors not yet tried in this pass -/
  todo : List Nat
  parked : List Nat := []
  written : Nat := 0
  started : Bool := false
  code : BitVec 8 := 2
  cause : BitVec 8 := 0
  /-- fault records of the present pass: page or block, cause (R423) -/
  faultPages : List Nat := []
deriving DecidableEq, Repr

/-- A waiting ASWAP (R304): who waits, the tile, the jobs of the tile accepted before it, the last of them, and every job
that the engine held when it accepted the ASWAP. -/
structure Swap where
  ctx : BitVec 32
  asid : Asid
  tile : BitVec 4
  waits : List (BitVec 16)
  last : BitVec 16
  ahead : List (BitVec 16)
deriving DecidableEq, Repr

/-- The send queue of a port for one ASID (R369): jobs completed and accepted, and the next number to each chip. -/
structure QueuePair where
  asid : Asid
  head : Nat := 0
  tail : Nat := 0
  seqs : List (ChipIx × Nat) := []
deriving DecidableEq, Repr

/-- One engine of R412: its identifiers, jobs, recorded statuses, transfers and swaps. -/
structure Engine where
  next : BitVec 16 := 1
  jobs : List Job := []
  /-- status words of the last 256 completed jobs, newest first, with the ASID and the scope of DONE (R293) -/
  past : List (Asid × Scope × W256) := []
  last : List (Asid × BitVec 16) := []
  xfers : List Xfer := []
  swaps : List Swap := []
  /-- ASIDs whose jobs containment holds (R411) -/
  frozen : List Asid := []
  /-- completion-queue entries that wait for room: ASID, capability of the queue, entry (R369) -/
  cq : List (Asid × RegVal × W256) := []
  /-- cycle and core of the job or transfer accepted last (R23, R282) -/
  turn : Option (Word × CoreIx) := none
  /-- queue pairs of a port (R369) -/
  pairs : List QueuePair := []
deriving DecidableEq, Repr

/-- A member's arrival in a barrier round (R297, R298), with the counters that a SUMCOL contributes (R363). -/
structure Arrival where
  ctx : BitVec 32
  counts : Option (List Nat) := none
deriving DecidableEq, Repr

/-- What a released round gives its members: how many arrived, whether a member has been killed, how many contributed
counters, and the sums (R297, R363). -/
structure RoundResult where
  arrived : Nat
  killed : Bool
  contributors : Nat
  sums : List Nat
deriving DecidableEq, Repr

/-- The barrier of a gang or span (R297, R298): the arrivals of the unfinished round, and the results of finished rounds
that members which have left their slots have not taken yet. -/
structure Round where
  arrived : List Arrival := []
  /-- arrivals of members on other packages, with their counters (R298, R363) -/
  far : List (Nat × Option (List Nat)) := []
  owed : List (BitVec 32 × RoundResult) := []
deriving DecidableEq, Repr

/-- A gang (R140 to R144, R155, R297). -/
structure Gang where
  id : BitVec 32
  launch : Nat
  asid : Asid
  members : List (BitVec 32)
  cluster : Option ClusterIx := none
  span : BitVec 32 := 0
  /-- members that have retired or been killed (R297) -/
  gone : List (BitVec 32) := []
  killed : Bool := false
  round : Round := {}
  level : BitVec 2 := 0
  home : BitVec 2 := 0
  readySince : Word := 0
deriving DecidableEq, Repr

/-- A span (R140, R298, R357): its gangs and its barrier. -/
structure Span where
  id : BitVec 32
  gangs : List (BitVec 32)
  fn : FnIx := 0
  round : Round := {}
  /-- the other packages that it crosses (R140, R298) -/
  chips : List ChipIx := []
  /-- members there that have neither retired nor been killed, and whether one has been killed -/
  far : List Nat := []
  farKilled : Bool := false
  /-- the package of gang 0, where that is another (R357) -/
  lead : Option ChipIx := none
deriving DecidableEq, Repr

/-- A task entry of an object (R61). -/
structure TaskEnt where
  entry : Nat
  x : BitVec 16
  y : BitVec 16
  z : BitVec 16
  gang : Nat
  flags : BitVec 8
  key : BitVec 8
  quantum : BitVec 32
  img : Option (List Byte)
deriving DecidableEq, Repr

/-- A bind entry of an object (R61). -/
structure BindEnt where
  slot : Nat
  perm : BitVec 12
  path : List Byte
deriving DecidableEq, Repr

/-- An allotment of a launch on a core (R53). -/
structure Allotment where
  launch : Nat
  core : CoreIx
  base : Nat
  size : Nat
deriving DecidableEq, Repr

/-- Where a launch stands (R62, R140, R448): it waits for event records; its object is loaded; its gangs are placed; its
binds are carried out; its tasks may be bound; it has retired and its end is written out. -/
inductive LaunchStage where
  | deps | load | place | binds | running | retired
deriving DecidableEq, Repr

/-- What RECORD keeps of a launch (R451): the packet, each gang's cluster in the order of the gangs, each task's first
slot, the tiles of each cluster, and the digests of the object, the data image and the bound /host regions. -/
structure LaunchLog where
  packet : List Byte
  clusters : List ClusterIx
  slots : List (Nat × SlotId)
  tiles : List (ClusterIx × List (BitVec 4))
  digests : List (BitVec 384)
deriving DecidableEq, Repr

/-- A launch (R51 to R62, R448, R451, R455). -/
structure Launch where
  id : Nat
  queue : BitVec 5
  /-- the packet's 256 bytes -/
  words : List Byte
  asid : Asid
  fn : FnIx
  stage : LaunchStage := .deps
  /-- event records still to be consumed: cluster, key (R448) -/
  deps : List (ClusterIx × BitVec 32)
  /-- the addresses that the loader chooses (R62) -/
  choice : LoaderChoice
  fscope : BitVec 4
  nrecUsed : Nat := 0
  nrecLost : Nat := 0
  /-- entries and header that wait to be written: offset from `NREC`, bytes, cluster (R450) -/
  nrecPend : List (Nat × List Byte × ClusterIx) := []
  headed : Bool := false
  /-- the object's bytes (R60) -/
  image : List Byte := []
  prio : BitVec 2 := 0
  stack : Nat := 0
  spad : Nat := 0
  spadImage : List Byte := []
  argOff : Nat := 0
  argSize : Nat := 0
  tasks : List TaskEnt := []
  binds : List BindEnt := []
  /-- the handle on /mem that the text and the argument block rest on, and the capability of the text (R52, R157) -/
  memHandle : BitVec 24 × BitVec 24 := (0, 0)
  textCap : W256 := 0
  /-- capabilities that the binds have given: argument slot, capability (R55) -/
  caps : List (Nat × RegVal) := []
  /-- entries of the bind table, then `img` paths of tasks, still to be carried out -/
  bindsLeft : Nat := 0
  /-- a bind waits for a peer's answer -/
  asking : Bool := false
  /-- gang identities, in the order of the gang numbers of the object, then of SPAWN -/
  gangs : List (BitVec 32) := []
  ctxs : List (BitVec 32) := []
  /-- the tiles allotted on each cluster (R313) -/
  tiles : List (ClusterIx × List (BitVec 4)) := []
  /-- the slot in which each task was first bound: task, slot (R451) -/
  slots : List (Nat × SlotId) := []
  /-- the digests of R451 -/
  digests : List (BitVec 384) := []
  /-- the log that a REPLAY follows -/
  replay : Option LaunchLog := none
  /-- the first kill that Barista made, as a cause code (R449) -/
  killCause : Option (BitVec 8) := none
  firstExit : Word := 0
deriving DecidableEq, Repr

/-- A command queue of Kettle (R444, R445). -/
structure KQueue where
  base : BitVec 48 := 0
  /-- `BASE` names package memory (R444; log entry 20) -/
  inPackage : Bool := false
  log2n : BitVec 4 := 0
  fn : FnIx := 0
  asid : Asid := 0
  en : Bool := false
  state : BitVec 3 := 0
  tail : BitVec 32 := 0
  head : BitVec 32 := 0
  /-- the WAIT packet the thread is blocked on: address, value, condition, scope of its completion -/
  blocked : Option (Word × Word × BitVec 8 × BitVec 4) := none
  /-- packets started and not completed, oldest first: number, and the scope of a FENCE -/
  open_ : List (Nat × Option (BitVec 4)) := []
deriving DecidableEq, Repr

/-- A fault that waits for the driver's answer (R421, R422). -/
inductive FaultWaiter where
  | nobody
  | ctx (id : BitVec 32) (pc : Word)
  | save (id : BitVec 32)
  /-- the write-back of a replaced quad (R151) -/
  | quad (id : BitVec 32)
  | job (e : EngineIx) (id : BitVec 16)
  | export_ (id : BitVec 32)
  | queue (id : BitVec 32)
  /-- the store of a label whose ring cannot be written (R214) -/
  | ring (id : BitVec 32) (label : Nat)
  /-- a peer's operation that a queue holds (R214, R440) -/
  | remote (chip : ChipIx) (txn : Nat)
  | nrec (launch : Nat)
deriving DecidableEq, Repr

/-- A fault record that the driver has not answered (R421, R422): its entry index, its 512 bits, whether it is written, and
who waits for it. -/
structure FaultRec where
  asid : Asid
  index : BitVec 24
  bits : BitVec 512
  written : Bool := false
  waiter : FaultWaiter
deriving DecidableEq, Repr

/-- A timetable entry (R353). -/
structure XEntry where
  ofs : Nat
  kind : BitVec 8
  dir : BitVec 8
  fmt : BitVec 8
  fwd : BitVec 4
  res : BitVec 4
  spad : Nat
  len : Nat
deriving DecidableEq, Repr

/-- A member of an exchange phase (R359): its table, its status code and first failing entry. -/
structure XMember where
  ctx : BitVec 32
  core : CoreIx
  entries : List XEntry
  d : Nat
  code : BitVec 8 := 0
  entry : BitVec 16 := 0
  miss : Nat := 0
  counts : List Nat := []
deriving DecidableEq, Repr

/-- One item of a phase: the flit of an entry, at its place in the order of cycles (R354, R355). -/
structure XItem where
  cycle : Nat
  /-- 0 a receive's write, 1 a send's read -/
  rank : Nat
  member : Nat
  kind : BitVec 8
  dir : BitVec 8
  fmt : BitVec 8
  fwd : BitVec 4
  key : Nat
deriving DecidableEq, Repr

/-- A flit on a link: the core and link it arrives on, and the cycle. -/
structure Flit where
  core : CoreIx
  dir : BitVec 8
  cycle : Nat
  data : W256
deriving DecidableEq, Repr

/-- What an exchange phase acts over: a span, or a gang that belongs to none (R359). -/
inductive Group where
  | gang (id : BitVec 32)
  | span (id : BitVec 32)
deriving DecidableEq, Repr

/-- An exchange phase granted (R352, R357). -/
structure Phase where
  group : Group
  t0 : Word
  dp : Nat
  members : List XMember
  items : List XItem
  flits : List Flit
deriving DecidableEq, Repr

/-- A phase request in a function's exchange queue (R357). -/
structure XRequest where
  group : Group
  fn : FnIx
  members : List XMember
  /-- members on other packages that have arrived, with their phase lengths (R357) -/
  far : List (Nat × Nat) := []
deriving DecidableEq, Repr

/-- A Nolost port (R362, R411). -/
structure Port where
  lat : BitVec 32 := 0
  valid : Bool := false
  exMode : Bool := false
  peer : ChipIx := 0
  up : Bool := true
  /-- partitions that containment has frozen it for -/
  frozen : List (BitVec 8) := []
deriving DecidableEq, Repr

/-- Siphon's plan under way (R378). -/
structure Plan where
  job : BitVec 16
  /-- `JOBID` of the record: the RESHARD's identifier (R377) -/
  first : BitVec 16
  asid : Asid
  caps : List RegVal
  src : List Byte
  dst : List Byte
  /-- the key table as it stood at the start (R376) -/
  keys : List (BitVec 128)
  dcur : Nat
  scur : Nat
  row : Nat
  /-- `SECDONE`, and the sectors of this job -/
  secs : Nat
  mine : Nat
  /-- rows that have completed ahead of the cursors: destination, source, row, sectors -/
  ahead : List (Nat × Nat × Nat × Nat) := []
deriving DecidableEq, Repr

/-- A free context descriptor of an ASID's pool (R145, R173): identity, CD address, stack overflow base. -/
structure Descriptor where
  asid : Asid
  id : BitVec 32
  cdva : Word
  ovf : BitVec 48
deriving DecidableEq, Repr

/-- A fabric MMU entry (R364). -/
structure FabricEntry where
  part : BitVec 8
  page : BitVec 28
  value : Word
deriving DecidableEq, Repr

/-- What the environment brings next (log entry 1): a machine step, the turn of a slot, or something that no row of the
table names. -/
inductive AgendaItem where
  | event (i : Instr)
  /-- this slot issues the next unit (R10) -/
  | turn (sl : SlotId)
  /-- Barista adds a descriptor to the pool (R173) -/
  | poolGrow (d : Descriptor)
  /-- the TLB of the cluster replaces its `i`-th entry (R417) -/
  | tlbEvict (cluster : ClusterIx) (i : Nat)
  /-- the L1 TLB of the core replaces its `i`-th entry (R417) -/
  | l1Evict (core : CoreIx) (i : Nat)
  /-- an L2 writes back a modified line of local DRAM (R218) -/
  | writeBack (line : Nat)
  /-- the host stores to its own memory (R221) -/
  | hostStore (addr : Nat) (bytes : List Byte)
  /-- a 4 KiB host page becomes present or absent (R420) -/
  | hostPage (page : Nat) (present : Bool)
  /-- a flit arrives on a port (R355) -/
  | portFlit (core : CoreIx) (dir : BitVec 8) (cycle : Nat) (data : W256)
  /-- a sensor reading (R389) -/
  | sensor (core : CoreIx) (temp droop : BitVec 16)
  /-- the hypervisor writes a fabric MMU entry (R364) -/
  | fabricEntry (e : FabricEntry)
  /-- Kettle joins gangs that are not placed yet into one span, which may have members on other packages (R140; log entries
  17 and 66) -/
  | formSpan (gangs : List (BitVec 32)) (chips : List ChipIx) (far : List Nat) (lead : Option ChipIx)
  /-- another package of a span tells this one (R298, R357) -/
  | span (span : BitVec 32) (m : SpanMsg)
  /-- the driver registers a host region under /host (R185) -/
  | hostRegion (asid : Asid) (name : Name) (addr size : Nat) (mask : BitVec 12)
  /-- a peer withdraws its held operation (R440) -/
  | withdraw (chip : ChipIx) (txn : Nat)
  /-- the host's address map puts a queue's `BASE` into host memory, or into package memory (R444; log entry 20) -/
  | ringHome (queue : BitVec 5) (package : Bool)
  /-- a soft error is corrected, or an uncorrectable one reported (R222) -/
  | softError (corrected : Bool)
  /-- the completer refuses the next AtomicOp of this package (R248) -/
  | hostRefuse
  /-- the node and handle tables cannot be read from now on, whatever the driver does, or can be again (R200) -/
  | tableFault (on : Bool)
deriving DecidableEq, Repr

/-- Package registers (R390, R443). -/
structure PkgRegs where
  chip : ChipIx := 0
  part : BitVec 8 := 0
  idle : Word := 0
  watts : BitVec 16 := 0
  wattsMax : BitVec 16 := 0
  corr : Word := 0
  unc : Word := 0
  asidTab : Word := 0
  tlbDone : Word := 0
  lrp : Word := 0x100000
  /-- xch.w<f>, f = 0 to 64 -/
  weights : Vector (BitVec 8) 65 := Vector.replicate 65 1
  frozen : Vector Bool 65 := Vector.replicate 65 false
  maxScope : Vector (BitVec 3) 65 := Vector.replicate 65 4
  clamp : Vector (BitVec 32) 65 := Vector.replicate 65 0
  meas : Vector (BitVec 384) 8 := Vector.replicate 8 0
  /-- virtual functions that the configuration image enables: 1 to `vfs` (R454) -/
  vfs : BitVec 7 := 0
deriving DecidableEq, Repr

/-- The package. -/
structure State where
  -- environment and time (log entries 1 and 2)
  agenda : List AgendaItem := []
  /-- cycles that the coming steps take; 1 once the list is empty -/
  pace : List (BitVec 32) := []
  /-- sectors that the coming runs of jobs move before they pause; all of them once the list is empty (log entry 67) -/
  slices : List Nat := []
  cycle : Word := 0
  /-- the model's own counter of open picks (log entry 10) -/
  free : Nat := 0
  -- memory (R14, R216, R221)
  mem : Memory := []
  /-- granules (key / 32) whose tag is set, strictly rising -/
  tags : List Nat := []
  /-- lines modified in an L2 and not written back: line address, the vault's bytes (R221) -/
  dirty : List (Nat × List Byte) := []
  /-- host pages (4 KiB) that ATS refuses (R420) -/
  hostAbsent : List Nat := []
  /-- blocks of plane windows with sectors pending: storage key of the window, planes, type, tile row and block, and
  each arrived sector's element bytes (R103) -/
  arrivals : List ((Nat × Nat × ElemType × Nat × Nat) × List (Nat × W256)) := []
  -- execution: the slot whose turn it is, and its context
  cur : SlotId := ⟨0, 0⟩
  cx : Ctx := {}
  /-- every other context -/
  ctxs : List Ctx := []
  cores : Table Core := []
  clusters : Table Cluster := []
  -- names (R183 to R214)
  spaces : Table Space := []
  exports : List Export := []
  remotes : List RemoteHandle := []
  revocations : List Revocation := []
  txns : List Txn := []
  /-- MODEL: steps since what runs beside the cores last had its turn (log entry 27) -/
  quiet : Nat := 0
  /-- the next label of a transaction or revocation -/
  label : Nat := 1
  /-- the chip table of the tenant partition: name and chip index (R185) -/
  chips : List (Name × ChipIx) := []
  /-- /host regions that the driver has registered (R185) -/
  hostRegions : List (Asid × Name × Nat × Nat × BitVec 12) := []
  -- engines (R290, R412)
  engines : Table Engine := []
  /-- the number of the next job that an engine accepts (R372) -/
  accepts : Nat := 0
  plan : Option Plan := none
  -- work (R140)
  gangs : List Gang := []
  spans : List Span := []
  launches : List Launch := []
  /-- the number of the next packet that completes later -/
  nextLaunch : Nat := 1
  /-- replay logs by ASID and address (R451) -/
  logs : List ((Asid × Word) × LaunchLog) := []
  allotments : List Allotment := []
  pool : List Descriptor := []
  nextGang : BitVec 32 := 1
  /-- Kettle's round-robin pointer (R143) -/
  placePtr : ClusterIx := 0
  /-- the clusters of the last 63 placements, newest first (R143) -/
  placements : List ClusterIx := []
  -- exchange (R352 to R363)
  /-- members that have arrived in XGO, per span or gang that is not complete -/
  xarrived : List XRequest := []
  xqueue : List XRequest := []
  deficits : Table Nat := []
  xvisit : FnIx := 0
  phase : Option Phase := none
  ports : Vector Port 12 := Vector.replicate 12 {}
  -- package registers, queues, faults (R390, R421, R443, R444)
  pkg : PkgRegs := {}
  queues : Vector KQueue 32 := Vector.replicate 32 {}
  /-- MODEL: stores of package registers that have performed and whose effects come next, oldest first (R390) -/
  pkgWrites : List Instr := []
  /-- tlb.inv writes whose invalidation has not completed (R418) -/
  tlbInvs : List Word := []
  faults : List FaultRec := []
  /-- the next data that a load or an atomic returns has an uncorrectable error (R222) -/
  memErr : Bool := false
  /-- the next AtomicOp on host memory is refused (R248) -/
  hostRefuse : Bool := false
  /-- the node and handle tables cannot be read (R200) -/
  tableFault : Bool := false
  /-- page request groups with no response yet: function, index (R423) -/
  prgs : List (FnIx × BitVec 9) := []
  fabric : List FabricEntry := []
  /-- the package key store (R396) -/
  keys : Table W256 := []
  -- boot and power (R21, R452)
  booted : Bool := false
  recovery : Bool := false
  /-- versions of the images last accepted (R452) -/
  versions : List Nat := []
  powerLimited : Bool := false
  -- outboxes
  net : List NetMsg := []
  host : List HostMsg := []
deriving DecidableEq, Repr

/-- Why a step can stop the machine. -/
inductive Fault where
  /-- Raised by a host access of package memory at an address that no vault holds (R14: DRAM addresses have PA[51:39]
  equal to zero). Safe: the model stops where the package refuses the access. -/
  | noSuchAddress
deriving DecidableEq, Repr

/-- Why a step can be refused. -/
inductive Refusal where
  /-- Raised by an arm of `exec` whose instruction has no meaning yet. Safe: the model stops. -/
  | notModelled (mnemonic : String)
deriving DecidableEq, Repr

/-- The package right after reset (R452): no context exists, no firmware runs, every bank, counter and register is at
its reset value; pkg.id, pwr.lim and the keys come with the configuration image (log entries 4 and 5). -/
def State.reset : State := {}

end Sys2Proof.Machine
end

