-- ==== Sys2Proof/Machine/Base.lean ====
section
/-!
DEFINITION. Sys2Proof/Machine/Base.lean: plain accessors: tables, contexts, registers, capability fields, bytes of
memory and tags. Every read or write of the state goes through these.
-/
namespace Sys2Proof.Machine

/-- The outcome of a step of this machine. -/
abbrev Out := Host.Outcome State Fault Refusal

/-! ### Tables -/

/-- The entry of a key, or the value an unlisted key reads as. -/
def tget {α : Type} (t : Table α) (k : Nat) (d : α) : α := (t.lookup k).getD d

/-- Write the entry of a key; keys stay in rising order. -/
def tset {α : Type} (k : Nat) (v : α) : Table α → Table α
  | [] => [(k, v)]
  | (k', v') :: t => if k < k' then (k, v) :: (k', v') :: t else if k = k' then (k, v) :: t else (k', v') :: tset k v t

/-- A core of the package. -/
def State.core (s : State) (c : CoreIx) : Core := tget s.cores c.toNat {}
/-- Change a core. -/
def State.updCore (s : State) (c : CoreIx) (f : Core → Core) : State :=
  { s with cores := tset c.toNat (f (s.core c)) s.cores }
/-- A cluster of the package. -/
def State.cluster (s : State) (c : ClusterIx) : Cluster := tget s.clusters c.toNat {}
/-- Change a cluster. -/
def State.updCluster (s : State) (c : ClusterIx) (f : Cluster → Cluster) : State :=
  { s with clusters := tset c.toNat (f (s.cluster c)) s.clusters }
/-- The node and handle tables of an ASID. -/
def State.space (s : State) (a : Asid) : Space := tget s.spaces a.toNat {}
/-- Change the tables of an ASID. -/
def State.updSpace (s : State) (a : Asid) (f : Space → Space) : State :=
  { s with spaces := tset a.toNat (f (s.space a)) s.spaces }
/-- An engine by its number (R412). -/
def State.engine (s : State) (e : EngineIx) : Engine := tget s.engines e.toNat {}
/-- Change an engine. -/
def State.updEngine (s : State) (e : EngineIx) (f : Engine → Engine) : State :=
  { s with engines := tset e.toNat (f (s.engine e)) s.engines }

/-- The cluster of a core: eight cores each, in index order (R12). -/
def clusterOf (c : CoreIx) : ClusterIx := .ofNat 6 (c.toNat / 8)
/-- Member `k` of a cluster. -/
def memberCore (c : ClusterIx) (k : Nat) : CoreIx := .ofNat 9 (c.toNat * 8 + k % 8)

/-- Take the next free pick among `k` outcomes (log entry 10). -/
def State.pick (s : State) (k : Nat) : Nat × State := (Config.freePick s.free % k, { s with free := s.free + 1 })
/-- Take the next free value (log entry 10). -/
def State.freeValue (s : State) : Word × State := (Config.freeWord s.free, { s with free := s.free + 1 })

/-! ### Contexts -/

/-- Every context that exists. The identity 0 stands for no context. -/
def State.allCtxs (s : State) : List Ctx := if s.cx.id = 0 then s.ctxs else s.cx :: s.ctxs
/-- A context by its identity. -/
def State.getCtx (s : State) (id : BitVec 32) : Option Ctx := s.allCtxs.find? fun c => c.id == id
/-- Change a context by its identity. -/
def State.updCtx (s : State) (id : BitVec 32) (f : Ctx → Ctx) : State :=
  if s.cx.id = id then { s with cx := f s.cx }
  else { s with ctxs := s.ctxs.map fun c => if c.id = id then f c else c }
/-- Remove a context. -/
def State.dropCtx (s : State) (id : BitVec 32) : State :=
  if s.cx.id = id then { s with cx := {} } else { s with ctxs := s.ctxs.filter fun c => c.id != id }

/-- Change the current context. -/
def State.updCx (s : State) (f : Ctx → Ctx) : State := { s with cx := f s.cx }

/-- The context bound in a slot (R152). -/
def State.boundAt (s : State) (sl : SlotId) : Option (BitVec 32) :=
  (s.core sl.core).bound[sl.slot.toNat]'sl.slot.isLt
/-- Bind a context in a slot, or leave the slot empty. -/
def State.setBound (s : State) (sl : SlotId) (id : Option (BitVec 32)) : State :=
  s.updCore sl.core fun c => { c with bound := c.bound.set sl.slot.toNat id sl.slot.isLt }

/-- The slot of the current context. -/
def State.cxSlot (s : State) : SlotId := ⟨s.cx.core, s.cx.slot⟩
/-- The cluster of the current context. -/
def State.cxCluster (s : State) : ClusterIx := clusterOf s.cx.core

/-- Make a context the current one, in place of the one that is. -/
def State.focus (s : State) (id : BitVec 32) (sl : SlotId) : State :=
  if s.cx.id = id then { s with cur := sl }
  else
    match s.ctxs.find? (fun c => c.id == id) with
    | none => { s with cur := sl, ctxs := s.allCtxs, cx := {} }
    | some c => { s with cur := sl, ctxs := s.allCtxs.filter fun k => k.id != id, cx := c }

/-- Run an operation as the context of a given identity, and go back to the current one. -/
def State.asCtx (s : State) (id : BitVec 32) (f : State → State) : State :=
  match s.getCtx id with
  | none => s
  | some c => (f (s.focus id ⟨c.core, c.slot⟩)).focus s.cx.id s.cur

/-- Run an operation as the context bound in a slot; nothing where the slot is empty. -/
def State.withSlot (s : State) (sl : SlotId) (f : State → State) : State :=
  match s.boundAt sl with
  | none => s
  | some id => s.asCtx id f

/-! ### Registers (R113) -/

/-- Register `r` of a context: c0 reads as zero with its tag clear. -/
def Ctx.reg (c : Ctx) (r : Reg) : RegVal := if r = 0 then {} else c.regs[r.toNat]'r.isLt
/-- Write register `r` of a context; a write to c0 is discarded. The quad becomes dirty (R149). -/
def Ctx.setReg (c : Ctx) (r : Reg) (v : RegVal) : Ctx :=
  if r = 0 then c
  else { c with regs := c.regs.set r.toNat v r.isLt, qdirty := c.qdirty ||| (1#16 <<< (r.toNat / 4)) }

/-- Register `r` of the current context. -/
def State.reg (s : State) (r : Reg) : RegVal := s.cx.reg r
/-- Its 256 bits. -/
def State.bits (s : State) (r : Reg) : W256 := (s.reg r).val
/-- A scalar source: bits [63:0], whatever the tag (R113). -/
def State.x (s : State) (r : Reg) : Word := (s.bits r).setWidth 64
/-- Write a register of the current context. -/
def State.setReg (s : State) (r : Reg) (v : RegVal) : State := { s with cx := s.cx.setReg r v }
/-- Write 256 bits of plain data. -/
def State.setBits (s : State) (r : Reg) (v : W256) : State := s.setReg r ⟨v, false⟩
/-- A scalar result: bits [255:64] and the tag are cleared (R113). -/
def State.setX (s : State) (r : Reg) (v : Word) : State := s.setBits r (v.setWidth 256)
/-- Write one bit of a register: the others stay, the tag is cleared (R123). -/
def State.setBit (s : State) (r : Reg) (bit : Nat) (b : Bool) : State :=
  let v := s.bits r
  s.setBits r ((v &&& ~~~(1#256 <<< bit)) ||| (if b then 1#256 <<< bit else 0))

/-- The program counter: `OFFSET` of the PC capability (R157). -/
def Ctx.pc (c : Ctx) : Word := c.pcCap.setWidth 64
/-- Set the program counter; the rest of the PC capability stays. -/
def Ctx.setPc (c : Ctx) (w : Word) : Ctx := { c with pcCap := (c.pcCap >>> 64 <<< 64) ||| w.setWidth 256 }
/-- Set the program counter of the current context. -/
def State.setPc (s : State) (w : Word) : State := { s with cx := s.cx.setPc w }
/-- A of R159: the address of the current unit's instruction word. -/
def State.here (s : State) : Word := s.cx.unit.addr
/-- The unit is done: the program counter goes past its instruction word (R159). -/
def State.advance (s : State) : State := s.setPc (s.here + 4)

/-! ### Capabilities (R115) -/

/-- The fields of a capability. -/
structure Cap where
  offset : Word
  base : Word
  limit : Word
  handle : BitVec 24
  gen : BitVec 24
  perm : BitVec 12
  kind : BitVec 3
  sealed_ : Bool
deriving DecidableEq, Repr

/-- The fields as R115 lays them out. -/
def Cap.ofBits (v : W256) : Cap where
  offset := v.extractLsb' 0 64
  base := v.extractLsb' 64 64
  limit := v.extractLsb' 128 64
  handle := v.extractLsb' 192 24
  gen := v.extractLsb' 216 24
  perm := v.extractLsb' 240 12
  kind := v.extractLsb' 252 3
  sealed_ := v.getLsbD 255

/-- The 256 bits of a capability (R115). -/
def Cap.toBits (k : Cap) : W256 :=
  BitVec.ofBool k.sealed_ ++ k.kind ++ k.perm ++ k.gen ++ k.handle ++ k.limit ++ k.base ++ k.offset

/-- The capability in a register. -/
def State.cap (s : State) (r : Reg) : Cap := Cap.ofBits (s.bits r)
/-- Write a tagged capability. -/
def State.setCap (s : State) (r : Reg) (k : Cap) : State := s.setReg r ⟨k.toBits, true⟩

/-- R (R116). -/
def permR : BitVec 12 := 0x001
/-- W (R116). -/
def permW : BitVec 12 := 0x002
/-- X (R116). -/
def permX : BitVec 12 := 0x004
/-- A (R116). -/
def permA : BitVec 12 := 0x008
/-- G (R116). -/
def permG : BitVec 12 := 0x010
/-- C (R116). -/
def permC : BitVec 12 := 0x020
/-- S (R116). -/
def permS : BitVec 12 := 0x040
/-- E (R116). -/
def permE : BitVec 12 := 0x080
/-- P (R116). -/
def permP : BitVec 12 := 0x100
/-- K (R116). -/
def permK : BitVec 12 := 0x200
/-- L (R116). -/
def permL : BitVec 12 := 0x400
/-- M (R116). -/
def permM : BitVec 12 := 0x800

/-- Every right of `need` is held. -/
def Cap.has (k : Cap) (need : BitVec 12) : Bool := k.perm &&& need == need
/-- A walk reference (R190). -/
def Cap.isWalkRef (k : Cap) : Bool := k.handle.getLsbD 23

/-! ### Bytes, memory and tags -/

/-- The number that little-endian bytes hold (R2). -/
def ofBytes : List Byte → Nat
  | [] => 0
  | b :: bs => b.toNat + 256 * ofBytes bs

/-- The `n` low bytes of a number, little-endian (R2). -/
def toBytes (v : Nat) : Nat → List Byte
  | 0 => []
  | n + 1 => .ofNat 8 v :: toBytes (v / 256) n

/-- One byte of memory; an unlisted byte reads 0 (log entry 3). -/
def Memory.byte (m : Memory) (a : Nat) : Byte := (m.lookup a).getD 0

/-- `n` bytes of memory from `a`. -/
def Memory.bytes (m : Memory) (a n : Nat) : List Byte := (List.range n).map fun i => Memory.byte m (a + i)

/-- The cells of bytes from `a` that differ from what an unlisted byte reads as. -/
def cellsAt (a : Nat) : List Byte → Memory
  | [] => []
  | b :: bs => if b = 0 then cellsAt (a + 1) bs else (a, b) :: cellsAt (a + 1) bs

/-- Write bytes from `a`. -/
def Memory.write (m : Memory) (a : Nat) (bs : List Byte) : Memory :=
  m.filter (fun c => c.1 < a) ++ cellsAt a bs ++ m.filter (fun c => a + bs.length ≤ c.1)

/-- Addresses rise strictly from above `lo`, and no byte is 0: the canonical form. -/
def wfFrom : Nat → Memory → Bool
  | _, [] => true
  | lo, (a, b) :: m => lo ≤ a && b != 0 && wfFrom (a + 1) m

/-- The canonical form of memory. -/
def Memory.wf (m : Memory) : Bool := wfFrom 0 m

/-- Key of a place: DRAM by physical address, then scratchpads, accumulator banks, and host memory. -/
def Place.key : Place → Nat
  | .dram pa => pa
  | .spad core off => 2 ^ 40 + core.toNat * 2 ^ 22 + off
  | .acc cluster tile bank off =>
    2 ^ 50 + ((cluster.toNat * 16 + tile.toNat) * 2 + bank.toNat) * 2 ^ 15 + off
  | .host addr => 2 ^ 64 + addr

/-- The key lies in local DRAM, whose addresses have 39 bits (R14). -/
def inDram (key : Nat) : Bool := key < 2 ^ 39
/-- The key lies in a scratchpad. -/
def inSpad (key : Nat) : Bool := 2 ^ 40 ≤ key && key < 2 ^ 50

/-- The tag of the granule that holds `key` (R216). -/
def State.tagAt (s : State) (key : Nat) : Bool := s.tags.contains (key / 32)

/-- Insert into a strictly rising list. -/
def insertSorted (k : Nat) : List Nat → List Nat
  | [] => [k]
  | a :: t => if k < a then k :: a :: t else if k = a then a :: t else a :: insertSorted k t

/-- Set or clear the tag of a granule. -/
def setTag (g : Nat) (b : Bool) (ts : List Nat) : List Nat :=
  if b then insertSorted g ts else ts.filter fun t => t != g

/-- Clear the tags of the granules that `n` bytes from `key` touch (R216). -/
def clearTags (key n : Nat) (ts : List Nat) : List Nat :=
  ts.filter fun t => !(key / 32 ≤ t && t * 32 < key + n)

/-- `n` bytes as the package sees them. -/
def State.bytes (s : State) (key n : Nat) : List Byte := Memory.bytes s.mem key n
/-- The number they hold. -/
def State.nat (s : State) (key n : Nat) : Nat := ofBytes (s.bytes key n)

/-- Write bytes and clear the tags of their granules. -/
def State.write (s : State) (key : Nat) (bs : List Byte) : State :=
  { s with mem := Memory.write s.mem key bs, tags := clearTags key bs.length s.tags }

/-- The vault keeps its bytes of a line that a core's store modifies in an L2, until it is written back (R218, R221). -/
def State.touchLine (s : State) (key : Nat) : State :=
  let line := key / 64 * 64
  if !inDram key || s.dirty.any (fun l => l.1 == line) then s
  else { s with dirty := (line, s.bytes line 64) :: s.dirty }

/-- A line's data goes to its home (R218, R252). -/
def State.writeBack (s : State) (key : Nat) : State :=
  { s with dirty := s.dirty.filter fun l => l.1 != key / 64 * 64 }

/-- A write by a context: the line becomes modified in its cluster's L2 (R218). -/
def State.coreWrite (s : State) (key : Nat) (bs : List Byte) : State := (s.touchLine key).write key bs

/-- A write by an engine, a port or the host: at the bytes' home (R221, R227). -/
def State.homeWrite (s : State) (key : Nat) (bs : List Byte) : State :=
  State.write { s with dirty := s.dirty.filter fun l => l.1 + 64 ≤ key || key + bs.length ≤ l.1 } key bs

/-- The field `[lo + w - 1 : lo]` of a word. -/
def field {n : Nat} (v : BitVec n) (lo w : Nat) : BitVec w := v.extractLsb' lo w

/-- A step that is done. -/
def done (s : State) : Out := .next s

end Sys2Proof.Machine
end

