-- ==== Sys2Proof/Machine/Descriptor.lean ====
section
/-!
DEFINITION. Sys2Proof/Machine/Descriptor.lean: the per-context control registers (R389) and the context descriptor as
its /ctx node shows it (R145, R146, R187, R394). The descriptor's bytes are a view of the context in State: no
capability reaches them through /mem (R145; log entry 8).
-/
namespace Sys2Proof.Machine

/-- ctx.state (R386). -/
def Ctx.stateWord (c : Ctx) : Word := (BitVec.ofBool c.handler ++ BitVec.ofBool c.ie ++ BitVec.ofBool c.priv).setWidth 64

/-- Bits [47:0] of ctx.tile (R147). -/
def Ctx.tileWord (c : Ctx) : Word := (c.tileZ ++ c.tileY ++ c.tileX).setWidth 64
/-- Bits [47:0] of ctx.gang (R147). -/
def Ctx.gangWord (c : Ctx) : Word := (c.count ++ c.member ++ c.gang).setWidth 64
/-- Bits [47:0] of ctx.span (R147). -/
def Ctx.spanWord (c : Ctx) : Word := (c.gangs ++ c.gangIdx ++ c.span).setWidth 64

/-- trap.ctx and its neighbours by number (R382). -/
def TrapRegs.word (t : TrapRegs) (n : Nat) : Word :=
  match n with
  | 0x100 => t.cause.setWidth 64
  | 0x101 => t.pc
  | 0x102 => t.val
  | 0x103 => t.ctx
  | 0x104 => t.vec
  | _ => 0

/-- A per-context control register by number; the wide copy registers give their low 64 bits (R389). -/
def Ctx.ctl (c : Ctx) (n : Nat) : Word :=
  if n = 0x000 then c.id.setWidth 64
  else if n = 0x001 then c.tileWord
  else if n = 0x002 then c.gangWord
  else if n = 0x003 then c.spanWord
  else if n = 0x008 then c.necFlags.setWidth 64
  else if n = 0x00C then c.nameStat
  else if h : 0x010 ≤ n ∧ n < 0x018 then (c.nec[n - 0x010]'(by omega)).setWidth 64
  else if n = 0x020 then c.fpctl.setWidth 64
  else if n = 0x030 then c.stkOvf.setWidth 64
  else if n = 0x040 then c.copy.src.val.setWidth 64
  else if n = 0x041 then c.copy.dst.val.setWidth 64
  else if n = 0x042 then c.copy.shape
  else if n = 0x043 then c.copy.sstride
  else if n = 0x044 then c.copy.dstride
  else if n = 0x045 then c.copy.clip
  else if n = 0x046 then c.copy.bar.val.setWidth 64
  else if n = 0x047 then c.copy.mode
  else if 0x100 ≤ n ∧ n ≤ 0x104 then c.trap.word n
  else if n = 0x108 then c.stateWord
  else if n = 0x109 then c.prio.setWidth 64
  else if n = 0x10A then c.asid.setWidth 64
  else if n = 0x10C then c.saveCnt
  else if n = 0x10D then c.keySlot.setWidth 64
  else 0

/-- The RW bits of the 64-bit copy registers (R275 to R278). -/
def copyMask (n : Nat) : Word :=
  if n = 0x042 then 0x0007FFFFFFFFFFFF
  else if n = 0x043 ∨ n = 0x044 then 0x7FFFFFFFFFFFFFFF
  else if n = 0x045 then 0x8000FFFFFFFFFFFF
  else 0x00000007FFFFFFFF

/-- Give the RW fields of a per-context register the bits of `y`; fields that are RO stay, and W1C is not touched.
Numbers 0x040, 0x041 and 0x046 are written whole elsewhere (R274). -/
def Ctx.setCtl (c : Ctx) (n : Nat) (y : Word) : Ctx :=
  if h : 0x010 ≤ n ∧ n < 0x018 then { c with nec := c.nec.set (n - 0x010) (y.setWidth 32) (by omega) }
  else if n = 0x020 then { c with fpctl := y.setWidth 4 }
  else if n = 0x042 then { c with copy := { c.copy with shape := y &&& copyMask n } }
  else if n = 0x043 then { c with copy := { c.copy with sstride := y &&& copyMask n } }
  else if n = 0x044 then { c with copy := { c.copy with dstride := y &&& copyMask n } }
  else if n = 0x045 then { c with copy := { c.copy with clip := y &&& copyMask n } }
  else if n = 0x047 then { c with copy := { c.copy with mode := y &&& copyMask n } }
  else if n = 0x104 then { c with trap := { c.trap with vec := y } }
  else if n = 0x108 then { c with ie := y.getLsbD 1 }
  else if n = 0x109 then { c with prio := y.setWidth 2 }
  else if n = 0x10D then { c with keySlot := y.setWidth 8 }
  else c

/-- Clear the STICKY bits that `y` names (R109). -/
def Ctx.clearSticky (c : Ctx) (y : Word) : Ctx := { c with necFlags := c.necFlags &&& ~~~(y.setWidth 8) }

/-- Copy register `i` of the wide three: src, dst, bar (R274). -/
def CopyRegs.wide (r : CopyRegs) (n : Nat) : RegVal :=
  if n = 0x040 then r.src else if n = 0x041 then r.dst else r.bar
/-- Write a wide copy register whole (R274). -/
def CopyRegs.setWide (r : CopyRegs) (n : Nat) (v : RegVal) : CopyRegs :=
  if n = 0x040 then { r with src := v } else if n = 0x041 then { r with dst := v } else { r with bar := v }

/-- Word 0 of the header (R146). -/
def Ctx.headWord (c : Ctx) : Word :=
  let res : Nat := match c.res with
    | .dormant => 0 | .resident => 1 | .bound => 2
  let run : Nat := match c.run with
    | .ready => 0 | .sleeping => 1 | .waiting => 2 | .frozen => 3 | .retired => 4
  .ofNat 64 (res + run * 2 ^ 4 + c.savePending.toNat * 2 ^ 8 + c.incomplete.toNat * 2 ^ 9
    + c.protected_.toNat * 2 ^ 10 + c.woken.toNat * 2 ^ 11 + c.pcTag.toNat * 2 ^ 12 + c.qvalid.toNat * 2 ^ 16
    + c.asid.toNat * 2 ^ 32 + c.prio.toNat * 2 ^ 42)

/-- The tag bits at 0x0500 (R145). -/
def Ctx.tagWord (c : Ctx) : Word :=
  (List.range 64).foldl (fun w i => if (c.reg (.ofNat 6 i)).tag then w ||| (1#64 <<< i) else w) 0

/-- The aligned 8 bytes at offset `o` of a descriptor (R145, R146, R389, R394). -/
def Ctx.cdWord (c : Ctx) (o : Nat) : Word :=
  if o = 0x00 then c.headWord
  else if o = 0x08 then c.id.setWidth 64 ||| (c.gangWord <<< 32)
  else if o = 0x10 then (c.gangWord >>> 32) ||| (c.spanWord <<< 16)
  else if o = 0x18 then c.tileWord
  else if 0x20 ≤ o ∧ o < 0x40 then c.pcCap.extractLsb' ((o - 0x20) * 8) 64
  else if o = 0x40 then c.saveCnt
  else if o = 0x48 then c.keySlot.setWidth 64
  else if o = 0x50 then c.exit
  else if o = 0x58 then c.sigPend
  else if 0x100 ≤ o ∧ o < 0x380 then
    let n := (o - 0x100) / 8
    if n = 0x040 ∨ n = 0x041 ∨ n = 0x046 then 0 else c.ctl n
  else if 0x380 ≤ o ∧ o ≤ 0x3C0 then c.ctl (0x100 + (o - 0x380) / 8)
  else if 0x480 ≤ o ∧ o < 0x4A0 then c.copy.src.val.extractLsb' ((o - 0x480) * 8) 64
  else if 0x4A0 ≤ o ∧ o < 0x4C0 then c.copy.dst.val.extractLsb' ((o - 0x4A0) * 8) 64
  else if 0x4C0 ≤ o ∧ o < 0x4E0 then c.copy.bar.val.extractLsb' ((o - 0x4C0) * 8) 64
  else if o = 0x4E0 then
    (BitVec.ofBool c.copy.bar.tag ++ BitVec.ofBool c.copy.dst.tag ++ BitVec.ofBool c.copy.src.tag).setWidth 64
  else if o = 0x500 then c.tagWord
  else if 0x800 ≤ o ∧ o < 0x1000 then
    (c.reg (.ofNat 6 ((o - 0x800) / 32))).val.extractLsb' ((o % 32) * 8) 64
  else if 0x1000 ≤ o ∧ o < 0x1020 then c.save.imgCap.val.extractLsb' ((o - 0x1000) * 8) 64
  else if o = 0x1020 then (BitVec.ofBool c.save.imgCap.tag).setWidth 64
  else if o = 0x1028 then (BitVec.ofBool c.save.saved).setWidth 64
  else if o = 0x1030 then c.save.live
  else if 0x1038 ≤ o ∧ o < 0x1058 then c.save.ranges.extractLsb' ((o - 0x1038) * 8) 64
  else if o = 0x1058 then c.save.hintCyc
  else 0

/-- `n` bytes of a descriptor from offset `o`. -/
def Ctx.cdBytes (c : Ctx) (o n : Nat) : List Byte :=
  (List.range n).map fun i => field (c.cdWord ((o + i) / 8 * 8)) ((o + i) % 8 * 8) 8

/-- Put 64 bits at bit `lo` of 256. -/
def putWord (v : W256) (lo : Nat) (w : Word) : W256 :=
  (v &&& ~~~((BitVec.allOnes 64).setWidth 256 <<< lo)) ||| (w.setWidth 256 <<< lo)

/-- Store to the shadow of a per-context register (R187, R387, R389). A store writes the register whatever its access
under CTL, and the copy registers keep reserved bits so (R281). The four registers of R147 and `PRIV` and `HANDLER`,
which only the creation of the context sets (R386), stay (DEDUCED, log entry 31). -/
def Ctx.setShadow (c : Ctx) (n : Nat) (w : Word) : Ctx :=
  if n = 0x008 then { c with necFlags := w.setWidth 8 }
  else if n = 0x00C then { c with nameStat := w }
  else if n = 0x030 then { c with stkOvf := w.setWidth 48 }
  else if n = 0x042 then { c with copy := { c.copy with shape := w } }
  else if n = 0x043 then { c with copy := { c.copy with sstride := w } }
  else if n = 0x044 then { c with copy := { c.copy with dstride := w } }
  else if n = 0x045 then { c with copy := { c.copy with clip := w } }
  else if n = 0x047 then { c with copy := { c.copy with mode := w } }
  else if n = 0x100 then { c with trap := { c.trap with cause := w.setWidth 8 } }
  else if n = 0x101 then { c with trap := { c.trap with pc := w } }
  else if n = 0x102 then { c with trap := { c.trap with val := w } }
  else if n = 0x103 then { c with trap := { c.trap with ctx := w &&& 0x000001FFFFFFFFFF } }
  else c.setCtl n w

/-- Store the aligned 8 bytes at offset `o`, one of those that R187 opens. -/
def Ctx.setCdWord (c : Ctx) (o : Nat) (w : Word) : Ctx :=
  if 0x100 ≤ o ∧ o < 0x380 then c.setShadow ((o - 0x100) / 8) w
  else if 0x380 ≤ o ∧ o ≤ 0x3C0 then c.setShadow (0x100 + (o - 0x380) / 8) w
  else if 0x480 ≤ o ∧ o < 0x4A0 then
    { c with copy := { c.copy with src := { c.copy.src with val := putWord c.copy.src.val ((o - 0x480) * 8) w } } }
  else if 0x4A0 ≤ o ∧ o < 0x4C0 then
    { c with copy := { c.copy with dst := { c.copy.dst with val := putWord c.copy.dst.val ((o - 0x4A0) * 8) w } } }
  else if 0x4C0 ≤ o ∧ o < 0x4E0 then
    { c with copy := { c.copy with bar := { c.copy.bar with val := putWord c.copy.bar.val ((o - 0x4C0) * 8) w } } }
  else if o = 0x4E0 then
    let k := c.copy
    { c with copy := { k with
        src := { k.src with tag := w.getLsbD 0 }, dst := { k.dst with tag := w.getLsbD 1 }
        bar := { k.bar with tag := w.getLsbD 2 } } }
  else if 0x800 ≤ o ∧ o < 0x1000 then
    let r : Reg := .ofNat 6 ((o - 0x800) / 32)
    c.setReg r ⟨putWord (c.reg r).val ((o % 32) * 8) w, false⟩
  else c

/-- Store bytes at offset `o` of a descriptor: whole 8-byte words that keep their other bytes. A `.cap` store of a
register also writes its tag (R216); the tags of the wide copy registers are bits of the byte at 0x4E0 (R389). -/
def Ctx.setCdBytes (c : Ctx) (o : Nat) (bs : List Byte) (tag : Bool) : Ctx :=
  let words := (List.range ((o % 8 + bs.length + 7) / 8)).map fun i => o / 8 * 8 + 8 * i
  let c := words.foldl (fun c a =>
    let old := toBytes (c.cdWord a).toNat 8
    let new := (List.range 8).map fun i =>
      if o ≤ a + i ∧ a + i < o + bs.length then bs.getD (a + i - o) 0 else old.getD i 0
    c.setCdWord a (.ofNat 64 (ofBytes new))) c
  if 0x800 ≤ o ∧ tag then
    let r : Reg := .ofNat 6 ((o - 0x800) / 32)
    c.setReg r { c.reg r with tag := true }
  else c

end Sys2Proof.Machine
end

