-- ==== Sys2Proof/Machine/Translate.lean ====
section
/-!
DEFINITION. Sys2Proof/Machine/Translate.lean: the ASID table, the walk of the page tables, the leaf's checks and the
TLBs (R413 to R420).
-/
namespace Sys2Proof.Machine

/-- What a translation is for: reading, writing (a store, an atomic, CLZERO, CLINV) or fetching (R415). -/
inductive Acc where
  | read | write | fetch
deriving DecidableEq, Repr

/-- A translation that failed: its cause, whether an entry was malformed (`CODE` 1 of R421), and the untranslated host
address that ATS refused (R420). -/
structure XFault where
  cause : Cause
  malformed : Bool := false
  host : Option Nat := none
deriving DecidableEq, Repr

/-- Where an address of /mem lies (R414): local DRAM, host memory, or a window page of a chip's fabric. -/
inductive Xlate where
  | dram (pa : Nat)
  | host (addr : Nat)
  | fabric (chip : ChipIx) (page : BitVec 28) (off : BitVec 16)
deriving DecidableEq, Repr

/-- The 512 bits of an ASID's entry of the ASID table (R413). -/
def State.asidEntry (s : State) (a : Asid) : Nat :=
  let pa := s.pkg.asidTab.toNat + 64 * a.toNat
  if inDram (pa + 63) then s.nat pa 64 else 0

/-- `V` of an ASID (R413). -/
def State.asidLive (s : State) (a : Asid) : Bool := bitsOf (s.asidEntry a) 0 1 == 1
/-- `PART` of an ASID (R413). -/
def State.asidPart (s : State) (a : Asid) : BitVec 8 := .ofNat 8 (bitsOf (s.asidEntry a) 232 8)
/-- `FN` of an ASID (R413). -/
def State.asidFn (s : State) (a : Asid) : FnIx := .ofNat 7 (bitsOf (s.asidEntry a) 240 7)

/-- An entry is malformed, at a level that is the first (`l0`) or the last (`l3`), where a leaf maps 2^shift bytes and
the next table has 2^next bytes (R415). Tables lie in local DRAM (R414). -/
def pteMalformed (pte : Nat) (l0 l3 : Bool) (shift next : Nat) : Bool :=
  let tbl := bitsOf pte 8 1 == 1
  let kind := bitsOf pte 5 2
  let frame := bitsOf pte 16 36
  let sub := bitsOf pte 56 8
  let addr := frame * 2 ^ 16 + sub * 256
  (l0 && !tbl) || (l3 && tbl) || bitsOf pte 9 7 != 0 || kind == 3
    || (tbl && (addr % 2 ^ next != 0 || !inDram addr))
    || (!tbl && frame * 2 ^ 16 % 2 ^ shift != 0)
    || (!tbl && kind == 0 && bitsOf pte 39 13 != 0)
    || (bitsOf pte 7 1 == 1 && (bitsOf pte 1 1 == 1 || kind != 0))

/-- A leaf that the walk has found. -/
structure Leaf where
  pte : Nat
  shift : Nat
  pteAddr : Nat
deriving DecidableEq, Repr

/-- The walk over the levels that remain: for each, the lowest VA bit it takes, how many bits, and the size of the next
table as a power of two (R413, R415). -/
def State.walkLevels (s : State) (va : Nat) : List (Nat × Nat × Nat) → Nat → Bool → Except XFault Leaf
  | [], _, _ => .error { cause := .pageFault, malformed := true }
  | (shift, n, next) :: rest, table, l0 =>
    let addr := table + 8 * bitsOf va shift n
    let pte := if inDram addr then s.nat addr 8 else 0
    if !inDram addr then .error { cause := .pageFault, malformed := true }
    else if bitsOf pte 0 1 = 0 then .error { cause := .pageFault }
    else if pteMalformed pte l0 rest.isEmpty shift next then .error { cause := .pageFault, malformed := true }
    else if bitsOf pte 8 1 = 1 then
      s.walkLevels va rest (bitsOf pte 16 36 * 2 ^ 16 + bitsOf pte 56 8 * 256) false
    else .ok ⟨pte, shift, addr⟩

/-- The four levels (R413). -/
def xlateLevels : List (Nat × Nat × Nat) := [(39, 9, 12), (30, 9, 12), (21, 9, 8), (16, 5, 0)]

/-- The walk of an ASID's tables (R413, R415). An ASID that is not live translates nothing. -/
def State.walk (s : State) (a : Asid) (va : Nat) : Except XFault Leaf :=
  let e := s.asidEntry a
  if bitsOf e 0 1 = 0 then .error { cause := .pageFault, malformed := true }
  else s.walkLevels va xlateLevels (bitsOf e 12 40 * 2 ^ 12) true

/-- The checks of a leaf, in their order (R415). -/
def State.leafCheck (s : State) (a : Asid) (pte : Nat) (acc : Acc) : Option Cause :=
  let e := s.asidEntry a
  let frame := bitsOf pte 16 23
  if acc = .write ∧ bitsOf pte 7 1 = 1 then some .rdupWrite
  else if acc = .write ∧ bitsOf pte 1 1 = 0 then some .pageProt
  else if acc = .fetch ∧ bitsOf pte 2 1 = 0 then some .pageProt
  else if bitsOf pte 5 2 = 0 ∧ (frame < bitsOf e 64 23 ∨ bitsOf e 96 23 < frame) then some .violation
  else none

/-- Where a leaf puts an address; a host page that ATS refuses faults (R414, R420). -/
def State.leafAddr (s : State) (pte shift va : Nat) : Except XFault Xlate :=
  let pa := bitsOf pte 16 36 * 2 ^ 16 + va % 2 ^ shift
  match bitsOf pte 5 2 with
  | 0 => .ok (.dram pa)
  | 1 => if s.hostAbsent.contains (pa / 4096) then .error { cause := .pageFault, host := some pa } else .ok (.host pa)
  | _ => .ok (.fabric (.ofNat 8 (pa / 2 ^ 44)) (.ofNat 28 (pa / 2 ^ 16)) (.ofNat 16 pa))

/-- The fabric MMU's answer for an access of this package's window (R364, R365): where the page lies. -/
def State.fabricPage (s : State) (part : BitVec 8) (page : BitVec 28) (off : BitVec 16) (store atomic : Bool) :
    Option Nat :=
  (s.fabric.find? fun e => e.part == part && e.page == page).bind fun e =>
    let v := e.value
    if !v.getLsbD 0 || (store && !v.getLsbD 1) || (atomic && !v.getLsbD 2) || v.extractLsb' 48 8 != part then none
    else some ((v.extractLsb' 16 23).toNat * 2 ^ 16 + off.toNat)

/-- Where a fabric page homed on this chip puts a load's bytes, through the chip's own fabric MMU (R364): none where the
page is another chip's; an error where the MMU refuses. -/
def State.ownPage (s : State) (a : Asid) (chip : ChipIx) (page : BitVec 28) (off : BitVec 16) :
    Option (Except Unit Nat) :=
  if chip != s.pkg.chip then none
  else match s.fabricPage (s.asidPart a) page off false false with
    | some key => some (.ok key)
    | none => some (.error ())

/-- The chip that homes a fabric page refuses an access now, or cannot be reached (R365; log entry 35). -/
def State.farRefused (s : State) (chip : ChipIx) (page : BitVec 28) : Bool :=
  Config.farRefuses s.cycle.toNat (chip.toNat * 2 ^ 28 + page.toNat)

/-- Set bits of the low byte of a PTE, by an atomic OR at its home (R416). -/
def State.orPte (s : State) (addr bits : Nat) : State :=
  s.homeWrite addr [s.bytes addr 1 |>.headD 0 |> (· ||| .ofNat 8 bits)]

/-- The entry of a TLB that covers an address (R417). -/
def tlbCovers (tlb : List TlbEntry) (a : Asid) (va : Nat) : Option TlbEntry :=
  tlb.find? fun t => t.asid == a && t.va == va / 2 ^ t.shift * 2 ^ t.shift

/-- A TLB of `n` entries with one more, in place of an entry for the same leaf. -/
def tlbWith (tlb : List TlbEntry) (n : Nat) (e : TlbEntry) : List TlbEntry :=
  (e :: tlb.filter fun t => !(t.asid == e.asid && t.va == e.va && t.shift == e.shift)).take n

/-- Fill the TLB of a cluster (R417). -/
def State.fillTlb (s : State) (cl : ClusterIx) (e : TlbEntry) : State :=
  s.updCluster cl fun c => { c with tlb := tlbWith c.tlb 4096 e }
/-- Fill the L1 TLB of a core (R417). -/
def State.fillL1 (s : State) (core : CoreIx) (e : TlbEntry) : State :=
  s.updCore core fun c => { c with tlb := tlbWith c.tlb 64 e }

/-- Translate an address by the entry that a TLB holds for it, by the walk otherwise; `fill` takes the entry into the
TLBs, `fresh` where the walk gave it or its leaf has changed. A leaf that enters a TLB gets `A`; the first store through an
entry with `D` clear sets `D` (R415 to R417). -/
def State.translateBy (s : State) (hit : Option TlbEntry) (fill : Bool → TlbEntry → State → State) (a : Asid) (va : Nat)
    (acc : Acc) : Except XFault (Xlate × State) :=
  match (match hit with
    | some t => Except.ok ⟨t.pte.toNat, t.shift, t.pteAddr⟩
    | none => s.walk a va : Except XFault Leaf) with
  | .error f => .error f
  | .ok leaf =>
    match s.leafCheck a leaf.pte acc with
    | some c => .error { cause := c }
    | none =>
      match s.leafAddr leaf.pte leaf.shift va with
      | .error f => .error f
      | .ok x =>
        let setA := hit.isNone && bitsOf leaf.pte 4 1 == 0
        let setD := acc == .write && bitsOf leaf.pte 3 1 == 0
        let bits := (if setA then 16 else 0) + (if setD then 8 else 0)
        let s1 := if bits = 0 then s else s.orPte leaf.pteAddr bits
        let base := va / 2 ^ leaf.shift * 2 ^ leaf.shift
        .ok (x, fill (hit.isNone || bits != 0) ⟨a, base, leaf.shift, .ofNat 64 (leaf.pte + bits), leaf.pteAddr⟩ s1)

/-- Translate an address for an agent of a cluster: through that cluster's TLB (R417; log entry 36). -/
def State.translate (s : State) (cl : ClusterIx) (a : Asid) (va : Nat) (acc : Acc) :
    Except XFault (Xlate × State) :=
  s.translateBy (tlbCovers (s.cluster cl).tlb a va) (fun fresh e s => if fresh then s.fillTlb cl e else s) a va acc

/-- Translate an address for a core: through its L1 TLB, then its cluster's TLB (R417). -/
def State.coreTranslate (s : State) (core : CoreIx) (a : Asid) (va : Nat) (acc : Acc) :
    Except XFault (Xlate × State) :=
  let cl := clusterOf core
  let l1 := tlbCovers (s.core core).tlb a va
  s.translateBy (l1.or (tlbCovers (s.cluster cl).tlb a va))
    (fun fresh e s =>
      let s := if fresh then s.fillTlb cl e else s
      if fresh || l1.isNone then s.fillL1 core e else s) a va acc

/-- Send a page request for a host page: the lowest group index of the function with no response outstanding, with the
last-request flag (R420, R423). -/
def State.pageRequest (s : State) (fn : FnIx) (addr : Nat) (write : Bool) : BitVec 9 × State :=
  let prg : BitVec 9 := .ofNat 9 (((List.range 512).find? fun i => !s.prgs.contains (fn, .ofNat 9 i)).getD 511)
  (prg, { s with prgs := (fn, prg) :: s.prgs, host := s.host ++ [.pageRequest fn prg addr write] })

end Sys2Proof.Machine
end

