-- ==== Sys2Proof/Machine/Access.lean ====
section
/-!
DEFINITION. Sys2Proof/Machine/Access.lean: what an access through a capability reaches, and its checks in their order
(R22, R120, R187, R215, R217, R226); plane windows (R103, R104); reading a target with the context's own pending bytes
(R220, R225); queue rings (R209, R211, R255).
-/
namespace Sys2Proof.Machine

/-- What a check that fails gives: the cause and trap.val. -/
abbrev Bad := Cause × Word

/-! ### Handles and nodes -/

/-- A live handle slot with this generation (R188). -/
def State.handleAt (s : State) (a : Asid) (h g : BitVec 24) : Option Handle :=
  (s.space a).handles.find? fun k => k.ix == h && k.gen == g && (k.node.isSome || k.foreign.isSome)

/-- A live node by its index (R189). -/
def State.nodeAt (s : State) (a : Asid) (ix : BitVec 23) : Option Node :=
  (s.space a).nodes.find? fun n => n.ix == ix && n.live

/-- Change a node. -/
def State.updNode (s : State) (a : Asid) (ix : BitVec 23) (f : Node → Node) : State :=
  s.updSpace a fun sp => { sp with nodes := sp.nodes.map fun n => if n.ix = ix then f n else n }

/-- Change a handle slot. -/
def State.updHandle (s : State) (a : Asid) (ix : BitVec 24) (f : Handle → Handle) : State :=
  s.updSpace a fun sp => { sp with handles := sp.handles.map fun h => if h.ix = ix then f h else h }

/-- The node that a handle is open on; a foreign handle's is the context node it names, while that context exists
(R408). -/
def State.openNode (s : State) (a : Asid) (h g : BitVec 24) : Option Node :=
  (s.handleAt a h g).bind fun k =>
    match k.foreign with
    | some id => if id = 0 then none else some { ix := 0, body := .ctx id, extent := 8192 }
    | none => k.node.bind (s.nodeAt a)

/-- Node kinds (R117, R187). -/
def NodeBody.kind : NodeBody → BitVec 3
  | .mem | .raw .. | .plane .. | .cx8 .. | .stash .. | .acc .. | .host .. | .pkg | .stack .. | .sub .. => 0
  | .queue .. => 1
  | .engine .. => 2
  | .ctx .. => 3
  | .heap .. => 4
  | .wit .. => 5
  | .peerRoot .. | .peerNode .. => 6
  | .dir .. => 7

/-- The checks of R22 in their order, for `n` bytes at `eff`; the generation comes last (R120, R121). -/
def State.capCheck (s : State) (a : Asid) (v : RegVal) (need : BitVec 12) (eff : Word) (n : Nat) : Option Cause :=
  let k := Cap.ofBits v.val
  if !v.tag then some .capTag
  else if k.sealed_ then some .capSealed
  else if !k.has need then some .capPerm
  else if !(k.base.toNat ≤ eff.toNat && eff.toNat + n ≤ k.limit.toNat) then some .capBounds
  else if (s.openNode a k.handle k.gen).isNone then some .capStale
  else none

/-- The checks of a form that makes no bounds check: tag, seal, permission, kind, generation (R172, R212, R300, R401). -/
def State.handleCheck (s : State) (a : Asid) (v : RegVal) (need : BitVec 12) (kinds : List (BitVec 3)) :
    Option Cause :=
  let k := Cap.ofBits v.val
  if !v.tag then some .capTag
  else if k.sealed_ then some .capSealed
  else if !k.has need || !kinds.contains k.kind then some .capPerm
  else if (s.openNode a k.handle k.gen).isNone then some .capStale
  else none

/-! ### Where an access goes -/

/-- How an access is made (R215, R217). -/
structure Access where
  acc : Acc
  n : Nat
  size : MemSize
  strong : Bool := false
  atom : Bool := false
  /-- an access of `n` bytes whose alignment its own rule has settled: a line, or an engine's sector -/
  free : Bool := false
deriving DecidableEq, Repr

/-- R217 for places that hold bytes: within one sector up to 8 bytes, naturally aligned otherwise. -/
def Access.aligned (q : Access) (off : Nat) : Bool :=
  q.free || (if q.strong || 16 ≤ q.n then off % q.n == 0 else off % 32 + q.n ≤ 32)

/-- A store through a plane or cx8 window: 32 bytes, aligned (R103, R217). -/
def Access.wholeSector (q : Access) (off : Nat) : Bool := !q.atom && q.n == 32 && off % 32 == 0

/-- Bytes of a launch's stack carve-out: where offset 2^32 - L lies (R226). -/
def Ctx.stackKey (c : Ctx) (off : Nat) : Nat := (Place.spad c.stackCore (c.stackBase + (off - (2 ^ 32 - c.stackSize)))).key

/-- An address of /mem: alignment on the virtual address, then translation (R215). trap.val is the effective offset for
ALIGN (R217) and the virtual address for a translation fault (R215, R381). -/
def State.reachMem (s : State) (core : CoreIx) (a : Asid) (va : Nat) (q : Access) (eff : Word) :
    Except Bad (Target × State) :=
  if 2 ^ 48 < va + q.n then .error (.capBounds, eff)
  else if !q.aligned va then .error (.align, eff)
  else
    match s.coreTranslate core a va q.acc with
    | .error f => .error (f.cause, .ofNat 64 va)
    | .ok (.dram pa, s) => .ok (.bytes pa true, s)
    | .ok (.host addr, s) =>
      .ok (.bytes (Place.host addr).key false, s)
    | .ok (.fabric chip page off, s) => .ok (.fabric chip page off (.ofNat 64 va), s)

/-- Storage of an allotment (R224), aligned on the effective offset (R217). `tags`: it is reached through a raw window; 32
bytes that are no granule, which a node that MKNODE made at an unaligned offset can reach, hold no tag (R216). -/
def reachSpad (s : State) (core : CoreIx) (base off : Nat) (tags : Bool) (q : Access) (eff : Word) :
    Except Bad (Target × State) :=
  let key := (Place.spad core (base + off)).key
  if q.aligned eff.toNat then .ok (.bytes key (tags && key % 32 == 0), s) else .error (.align, eff)

/-- An own-tile check of R313. -/
def State.ownsTile (s : State) (cl : ClusterIx) (tile : Nat) (a : Asid) : Bool :=
  if h : tile < 16 then (s.cluster cl).own[tile] == 0x200#10 ||| a.setWidth 10 else false

/-- Bank of a tile that is visible (R312). -/
def State.visibleBank (s : State) (cl : ClusterIx) (tile : Nat) : Bool := (s.cluster cl).visible.getLsbD tile

/-- Bytes of a witness tile's body, from its header as the scratchpad stands (R335). -/
def State.witBytes (s : State) (key : Nat) : Nat := bitsOf (s.nat key 32) 144 32

/-- `n` bytes of a slot's witness from byte `off` on, as it stands: zero past its end, and where no witness is valid (R334). -/
def State.witView (s : State) (cl : ClusterIx) (n : BitVec 4) (off count : Nat) : List Byte :=
  let w := (s.cluster cl).wit[n.toNat]'n.isLt
  let key := (Place.spad (memberCore cl w.core.toNat) w.base).key
  let limit := if w.valid then 32 + s.witBytes key else 0
  (List.range count).map fun i => if off + i < limit then Memory.byte s.mem (key + off + i) else 0

/-- The node that a node stands on, through the nodes that MKNODE made (R209). -/
def State.baseBody (s : State) (a : Asid) : Nat → NodeBody → NodeBody
  | 0, b => b
  | fuel + 1, b =>
    match b with
    | .sub h g _ =>
      match s.openNode a h g with
      | some n => s.baseBody a fuel n.body
      | none => b
    | b => b

/-- The node that a node stands on, with the offset there of an offset in it (R209). -/
def State.basePlace (s : State) (a : Asid) : Nat → NodeBody → Nat → NodeBody × Nat
  | 0, b, off => (b, off)
  | fuel + 1, b, off =>
    match b with
    | .sub h g base =>
      match s.openNode a h g with
      | some n => s.basePlace a fuel n.body (base + off)
      | none => (b, off)
    | b => (b, off)

/-- What an open handle's node stands on, with the place there of an offset in the node. -/
def State.handlePlace (s : State) (a : Asid) (k : Cap) (off : Nat) : Option (NodeBody × Nat) :=
  (s.openNode a k.handle k.gen).map fun n => s.basePlace a ((s.space a).nodes.length + 1) n.body off

/-- The virtual address of a capability's offset, through /mem or a stack's overflow part. -/
def State.capVa (s : State) (a : Asid) (k : Cap) : Word :=
  match s.handlePlace a k k.offset.toNat with
  | some (.stack id, off) => .ofNat 64 (((s.getCtx id).map fun c => c.stkOvf.toNat).getD 0 + off)
  | some (_, off) => .ofNat 64 off
  | none => k.offset

/-- The body that an open handle's node stands on. -/
def State.handleBase (s : State) (a : Asid) (k : Cap) : Option NodeBody :=
  (s.openNode a k.handle k.gen).map fun n => s.baseBody a ((s.space a).nodes.length + 1) n.body

/-- The node rules: kind, then alignment, then translation (R187, R215). `eff` is the effective offset, on which alignment is
checked and which trap.val reports (R217); `off` is the offset in this node, on which a plane or cx8 window checks its
sectors too (R103). `fuel` bounds the chain of nodes made by MKNODE. -/
def State.reach (s : State) (c : Ctx) (a : Asid) (eff : Word) (q : Access) :
    Nat → NodeBody → Nat → Option (BitVec 24) → Except Bad (Target × State)
  | fuel, body, off, handle =>
    match body with
    | .mem => s.reachMem c.core a off q eff
    | .raw core base => reachSpad s core base off true q eff
    | .cx8 core base =>
      if q.acc = .write && !q.free && !(q.wholeSector off && q.wholeSector eff.toNat) then .error (.align, eff)
      else reachSpad s core base off false q eff
    | .stash core base =>
      if !q.aligned eff.toNat then .error (.align, eff) else .ok (.stash (Place.spad core (base + off)).key, s)
    | .plane core base ty planes =>
      if q.free && q.acc = .read && ty = .cx8 && !(q.n == 32 && off % 32 == 0) then .error (.align, eff)
      else if !q.free && (q.acc = .write || ty = .cx8) && !(q.wholeSector off && q.wholeSector eff.toNat) then
        .error (.align, eff)
      else if !q.aligned eff.toNat then .error (.align, eff)
      else .ok (.plane (Place.spad core base).key ty planes off, s)
    | .acc cl tile =>
      if !s.ownsTile cl tile.toNat a then .error (.capPerm, eff)
      else if q.acc = .write then .error (.capPerm, eff)
      else if !q.aligned eff.toNat then .error (.align, eff)
      else .ok (.bytes (Place.acc cl tile (s.visibleBank cl tile.toNat) off).key false, s)
    | .wit cl n =>
      let w := (s.cluster cl).wit[n.toNat]'n.isLt
      if q.acc = .write || !s.ownsTile cl n.toNat a then .error (.capPerm, eff)
      else if !q.aligned eff.toNat then .error (.align, eff)
      else
        let key := (Place.spad (memberCore cl w.core.toNat) w.base).key
        .ok (.wit (key + off) cl n off, s)
    | .engine _ | .heap _ | .dir _ => .error (.capPerm, eff)
    | .ctx id =>
      let open_ := (0x100 ≤ off && off + q.n ≤ 0x500) || (0x800 ≤ off && off + q.n ≤ 0x1000)
      let bound := (s.getCtx id).any fun k => k.res == .bound
      if q.acc = .write && (!open_ || bound || (!c.priv && off < 0x480 && 0x380 < off + q.n)) then
        .error (.capPerm, eff)
      else if !q.aligned eff.toNat then .error (.align, eff)
      else .ok (.ctx id off, s)
    | .host addr =>
      if q.aligned eff.toNat then .ok (.bytes (Place.host (addr + off)).key false, s) else .error (.align, eff)
    | .pkg => if q.n != 8 || off % 8 != 0 || !q.aligned eff.toNat then .error (.align, eff) else .ok (.pkg off, s)
    | .stack id =>
      match s.getCtx id with
      | none => .error (.capStale, eff)
      | some k =>
        if 2 ^ 32 - k.stackSize ≤ off then
          if !k.stackHeld then .error (.capStale, eff)
          else if q.aligned eff.toNat then .ok (.bytes (k.stackKey off) (k.stackKey off % 32 == 0), s)
          else .error (.align, eff)
        else s.reachMem c.core a (k.stkOvf.toNat + off) q eff
    | .sub h g base =>
      match fuel with
      | 0 => .error (.capStale, eff)
      | fuel + 1 =>
        match s.openNode a h g with
        | none => .error (.capStale, eff)
        | some n => s.reach c a eff q fuel n.body (base + off) (some h)
    | .queue ring =>
      match handle with
      | none => .error (.queueFault, eff)
      | some h =>
        if (s.openNode a ring.handle ring.gen).isNone then .error (.capStale, eff)
        else if q.atom then .error (.capPerm, eff)
        else if q.acc = .write then
          if q.size = .b256 || q.size = .cap then .error (.queueFault, eff)
          else if !q.aligned eff.toNat then .error (.align, eff)
          else .ok (.queue a (((s.space a).handles.find? fun k => k.ix == h).bind (·.node) |>.getD 0) (.ofNat 64 off), s)
        else if q.n != 8 || off != 0 then .error (.queueFault, eff)
        else .ok (.queue a (((s.space a).handles.find? fun k => k.ix == h).bind (·.node) |>.getD 0) 0, s)
    | .peerRoot _ | .peerNode .. =>
      match handle with
      | none => .error (.capStale, eff)
      | some h => if !q.aligned eff.toNat then .error (.align, eff) else .ok (.peer a h (.ofNat 64 off), s)

/-- The ASID of an entry of a name cache. -/
def NameEntry.asid : NameEntry → Asid
  | .handle a .. | .binding a .. => a

/-- The entry holds one of these handle slots of an ASID. -/
def NameEntry.ofHandles (a : Asid) (hs : List (BitVec 24)) : NameEntry → Bool
  | .handle b ix _ _ => a == b && hs.contains ix
  | .binding .. => false

/-- An entry enters the name cache of a cluster (R191). -/
def State.cacheEntry (s : State) (cl : ClusterIx) (e : NameEntry) : State :=
  if (s.cluster cl).names.contains e then s
  else s.updCluster cl fun c => { c with names := (e :: c.names).take 4096 }

/-- The name unit of a cluster has looked up a handle slot: on a miss its entry is filled (R191). -/
def State.cacheHandle (s : State) (cl : ClusterIx) (a : Asid) (h g : BitVec 24) : State :=
  s.cacheEntry cl (.handle a h g ((s.handleAt a h g).bind (·.node)))

/-- A whole check of an access of `q.n` bytes at `eff` through the capability of `v`, and where it goes (R215). A
forwarded access needs P besides its own right (R198). -/
def State.accessAt (s : State) (c : Ctx) (v : RegVal) (need : BitVec 12) (eff : Word) (q : Access) :
    Except Bad (Target × State) :=
  let k := Cap.ofBits v.val
  match s.capCheck c.asid v (if k.kind = 6 then need ||| permP else need) eff q.n with
  | some cause => .error (cause, eff)
  | none =>
    match s.openNode c.asid k.handle k.gen with
    | none => .error (.capStale, eff)
    | some n =>
      match s.reach c c.asid eff q ((s.space c.asid).nodes.length + 1) n.body eff.toNat (some k.handle) with
      | .error b => .error b
      | .ok (t, s) => .ok (t, s.cacheHandle (clusterOf c.core) c.asid k.handle k.gen)

/-! ### Plane windows (R102, R103) -/

/-- Bytes of one operand tile at `p` planes (R102). -/
def planeTile (p : Nat) : Nat := 1024 + 2048 * p

/-- Where an element offset falls: tile, row, block, and byte within the block (R103). -/
structure PlanePos where
  tile : Nat
  row : Nat
  block : Nat
  byte : Nat
deriving DecidableEq, Repr

/-- Bytes of a block of 32 elements as the window presents it: 4 for each bit of an element. -/
def blockBytes (ty : ElemType) : Nat := 4 * ty.bits

/-- The position of an element offset (R103). -/
def planePos (ty : ElemType) (off : Nat) : PlanePos :=
  let bb := blockBytes ty
  ⟨off / (512 * bb), off / (8 * bb) % 64, off / bb % 8, off % bb⟩

/-- The stored block of a window at `key` (R102). -/
def State.planeBlock (s : State) (key : Nat) (ty : ElemType) (p : Nat) (w : PlanePos) : PlaneBlock :=
  let base := key + w.tile * planeTile p
  let planes := (List.range p).map fun i => s.nat (base + 1024 + 2048 * i + 32 * w.row + 4 * w.block) 4
  let elem (k : Nat) : Nat := (planes.zipIdx.foldl (fun v (x, i) => v + bitsOf x k 1 * 2 ^ i) 0)
  ⟨s.nat (base + 16 * w.row + 2 * w.block) 2,
    (List.range 32).map fun k => if ty = .b1 then (elem k : Int) else sextInt (elem k) p⟩

/-- Store a block (R102). -/
def State.putBlock (s : State) (key p : Nat) (w : PlanePos) (b : PlaneBlock) : State :=
  let base := key + w.tile * planeTile p
  let s := s.write (base + 16 * w.row + 2 * w.block) (toBytes b.eb 2)
  (List.range p).foldl (fun s i =>
    let bits := b.a.zipIdx.foldl (fun v (x, k) => v + bitsOf (wrapNat x p) i 1 * 2 ^ k) 0
    s.write (base + 1024 + 2048 * i + 32 * w.row + 4 * w.block) (toBytes bits 4)) s

/-- The bytes of a block as a reader of the window sees them (R103). -/
def blockView (ty : ElemType) (p : Nat) (b : PlaneBlock) : List Byte :=
  if ty = .cx8 then toBytes (b.readCx p) 32
  else toBytes ((b.read ty p).zipIdx.foldl (fun v (x, i) => v + x * 2 ^ (ty.bits * i)) 0) (blockBytes ty)

/-- `n` bytes of a window at an element offset (R103). -/
def State.planeBytes (s : State) (key : Nat) (ty : ElemType) (p off n : Nat) : List Byte :=
  let bb := blockBytes ty
  let blocks := (List.range ((off % bb + n + bb - 1) / bb)).flatMap fun i =>
    blockView ty p (s.planeBlock key ty p (planePos ty (off / bb * bb + bb * i)))
  (blocks.drop (off % bb)).take n

/-- Arrival record of a block (R103). -/
def arrivalKey (key : Nat) (ty : ElemType) (p : Nat) (w : PlanePos) : Nat × Nat × ElemType × Nat × Nat :=
  (key, p, ty, w.tile * 64 + w.row, w.block)

/-- One sector of 32 bytes arrives at a window: each block whose last sector it brings is packed, and the events are
those of the packing (R103, R104). -/
def State.planeWrite (s : State) (key : Nat) (ty : ElemType) (p off : Nat) (data : List Byte) : State × List Ev :=
  let bb := blockBytes ty
  if ty = .cx8 then
    let (b, ev) := packCx p (ofBytes data)
    (s.putBlock key p (planePos ty off) b, ev)
  else if bb ≤ 32 then
    (List.range (32 / bb)).foldl (fun (s, ev) i =>
      let raw := ofBytes ((data.drop (bb * i)).take bb)
      let (b, e) := packBlock ty p ((List.range 32).map fun k => bitsOf raw (ty.bits * k) ty.bits)
      (s.putBlock key p (planePos ty (off + bb * i)) b, ev ++ e)) (s, [])
  else
    let w := planePos ty off
    let k := arrivalKey key ty p w
    let had := (s.arrivals.lookup k).getD []
    let now := (w.byte / 32, BitVec.ofNat 256 (ofBytes data)) :: had.filter fun x => x.1 != w.byte / 32
    let rest := s.arrivals.filter fun x => x.1 != k
    if now.length = bb / 32 then
      let raw := now.foldl (fun v x => v + x.2.toNat * 2 ^ (256 * x.1)) 0
      let (b, e) := packBlock ty p ((List.range 32).map fun j => bitsOf raw (ty.bits * j) ty.bits)
      (State.putBlock { s with arrivals := rest } key p w b, e)
    else ({ s with arrivals := (k, now) :: rest }, [])

/-- CLZERO through a window: each block of the line becomes a zero block and loses its arrivals (R103). -/
def State.planeZero (s : State) (key : Nat) (ty : ElemType) (p off : Nat) : State :=
  let bb := blockBytes ty
  (List.range ((64 + bb - 1) / bb)).foldl (fun s i =>
    let w := planePos ty (off + bb * i)
    let s := { s with arrivals := s.arrivals.filter fun x => x.1 != arrivalKey key ty p w }
    s.putBlock key p w ⟨ebZero, List.replicate 32 0⟩) s

/-! ### Event counters of a context (R108 to R110) -/

/-- Add counts to nec.0 to nec.7, which stop at 2^32 - 1, and set their STICKY bits (R108, R109). An event that
meets a counter at its limit sets the bit too (DESIGN CHOICE, log entry 69). -/
def Ctx.addCounts (c : Ctx) (ns : List Nat) : Ctx :=
  { c with
    nec := Vector.ofFn fun i =>
      .ofNat 32 (min ((c.nec[i]).toNat + ns.getD i.val 0) 0xFFFFFFFF)
    necFlags := (List.range 8).foldl (fun f i => if ns.getD i 0 = 0 then f else f ||| (1#8 <<< i)) c.necFlags }

/-- Add the events of several elements to a context. -/
def State.countFor (s : State) (id : BitVec 32) (evs : List Ev) : State :=
  if evs.isEmpty then s else s.updCtx id (·.addCounts (evCounts evs))

/-! ### Package registers (R390, R443) -/

/-- The value of a package register; a number that names none reads zero (R390, R442). -/
def State.pkgRead (s : State) (n : Nat) : Word :=
  let p := s.pkg
  if n = 0x800 then (p.part ++ p.chip).setWidth 64
  else if n = 0x801 then p.idle
  else if n = 0x802 then p.watts.setWidth 64
  else if n = 0x804 then p.corr
  else if n = 0x805 then p.unc
  else if n = 0x810 then p.asidTab
  else if n = 0x812 then p.tlbDone
  else if n = 0x840 then p.lrp
  else if h : 0x880 ≤ n ∧ n < 0x8C1 then (p.weights[n - 0x880]'(by omega)).setWidth 64
  else if h : 0x900 ≤ n ∧ n < 0x980 then
    let q := s.queues[(n - 0x900) / 4]'(by omega)
    match n % 4 with
    | 0 => (q.log2n ++ q.base).setWidth 64
    | 1 => (q.state ++ BitVec.ofBool q.en ++ q.asid ++ q.fn).setWidth 64
    | 2 => q.tail.setWidth 64
    | _ => q.head.setWidth 64
  else if h : 0xA00 ≤ n ∧ n < 0xA41 then
    (p.maxScope[n - 0xA00]'(by omega) ++ BitVec.ofBool (p.frozen[n - 0xA00]'(by omega))).setWidth 64
  else if h : 0xA80 ≤ n ∧ n < 0xAC1 then (p.clamp[n - 0xA80]'(by omega)).setWidth 64
  else if h : 0xB00 ≤ n ∧ n < 0xB30 then
    (p.meas[(n - 0xB00) / 6]'(by omega)).extractLsb' ((n - 0xB00) % 6 * 64) 64
  else 0

/-! ### Reading (R220, R225) -/

/-- Bytes laid over others at an index. -/
def overlay (base : List Byte) (at_ : Nat) (bs : List (Nat × Byte)) : List Byte :=
  base.zipIdx.map fun (b, i) => ((bs.find? fun x => x.1 == at_ + i).map (·.2)).getD b

/-- The pending bytes of a store queue over the same kind of place: the youngest store to a byte gives it (R220). -/
def StoreEntry.pieces (e : StoreEntry) (t : Target) : List (Nat × Byte) :=
  let data := toBytes e.data.toNat e.n
  match e.target, t with
  | .bytes k _, .bytes _ _ | .bytes k _, .stash _ => data.zipIdx.map fun (b, i) => (k + i, b)
  | .plane k ty p off, .plane k' ty' p' _ =>
    if k = k' ∧ ty = ty' ∧ p = p' then data.zipIdx.map fun (b, i) => (off + i, b) else []
  | .ctx id off, .ctx id' _ => if id = id' then data.zipIdx.map fun (b, i) => (off + i, b) else []
  | .pkg off, .pkg _ => data.zipIdx.map fun (b, i) => (off + i, b)
  | .fabric c p off _, .fabric c' p' _ _ =>
    if c = c' ∧ p = p' then data.zipIdx.map fun (b, i) => (off.toNat + i, b) else []
  | _, _ => []

/-- The first byte of a target in the numbering that `pieces` uses. -/
def Target.start : Target → Nat
  | .bytes k _ | .stash k | .wit k .. => k
  | .plane _ _ _ off => off
  | .ctx _ off | .pkg off => off
  | .fabric _ _ off _ => off.toNat
  | .queue .. | .peer .. => 0

/-- The scratchpad bytes or other bytes that an access rests on: through a plane window, its whole tile (R102, R224). -/
def Target.storage (t : Target) (n : Nat) : Option (Nat × Nat) :=
  match t with
  | .bytes k _ | .stash k | .wit k .. => some (k, n)
  | .plane k ty p off => some (k + off / (2048 * ty.bits) * planeTile p, planeTile p)
  | .ctx .. | .queue .. | .peer .. | .pkg _ | .fabric .. => none

/-- Two accesses touch a common byte. -/
def Target.meets (t : Target) (n : Nat) (u : Target) (m : Nat) : Bool :=
  let near (a x b y : Nat) : Bool := a < b + y && b < a + x
  let shared : Bool := match t.storage n, u.storage m with
    | some (a, x), some (b, y) => near a x b y
    | _, _ => false
  match t, u with
  | .plane k ty p off, .plane k' ty' p' off' => if k = k' ∧ ty = ty' ∧ p = p' then near off n off' m else shared
  | .ctx id off, .ctx id' off' => id = id' && near off n off' m
  | .pkg off, .pkg off' => near off n off' m
  | .fabric c p off _, .fabric c' p' off' _ => c = c' && p = p' && near off.toNat n off'.toNat m
  | _, _ => shared

/-- The tag a `.cap` load of a granule sees, with the context's own pending stores (R216, R220). -/
def Ctx.pendingTag (c : Ctx) (t : Target) (old : Bool) : Bool :=
  c.storeQ.foldl (fun tag e =>
    let ps := e.pieces t
    if ps.any (fun x => t.start ≤ x.1 && x.1 < t.start + 32) then e.size == .cap && e.tag else tag) old

/-- The state as a context sees a plane window's storage: its buffered stash bytes lie over the scratchpad (R225). -/
def State.underStash (s : State) (c : Ctx) : State :=
  c.stash.foldl (fun s x => x.bytes.foldl (fun s (i, b) => s.write (x.key + i) [b]) s) s

/-- `n` bytes of a target, and its tag, as a context reads them: its buffered stash bytes and its queued stores come
before memory (R220, R225). Targets on other chips read zero here; they are read by transactions. -/
def State.readTarget (s : State) (c : Ctx) (t : Target) (n : Nat) : List Byte × Bool :=
  let queued := c.storeQ.reverse.flatMap fun e => e.pieces t
  let stashed := c.stash.flatMap fun x => x.bytes.map fun (i, b) => (x.key + i, b)
  match t with
  | .bytes key tags =>
    -- a granule with a buffered byte reads as its stash store will leave it: its tag is clear (R216, R225)
    let fresh := c.stash.all fun x => x.key / 32 != key / 32
    (overlay (overlay (s.bytes key n) key queued) key stashed, c.pendingTag t (s.tagAt key) && tags && fresh)
  | .stash key => (overlay (overlay (s.bytes key n) key queued) key stashed, false)
  | .plane key ty p off => (overlay ((s.underStash c).planeBytes key ty p off n) off queued, false)
  | .queue a node _ =>
    match (s.nodeAt a node).map Node.body with
    | some (.queue q) => (toBytes (q.tail - q.head + 2 ^ q.log2 * 2 ^ 32) n, false)
    | _ => (toBytes 0 n, false)
  | .ctx id off =>
    match s.getCtx id with
    | some k =>
      let tag := 0x800 ≤ off && off < 0x1000 && (k.reg (.ofNat 6 ((off - 0x800) / 32))).tag
      (overlay (k.cdBytes off n) off queued, c.pendingTag t tag)
    | none => (toBytes 0 n, false)
  | .pkg off => (overlay (toBytes (s.pkgRead (0x800 + off / 8)).toNat n) off queued, false)
  | .wit _ cl w off => (s.witView cl w off n, false)
  | .peer .. | .fabric .. => (toBytes 0 n, false)

/-! ### Queue rings (R195, R209, R211, R255) -/

/-- Where entry `i` of a ring lies; a fault of the ring's access is R214's. -/
def State.ringTarget (s : State) (a : Asid) (q : Queue) (i : Nat) (acc : Acc) : Except Bad (Target × State) :=
  match s.openNode a q.handle q.gen with
  | none => .error (.capStale, 0)
  | some n =>
    s.reach { core := q.home, asid := a } a (.ofNat 64 (q.off + 32 * (i % 2 ^ q.log2)))
      { acc := acc, n := 32, size := .b256 } ((s.space a).nodes.length + 1)
      n.body (q.off + 32 * (i % 2 ^ q.log2)) (some q.handle)

/-- Change a queue node. -/
def State.setQueue (s : State) (a : Asid) (node : BitVec 23) (q : Queue) : State :=
  s.updNode a node fun n => { n with body := .queue q }

/-- The queue of a node. -/
def State.queueAt (s : State) (a : Asid) (node : BitVec 23) : Option Queue :=
  match (s.nodeAt a node).map Node.body with
  | some (.queue q) => some q
  | _ => none

/-- A queue is full. -/
def Queue.full (q : Queue) : Bool := 2 ^ q.log2 ≤ q.tail - q.head
/-- A queue has no entry. -/
def Queue.empty (q : Queue) : Bool := q.tail ≤ q.head

/-- The core where a queue's ring is at home: the vault of its first line (R15, R195), the scratchpad that holds it,
or for host memory the core that executed the MKNODE (R255). -/
def ringHome (key : Nat) (core : CoreIx) : CoreIx :=
  if inDram key then .ofNat 9 (key / 2 ^ 30)
  else if inSpad key then .ofNat 9 ((key - 2 ^ 40) / 2 ^ 22)
  else core

/-- Where the ring lies is known once its first entry can be reached (R195, R255). -/
def Queue.settled (q : Queue) (i key : Nat) : Queue :=
  if i = 0 then { q with home := ringHome key q.home, hostRing := 2 ^ 64 ≤ key } else q

/-- Append an entry to a queue that is not full (R195). The entries of a ring in host memory stand beside the ring, so that a
store to its bytes changes none; the name unit's copy of the 64 oldest shows only in how long a pop takes (R255; log
entry 2). The fault of a ring access leaves the queue unchanged (R214). -/
def State.qAppend (s : State) (a : Asid) (node : BitVec 23) (q : Queue) (e : RegVal) : Except Bad State :=
  match s.ringTarget a q q.tail .write with
  | .error b => .error b
  | .ok (.bytes key tags, s) =>
    let s := s.coreWrite key (toBytes e.val.toNat 32)
    let s := { s with tags := setTag (key / 32) (e.tag && tags) s.tags }
    let q := q.settled q.tail key
    .ok (s.setQueue a node { q with tail := q.tail + 1, copy := if q.hostRing then q.copy ++ [e] else q.copy })
  | .ok (.stash key, s) => .ok ((s.coreWrite key (toBytes e.val.toNat 32)).setQueue a node { q with tail := q.tail + 1 })
  | .ok (.plane key ty p off, s) =>
    .ok ((s.planeWrite key ty p off (toBytes e.val.toNat 32)).1.setQueue a node { q with tail := q.tail + 1 })
  | .ok (_, s) => .ok (s.setQueue a node { q with tail := q.tail + 1 })

/-- Take the oldest entry of a queue that has one (R195, R255). -/
def State.qTake (s : State) (a : Asid) (node : BitVec 23) (q : Queue) : Except Bad (RegVal × State) :=
  match q.hostRing, q.copy with
  | true, e :: copy => .ok (e, s.setQueue a node { q with head := q.head + 1, copy := copy })
  | _, _ =>
    match s.ringTarget a q q.head .read with
    | .error b => .error b
    | .ok (.bytes key tags, s) =>
      .ok (⟨.ofNat 256 (s.nat key 32), tags && s.tagAt key⟩, s.setQueue a node { q with head := q.head + 1 })
    | .ok (.stash key, s) =>
      .ok (⟨.ofNat 256 (s.nat key 32), false⟩, s.setQueue a node { q with head := q.head + 1 })
    | .ok (.plane key ty p off, s) =>
      .ok (⟨.ofNat 256 (ofBytes (s.planeBytes key ty p off 32)), false⟩, s.setQueue a node { q with head := q.head + 1 })
    | .ok (_, s) => .ok ({}, s.setQueue a node { q with head := q.head + 1 })

end Sys2Proof.Machine
end

