-- ==== Sys2Proof/Machine/Ops.lean ====
section
/-!
DEFINITION. Sys2Proof/Machine/Ops.lean: the named operations over the machine: performing stores (R219 to R221, R232,
R234), stash sectors (R225), fault records (R421), leaving a slot, taking an exception (R381 to R385) and returning from
one (R403, R407), ending a context (R174, R192).
-/
namespace Sys2Proof.Machine

/-- Trap cause codes (R381). -/
def Cause.code : Cause → BitVec 8
  | .illegal => 0x01 | .priv => 0x02 | .lookahead => 0x03 | .capTag => 0x04 | .capBounds => 0x05 | .capPerm => 0x06
  | .capStale => 0x07 | .capSealed => 0x08 | .align => 0x09 | .pageFault => 0x0A | .pageProt => 0x0B
  | .rdupWrite => 0x0C | .ctxFault => 0x0D | .nameUnbound => 0x0E | .nameFault => 0x0F | .queueFault => 0x10
  | .enqInvalid => 0x11 | .syscall => 0x12 | .bkpt => 0x13 | .watchdog => 0x14 | .memError => 0x15
  | .fabric => 0x16 | .violation => 0x17

/-- Queue a message for another chip. -/
def State.send (s : State) (m : NetMsg) : State := { s with net := s.net ++ [m] }
/-- Tell the host something. -/
def State.tell (s : State) (m : HostMsg) : State := { s with host := s.host ++ [m] }

/-- A fence, acquire, release or packet of a function at the scope of this code: a clamp is counted where the function may
not use it (R238). -/
def State.clampFn (s : State) (fn : FnIx) (code : Nat) : State :=
  if h : fn.toNat < 65 then
    if (s.pkg.maxScope[fn.toNat]).toNat < code then
      let n := s.pkg.clamp[fn.toNat]
      { s with pkg := { s.pkg with clamp := s.pkg.clamp.set fn.toNat (if n = .allOnes 32 then n else n + 1) } }
    else s
  else s

/-- The scope at which a fence, acquire or release of the current context acts, and the count of a clamp (R238). -/
def State.clampScope (s : State) (scope : Scope) : State := s.clampFn s.cx.fn scope.code

/-- Cluster scope where a home lies in the current context's cluster, package scope otherwise (R168, R178, R195). -/
def State.nearScope (s : State) (home : ClusterIx) : Scope := if home = s.cxCluster then .clu else .pkg

/-! ### Fault records (R420 to R422) -/

/-- Fields of the ASID entry that the fault queue uses (R413): base, entries, tail, head (log entry 54). -/
def State.faultQueue (s : State) (a : Asid) : Nat × Nat × Nat × Nat :=
  let e := s.asidEntry a
  (bitsOf e 128 48, 2 ^ (min (max (bitsOf e 176 8) 6) 16), bitsOf e 184 24, bitsOf e 208 24)

/-- Write a fault record where its address lies (R421); none where this chip's own fabric MMU refuses the page (R365). -/
def State.putFault (s : State) (a : Asid) (x : Xlate) (bs : List Byte) : Option State :=
  match x with
  | .dram pa => some (s.homeWrite pa bs)
  | .host addr => some (s.homeWrite (Place.host addr).key bs)
  | .fabric chip page off =>
    if chip != s.pkg.chip then some (s.send (.fabric chip 0 0 page off (.store bs)))
    else (s.fabricPage (s.asidPart a) page off true false).map fun key => s.homeWrite key bs

/-- Write the oldest held record of an ASID at its tail, if the queue has room and its page can be written; then
advance the tail (R421). -/
def State.flushFault (s : State) (a : Asid) : State :=
  let (base, n, tail, head) := s.faultQueue a
  match s.faults.find? (fun r => r.asid == a && !r.written) with
  | none => s
  | some r =>
    if n ≤ (tail + 2 ^ 24 - head) % 2 ^ 24 then s
    else
      match s.translate 0 a (base + 64 * (tail % n)) .write with
      | .error _ => s
      | .ok (x, s') =>
        match s'.putFault a x (toBytes r.bits.toNat 64) with
        | none => s
        | some s =>
          let s := s.homeWrite (s.pkg.asidTab.toNat + 64 * a.toNat + 23) (toBytes ((tail + 1) % 2 ^ 24) 3)
          { s with faults := s.faults.map fun k =>
              if k.asid = a ∧ k.index = r.index ∧ !k.written then { k with written := true } else k }

/-- Raise a fault record (R421): its source, cause, whether the access writes, whether an entry was malformed, the page
request of a host page, its identifier, address, and who waits for the answer. -/
def State.raiseFault (s : State) (a : Asid) (src : BitVec 4) (cause : Cause) (wr malformed : Bool)
    (host : Option Nat) (id : BitVec 32) (va : Word) (waiter : FaultWaiter) : State :=
  let (prg, s) : BitVec 9 × State := match host with
    | some addr => s.pageRequest (s.asidFn a) (addr / 4096 * 4096) wr
    | none => (0, s)
  let (_, _, tail, _) := s.faultQueue a
  let heldNow := (s.faults.filter fun r => r.asid == a && !r.written).length
  let bits : BitVec 512 := .ofNat 512 (cause.code.toNat + src.toNat * 2 ^ 8 + wr.toNat * 2 ^ 12
    + host.isSome.toNat * 2 ^ 13 + malformed.toNat * 2 ^ 14 + a.toNat * 2 ^ 16 + id.toNat * 2 ^ 32
    + va.toNat * 2 ^ 64 + prg.toNat * 2 ^ 128)
  State.flushFault
    { s with faults := s.faults ++ [{ asid := a, index := .ofNat 24 (tail + heldNow), bits := bits, waiter := waiter }] }
    a

/-! ### The descriptor's frame (R145, R148, R149) -/

/-- The line of a descriptor that holds quad `q` (R145). -/
def Ctx.quadVa (c : Ctx) (q : Nat) : Nat := c.cdva.toNat + 0x800 + 128 * q

/-- Where the descriptor lies: in a valid, writable page of local DRAM (R145). -/
def State.cdReady (s : State) (c : Ctx) : Except XFault (Nat × State) :=
  match s.coreTranslate c.core c.asid c.cdva.toNat .write with
  | .ok (.dram pa, s) => .ok (pa, s)
  | .ok (_, _) => .error { cause := .pageFault }
  | .error f => .error f

/-- The bytes of quad `q` in its descriptor's line (R145, R148). -/
def Ctx.quadBytes (c : Ctx) (q : Nat) : List Byte := (List.range 4).flatMap fun i => toBytes (c.reg (.ofNat 6 (4 * q + i))).val.toNat 32

/-- The registers of a mask of quads go to the bytes of the descriptor, whose first byte lies at `pa` (R145, R149). -/
def State.putQuads (s : State) (c : Ctx) (quads : BitVec 16) (pa : Nat) : State :=
  (List.range 16).foldl (fun s q => if quads.getLsbD q then s.coreWrite (pa + 0x800 + 128 * q) (c.quadBytes q) else s) s

/-- The quad of a descriptor's registers that the byte at an offset belongs to (R145). -/
def cdQuad (off : Nat) : BitVec 16 := if 0x800 ≤ off ∧ off < 0x1000 then 1#16 <<< ((off - 0x800) / 128) else 0

/-- A store to a descriptor (R146, R149): a register whose quad is cached becomes dirty there; one whose quad is not has its
home in the descriptor, and `QVALID` is set. -/
def State.storeCd (s : State) (id : BitVec 32) (off : Nat) (bs : List Byte) (tag : Bool) : State :=
  match s.getCtx id with
  | none => s
  | some c =>
    let q := cdQuad off
    let k := c.setCdBytes off bs tag
    if q = 0 || c.qcached &&& q != 0 then s.updCtx id fun _ => k
    else
      let k := { k with qdirty := c.qdirty, qvalid := c.qvalid ||| q }
      let s := s.updCtx id fun _ => k
      match s.cdReady k with
      | .ok (pa, s) => s.putQuads k q pa
      | .error _ => s

/-! ### Transaction barriers (R287, R288) -/

/-- The fields of a barrier; its reserved bits are written as 0. -/
structure Bar where
  phase : BitVec 4
  poison : Bool
  pending : BitVec 24
  expected : BitVec 24
  sectors : BitVec 32
  faulted : BitVec 16
deriving DecidableEq, Repr

/-- A barrier's fields in its 16 bytes (R287). -/
def Bar.ofBits (b : BitVec 128) : Bar where
  phase := b.extractLsb' 0 4
  poison := b.getLsbD 4
  pending := b.extractLsb' 16 24
  expected := b.extractLsb' 40 24
  sectors := b.extractLsb' 64 32
  faulted := b.extractLsb' 96 16

/-- A barrier's 16 bytes (R287). -/
def Bar.toBits (b : Bar) : BitVec 128 :=
  0#16 ++ b.faulted ++ b.sectors ++ b.expected ++ b.pending ++ 0#11 ++ BitVec.ofBool b.poison ++ b.phase

/-- The completion step (R288). -/
def Bar.complete (b : Bar) : Bar :=
  if !b.poison && b.pending == 0 && b.sectors == 0 then
    { b with phase := b.phase + 1, pending := b.expected, faulted := 0 }
  else b

/-- An arrival (R288): with none due it changes no count. -/
def Bar.arrive (b : Bar) : Bar := if b.pending = 0 then b else { b with pending := b.pending - 1 }.complete
/-- Add to the expected sectors, modulo 2^32 (R295). -/
def Bar.expect (b : Bar) (n : BitVec 32) : Bar := { b with sectors := b.sectors + n }.complete
/-- One sector has performed (R283). -/
def Bar.decrement (b : Bar) : Bar := { b with sectors := b.sectors - 1 }.complete
/-- One sector has faulted (R285). -/
def Bar.fault (b : Bar) : Bar := { b with faulted := if b.faulted = .allOnes 16 then b.faulted else b.faulted + 1 }
/-- Poison (R295). -/
def Bar.poisoned (b : Bar) : Bar := { b with poison := true }

/-- The barrier at a place. -/
def State.barAt (s : State) (key : Nat) : Bar := Bar.ofBits (.ofNat 128 (s.nat key 16))
/-- One atomic update at the barrier's home (R288). -/
def State.updBar (s : State) (key : Nat) (f : Bar → Bar) : State :=
  s.homeWrite key (toBytes (f (s.barAt key)).toBits.toNat 16)

/-- What a BAR form makes of a barrier (R295). -/
def BarOp.apply : BarOp → Bar → Bar
  | .init n, _ => ⟨0, false, n, n, 0, 0⟩
  | .expect n, b => b.expect n
  | .poison, b => b.poisoned

/-! ### Stores (R219 to R221) -/

/-- A queue entry that a store makes (R211). -/
def storeEntryBits (e : StoreEntry) (off : Word) (chip : BitVec 8) : W256 :=
  .ofNat 256 (e.data.toNat % 2 ^ (8 * min e.n 16) + off.toNat * 2 ^ 128 + e.size.code * 2 ^ 192 + chip.toNat * 2 ^ 200)

/-- The machine step that a store of a package register brings about (R390, R418, R422). -/
def pkgStep (n : Nat) (v : Word) : Instr :=
  if n = 0x811 then .tlbInv v
  else if n = 0x813 then .engThaw v
  else if n = 0x814 then .fqDone v
  else if 0x900 ≤ n ∧ n < 0x980 ∧ n % 4 = 1 then .kqEnable (.ofNat 5 ((n - 0x900) / 4)) v
  else if 0x900 ≤ n ∧ n < 0x980 ∧ n % 4 = 2 then .kqTailWrite 0 (.ofNat 5 ((n - 0x900) / 4)) v
  else .registerWrite (.ofNat 12 n) v

/-- Whether a waiter pushes. -/
def QWaiter.push : QWaiter → Bool
  | .ctx _ p => p
  | .peer _ _ _ p _ => p
  | .store .. => true

/-- A waiter that still waits: a context that has left its slot runs its form again from the start (R213). -/
def State.stillWaits (s : State) : QWaiter → Bool
  | .ctx id _ => (s.getCtx id).any fun c => match c.wait with
    | .queue .. => true
    | _ => false
  | .peer .. => true
  | .store id label => (s.getCtx id).any fun c => c.storeQ.any fun e => e.sent == some label

/-- The waiters of one kind that still wait, in order of arrival. -/
def State.line (s : State) (q : Queue) (push : Bool) : List QWaiter :=
  q.waiters.filter fun w => w.push == push && s.stillWaits w

/-- A store's entry may be appended: there is room, and no push that arrived earlier waits (R211, R213). -/
def State.storeTurn (s : State) (q : Queue) (id : BitVec 32) (e : StoreEntry) : Bool :=
  !q.full && (match (s.line q true).head?, e.sent with
    | none, _ => true
    | some w, some label => w == .store id label
    | some _, none => false)

/-- The untranslated page and the malformed entry behind a translation fault, for its record (R420, R421). -/
def State.faultInfo (s : State) (cl : ClusterIx) (a : Asid) (va : Word) (acc : Acc) : XFault :=
  match s.translate cl a va.toNat acc with
  | .error f => f
  | .ok _ => { cause := .pageFault }

/-- The page fault of a ring's access goes to the fault queue, with a page request for a host page (R214, R420). -/
def State.raiseRing (s : State) (cl : ClusterIx) (a : Asid) (id : BitVec 32) (va : Word) (write : Bool)
    (waiter : FaultWaiter) : State :=
  let f := s.faultInfo cl a va (if write then .write else .read)
  s.raiseFault a 7 .pageFault write f.malformed f.host id va waiter

/-- A fault of a ring's access still waits for its answer (R214, R422). -/
def State.ringPending (s : State) (w : FaultWaiter) : Bool := s.faults.any fun r => r.waiter == w

/-- Perform one store of a context: the next state, or none while it cannot perform (a full queue, a reply to come). -/
def State.performStore (s : State) (id : BitVec 32) (e : StoreEntry) : Option State :=
  match e.target with
  | .bytes key tags =>
    some (match e.bar with
      | some op => s.updBar key op.apply
      | none =>
        let s := s.coreWrite key (toBytes e.data.toNat e.n)
        if e.size = .cap then { s with tags := setTag (key / 32) (e.tag && tags) s.tags } else s)
  | .plane key ty p off =>
    if e.n = 64 then some (s.planeZero key ty p off)
    else
      let (s, ev) := s.planeWrite key ty p off (toBytes e.data.toNat 32)
      some (s.countFor id ev)
  | .queue a node off =>
    match s.queueAt a node with
    | none => some s
    | some q =>
      if !s.storeTurn q id e || e.sent.any fun l => s.ringPending (.ring id l) then none
      else
        let q := { q with waiters := q.waiters.filter fun w => some w != e.sent.map (.store id) }
        match s.qAppend a node q ⟨storeEntryBits e off 0xFF, false⟩ with
        | .ok s => some s
        | .error _ => none
  | .ctx k off => some (s.storeCd k off (toBytes e.data.toNat e.n) (e.size == .cap && e.tag))
  | .pkg off =>
    some { s with pkgWrites := s.pkgWrites ++ [pkgStep (0x800 + off / 8) (e.data.setWidth 64)] }
  | .stash _ | .wit .. => some s
  | .peer .. | .fabric .. => none

/-- Two entries touch a common byte of the same kind of place. -/
def StoreEntry.overlaps (e f : StoreEntry) : Bool :=
  let ps := e.pieces f.target
  ps.any fun x => f.target.start ≤ x.1 && x.1 < f.target.start + f.n

/-- An entry that reaches host memory, whose stores stay in program order (R221). -/
def StoreEntry.toHost (e : StoreEntry) : Bool :=
  match e.target with
  | .bytes key _ => 2 ^ 64 ≤ key
  | _ => false

/-- An entry at an ordered node (R194). -/
def StoreEntry.ordered (e : StoreEntry) : Bool :=
  match e.target with
  | .queue .. | .ctx .. | .peer .. => true
  | _ => false

/-- A later entry may not perform while this one is still queued (R194, R221, R232, R249). -/
def StoreEntry.blocks (e later : StoreEntry) : Bool :=
  e.marker || later.rel || e.overlaps later || (e.toHost && later.toHost)
    || (e.ordered && later.ordered && e.handle == later.handle)

/-- Entry `i` of a store queue may perform now: nothing earlier holds it back. -/
def mayPerform (q : List StoreEntry) (i : Nat) : Bool :=
  match q[i]? with
  | none => false
  | some e => if e.marker then i == 0 else (q.take i).all fun k => !k.blocks e

/-- A store joins a queue's line of pushes under a label, unless it stands there (R213). -/
def State.joinLine (s : State) (id : BitVec 32) (a : Asid) (node : BitVec 23) (q : Queue) (label : Nat) : State :=
  if q.waiters.contains (.store id label) then s
  else State.setQueue { s with label := s.label + 1 } a node { q with waiters := q.waiters ++ [.store id label] }

/-- The page fault of the ring that a store whose turn it is meets goes to the fault queue (R214). -/
def State.askRing (s : State) (id : BitVec 32) (a : Asid) (q : Queue) (e : StoreEntry) (label : Nat) : State :=
  if !s.storeTurn q id e || s.ringPending (.ring id label) then s
  else
    match s.ringTarget a q q.tail .write with
    | .error (.pageFault, va) => s.raiseRing (clusterOf q.home) a id va true (.ring id label)
    | _ => s

/-- A store that cannot make its entry: it waits in the queue's line of pushes (R211, R213, R214). -/
def State.storeWaits (s : State) (c : Ctx) (a : Asid) (node : BitVec 23) (e : StoreEntry) : StoreEntry × State :=
  match s.queueAt a node with
  | none => (e, s)
  | some q =>
    let label := e.sent.getD s.label
    let e := { e with sent := some label }
    (e, (s.joinLine c.id a node q label).askRing c.id a q e label)

/-- The port that carries a transaction of a core to a chip: of those that reach the chip, the nearest, which the places of the
ports decide (R18, R196; log entry 65). -/
def State.portTo (s : State) (core : CoreIx) (chip : ChipIx) : BitVec 4 :=
  let ps := (List.range 12).filter fun i => if h : i < 12 then s.ports[i].peer == chip else false
  .ofNat 4 (ps.getD (Config.nearPort core.toNat chip.toNat % ps.length) 0)

/-- The handle whose later accesses, closes and waits take a transaction's failure: none for a fabric page (R197, R365). -/
def Txn.faultHandle (t : Txn) : Option (BitVec 24) := if t.fabric then none else some t.handle

/-- A store to another chip leaves: the entry keeps the label of its transaction. Where the page is homed on this
package, its own fabric MMU is asked by the same message (R364). A store to a queue of this chip that cannot perform waits in
the queue's line. -/
def State.sendStore (s : State) (c : Ctx) (e : StoreEntry) : StoreEntry × State :=
  match e.target, e.sent with
  | .queue a node _, _ => s.storeWaits c a node e
  | _, some _ => (e, s)
  | target, none =>
    match target with
    | .peer a h off =>
      match ((s.space a).handles.find? fun k => k.ix == h) with
      | some { remote := some (chip, rh, rg), seq := seq, .. } =>
        let t : Txn := { label := s.label, ctx := c.id, asid := a, handle := h, off := off, chip := chip,
                         sent := s.cycle, port := s.portTo c.core chip, kind := .store }
        let s := s.updHandle a h fun k => { k with seq := k.seq + 1 }
        ({ e with sent := some s.label },
          State.send { s with label := s.label + 1, txns := t :: s.txns }
            (.step chip (.nwrite s.pkg.chip s.label rh rg seq off e.size e.data)))
      | _ => (e, s)
    | .fabric chip page off va =>
      let t : Txn := { label := s.label, ctx := c.id, asid := c.asid, handle := e.handle, off := va, chip := chip,
                       sent := s.cycle, fabric := true, port := s.portTo c.core chip, kind := .store }
      ({ e with sent := some s.label },
        State.send { s with label := s.label + 1, txns := t :: s.txns }
          (.fabric chip s.label c.id page off (.store (toBytes e.data.toNat e.n))))
    | _ => (e, s)

/-- Perform entry `i` of a context's store queue if it may and can; a store to another chip is sent instead. -/
def State.performAt (s : State) (id : BitVec 32) (i : Nat) : State :=
  match s.getCtx id with
  | none => s
  | some c =>
    match c.storeQ[i]? with
    | none => s
    | some e =>
      if !mayPerform c.storeQ i then s
      else if e.marker then s.updCtx id fun c => { c with storeQ := c.storeQ.eraseIdx i }
      else
        match s.performStore id e with
        | some s => s.updCtx id fun c => { c with storeQ := c.storeQ.eraseIdx i }
        | none =>
          let (e, s) := s.sendStore c e
          s.updCtx id fun c => { c with storeQ := c.storeQ.set i e }

/-- Perform, oldest first, every entry that can; what cannot stays. -/
def drainFrom (id : BitVec 32) : Nat → Nat → State → State
  | 0, _, s => s
  | n + 1, i, s =>
    let before := ((s.getCtx id).map fun (c : Ctx) => c.storeQ.length).getD 0
    let s := s.performAt id i
    let after := ((s.getCtx id).map fun (c : Ctx) => c.storeQ.length).getD 0
    drainFrom id n (if after < before then i else i + 1) s

/-- Perform every store of a context that can perform. -/
def State.drain (s : State) (id : BitVec 32) : State :=
  match s.getCtx id with
  | none => s
  | some c => drainFrom id c.storeQ.length 0 s

/-- One stash sector drains: its bytes go over the scratchpad in one write (R225). -/
def State.drainSector (s : State) (x : StashSector) : State :=
  s.write x.key ((overlay (s.bytes x.key 32) 0 x.bytes))

/-- Every stash sector of a context drains (R225). -/
def State.drainStash (s : State) (id : BitVec 32) : State :=
  match s.getCtx id with
  | none => s
  | some c => (c.stash.reverse.foldl State.drainSector s).updCtx id fun c => { c with stash := [] }

/-! ### Write-back of the register cache (R149, R151) -/

/-- A context's dirty quads are written to its descriptor. Where its page cannot be written they stay dirty and pinned,
`SAVE_PENDING` is set and the fault goes to the ASID's queue with the given source (R151, R399). -/
def State.writeQuads (s : State) (id : BitVec 32) (src : BitVec 4) : State :=
  match s.getCtx id with
  | none => s
  | some c =>
    if c.qdirty = 0 then s
    else
      match s.cdReady c with
      | .ok (pa, s) => (s.putQuads c c.qdirty pa).updCtx id fun c =>
          { c with qvalid := c.qvalid ||| c.qdirty, qdirty := 0, qpinned := 0, savePending := false }
      | .error f =>
        let s := s.updCtx id fun c => { c with qpinned := c.qdirty, savePending := true }
        s.raiseFault c.asid src f.cause true f.malformed f.host id c.cdva (.save id)

/-! ### Pending long-latency instructions (R79 to R82) -/

/-- The register value that a load of a size gives (R241). -/
def loadValue (bs : List Byte) (size : MemSize) (sign tag : Bool) : RegVal :=
  let v := ofBytes bs
  if size.extends && sign then ⟨(BitVec.ofInt 64 (sextInt v (8 * size.bytes))).setWidth 256, false⟩
  else ⟨.ofNat 256 v, tag && size == .cap⟩

/-- Write the register of a pending instruction, unless a later unit has written it. -/
def State.pendWrite (s : State) (p : Pending) (v : RegVal) : State :=
  match p.wr with
  | some r => s.setReg r v
  | none => s

/-- Data that a load or an atomic of the current context returns has an uncorrectable error: MEM_ERROR is taken at the
first unit that has not issued, with the address of the instruction (R81, R222). -/
def State.lateFault (s : State) (cause : Cause) (val : Word) (handle : Option (BitVec 24)) : State :=
  s.updCx fun c => { c with late := c.late ++ [⟨cause, val, handle⟩] }

/-- The values of a load or gather are fixed now and its register is written; its window stays open (R79, R242). -/
def State.resolvePend (s : State) (i : Nat) : State :=
  match s.cx.pend[i]? with
  | none => s
  | some p =>
    let settle (s : State) := s.updCx fun c => { c with pend := c.pend.set i { p with kind := .done, wr := none } }
    match p.kind with
    | .value v t => settle (s.pendWrite p ⟨v, t⟩)
    | .load t n size sign _ =>
      if s.memErr then settle (State.lateFault { s with memErr := false } .memError p.pc none)
      else
        let (bs, tag) := s.readTarget s.cx t n
        settle (s.pendWrite p (loadValue bs size sign tag))
    | .gather ts n =>
      if s.memErr then settle (State.lateFault { s with memErr := false } .memError p.pc none)
      else
        let v := ts.zipIdx.foldl (fun v (t, k) => v + ofBytes (s.readTarget s.cx t n).1 * 2 ^ (8 * n * k)) 0
        settle (s.pendWrite p ⟨.ofNat 256 v, false⟩)
    | .done | .remote .. | .gatherFar .. | .name _ | .pinning .. => s

/-- Every pending load of the current context has its value (R232, R234). -/
def State.resolveAll (s : State) : State := (List.range s.cx.pend.length).foldl State.resolvePend s

/-- What a pending instruction still reads: targets and their bytes. -/
def Pending.reads (p : Pending) : List (Target × Nat) :=
  match p.kind with
  | .load t n .. => [(t, n)]
  | .gather ts n => ts.map fun t => (t, n)
  | _ => []

/-- A pending instruction that waits for something beyond its context. -/
def Pending.outside (p : Pending) : Bool :=
  match p.kind with
  | .remote .. | .gatherFar .. | .name _ | .pinning .. => true
  | .done | .load .. | .value .. | .gather .. => false

/-- The current context's pending instruction `i` completes where it needs nothing from another chip (R79, R242, R270):
its value is read now, if it has not been, and its register is written. -/
def State.completePend (s : State) (i : Nat) : State :=
  match s.cx.pend[i]? with
  | none => s
  | some p =>
    let drop (s : State) := s.updCx fun c => { c with pend := c.pend.eraseIdx i }
    match p.kind with
    | .remote .. | .gatherFar .. | .name _ | .pinning .. => s
    | _ => drop (s.resolvePend i)

/-- Complete, oldest first, every pending instruction that needs nothing from another chip. -/
def completeFrom : Nat → Nat → State → State
  | 0, _, s => s
  | n + 1, i, s =>
    let k := s.cx.pend.length
    let s := s.completePend i
    completeFrom n (if s.cx.pend.length < k then i else i + 1) s

/-- Every pending instruction of the current context that can complete does (R82). -/
def State.completeAll (s : State) : State := completeFrom s.cx.pend.length 0 s

/-- Open the window of the current unit: `la` units may issue before it completes (R79). -/
def State.openWindow (s : State) (p : Pending) : State := s.updCx fun c => { c with pend := c.pend ++ [p] }

/-! ### Leaving a slot, exceptions, and the return (R154, R381 to R386, R403, R407) -/

/-- A context leaves its slot: its stash drains, its stores that can perform do, and the slot is empty (R153, R154,
R225). -/
def State.leaveSlot (s : State) (id : BitVec 32) : State :=
  match s.getCtx id with
  | none => s
  | some c =>
    let s := (s.drainStash id).drain id
    let sl : SlotId := ⟨c.core, c.slot⟩
    let s := if s.boundAt sl = some id then s.setBound sl none else s
    s.updCtx id fun c =>
      { c with res := if c.qcached = 0 then .dormant else .resident, wait := .none, preempt := false }

/-- Freeze a context whose earlier stores have performed (R383, steps 2 to 4): it leaves its slot, `RUN` becomes 3, and its
dirty quads go to its descriptor. The freeze is a release at package scope. -/
def State.freezeCtx (s : State) (id : BitVec 32) : State :=
  let s := (s.leaveSlot id).clampFn (((s.getCtx id).map Ctx.fn).getD 0) Scope.pkg.code
  (s.updCtx id fun c => { c with run := .frozen, freezeReq := false, alone := true }).writeQuads id 6

/-- The wait of a context is given up: its instruction has taken no effect, and will run again from the start of its
unit (R213, R296, R393, R407; log entry 53). -/
def State.stopWait (s : State) (id : BitVec 32) : State :=
  let drop (c : Cluster) : Cluster :=
    { c with evWait := c.evWait.filter fun x => x != id, heapWait := c.heapWait.filter fun x => x != id }
  State.updCtx { s with clusters := s.clusters.map fun x => (x.1, drop x.2) } id fun c =>
    { c with wait := .none, run := if c.run = .sleeping ∨ c.run = .waiting then .ready else c.run }

/-- A pre-empted context whose stores have performed leaves its slot, and its image is to be written (R393). -/
def State.leaveForSave (s : State) (id : BitVec 32) (full : Bool) : State :=
  ((s.stopWait id).leaveSlot id).updCtx id fun c => { c with preempt := true, fullSave := full, run := .ready, alone := false }

/-- A context whose earlier stores have performed leaves its slot: frozen, with its record at its core to be sent where it
trapped, or for its image (R383, R385, R393). -/
def State.leaveNow (s : State) (id : BitVec 32) : Leaving → State
  | .trap r => (s.freezeCtx id).updCore r.core fun k => { k with held := k.held ++ [r] }
  | .freeze => (s.stopWait id).freezeCtx id
  | .save full => s.leaveForSave id full

/-- A context is to leave its slot: its stash drains, and it leaves once every earlier store has performed (R383, R393); until
then it stays in the slot and issues nothing. -/
def State.leave (s : State) (id : BitVec 32) (why : Leaving) : State :=
  let s := (s.drainStash id).drain id
  match s.getCtx id with
  | none => s
  | some c => if c.storeQ.isEmpty then s.leaveNow id why else (s.stopWait id).updCtx id fun c => { c with wait := .leave why }

/-- A context that waits to leave does so once its stores have performed. -/
def State.leaveEnd (s : State) (id : BitVec 32) : State :=
  match (s.getCtx id).map fun (c : Ctx) => (c.wait, c.storeQ.isEmpty) with
  | some (.leave why, true) => s.leaveNow id why
  | _ => s

/-- The record of a trap (R384). -/
def State.trapRecord (s : State) (c : Ctx) (cause : BitVec 8) (val : Word) : TrapRec where
  cause := cause
  ulen := .ofNat 2 c.unit.words
  slot := c.slot
  core := c.core
  asid := c.asid
  ctxId := c.id
  pc := c.unit.first
  val := val
  cdva := c.cdva
  ctxH := c.ctxHandle
  ctxGen := c.ctxGen
  seq := (s.core c.core).seq
  cycle := s.cycle
  gang := c.gang
  member := c.member
  wr := c.unit.stores

/-- TAKING AN EXCEPTION (R381 to R385): the current context's trap registers receive the cause, the address of the
unit's first word and the value, once its earlier units have completed; the context freezes once its earlier stores have
performed; and its record then waits at its core to be sent. -/
def State.takeTrap (s : State) (cause : Cause) (val : Word) : State :=
  let s := s.completeAll
  let c := s.cx
  let r := s.trapRecord c cause.code val
  let s := s.updCx fun c =>
    { c with trap := { c.trap with cause := cause.code, pc := c.unit.first, val := val }
             pcCap := (c.setPc c.unit.first).pcCap, wait := .none }
  (s.updCore c.core fun k => { k with seq := k.seq + 1 }).leave c.id (.trap r)

/-- A trap where a check has failed. -/
def State.trapBad (s : State) (b : Bad) : State := s.takeTrap b.1 b.2

/-- THE RETURN OF A HANDLER (R403): the program counter becomes trap.pc and `IE` is set. -/
def State.returnHandler (s : State) : State :=
  (s.setPc s.cx.trap.pc).updCx fun c => { c with ie := true }

/-- A frozen context becomes ready at a program counter; its trap registers stay as they are (R407). -/
def State.thaw (s : State) (id : BitVec 32) (pc : Word) : State :=
  s.updCtx id fun c => { c.setPc pc with run := .ready }

/-- Interrupt a handler at its next unit boundary (R386): its windows close, the program counter becomes trap.vec. -/
def Ctx.interrupt (c : Ctx) : Ctx :=
  { c.setPc c.trap.vec with
    trap := { c.trap with cause := 0, pc := c.pc, val := 0 }
    ie := false, pend := [] }

/-! ### Revocation and nodes (R189, R192) -/

/-- Open handles on a node. -/
def Space.opens (sp : Space) (ix : BitVec 23) : Nat := (sp.handles.filter fun h => h.node == some ix).length
/-- Bindings of a node. -/
def Space.binds (sp : Space) (ix : BitVec 23) : Nat :=
  (sp.nodes.map fun n => match n.body with
    | .dir es => if n.live then es.countP fun e => e.node == ix else 0
    | _ => 0).sum

/-- The next generation; the last one stays (R188, R189). -/
def bumpGen (g : BitVec 24) : BitVec 24 := if g = .allOnes 24 then g else g + 1

/-- The entries of a directory. -/
def Node.dirEntries (n : Node) : List Binding :=
  match n.body with
  | .dir es => es
  | _ => []

/-- A node goes: its generation rises (R189). -/
def Node.kill (n : Node) : Node :=
  if n.live then { n with live := false, gen := bumpGen n.gen, retired := n.gen == .allOnes 24 } else n

/-- Free, of a list, every node that is bound nowhere and has no open handle; a directory that goes takes its bindings
with it, and what they named may go too (R189). The roots of contexts and unopened peer nodes are held by their
contexts. -/
def State.freeNodes (a : Asid) : Nat → List (BitVec 23) → State → State
  | 0, _, s => s
  | _, [], s => s
  | fuel + 1, ix :: rest, s =>
    let sp := s.space a
    let held := s.allCtxs.any fun c => c.asid == a && (c.root == ix || c.peerNodes.contains ix)
    match s.nodeAt a ix with
    | none => State.freeNodes a fuel rest s
    | some n =>
      if held || sp.opens ix != 0 || sp.binds ix != 0 then State.freeNodes a fuel rest s
      else State.freeNodes a fuel (n.dirEntries.map (·.node) ++ rest) (s.updNode a ix Node.kill)

/-- Bindings of all directories of an ASID. -/
def Space.allBinds (sp : Space) : Nat := (sp.nodes.map fun n => if n.live then n.dirEntries.length else 0).sum

/-- A node that is bound nowhere and has no open handle is freed (R189). -/
def State.freeIfUnused (s : State) (a : Asid) (ix : BitVec 23) : State :=
  State.freeNodes a ((s.space a).allBinds + 2) [ix] s

/-- Close a handle slot: its generation rises by 1, and the node it held is freed if nothing else holds it (R188,
R189, R192). Exports that rest on it end (R210). -/
def State.closeHandle (s : State) (a : Asid) (h : BitVec 24) : State :=
  match (s.space a).handles.find? (fun k => k.ix == h) with
  | none => s
  | some k =>
    let s := s.updHandle a h fun k =>
      { k with gen := bumpGen k.gen, retired := k.gen == .allOnes 24, node := none, foreign := none, remote := none,
               seq := 0 }
    let gone := s.exports.filter fun e => e.asid == a && e.handle == h
    let s := { s with exports := s.exports.filter fun e => !(e.asid == a && e.handle == h) }
    let s := gone.foldl (fun s e => s.updNode a e.node fun n => { n with pinned := s.exports.any fun x =>
      x.asid == a && x.node == e.node && x.pin }) s
    match k.node with
    | none => s
    | some ix => s.freeIfUnused a ix

/-- Every name unit drops its entries for these handles, and a revocation waits for all 64 clusters (R192). `ctx` says
which context waits for it. -/
def State.startRevoke (s : State) (a : Asid) (hs : List (BitVec 24)) (closes : List Nat)
    (ctx : Option (BitVec 32)) : Nat × State :=
  let r : Revocation := { label := s.label, asid := a, handles := hs, waiting := (List.range 64).map (.ofNat 6 ·),
                          closes := closes, ctx := ctx }
  (s.label, { s with label := s.label + 1, revocations := s.revocations ++ [r] })

/-- A peer's operation that a queue holds came through one of these remote handles. -/
def QWaiter.through (rs : List RemoteHandle) : QWaiter → Bool
  | .peer chip _ h .. => rs.any fun r => r.chip == chip && r.ix == h
  | .ctx .. | .store .. => false

/-- The operations that a queue holds for these remote handles go (R440). -/
def Node.dropPeers (rs : List RemoteHandle) (n : Node) : Node :=
  match n.body with
  | .queue q => { n with body := .queue { q with waiters := q.waiters.filter fun w => !w.through rs } }
  | _ => n

/-- NSTALE to every peer that holds a remote handle that rests on one of these handles (R192, R196). -/
def State.sendStale (s : State) (a : Asid) (hs : List (BitVec 24)) : State :=
  let out := s.remotes.filter fun r => r.asid == a && hs.contains r.local_
  let s := { s with remotes := s.remotes.filter fun r => !(r.asid == a && hs.contains r.local_) }
  let s := s.updSpace a fun sp => { sp with nodes := sp.nodes.map (Node.dropPeers out) }
  out.foldl (fun s r => s.send (.step r.chip (.nstale s.pkg.chip r.ix))) s

/-- The /ctx node of a context that ends goes, with its bindings, so that every capability to the context is stale
(R174); a foreign handle on it names no context any more. -/
def State.dropCtxNode (s : State) (c : Ctx) : State :=
  let own (n : Node) : Bool := n.live && n.body == .ctx c.id
  let ixs := ((s.space c.asid).nodes.filter own).map (·.ix)
  let drop (n : Node) : Node :=
    if own n then n.kill
    else
      match n.body with
      | .dir es => { n with body := .dir (es.filter fun e => !ixs.contains e.node) }
      | _ => n
  let s := s.updSpace c.asid fun sp => { sp with nodes := sp.nodes.map drop }
  { s with spaces := s.spaces.map fun (a, sp) =>
      (a, { sp with handles := sp.handles.map fun h => if h.foreign = some c.id then { h with foreign := some 0 } else h }) }

/-- A context's own handle is closed when it ends (R174, R179, R239). -/
def State.closeCtxHandle (s : State) (c : Ctx) : State :=
  let s := s.sendStale c.asid [c.ctxHandle]
  let (_, s) := s.startRevoke c.asid [c.ctxHandle] [] none
  let s := (s.closeHandle c.asid c.ctxHandle).dropCtxNode c
  c.peerNodes.foldl (fun s ix => s.freeIfUnused c.asid ix)
    (s.updCtx c.id fun c => { c with peerNodes := [] })

/-- A member that ends contributes nothing to a SUMCOL in which it waits; it has arrived (R363). -/
def Round.lose (r : Round) (id : BitVec 32) : Round :=
  { r with arrived := r.arrived.map fun x => if x.ctx = id then { x with counts := none } else x }

/-- The other packages of a span are told (R298, R357). -/
def State.tellSpan (s : State) (span : BitVec 32) (m : SpanMsg) : State :=
  match s.spans.find? fun x => x.id == span with
  | none => s
  | some x => x.chips.foldl (fun s chip => s.send (.span chip span m)) s

/-- The number of a member in its span (R298; log entry 66). -/
def Ctx.spanMember (c : Ctx) : Nat := 64 * c.gangIdx.toNat + c.member.toNat

/-- A gang loses a member that retires or is killed; the gang completes with its last (R141, R297, R363). -/
def State.leaveGang (s : State) (c : Ctx) (killed : Bool) : State :=
  State.tellSpan { s with
    gangs := s.gangs.map fun g =>
      if g.id = c.gang then { g with gone := c.id :: g.gone, round := g.round.lose c.id } else g
    spans := s.spans.map fun x => if x.id = c.span then { x with round := x.round.lose c.id } else x } c.span
    (.gone c.spanMember killed)

/-- A context ends (R174, R409): `EXIT` is written, the slot is left, its cached quads are discarded, its /ctx handle is
closed, its gang counts it, its launch notes it, and its descriptor goes back to the pool. -/
def State.endCtx (s : State) (id : BitVec 32) (exit : Word) (cause : Option (BitVec 8)) : State :=
  match s.getCtx id with
  | none => s
  | some c =>
    let s := s.leaveSlot id
    let s := s.updCtx id fun c => { c with run := .retired, exit := exit, qcached := 0, qdirty := 0, pend := [] }
    let s := (s.closeCtxHandle c).leaveGang c ((s.gangs.find? fun g => g.id == c.gang).any (·.killed))
    let s := s.updCore c.core fun k => { k with lines := k.lines.filter fun l => l.1 != id }
    let s : State := { s with
      launches := s.launches.map fun (l : Launch) =>
        if l.id = c.launch then
          { l with killCause := l.killCause <|> cause,
                   ctxs := l.ctxs.map fun k => if k = id then 0 else k,
                   firstExit := if l.ctxs.head? = some id then exit else l.firstExit }
        else l
      pool := s.pool ++ [⟨c.asid, c.id, c.cdva, c.stkOvf⟩] }
    (s.dropCtx id).freeIfUnused c.asid c.root

/-! ### Waiting (R82, R146) -/

/-- The current context waits in its unit (R146: `RUN` 2 in a blocking instruction, 1 in SLEEP; FENCE, HFENCE, SAVE and the
long-latency forms that wait to be accepted are none and leave it 0, R82). -/
def State.block (s : State) (w : Wait) : State :=
  s.updCx fun c => { c with wait := w, run := match w with
    | .sleep .. => .sleeping
    | .enq .. | .aswap .. | .cpyGo _ | .fence | .hfence _ | .save .. | .string .. | .spawn .. => .ready
    | _ => .waiting }

/-- The current context's wait is over: it is ready again; the watchdog counts from here (R388). -/
def State.unblock (s : State) : State := s.updCx fun c => { c with wait := .none, run := .ready, retireCyc := s.cycle }

/-- A wait that ends with its unit done. -/
def State.finishWait (s : State) : State := s.unblock.advance

end Sys2Proof.Machine
end

