-- ==== Sys2Proof/Machine/Operands.lean ====
section
/-!
DEFINITION. Sys2Proof/Machine/Operands.lean: immediates and their scaling (R70, R71), branch targets (R159), which
registers a unit reads and writes (R80), which forms carry a window, wait, or release (R79, R82), and the checked
operands that several classes share.
-/
namespace Sys2Proof.Machine

/-- The value of an immediate: the field, or H and the field, sign-extended (R70, R71). -/
def immValue {w : Nat} (i : Imm w) : Word :=
  match i.ext with
  | none => i.field.signExtend 64
  | some h => (h ++ i.field).signExtend 64

/-- A displacement in 32-bit words from A (R70, R159). -/
def State.branchTo (s : State) (disp : Word) : Word := s.here + (disp <<< 2)

/-- A mask register counts as a source: c57 to c63 (R257). -/
def maskSources (m : BitVec 3) : List Nat := if m = 0 then [] else [56 + m.toNat]
/-- Under a mask the destination counts as a source (R257). -/
def maskDest (m : BitVec 3) (d : Reg) : List Nat := if m = 0 then [] else [d.toNat]
/-- CTLR of name.stat reads what the NAME forms write (R200). -/
def ctlSources (num : BitVec 12) : List Nat := if num = 0x00C then [64] else []

/-- Registers that an instruction reads and writes; 64 stands for name.stat (R80, R123, R128, R129, R200, R257, R261,
R269, R301). A machine step reads and writes none. -/
def instrRegs : Instr → List Nat × List Nat
  | .add d a b | .sub d a b | .and_ d a b | .or_ d a b | .xor d a b | .andn d a b | .sll d a b | .srl d a b
  | .sra d a b | .rol d a b | .ror d a b | .min d a b | .max d a b | .minu d a b | .maxu d a b | .addw d a b
  | .subw d a b | .idx2 d a b | .idx4 d a b | .idx8 d a b | .idx32 d a b | .exts d a b | .extz d a b
  | .bset d a b | .bclr d a b | .binv d a b | .bext d a b | .mul _ d a b | .mulh _ d a b | .mulhu _ d a b
  | .mulhsn _ d a b | .div _ d a b | .divu _ d a b | .rem _ d a b | .remu _ d a b | .mulw _ d a b | .ccur d a b
  | .cstep d a b | .cnarrow d a b | .cdrop d a b | .ccover d a b | .cuncover d a b | .cdist d a b
  | .ldx _ _ _ _ d a b | .aadd _ _ d a b | .aand _ _ d a b | .aor _ _ d a b | .axor _ _ d a b | .amin _ _ d a b
  | .amax _ _ d a b | .aminu _ _ d a b | .amaxu _ _ d a b | .axchg _ _ d a b | .acas _ _ d a b
  | .afadd _ _ d a b | .aincs _ _ d a b | .barwait d a b | .bartest d a b | .spawn d a b | .evpost d a b
  | .signal d a b | .jwait d a b | .jtest _ d a b | .aswap _ d a b | .jcancel _ d a b
  | .vdiv _ _ d a b | .vidiv _ _ d a b | .virem _ _ d a b | .vgath _ _ d a b | .vlds _ _ d a b | .vext _ d a b
  | .save d a b | .resume d a b | .thaw d a b | .kill d a b | .xgo d a b | .sumcol d a b
    => ([a.toNat, b.toNat], [d.toNat])
  | .clead d a | .ctrail d a | .cones d a | .byterev d a | .mov d a | .addi d a _ | .andi d a _ | .ori d a _
  | .xori d a _ | .slli d a _ | .srli d a _ | .srai d a _ | .addwi d a _ | .rori d a _ | .bseti d a _
  | .bclri d a _ | .binvi d a _ | .bexti d a _ | .jalr d a _ | .cgetoff d a | .cgetbase d a | .cgetlim d a
  | .cgetperm d a | .cgethnd d a | .cgetgen d a | .cgetkind d a | .cplain d a | .cprobe d a | .cinci d a _
  | .ld _ _ _ _ d a _ | .lda _ _ d a _ | .bararv d a | .barrd d a | .sleep d a | .wake d a | .hpop d a
  | .evwait d a | .htry d a | .jstat _ d a | .vsqrt _ _ d a | .freeze d a | .waitev d a | .xstat d a
    => ([a.toNat], [d.toNat])
  | .movh d _ | .gangbar d | .spanbar d | .self d => ([], [d.toNat])
  | .orsh d _ => ([d.toNat], [d.toNat])
  | .enq _ d a b => (a.toNat :: ((List.range 4).map (b.toNat + ·)).filter (· < 64), [d.toNat])
  | .bdepi d a _ | .bndepi d a _ | .cmpi _ d a _ _ => ([d.toNat, a.toNat], [d.toNat])
  | .cmp _ d a b _ => ([d.toNat, a.toNat, b.toNat], [d.toNat])
  | .bcc _ a b _ | .barinit a b | .barexp a b | .hpush a b | .phint a b => ([a.toNat, b.toNat], [])
  | .bb _ a _ _ | .hfence a | .pref a | .clwb a | .clinv a | .clzero a | .stashfl a | .stashinv a | .barpois a
  | .retire a => ([a.toNat], [])
  | .j _ | .fence _ _ | .yield | .trap _ | .eret | .bkpt => ([], [])
  | .jal _ => ([], [1])
  | .dbnz a _ => ([a.toNat], [a.toNat])
  | .walk _ d a b | .open_ _ d a b | .unbind _ d a b | .dup _ d a b | .mknode _ d a b
    => ([a.toNat, b.toNat], [d.toNat, 64])
  | .close _ d a | .revoke _ d a | .stat _ d a => ([a.toNat], [d.toNat, 64])
  | .bind _ d a b | .export_ _ d a b => ([d.toNat, a.toNat, b.toNat], [64])
  | .qpush data a => ([data.toNat, a.toNat], [])
  | .qpop data a => ([a.toNat], [data.toNat])
  | .qpushNb data a preg _ => ([data.toNat, a.toNat, preg.toNat], [preg.toNat])
  | .qpopNb data a preg _ => ([a.toNat, preg.toNat], [data.toNat, preg.toNat])
  | .st _ _ s a _ | .stl _ s a _ => ([s.toNat, a.toNat], [])
  | .stx _ _ s a b | .vscat _ s a b | .vsts _ s a b => ([s.toNat, a.toNat, b.toNat], [])
  | .vadd _ mask d a b | .vsub _ mask d a b | .vmul _ mask d a b | .vmin _ mask d a b | .vmax _ mask d a b
  | .vand _ mask d a b | .vor _ mask d a b | .vxor _ mask d a b | .vandn _ mask d a b | .vsll _ mask d a b
  | .vsrl _ mask d a b | .vsra _ mask d a b | .vmulh _ mask d a b | .vshuf _ mask d a b | .vbcast _ mask d a b
  | .vslide _ mask d a b | .vzip _ mask d a b
    => ([a.toNat, b.toNat] ++ maskSources mask ++ maskDest mask d, [d.toNat])
  | .vfma _ mask d a b | .vmaxw _ mask d a b | .vminw _ mask d a b | .vclmpw _ mask d a b | .vadjb _ mask d a b
    => ([d.toNat, a.toNat, b.toNat] ++ maskSources mask, [d.toNat])
  | .vabs _ mask d a | .vneg _ mask d a | .vdup _ mask d a
    => ([a.toNat] ++ maskSources mask ++ maskDest mask d, [d.toNat])
  | .vcmpeq _ mask d a b | .vcmplt _ mask d a b | .vcmple _ mask d a b | .vcmpun _ mask d a b
  | .vrdot _ mask d a b | .vsel _ mask d a b => ([a.toNat, b.toNat] ++ maskSources mask, [d.toNat])
  | .vcvt _ _ mask d a | .vcvtz _ _ mask d a | .vcvts _ _ mask d a | .vcvtr _ _ mask d a | .vrsum _ mask d a
  | .vrmax _ mask d a | .vrmin _ mask d a => ([a.toNat] ++ maskSources mask, [d.toNat])
  | .viota _ mask d => (maskSources mask ++ maskDest mask d, [d.toNat])
  | .ctlr d num => (ctlSources num, [d.toNat])
  | .ctlw s _ | .ctls s _ | .ctlc s _ => ([s.toNat], [])
  | _ => ([], [])

/-- The lookahead count of a form that carries one (R79). -/
def instrLa : Instr → Option (BitVec 4)
  | .mul la _ _ _ | .mulh la _ _ _ | .mulhu la _ _ _ | .mulhsn la _ _ _ | .div la _ _ _ | .divu la _ _ _
  | .rem la _ _ _ | .remu la _ _ _ | .mulw la _ _ _ => some la
  | .walk la _ _ _ | .open_ la _ _ _ | .close la _ _ | .bind la _ _ _ | .unbind la _ _ _ | .revoke la _ _
  | .stat la _ _ | .dup la _ _ _ | .mknode la _ _ _ | .export_ la _ _ _ => some la
  | .ld _ _ _ la _ _ _ | .ldx _ _ _ la _ _ _ | .lda _ la _ _ _ => some la
  | .aadd _ la _ _ _ | .aand _ la _ _ _ | .aor _ la _ _ _ | .axor _ la _ _ _ | .amin _ la _ _ _
  | .amax _ la _ _ _ | .aminu _ la _ _ _ | .amaxu _ la _ _ _ | .axchg _ la _ _ _ | .acas _ la _ _ _
  | .afadd _ la _ _ _ | .aincs _ la _ _ _ => some la
  | .enq la _ _ _ | .jtest la _ _ _ | .jstat la _ _ | .aswap la _ _ _ | .jcancel la _ _ _ => some la
  | .vdiv _ la _ _ _ | .vsqrt _ la _ _ | .vidiv _ la _ _ _ | .virem _ la _ _ _ => some la
  | .vgath _ la _ _ _ | .vlds _ la _ _ _ => some la
  | _ => none

/-- The forms that wait for every earlier long-latency instruction and close every window: the blocking forms, SYNC,
PHINT, SAVE, TRAP, ERET, BKPT and RETIRE (R82, R174, R402). -/
def instrWaits : Instr → Bool
  | .jwait .. | .barwait .. | .gangbar .. | .spanbar .. | .sleep .. | .hpop .. | .evwait .. | .qpush .. | .qpop ..
  | .waitev .. | .xgo .. | .sumcol .. | .fence .. | .hfence .. | .phint .. | .save .. | .trap .. | .eret | .bkpt
  | .retire .. => true
  | _ => false

/-- The forms that release: every earlier store of the context performs before they take effect (R168, R173, R174,
R178, R181, R195, R228, R282, R296 to R298, R427). -/
def instrReleases : Instr → Bool
  | .enq .. | .spawn .. | .retire .. | .wake .. | .hpush .. | .evpost .. | .signal .. | .qpush .. | .qpushNb ..
  | .bararv .. | .gangbar .. | .spanbar .. | .sumcol .. | .xgo ..
  | .resume .. => true
  | .ctlr _ num => num == 0x04F
  | _ => false

/-- A store, an atomic, CLZERO or CLINV (`WR` of R421). -/
def instrStores : Instr → Bool
  | .st .. | .stx .. | .stl .. | .vscat .. | .vsts .. | .clzero .. | .clinv .. => true
  | i => i.isAtom

/-- What the current unit's instruction reads, its guard's register among them (R75, R80). -/
def State.sources (s : State) (i : Instr) : List Nat := s.cx.unit.guard ++ (instrRegs i).1

/-- The current unit's window, whose result `d` the unit has written or `kind` will write (R79). Its address, which a
conflict reports, is that of the instruction word behind the prefixes (DEDUCED, log entry 9). -/
def State.window (s : State) (i : Instr) (la : BitVec 4) (kind : PendKind) (wr : Option Reg) : State :=
  s.openWindow { pc := s.cx.unit.addr, left := la.toNat, dst := (instrRegs i).2, src := s.sources i, wr := wr, kind := kind }

/-- The window of a unit whose result is written at once: nothing to open where la is 0 (R79). -/
def State.windowDone (s : State) (i : Instr) (la : BitVec 4) : State :=
  if la = 0 then s else s.window i la .done none

/-- Continue with what a check gives, or trap with its cause and value (R121). -/
def State.orTrap {α : Type} (s : State) (r : Except Bad α) (f : α → State) : Out :=
  match r with
  | .ok x => .next (f x)
  | .error b => .next (s.trapBad b)

/-- Trap where a handle check fails, with the register number as trap.val; otherwise go on (R172, R212, R300, R401). -/
def State.withHandle (s : State) (r : Reg) (need : BitVec 12) (kinds : List (BitVec 3)) (f : State) : Out :=
  match s.handleCheck s.cx.asid (s.reg r) need kinds with
  | some c => .next (s.takeTrap c (r.setWidth 64))
  | none => .next f

end Sys2Proof.Machine
end

