-- ==== Sys2Proof/Machine/Flags.lean ====
section
/-!
DEFINITION. Sys2Proof/Machine/Flags.lean: the conditions of compares and branches (R130), fpctl (R92), and the event
counters that an instruction of the current context adds to when it retires (R108 to R110).
-/
namespace Sys2Proof.Machine

/-- The condition table (R130). -/
def condHolds (c : Cond) (x y : Word) : Bool :=
  match c with
  | .eq => x == y
  | .ne => x != y
  | .lt => x.slt y
  | .ge => !x.slt y
  | .ltu => x.ult y
  | .geu => !x.ult y
  | .tst => x &&& y != 0
  | .ntst => x &&& y == 0

/-- `RM` of fpctl (R92). -/
def State.rm (s : State) : Rounding := .ofCode (s.cx.fpctl.extractLsb' 0 2).toNat
/-- `FTZ` of fpctl (R92). -/
def State.ftz (s : State) : Bool := s.cx.fpctl.getLsbD 2
/-- `DAZ` of fpctl (R92). -/
def State.daz (s : State) : Bool := s.cx.fpctl.getLsbD 3

/-- A scalar instruction's events: at most 1 for each counter (R108). -/
def State.countOne (s : State) (ev : Ev) : State :=
  if ev = 0 then s else s.updCx (·.addCounts (evCounts [ev]))

/-- A vector instruction's events: for each counter the number of lanes in which the event occurred (R108). -/
def State.countLanes (s : State) (evs : List Ev) : State :=
  if evs.all (· == 0) then s else s.updCx (·.addCounts (evCounts evs))

/-- `DAZ`: a subnormal operand is read as zero of its sign, which counts (R92, R108). -/
def dazOperand (daz : Bool) (f : Fmt) (b : Nat) : Nat × Ev :=
  if daz && f.isSubnormal b then (bitsOf b (f.eb + f.fb) 1 * 2 ^ (f.eb + f.fb), evFlush) else (b, 0)

/-- `FTZ`: a subnormal result is replaced by zero of its sign, which counts as a flush and, since the result then
differs from the exact one, as inexact (R92, R108; the second count is DEDUCED, log entry 30). -/
def ftzResult (ftz : Bool) (f : Fmt) (b : Nat) : Nat × Ev :=
  if ftz && f.isSubnormal b then (bitsOf b (f.eb + f.fb) 1 * 2 ^ (f.eb + f.fb), evFlush ||| evInexact) else (b, 0)

end Sys2Proof.Machine
end

