-- ==== Sys2Proof/Machine/Memory.lean ====
section
/-!
DEFINITION. Sys2Proof/Machine/Memory.lean: LD, LDX, ST, STX, LDA, STL (R240 to R245), FENCE and HFENCE (R249 to R251)
and CACHE (R252).
-/
namespace Sys2Proof.Machine

/-- An order that acquires (R234). -/
def Order.acquires : Order → Bool
  | .acq | .ar => true
  | .rlx | .rel => false
/-- An order that releases (R234). -/
def Order.releases : Order → Bool
  | .rel | .ar => true
  | .rlx | .acq => false

/-- An order and scope that QUAL gives make an access strong, but for rlx at core scope (R74). -/
def strongOf (o : MemOrder) : Bool := o.order != .rlx || o.scope != .core

/-- The effective offset: the cursor and a displacement in elements of the access's size (R120, R241). -/
def State.effOffset (s : State) (a : Reg) (i : Word) (size : MemSize) : Word :=
  (s.cap a).offset + i * BitVec.ofNat 64 size.bytes

/-- What an order asks of an access at issue: a clamp is counted (R238); a release drains the stash and waits until
every earlier load has its value (R225, R234). -/
def State.orderAccess (s : State) (o : Order) (scope : Scope) : State :=
  let s := if o == .rlx then s else s.clampScope scope
  if Order.releases o then s.resolveAll.drainStash s.cx.id else s

/-! ### Loads -/

/-- A transaction of the current context to another chip, of a given kind (R196, R364). -/
def State.newTxn (s : State) (h : BitVec 24) (off : Word) (chip : ChipIx) (kind : TxnKind) (fabric : Bool := false) :
    Nat × State :=
  let t : Txn := { label := s.label, ctx := s.cx.id, asid := s.cx.asid, handle := h, off := off, chip := chip,
                   sent := s.cycle, fabric := fabric, port := s.portTo s.cx.core chip, kind := kind }
  (s.label, { s with label := s.label + 1, txns := t :: s.txns })

/-- The remote handle of a local handle on a peer proxy, with its next sequence number, which rises by 1 (R197). -/
def State.nextSeq (s : State) (a : Asid) (h : BitVec 24) : Option (ChipIx × BitVec 24 × BitVec 24 × Nat × State) :=
  match (s.space a).handles.find? fun k => k.ix == h with
  | some { remote := some (chip, rh, rg), seq := n, .. } =>
    some (chip, rh, rg, n, s.updHandle a h fun k => { k with seq := n + 1 })
  | _ => none

/-- The window of a load that waits for an answer: it is open even at la 0, and no later unit issues before it closes
(R79, R242). -/
def State.awaitRemote (s : State) (i : Instr) (la : BitVec 4) (d : Reg) (txn : Nat) (size : MemSize) (sign : Bool)
    (t : Target) : State := (s.window i la (.remote txn size sign t) (some d)).advance

/-- The current context's pending loads of `n` bytes of a target have their values before a later load of them, where either
is strong; two plain loads keep no order (R230, R232). -/
def State.resolveLoads (s : State) (t : Target) (n : Nat) (strong : Bool) : State :=
  (List.range s.cx.pend.length).foldl (fun s i =>
    match s.cx.pend[i]? with
    | some p =>
      let was := match p.kind with
        | .load _ _ _ _ st => st
        | _ => false
      if (strong || was) && p.reads.any fun (u, m) => t.meets n u m then s.resolvePend i else s
    | none => s) s

/-- A load whose checks have passed: its value is read at once where la is 0, and when its window closes or its data
returns where it is not (R79, R241, R242). -/
def State.issueLoad (s : State) (i : Instr) (la : BitVec 4) (d : Reg) (t : Target) (size : MemSize)
    (sign strong : Bool) (handle : BitVec 24) : State :=
  match t with
  | .peer a h off =>
    match s.nextSeq a h with
    | none => s.takeTrap .capStale off
    | some (chip, rh, rg, n, s) =>
      let (txn, s) := s.newTxn h off chip .load
      (s.send (.step chip (.nread s.pkg.chip txn rh rg n off size))).awaitRemote i la d txn size sign t
  | .fabric chip page off va =>
    let (txn, s) := s.newTxn handle va chip .load true
    (s.send (.fabric chip txn s.cx.id page off (.load size.bytes))).awaitRemote i la d txn size sign t
  | t =>
    let s := s.resolveLoads t size.bytes strong
    if la != 0 then (s.window i la (.load t size.bytes size sign strong) (some d)).advance
    else if s.memErr then (State.lateFault { s with memErr := false } .memError s.here none).advance
    else
      let (bs, tag) := s.readTarget s.cx t size.bytes
      (s.setReg d (loadValue bs size sign tag)).advance

/-- A load at an effective offset, with an order at a scope (R241, R244, R245). -/
def State.loadAt (s : State) (i : Instr) (la : BitVec 4) (d a : Reg) (size : MemSize) (sign : Bool) (eff : Word)
    (strong : Bool) (o : MemOrder) : Out :=
  s.orTrap (s.accessAt s.cx (s.reg a) permR eff { acc := .read, n := size.bytes, size := size, strong := strong })
    fun (t, s) =>
      let s := s.orderAccess o.order o.scope
      let s := if Order.releases o.order then s.drain s.cx.id else s
      s.issueLoad i la d t size sign strong (s.cap a).handle

/-- LD (R241). -/
def execLd (ord : MemOrder) (size : MemSize) (sign : Bool) (la : BitVec 4) (d a : Reg) (imm : Imm 6) (s : State) :
    Out :=
  s.loadAt (.ld ord size sign la d a imm) la d a size sign (s.effOffset a (immValue imm) size) (strongOf ord) ord
/-- LDX (R241). -/
def execLdx (ord : MemOrder) (size : MemSize) (sign : Bool) (la : BitVec 4) (d a b : Reg) (s : State) : Out :=
  s.loadAt (.ldx ord size sign la d a b) la d a size sign (s.effOffset a (s.x b) size) (strongOf ord) ord
/-- LDA (R244): zero extension, acquire order. -/
def execLda (size : MemSize) (la : BitVec 4) (d a : Reg) (scope : Scope) (s : State) : Out :=
  s.loadAt (.lda size la d a scope) la d a size false (s.cap a).offset true ⟨.acq, scope⟩

/-! ### Stores -/

/-- Bytes go into the buffer entry of one stash sector; a new entry drains the oldest of eight (R225). -/
def State.stashSector (s : State) (sector : Nat) (bs : List (Nat × Byte)) : State :=
  match s.cx.stash.find? (fun x => x.key == sector) with
  | some _ => s.updCx fun c => { c with stash := c.stash.map fun x =>
      if x.key = sector then { x with bytes := bs ++ x.bytes.filter fun y => !bs.any fun z => z.1 == y.1 } else x }
  | none =>
    let s := if s.cx.stash.length < 8 then s else
      match s.cx.stash.getLast? with
      | some x => (s.drainSector x).updCx fun c => { c with stash := c.stash.dropLast }
      | none => s
    s.updCx fun c => { c with stash := ⟨sector, bs⟩ :: c.stash }

/-- A store through a stash window (R225). -/
def State.stashPut (s : State) (key : Nat) (bs : List Byte) : State :=
  let sectors := (List.range ((key % 32 + bs.length + 31) / 32)).map fun i => key / 32 * 32 + 32 * i
  sectors.foldl (fun s sec =>
    s.stashSector sec (((List.range 32).filter fun i => key ≤ sec + i && sec + i < key + bs.length).map fun i =>
      (i, bs.getD (sec + i - key) 0))) s

/-- Buffered stash sectors of the current context that another window's store reaches drain before it, so that its stores to
one byte keep their order (R225, R232; log entry 57). -/
def State.unstash (s : State) (t : Target) (n : Nat) : State :=
  match t, t.storage n with
  | .stash _, _ | _, none => s
  | _, some (lo, m) =>
    let hit (x : StashSector) : Bool := x.bytes.any fun y => lo ≤ x.key + y.1 && x.key + y.1 < lo + m
    ((s.cx.stash.filter hit).reverse.foldl State.drainSector s).updCx fun c =>
      { c with stash := c.stash.filter fun x => !hit x }

/-- Before a later store, pending loads of the current context that touch its bytes have their values, and its buffered
bytes there perform (R83, R225, R232). -/
def State.resolveFor (s : State) (t : Target) (n : Nat) : State :=
  ((List.range s.cx.pend.length).foldl (fun s i =>
    match s.cx.pend[i]? with
    | some p => if p.reads.any fun (u, m) => t.meets n u m then s.resolvePend i else s
    | none => s) s).unstash t n

/-- A store enters the slot's store queue (R220). -/
def State.enqueueStore (s : State) (e : StoreEntry) : State :=
  (s.resolveFor e.target e.n).updCx fun c => { c with storeQ := c.storeQ ++ [e] }

/-- The unit goes on once the store queue is empty: at once, or when the stores have performed. -/
def State.awaitStores (s : State) : State :=
  let s := s.drain s.cx.id
  if s.cx.storeQ.isEmpty then s.advance else s.block .fence

/-- A store to a queue makes an entry, which is a push and so a release, at this scope (R195, R211, R437). -/
def State.entryScope (s : State) (t : Target) : Option Scope :=
  match t with
  | .queue a node _ => (s.queueAt a node).map fun q => s.nearScope (clusterOf q.home)
  | .peer a h _ =>
    match (((s.space a).handles.find? fun k => k.ix == h).bind (·.node)).bind (s.nodeAt a) |>.map Node.body with
    | some (.peerNode _ _ _ kind) => if kind = 1 then some .ten else none
    | _ => none
  | _ => none

/-- A target holds a tag (R216). -/
def Target.holdsTag : Target → Bool
  | .bytes _ tags => tags
  | .ctx .. => true
  | _ => false

/-- The store queue's entry of a store of `n` bytes (R220). -/
def State.storeOf (s : State) (t : Target) (n : Nat) (size : MemSize) (v : RegVal) (handle : BitVec 24) (rel : Bool) :
    StoreEntry :=
  { target := t, n := n, data := v.val, size := size, tag := v.tag && t.holdsTag, rel := rel, handle := handle,
    pc := s.here }

/-- CLZERO of a peer's line: two forwarded accesses, since a size code holds at most 32 bytes (R68, R196); they count as one
entry of the queue (R220). -/
def State.zeroPeer (s : State) (a : Asid) (h : BitVec 24) (off : Word) (handle : BitVec 24) : State :=
  let e (off : Word) : StoreEntry := { s.storeOf (.peer a h off) 32 .b256 {} handle false with group := some s.label }
  ((State.enqueueStore { s with label := s.label + 1 } (e off))).enqueueStore (e (off + 32))

/-- A store whose checks have passed (R220, R225, R234, R243). One through a stash window is gathered, unless its order makes it
perform: it then takes its place among the stores, after what is buffered for its sector. -/
def State.issueStore (s : State) (t : Target) (n : Nat) (size : MemSize) (v : RegVal) (handle : BitVec 24)
    (o : Order) : State :=
  let scope := s.entryScope t
  let s := match scope with
    | some scope => (s.clampScope scope).resolveAll.drainStash s.cx.id
    | none => s
  let rel := Order.releases o || scope.isSome
  let s := match t with
    | .stash key =>
      if o == Order.rlx then (s.resolveFor t n).stashPut key (toBytes v.val.toNat n)
      else s.enqueueStore (s.storeOf (.bytes key false) n size v handle rel)
    | .peer a h off =>
      if n = 64 then s.zeroPeer a h off handle else s.enqueueStore (s.storeOf t n size v handle rel)
    | t => s.enqueueStore (s.storeOf t n size v handle rel)
  if Order.acquires o then s.awaitStores else s.advance

/-- A store at an effective offset, with an order at a scope (R243 to R245). -/
def State.storeAt (s : State) (src a : Reg) (size : MemSize) (eff : Word) (strong : Bool) (o : MemOrder) : Out :=
  s.orTrap (s.accessAt s.cx (s.reg a) permW eff { acc := .write, n := size.bytes, size := size, strong := strong })
    fun (t, s) => (s.orderAccess o.order o.scope).issueStore t size.bytes size (s.reg src) (s.cap a).handle o.order

/-- ST (R243). -/
def execSt (ord : MemOrder) (size : MemSize) (src a : Reg) (imm : Imm 10) (s : State) : Out :=
  s.storeAt src a size (s.effOffset a (immValue imm) size) (strongOf ord) ord
/-- STX (R243). -/
def execStx (ord : MemOrder) (size : MemSize) (src a b : Reg) (s : State) : Out :=
  s.storeAt src a size (s.effOffset a (s.x b) size) (strongOf ord) ord
/-- STL (R244): release order. -/
def execStl (size : MemSize) (src a : Reg) (scope : Scope) (s : State) : Out :=
  s.storeAt src a size (s.cap a).offset true ⟨.rel, scope⟩

/-! ### Fences -/

/-- FENCE (R249): every earlier long-latency instruction has completed when it issues (R82). -/
def execFence (scope : Scope) (kind : FenceKind) (s : State) : Out :=
  let s := s.clampScope scope
  match kind with
  | .acq => .next s.advance
  | .rel =>
    let s := s.drainStash s.cx.id
    if s.cx.storeQ.isEmpty then .next s.advance
    else
      let m : StoreEntry := { target := .bytes 0 false, n := 0, data := 0, size := .b8, marker := true, pc := s.here }
      .next (s.updCx fun c => { c with storeQ := c.storeQ ++ [m] }).advance
  | .full => .next (s.drainStash s.cx.id).awaitStores

/-- Stores of a context through one handle that have not performed (R250). -/
def Ctx.unperformed (c : Ctx) (h : BitVec 24) : Bool := c.storeQ.any fun e => e.handle == h && !e.marker

/-- HFENCE (R250): waits for the accesses through c[a].HANDLE. -/
def execHfence (a : Reg) (s : State) : Out :=
  let k := s.cap a
  if !(s.reg a).tag then .next (s.takeTrap .capTag (a.setWidth 64))
  else if k.isWalkRef then .next s.advance
  else
    let s := s.drain s.cx.id
    .next (if s.cx.unperformed k.handle then s.block (.hfence k.handle) else s.advance)

/-! ### Cache control -/

/-- A CACHE access of `n` bytes (R252). -/
def cacheAccess (acc : Acc) (n : Nat) : Access := { acc := acc, n := n, size := .b256, free := true }

/-- PREF (R252): it never traps; the caches are not visible but through the TLB it fills. -/
def execPref (a : Reg) (s : State) : Out :=
  match s.accessAt s.cx (s.reg a) permR (s.cap a).offset (cacheAccess .read 1) with
  | .ok (_, s) => .next s.advance
  | .error _ => .next s.advance

/-- The line of a target goes to its home, after the context's earlier stores (R218, R252, R438). -/
def State.cleanLine (s : State) (t : Target) : State :=
  let s := s.drain s.cx.id
  match t with
  | .bytes key _ => if inDram key then s.writeBack key else s
  | _ => s

/-- CLWB (R252). -/
def execClwb (a : Reg) (s : State) : Out :=
  s.orTrap (s.accessAt s.cx (s.reg a) permR (s.cap a).offset (cacheAccess .read 1))
    fun (t, s) => (s.cleanLine t).advance
/-- CLINV (R252): its faults are those of a 1-byte store. -/
def execClinv (a : Reg) (s : State) : Out :=
  s.orTrap (s.accessAt s.cx (s.reg a) permW (s.cap a).offset { acc := .write, n := 1, size := .b8 })
    fun (t, s) => (s.cleanLine t).advance

/-- A line of /mem is 64-byte aligned in its virtual address too (R217; log entry 45). -/
def lineAligned (t : Target) (eff : Word) : Except Bad Unit :=
  match t with
  | .bytes key _ => if key % 64 != 0 && !inSpad key then .error (.align, eff) else .ok ()
  | _ => .ok ()

/-- CLZERO (R252): 64 bytes from the cursor rounded down; through a plane window, zero blocks (R103). -/
def execClzero (a : Reg) (s : State) : Out :=
  let eff := (s.cap a).offset &&& ~~~63#64
  s.orTrap (do
      let (t, s') ← s.accessAt s.cx (s.reg a) permW eff (cacheAccess .write 64)
      lineAligned t eff
      pure (t, s'))
    fun (t, s) => s.issueStore t 64 .b256 {} (s.cap a).handle .rlx

/-- The stash sector that a form of CACHE names: the kind of window is checked before alignment and translation (R215,
R252; log entry 45). -/
def State.stashForm (s : State) (a : Reg) (f : Nat → State → State) : Out :=
  let k := s.cap a
  s.orTrap (match s.capCheck s.cx.asid (s.reg a) (if k.kind = 6 then permW ||| permP else permW) k.offset 1,
              s.handleBase s.cx.asid k with
            | some cause, _ => .error (cause, k.offset)
            | none, some (.stash ..) =>
              match s.accessAt s.cx (s.reg a) permW k.offset (cacheAccess .write 1) with
              | .ok (.stash key, s) => .ok (key / 32 * 32, s)
              | .ok _ => .error (.capPerm, k.offset)
              | .error bad => .error bad
            | none, none => .error (.capStale, k.offset)
            | none, some _ => .error (.capPerm, k.offset))
    fun (sector, s) => (f sector s).advance

/-- STASHFL (R252): drains one sector. -/
def execStashfl (a : Reg) (s : State) : Out :=
  s.stashForm a fun sector s =>
    match s.cx.stash.find? (fun x => x.key == sector) with
    | some x => (s.drainSector x).updCx fun c => { c with stash := c.stash.filter fun y => y.key != sector }
    | none => s
/-- STASHINV (R252): discards one sector's bytes, which earlier loads have read. -/
def execStashinv (a : Reg) (s : State) : Out :=
  s.stashForm a fun sector s => (s.resolveFor (.stash sector) 32).updCx fun c => { c with stash := c.stash.filter fun y => y.key != sector }

end Sys2Proof.Machine
end

