-- ==== Sys2Proof/Machine/Atomics.lean ====
section
/-!
DEFINITION. Sys2Proof/Machine/Atomics.lean: ATOM (R246 to R248).
-/
namespace Sys2Proof.Machine

/-- The functions of ATOM, in fn4 order (R246). -/
inductive AtomFn where
  | add | and_ | or_ | xor | min | max | minu | maxu | xchg | cas | fadd | incs
deriving DecidableEq, Repr

/-- The fn4 code of a function (R246). -/
def AtomFn.code : AtomFn → Nat
  | .add => 0 | .and_ => 1 | .or_ => 2 | .xor => 3 | .min => 4 | .max => 5 | .minu => 6 | .maxu => 7 | .xchg => 8
  | .cas => 9 | .fadd => 10 | .incs => 11

/-- The function of a code; a code above 11 names none, and a peer's request holds no such code (R246). -/
def AtomFn.ofCode : Nat → AtomFn
  | 0 => .add | 1 => .and_ | 2 => .or_ | 3 => .xor | 4 => .min | 5 => .max | 6 => .minu | 7 => .maxu | 8 => .xchg
  | 9 => .cas | 10 => .fadd | _ => .incs

/-- RNE(x + y) in f64 or f32, whatever fpctl holds, and its events (R247). -/
def atomFadd (f : Fmt) (x y : Nat) : Nat × Ev :=
  let (r, e) := Num.add .rne (f.decode x) (f.decode y)
  let (b, e') := f.round .rne false r
  (b, e ||| e')

/-- What a function makes of the old word of `w` bits and the operand: the new word, or none where nothing is written,
and the events (R246, R247). -/
def AtomFn.apply (fn : AtomFn) (w : Nat) (old : Nat) (y : W256) : Option Nat × Ev :=
  let m := 2 ^ w
  let b := y.toNat % m
  let sOld := sextInt old w
  let sB := sextInt b w
  match fn with
  | .add => (some ((old + b) % m), 0)
  | .and_ => (some (old &&& b), 0)
  | .or_ => (some (old ||| b), 0)
  | .xor => (some (old ^^^ b), 0)
  | .min => (some (if sOld ≤ sB then old else b), 0)
  | .max => (some (if sOld ≤ sB then b else old), 0)
  | .minu => (some (Nat.min old b), 0)
  | .maxu => (some (Nat.max old b), 0)
  | .xchg => (some b, 0)
  | .cas => (if old = b then some (bitsOf y.toNat 64 w) else none, 0)
  | .fadd =>
    let (r, e) := atomFadd ((if w = 64 then ElemType.f64 else ElemType.f32).fmt.getD ⟨11, 52, 1023, .ieee⟩) old b
    (some r, e)
  | .incs => (some (Nat.min (old + b) (m - 1)), evIf (m ≤ old + b) evSat)

/-- The forms that PCI Express carries to host memory (R248). -/
def AtomFn.onHost : AtomFn → Bool
  | .add | .xchg | .cas => true
  | _ => false

/-- The virtual address of the cursor of c[a]. -/
def State.cursorVa (s : State) (a : Reg) : Word := s.capVa s.cx.asid (s.cap a)

/-- The completer refuses an AtomicOp: MEM_ERROR, the word and the register as they were (R248). -/
def State.atomRefused (s : State) (i : Instr) (la : BitVec 4) : State :=
  ((State.lateFault { s with hostRefuse := false } .memError s.here none).windowDone i la).advance

/-- An atomic at bytes of this package or the host, at their home (R246, R248). The value that an uncorrectable error
leaves is a free value (R222; log entries 10 and 46). -/
def State.atomAt (s : State) (fn : AtomFn) (i : Instr) (la : BitVec 4) (d b : Reg) (key n : Nat) : State :=
  if 2 ^ 64 ≤ key && s.hostRefuse then s.atomRefused i la else
  let (old, s) : Nat × State := if s.memErr then
      let (v, s) := s.freeValue
      (v.toNat % 2 ^ (8 * n), s)
    else (s.nat key n, s)
  let (new, ev) := fn.apply (8 * n) old (s.bits b)
  let s := match new with
    | some v => s.coreWrite key (toBytes v n)
    | none => s
  let s := (s.countOne ev).windowDone i la
  if s.memErr then (State.lateFault { s with memErr := false } .memError s.here none).advance
  else (s.setBits d (.ofNat 256 old)).advance

/-- ATOM (R246): the checks in their order, then the read, the function and the write in one step. -/
def State.atom (s : State) (fn : AtomFn) (i : Instr) (o : AtomOrder) (la : BitVec 4) (d a b : Reg) : Out :=
  let k := s.cap a
  let n := if o.w32 then 4 else 8
  let size := if o.w32 then MemSize.b32 else .b64
  s.orTrap (do
      match s.capCheck s.cx.asid (s.reg a) permA k.offset n with
      | some c => Except.error (c, k.offset)
      | none => pure ()
      if k.kind != 0 then Except.error (.capPerm, k.offset)
      let (t, s') ← s.accessAt s.cx (s.reg a) permA k.offset
        { acc := .write, n := n, size := size, strong := true, atom := true }
      if k.offset.toNat % n != 0 then Except.error (.align, k.offset)
      match t with
      | .bytes key _ =>
        if 2 ^ 64 ≤ key && !fn.onHost then Except.error (.pageProt, s.cursorVa a) else pure (t, s')
      | _ => pure (t, s'))
    fun (t, s) =>
      let s := (s.orderAccess o.order o.scope).resolveFor t n
      let s := s.drain s.cx.id
      match t with
      | .bytes key _ => s.atomAt fn i la d b key n
      | .stash key => (s.unstash (.bytes key false) n).atomAt fn i la d b key n
      | .fabric chip page off va =>
        let (txn, s) := s.newTxn k.handle va chip (.atom (.ofNat 4 fn.code) o.w32 (s.bits b)) true
        (s.send (.fabric chip txn s.cx.id page off (.atom (.ofNat 4 fn.code) o.w32 (s.bits b)))).awaitRemote
          i la d txn size false t
      | _ => s.takeTrap .capPerm k.offset

/-- AADD (R246). -/
def execAadd (ord : AtomOrder) (la : BitVec 4) (d a b : Reg) (s : State) : Out :=
  s.atom .add (.aadd ord la d a b) ord la d a b
/-- AAND (R246). -/
def execAand (ord : AtomOrder) (la : BitVec 4) (d a b : Reg) (s : State) : Out :=
  s.atom .and_ (.aand ord la d a b) ord la d a b
/-- AOR (R246). -/
def execAor (ord : AtomOrder) (la : BitVec 4) (d a b : Reg) (s : State) : Out :=
  s.atom .or_ (.aor ord la d a b) ord la d a b
/-- AXOR (R246). -/
def execAxor (ord : AtomOrder) (la : BitVec 4) (d a b : Reg) (s : State) : Out :=
  s.atom .xor (.axor ord la d a b) ord la d a b
/-- AMIN (R246). -/
def execAmin (ord : AtomOrder) (la : BitVec 4) (d a b : Reg) (s : State) : Out :=
  s.atom .min (.amin ord la d a b) ord la d a b
/-- AMAX (R246). -/
def execAmax (ord : AtomOrder) (la : BitVec 4) (d a b : Reg) (s : State) : Out :=
  s.atom .max (.amax ord la d a b) ord la d a b
/-- AMINU (R246). -/
def execAminu (ord : AtomOrder) (la : BitVec 4) (d a b : Reg) (s : State) : Out :=
  s.atom .minu (.aminu ord la d a b) ord la d a b
/-- AMAXU (R246). -/
def execAmaxu (ord : AtomOrder) (la : BitVec 4) (d a b : Reg) (s : State) : Out :=
  s.atom .maxu (.amaxu ord la d a b) ord la d a b
/-- AXCHG (R246). -/
def execAxchg (ord : AtomOrder) (la : BitVec 4) (d a b : Reg) (s : State) : Out :=
  s.atom .xchg (.axchg ord la d a b) ord la d a b
/-- ACAS (R246). -/
def execAcas (ord : AtomOrder) (la : BitVec 4) (d a b : Reg) (s : State) : Out :=
  s.atom .cas (.acas ord la d a b) ord la d a b
/-- AFADD (R247). -/
def execAfadd (ord : AtomOrder) (la : BitVec 4) (d a b : Reg) (s : State) : Out :=
  s.atom .fadd (.afadd ord la d a b) ord la d a b
/-- AINCS (R246). -/
def execAincs (ord : AtomOrder) (la : BitVec 4) (d a b : Reg) (s : State) : Out :=
  s.atom .incs (.aincs ord la d a b) ord la d a b

end Sys2Proof.Machine
end

