-- ==== Sys2Proof/Machine/Names.lean ====
section
/-!
DEFINITION. Sys2Proof/Machine/Names.lean: paths and name strings (R183, R186, R200), making nodes and opening handles
(R188, R189), walks (R190, R201, R253) and the NAME class (R199 to R210).
-/
namespace Sys2Proof.Machine

/-! ### Status words (R199) -/

/-- Outcome codes (R199). -/
inductive NameCode where
  | ok | unbound | notdir | badname | toolong | denied | stale | nohandle | exists_ | nospace | badarg | badfmt
  | peerdown | pinfail
deriving DecidableEq, Repr

/-- The code of an outcome (R199). -/
def NameCode.code : NameCode → BitVec 8
  | .ok => 0x00 | .unbound => 0x01 | .notdir => 0x02 | .badname => 0x03 | .toolong => 0x04 | .denied => 0x05
  | .stale => 0x06 | .nohandle => 0x07 | .exists_ => 0x08 | .nospace => 0x09 | .badarg => 0x0A | .badfmt => 0x0B
  | .peerdown => 0x0C | .pinfail => 0x0D

/-- A status word: all zero for OK (R199). -/
def statusWord (code comp : BitVec 8) (kind : BitVec 3) (remote : Bool) (form : Nat) : Word :=
  if code = 0 then 0 else (BitVec.ofNat 4 form ++ BitVec.ofBool remote ++ kind ++ comp ++ code).setWidth 64

/-- A failure that concerns no component. -/
def failWord (c : NameCode) (form : Nat) : Word := statusWord c.code 0xFF 0 false form

/-- name.stat of the current context. -/
def State.setNameStat (s : State) (w : Word) : State := s.updCx fun c => { c with nameStat := w }

/-- A NAME form that is done: name.stat, c[d] where it writes one, its window (R79, R199, R200). -/
def State.nameEnd (s : State) (i : Instr) (la : BitVec 4) (w : Word) (res : Option (Reg × RegVal)) : State :=
  let s := (s.setNameStat w).windowDone i la
  let s := match res with
    | some (d, v) => s.setReg d v
    | none => s
  s.advance

/-- A form whose status word goes to c[d] and name.stat. -/
def State.nameWord (s : State) (i : Instr) (la : BitVec 4) (d : Reg) (w : Word) : State :=
  s.nameEnd i la w (some (d, ⟨w.setWidth 256, false⟩))

/-- The checks of a capability operand, trap.val being its register number; `walkRef`: the form takes a walk reference
there (R200). -/
def State.nameOperand (s : State) (r : Reg) (need : BitVec 12) (kinds : List (BitVec 3)) (walkRef : Bool) :
    Option Bad :=
  let k := s.cap r
  if !(s.reg r).tag then some (.capTag, r.setWidth 64)
  else if k.sealed_ && !(walkRef && k.isWalkRef) then some (.capSealed, r.setWidth 64)
  else if !k.has need || (!kinds.isEmpty && !kinds.contains k.kind) then some (.capPerm, r.setWidth 64)
  else none

/-- The name unit reads the node and handle tables for an operand, for c0 the root of the context; a fault that the driver
cannot service traps, with the index of the operand's node (R200; log entry 68). -/
def State.tables (s : State) (r : Reg) : Option Bad :=
  let k := s.cap r
  let node : BitVec 23 :=
    if r = 0 then s.cx.root
    else if k.isWalkRef then k.handle.setWidth 23
    else (((s.space s.cx.asid).handles.find? fun h => h.ix == k.handle).bind (·.node)).getD 0
  if s.tableFault then some (.nameFault, node.setWidth 64) else none

/-- Turn a failing check into its trap. -/
def checked (b : Option Bad) : Except Bad Unit :=
  match b with
  | some b => .error b
  | none => .ok ()

/-! ### Strings and paths (R183) -/

/-- What the reading of a string gives: the string, none where no zero byte is among its 513 bytes, or the bytes so far and
the place on another chip of the next one (R183, R200). -/
inductive StringRead where
  | text (p : Option (List Byte))
  | far (got : List Byte) (t : Target)
deriving DecidableEq, Repr

/-- A byte of a string, read through its capability as a load; none where another chip has to bring it (R200). -/
def State.stringByte (s : State) (v : RegVal) (eff : Word) : Except Bad (Option Byte × Target × State) :=
  match s.accessAt s.cx v permR eff { acc := .read, n := 1, size := .b8 } with
  | .error b => .error b
  | .ok (t, s) =>
    match t with
    | .fabric chip page off va =>
      match s.ownPage s.cx.asid chip page off with
      | some (.ok key) => .ok (some ((s.bytes key 1).headD 0), t, s)
      | some (.error ()) => .error (.fabric, va)
      | none => .ok (none, t, s)
    | .peer .. => .ok (none, t, s)
    | t => .ok (some ((s.readTarget s.cx t 1).1.headD 0), t, s)

/-- The bytes before the zero byte, of at most `fuel` more; those read so far stand last first (R183). -/
def State.stringFrom (v : RegVal) : Nat → Word → List Byte → State → Except Bad (StringRead × State)
  | 0, _, _, s => .ok (.text none, s)
  | fuel + 1, eff, acc, s =>
    match s.stringByte v eff with
    | .error b => .error b
    | .ok (none, t, s) => .ok (.far acc.reverse t, s)
    | .ok (some b, _, s) =>
      if b = 0 then .ok (.text (some acc.reverse), s) else State.stringFrom v fuel (eff + 1) (b :: acc) s

/-- The bytes that the current context has read of a string through another chip, in order (R200). -/
def Ctx.stringGot (c : Ctx) : List Byte :=
  match c.wait with
  | .string _ got _ => got
  | _ => []

/-- The string that a register's capability names, from its cursor (R183, R200; log entry 43). A form that waited for a byte
of it goes on behind the bytes that it has. -/
def State.string (s : State) (r : Reg) : Except Bad (StringRead × State) :=
  let got := s.cx.stringGot
  let s := if got.isEmpty then s else s.updCx fun c => { c with wait := .none }
  if got.getLast? = some 0 then .ok (.text (some got.dropLast), s)
  else State.stringFrom (s.reg r) (513 - got.length) ((s.cap r).offset + .ofNat 64 got.length) got.reverse s

/-- A name form asks another chip for the next byte of its string, and waits for it; behind its own queued stores to that
place (R194, R200, R232). -/
def State.askByte (s : State) (i : Instr) (handle : BitVec 24) (got : List Byte) (t : Target) : State :=
  let sent (txn : Nat) (s : State) : State := s.block (.string i got (some txn))
  if s.cx.storeQ.any fun e => (e.pieces t).any fun x => t.start ≤ x.1 && x.1 < t.start + 1 then s.block (.string i got none)
  else
    match t with
    | .peer a h off =>
      if s.cx.storeQ.any fun e => e.handle == h then s.block (.string i got none)
      else
        match s.nextSeq a h with
        | none => s.takeTrap .capStale off
        | some (chip, rh, rg, n, s) =>
          let (txn, s) := s.newTxn h off chip .byte
          sent txn (s.send (.step chip (.nread s.pkg.chip txn rh rg n off .b8)))
    | .fabric chip page off va =>
      let (txn, s) := s.newTxn handle va chip .byte true
      sent txn (s.send (.fabric chip txn s.cx.id page off (.load 1)))
    | _ => s

/-- A name form goes on with its string, or asks for the next byte of it. -/
def State.withString (s : State) (i : Instr) (r : Reg) (f : Option (List Byte) → State → Except Bad State) :
    Except Bad State :=
  match s.string r with
  | .error b => .error b
  | .ok (.far got t, s) => .ok (s.askByte i (s.cap r).handle got t)
  | .ok (.text p, s) => f p s

/-- The answer to a byte of a string reaches the form that waits for it (R200). -/
def State.byteArrives (s : State) (ctx : BitVec 32) (txn : Nat) (b : Byte) : State :=
  s.updCtx ctx fun c => match c.wait with
    | .string i got (some t) => if t = txn then { c with wait := .string i (got ++ [b]) none } else c
    | _ => c

/-- A string operand fails its tag, seal or permission check as a load does: trap.val holds the offset (R121, R200). -/
def State.stringOperand (s : State) (r : Reg) : Option Bad :=
  (s.nameOperand r permR [] false).map fun b => (b.1, (s.cap r).offset)

/-- Bytes of ASCII text. -/
def ascii (t : String) : List Byte := t.toList.map fun c => .ofNat 8 c.toNat

/-- A byte that a component may hold (R183). -/
def nameByte (b : Byte) : Bool :=
  let n := b.toNat
  (0x41 ≤ n && n ≤ 0x5A) || (0x61 ≤ n && n ≤ 0x7A) || (0x30 ≤ n && n ≤ 0x39) || n == 0x2E || n == 0x5F || n == 0x2D

/-- A legal component (R183). -/
def nameOk (c : Name) : Bool :=
  1 ≤ c.length && c.length ≤ 31 && c.all nameByte && c != ascii "." && c != ascii ".."

/-- Split at "/" bytes. -/
def splitSlash : List Byte → List Name
  | [] => [[]]
  | b :: bs =>
    if b = 0x2F then [] :: splitSlash bs
    else
      match splitSlash bs with
      | c :: cs => (b :: c) :: cs
      | [] => [[b]]

/-- A path begins with "/". -/
def absolute (p : List Byte) : Bool := p.head? == some 0x2F

/-- Components of a path, or the code and component of the first one that breaks R183; a seventeenth component is
TOOLONG (R183, R201). -/
def parsePath (p : List Byte) : Except (NameCode × BitVec 8) (List Name) :=
  if p = [0x2F] then .ok []
  else
    let cs := splitSlash (if absolute p then p.drop 1 else p)
    match (cs.take 16).findIdx? (fun c => !nameOk c) with
    | some i => .error (.badname, .ofNat 8 i)
    | none => if 16 < cs.length then .error (.toolong, 16) else .ok cs

/-- A one-component name (R204, R205, R210). -/
def oneName (p : Option (List Byte)) : Option Name :=
  match p with
  | some p => if nameOk p then some p else none
  | none => none

/-! ### Nodes and handles (R188, R189) -/

/-- The lowest free node index (R189). -/
def Space.freeNode (sp : Space) : Nat :=
  ((List.range (sp.nodes.length + 1)).find? fun i =>
    !sp.nodes.any fun n => n.ix.toNat == i && (n.live || n.retired)).getD sp.nodes.length

/-- Make a node at the lowest free index; none where the table is full (R189). -/
def State.makeNode (s : State) (a : Asid) (body : NodeBody) (extent : Nat) : Option (BitVec 23 × State) :=
  let sp := s.space a
  let i := sp.freeNode
  if 2 ^ 23 ≤ i then none
  else
    let ix : BitVec 23 := .ofNat 23 i
    let gen := ((sp.nodes.find? fun n => n.ix == ix).map (·.gen)).getD 0
    let n : Node := { ix := ix, gen := gen, body := body, extent := extent }
    some (ix, s.updSpace a fun sp => { sp with nodes := sp.nodes.filter (fun m => m.ix != ix) ++ [n] })

/-- A slot of the handle table is in use or never used again. -/
def Handle.taken (h : Handle) : Bool := h.node.isSome || h.foreign.isSome || h.retired

/-- The lowest free handle slot (R188). -/
def Space.freeHandle (sp : Space) : Nat :=
  ((List.range (sp.handles.length + 1)).find? fun i =>
    !sp.handles.any fun h => h.ix.toNat == i + 1 && h.taken).getD sp.handles.length + 1

/-- Open a handle: its index and generation; none where no slot is usable (R188). -/
def State.openHandle (s : State) (a : Asid) (node : Option (BitVec 23)) (foreign : Option (BitVec 32)) :
    Option (BitVec 24 × BitVec 24 × State) :=
  let sp := s.space a
  let i := sp.freeHandle
  if 0x7FFFFF < i then none
  else
    let ix : BitVec 24 := .ofNat 24 i
    let gen := ((sp.handles.find? fun h => h.ix == ix).map (·.gen)).getD 0
    let h : Handle := { ix := ix, gen := gen, node := node, foreign := foreign }
    some (ix, gen, s.updSpace a fun sp => { sp with handles := sp.handles.filter (fun k => k.ix != ix) ++ [h] })

/-- The entry of a directory (R193). -/
def NodeBody.entry (b : NodeBody) (name : Name) : Option Binding :=
  match b with
  | .dir es => es.find? fun e => e.name == name
  | _ => none

/-- Bind a node in a directory (R193). -/
def State.bindEntry (s : State) (a : Asid) (dir : BitVec 23) (e : Binding) : State :=
  s.updNode a dir fun n => { n with body := match n.body with
    | .dir es => .dir (es ++ [e])
    | b => b }

/-- Decimal digits as a number; none where one is not a digit, or there is none. -/
def decimal (bs : List Byte) : Option Nat :=
  if bs.isEmpty || !bs.all (fun b => 0x30 ≤ b.toNat && b.toNat ≤ 0x39) then none
  else some (bs.foldl (fun v b => v * 10 + (b.toNat - 0x30)) 0)

/-- Every element type (R88). -/
def elemTypes : List ElemType :=
  [.b1, .s4, .s8, .s16, .s32, .s64, .n8, .n16, .n32, .n64, .e2m1, .e5m2, .e4m3, .cx8, .bf16, .f16, .f32, .f64]

/-- The window that a component `plane.<fmt>` or `plane.<fmt>.<P>` names, P from 1 to 64 (R186). -/
def planeName (c : Name) : Option (ElemType × Nat) :=
  if c.take 6 != ascii "plane." then none
  else
    let rest := c.drop 6
    let fmt := rest.takeWhile (· != 0x2E)
    let tail := rest.drop fmt.length
    (elemTypes.find? fun t => ascii t.name == fmt).bind fun t =>
      if tail.isEmpty then some (t, t.defaultPlanes)
      else (decimal (tail.drop 1)).bind fun p => if 1 ≤ p && p ≤ 64 then some (t, p) else none

/-- Extent of a plane window over an allotment (R186). -/
def planeExtent (size : Nat) (t : ElemType) (p : Nat) : Nat := size / planeTile p * (2048 * t.bits)

/-- R W G, the mask of a plane window's binding (R185). -/
def planeMask : BitVec 12 := permR ||| permW ||| permG

/-- The binding of a component; a plane window is made and bound when a walk in /spad/<core> first names it (R186). -/
def State.bindingOf (s : State) (a : Asid) (dir : Node) (c : Name) : Option (Binding × State) :=
  match dir.body.entry c with
  | some e => some (e, s)
  | none =>
    (planeName c).bind fun (t, p) => dir.spad.bind fun (core, base, size) =>
      (s.makeNode a (.plane core base t p) (planeExtent size t p)).map fun (ix, s) =>
        let b : Binding := ⟨c, ix, planeMask⟩
        (b, s.bindEntry a dir.ix b)

/-- The name unit of a cluster looks a component up: its entry is filled on a miss (R191, R193). -/
def State.lookup (s : State) (cl : ClusterIx) (a : Asid) (dir : Node) (c : Name) : Option (Binding × State) :=
  (s.bindingOf a dir c).map fun (e, s) => (e, s.cacheEntry cl (.binding a dir.ix c e.node e.mask))

/-- Every name unit drops a directory's binding (R191, R193). -/
def State.forgetBinding (s : State) (a : Asid) (dir : BitVec 23) (c : Name) : State :=
  let keep : NameEntry → Bool
    | .binding a' d n _ _ => !(a' == a && d == dir && n == c)
    | .handle .. => true
  { s with clusters := s.clusters.map fun (k, cl) => (k, { cl with names := cl.names.filter keep }) }

/-! ### Walks (R190, R201) -/

/-- Where a walk ends: a node and the accumulated mask, a peer with the components that remain and the count already
consumed, or a failure at a component. -/
inductive WalkEnd where
  | node (n : Node) (mask : BitVec 12)
  | peer (chip : ChipIx) (rest : List Name) (used : Nat)
  | fail (code : NameCode) (comp : Nat) (kind : BitVec 3)
deriving DecidableEq, Repr

/-- The chip of a node of kind 6. -/
def NodeBody.peerChip : NodeBody → Option ChipIx
  | .peerRoot c => some c
  | .peerNode c .. => some c
  | _ => none

/-- The loop of R201 from component `i`, at the name unit of a cluster. -/
def State.resolve (cl : ClusterIx) (a : Asid) : List Name → Nat → Node → BitVec 12 → State → WalkEnd × State
  | [], _, n, mask, s => (.node n mask, s)
  | c :: cs, i, n, mask, s =>
    match n.body.peerChip with
    | some chip => (.peer chip (c :: cs) i, s)
    | none =>
      if n.body.kind != 7 then (.fail .notdir i n.body.kind, s)
      else if mask &&& permR = 0 then (.fail .denied i n.body.kind, s)
      else
        match s.lookup cl a n c with
        | none => (.fail .unbound i n.body.kind, s)
        | some (e, s) =>
          match s.nodeAt a e.node with
          | none => (.fail .unbound i n.body.kind, s)
          | some m => State.resolve cl a cs (i + 1) m (mask &&& e.mask) s

/-- The node of an operand: a walk reference's by its node generation, a handle's through its slot. -/
def State.operandNode (s : State) (a : Asid) (k : Cap) : Option Node :=
  if k.isWalkRef then (s.nodeAt a (k.handle.setWidth 23)).filter fun n => n.gen == k.gen
  else s.openNode a k.handle k.gen

/-- A walk reference (R190). -/
def walkRef (a : Asid) (n : Node) (kind : BitVec 3) (mask : BitVec 12) (extent : Nat) : Cap where
  offset := a.setWidth 64
  base := 0
  limit := .ofNat 64 extent
  handle := 0x800000#24 ||| n.ix.setWidth 24
  gen := n.gen
  perm := mask
  kind := kind
  sealed_ := true

/-- The current context waits for a name form's answer; its window is open even at la 0 (R79, R200). -/
def State.nameWait (s : State) (i : Instr) (la : BitVec 4) (d : Option Reg) (label : Nat) : State :=
  (s.window i la (.name label) d).advance

/-- WALK (R201). -/
def execWalk (la : BitVec 4) (d a b : Reg) (s : State) : Out :=
  let i : Instr := .walk la d a b
  let asid := s.cx.asid
  s.orTrap (do
      if a != 0 then checked (s.nameOperand a permR [7, 6] true)
      checked (s.stringOperand b)
      s.withString i b fun p s => do
      checked (s.tables a)
      let start := if a = 0 then s.nodeAt asid s.cx.root else s.operandNode asid (s.cap a)
      let k0 := (start.map fun n => n.body.kind).getD 0
      let fail (code : NameCode) (comp : BitVec 8) (kind : BitVec 3) (s : State) : State :=
        s.nameWord i la d (statusWord code.code comp kind false 0)
      match p with
      | none => pure (fail .toolong 0xFF k0 s)
      | some p =>
        if absolute p && a != 0 then pure (fail .badname 0xFF k0 s)
        else
          match parsePath p with
          | .error (c, comp) => pure (fail c comp k0 s)
          | .ok cs =>
            match start with
            | none => pure (fail .stale 0xFF 0 s)
            | some n =>
              let detached := n.body.kind == 7 && (s.space asid).binds n.ix == 0
                && !s.allCtxs.any fun c => c.asid == asid && c.root == n.ix
              if a != 0 && detached then throw (.nameUnbound, a.setWidth 64)
              else
                let mask := if a = 0 then 0xFFF else (s.cap a).perm
                let (e, s) := State.resolve s.cxCluster asid cs 0 n mask s
                match e with
                | .fail c comp kind => pure (fail c (.ofNat 8 comp) kind s)
                | .node n mask =>
                  pure (s.nameEnd i la 0 (some (d, ⟨(walkRef asid n n.body.kind mask n.extent).toBits, true⟩)))
                | .peer chip rest used =>
                  let (txn, s) := s.newTxn 0 0 chip (.walk d used)
                  pure ((s.send (.step chip (.nwalk s.pkg.chip txn (s.asidPart asid) rest used))).nameWait i la (some d) txn))
    id

/-- The capability that opening a node gives (R202). -/
def openCap (n : Node) (h g : BitVec 24) (perm : BitVec 12) : Cap where
  offset := 0
  base := 0
  limit := .ofNat 64 n.extent
  handle := h
  gen := g
  perm := perm
  kind := n.body.kind
  sealed_ := false

/-- A node that a peer's chip holds: its chip, remote index and generation. -/
def NodeBody.remoteNode : NodeBody → Option (ChipIx × BitVec 23 × BitVec 24)
  | .peerNode c n g _ => some (c, n, g)
  | _ => none

/-- A plane window that R98 excludes. -/
def NodeBody.badFormat : NodeBody → Bool
  | .plane _ _ t p => !t.planesOk p
  | _ => false

/-- A handle has been opened on a node of an ASID: no context holds it as an unopened peer node any more (R253). -/
def State.opened (s : State) (a : Asid) (ix : BitVec 23) : State :=
  let drop (c : Ctx) : Ctx := if c.asid = a then { c with peerNodes := c.peerNodes.filter fun x => x != ix } else c
  { s with cx := drop s.cx, ctxs := s.ctxs.map drop }

/-- Open a handle on a node for the current context. A peer's node is opened by NOPEN, and its handle freed on refusal
(R202, R208). -/
def State.openOn (s : State) (i : Instr) (la : BitVec 4) (d a : Reg) (form : Nat) (n : Node) (perm : BitVec 12)
    (view : Cap) : State :=
  match s.openHandle s.cx.asid (some n.ix) none with
  | none => s.nameWord i la d (failWord .nohandle form)
  | some (h, g, s) =>
    let s := s.opened s.cx.asid n.ix
    match n.body.remoteNode with
    | some (chip, rn, rg) =>
      let kind := if form = 1 then TxnKind.open_ d n.ix h perm else .dup d a n.ix h perm
      let (txn, s) := s.newTxn h 0 chip kind
      (s.send (.step chip (.nopen s.pkg.chip txn rn rg perm))).nameWait i la (some d) txn
    | none =>
      (s.cacheHandle s.cxCluster s.cx.asid h g).nameEnd i la 0
        (some (d, ⟨{ view with handle := h, gen := g, perm := perm }.toBits, true⟩))

/-- OPEN (R202; log entry 44). -/
def execOpen (la : BitVec 4) (d a b : Reg) (s : State) : Out :=
  let i : Instr := .open_ la d a b
  let k := s.cap a
  s.orTrap (do
      checked (s.nameOperand a 0 [] true)
      if !(k.sealed_ && k.isWalkRef) then throw (.capPerm, a.setWidth 64)
      checked (s.tables a)
      if k.offset.setWidth 9 != s.cx.asid then pure (s.nameWord i la d (failWord .stale 1))
      else
        match s.operandNode s.cx.asid k with
        | none => pure (s.nameWord i la d (failWord .stale 1))
        | some n =>
          if n.body.badFormat then pure (s.nameWord i la d (failWord .badfmt 1))
          else
            let perm := k.perm &&& (s.bits b).setWidth 12
            pure (s.openOn i la d a 1 n perm (openCap n 0 0 perm)))
    id

/-- DUP (R208). -/
def execDup (la : BitVec 4) (d a b : Reg) (s : State) : Out :=
  let i : Instr := .dup la d a b
  let k := s.cap a
  s.orTrap (do
      checked (s.nameOperand a permG [] false)
      checked (s.tables a)
      match s.openNode s.cx.asid k.handle k.gen with
      | none => pure (s.nameWord i la d (failWord .stale 7))
      | some n => pure (s.openOn i la d a 7 n (k.perm &&& (s.bits b).setWidth 12) k))
    id

/-! ### Revoking (R192, R203, R206) -/

/-- Close handles and start the revocation that the current context waits for; a proxy's remote handle is closed too
(R192, R203, R206). -/
def State.revokeHandles (s : State) (i : Instr) (form : Nat) (la : BitVec 4) (d : Reg) (hs : List (BitVec 24)) : State :=
  let a := s.cx.asid
  let remote := (s.space a).handles.filter fun h => hs.contains h.ix && h.remote.isSome
  let rev := s.label
  let s := { s with label := s.label + 1 }
  let (txns, s) := remote.foldl (fun (ts, s) h =>
    match h.remote with
    | some (chip, rh, rg) =>
      let (txn, s) := State.newTxn s h.ix 0 chip (.close rev)
      (ts ++ [txn], s.send (.step chip (.nclose s.pkg.chip txn rh rg)))
    | none => (ts, s)) (([] : List Nat), s)
  let s := s.sendStale a hs
  let s := hs.foldl (fun s h => s.closeHandle a h) s
  let r : Revocation := { label := rev, asid := a, handles := hs, waiting := (List.range 64).map (.ofNat 6 ·),
                          closes := txns, ctx := some s.cx.id, form := form }
  State.nameWait { s with revocations := s.revocations ++ [r] } i la (some d) rev

/-- CLOSE (R203). -/
def execClose (la : BitVec 4) (d a : Reg) (s : State) : Out :=
  let i : Instr := .close la d a
  let k := s.cap a
  s.orTrap (do
      checked (s.nameOperand a permC [] false)
      checked (s.tables a)
      match s.handleAt s.cx.asid k.handle k.gen with
      | none => pure (s.nameWord i la d (failWord .stale 2))
      | some _ => pure (s.revokeHandles i 2 la d [k.handle]))
    id

/-- REVOKE (R206): the node's generation rises and every handle on it in the ASID is revoked. -/
def execRevoke (la : BitVec 4) (d a : Reg) (s : State) : Out :=
  let i : Instr := .revoke la d a
  let k := s.cap a
  let asid := s.cx.asid
  s.orTrap (do
      checked (s.nameOperand a (permC ||| permG) [] false)
      checked (s.tables a)
      match (s.handleAt asid k.handle k.gen).bind (·.node) with
      | none => pure (s.nameWord i la d (failWord .stale 5))
      | some ix =>
        let s := s.updNode asid ix fun n => { n with gen := bumpGen n.gen }
        let hs := ((s.space asid).handles.filter fun h => h.node == some ix).map (·.ix)
        pure (s.revokeHandles i 5 la d hs))
    id

/-! ### Directories (R193, R204, R205) -/

/-- BIND (R204): the status goes to name.stat only. -/
def execBind (la : BitVec 4) (d a b : Reg) (s : State) : Out :=
  let i : Instr := .bind la d a b
  let asid := s.cx.asid
  let kd := s.cap d
  let kb := s.cap b
  s.orTrap (do
      checked (s.nameOperand d permM [7] false)
      checked (s.stringOperand a)
      checked (s.nameOperand b permG [] false)
      s.withString i a fun p s => do
      checked (s.tables d)
      let fin (c : NameCode) (s : State) : State := s.nameEnd i la (failWord c 3) none
      match oneName p with
      | none => pure (fin .badname s)
      | some name =>
        match s.openNode asid kd.handle kd.gen, (s.handleAt asid kb.handle kb.gen).bind (·.node) with
        | some dir, some ix =>
          if (dir.body.entry name).isSome then pure (fin .exists_ s)
          else pure (fin .ok (s.bindEntry asid dir.ix ⟨name, ix, kb.perm⟩))
        | _, _ => pure (fin .stale s))
    id

/-- UNBIND (R205). -/
def execUnbind (la : BitVec 4) (d a b : Reg) (s : State) : Out :=
  let i : Instr := .unbind la d a b
  let asid := s.cx.asid
  let ka := s.cap a
  s.orTrap (do
      checked (s.nameOperand a permM [7] false)
      checked (s.stringOperand b)
      s.withString i b fun p s => do
      checked (s.tables a)
      let fin (c : NameCode) (s : State) : State := s.nameWord i la d (failWord c 4)
      match oneName p with
      | none => pure (fin .badname s)
      | some name =>
        match s.openNode asid ka.handle ka.gen with
        | none => pure (fin .stale s)
        | some dir =>
          match dir.body.entry name with
          | none => pure (fin .unbound s)
          | some e =>
            let s := s.updNode asid dir.ix fun n => { n with body := match n.body with
              | .dir es => .dir (es.filter fun x => x.name != name)
              | b => b }
            pure (fin .ok ((s.forgetBinding asid dir.ix name).freeIfUnused asid e.node)))
    id

/-! ### STAT, MKNODE, EXPORT (R207, R209, R210) -/

/-- Masks of a node's bindings. -/
def Space.masks (sp : Space) (ix : BitVec 23) : List (BitVec 12) :=
  sp.nodes.flatMap fun n => match n.body with
    | .dir es => if n.live then (es.filter fun e => e.node == ix).map (·.mask) else []
    | _ => []

/-- Number of set bits of a mask. -/
def maskSize (m : BitVec 12) : Nat := (List.range 12).countP fun i => m.getLsbD i

/-- The record of STAT for a node (R207). The most permissive binding is the one that grants most rights; of several,
the one of greatest value (DEDUCED, log entry 34). -/
def State.statRecord (s : State) (a : Asid) (n : Node) : W256 :=
  let sp := s.space a
  let best := (sp.masks n.ix).foldl (fun (m : BitVec 12) x =>
    if maskSize m < maskSize x || (maskSize m == maskSize x && m.ult x) then x else m) 0
  let exported := s.exports.any fun e => e.asid == a && e.node == n.ix
  .ofNat 256 (n.body.kind.toNat * 2 ^ 8 + (n.body.kind == 6).toNat * 2 ^ 11 + best.toNat * 2 ^ 12
    + (sp.binds n.ix == 0).toNat * 2 ^ 24 + exported.toNat * 2 ^ 25 + n.pinned.toNat * 2 ^ 26
    + n.extent % 2 ^ 64 * 2 ^ 64 + n.ix.toNat * 2 ^ 128 + n.gen.toNat * 2 ^ 152
    + min (sp.opens n.ix) 0xFFFF * 2 ^ 176 + min (sp.binds n.ix) 0xFFFF * 2 ^ 192)

/-- STAT (R207). -/
def execStat (la : BitVec 4) (d a : Reg) (s : State) : Out :=
  let i : Instr := .stat la d a
  s.orTrap (do
      checked (s.nameOperand a 0 [] true)
      checked (s.tables a)
      match s.operandNode s.cx.asid (s.cap a) with
      | none =>
        pure (s.nameEnd i la (failWord .stale 6) (some (d, ⟨NameCode.stale.code.setWidth 256, false⟩)))
      | some n => pure (s.nameEnd i la 0 (some (d, ⟨s.statRecord s.cx.asid n, false⟩))))
    id

/-- Fields of MKNODE's spec word (R209). -/
structure NodeSpec where
  kind : BitVec 3
  mask : BitVec 12
  log2 : Nat
  extent : Nat
  reserved : Bool
deriving DecidableEq, Repr

/-- The spec word's fields; `reserved`: a reserved bit is set (R209). -/
def NodeSpec.ofBits (v : W256) : NodeSpec where
  kind := v.extractLsb' 0 3
  mask := v.extractLsb' 4 12
  log2 := (v.extractLsb' 32 4).toNat
  extent := (v.extractLsb' 64 64).toNat
  reserved := v.getLsbD 3 || v.extractLsb' 16 16 != 0 || v.extractLsb' 36 28 != 0 || v.extractLsb' 128 128 != 0

/-- A handle on a node just made (R209). -/
def State.madeNode (s : State) (i : Instr) (la : BitVec 4) (d : Reg) (sp : NodeSpec) (body : NodeBody)
    (extent : Nat) : State :=
  match s.makeNode s.cx.asid body extent with
  | none => s.nameWord i la d (failWord .nospace 8)
  | some (ix, s') =>
    match s'.openHandle s.cx.asid (some ix) none with
    | none => s.nameWord i la d (failWord .nohandle 8)
    | some (h, g, s') =>
      let n : Node := { ix := ix, body := body, extent := extent }
      (s'.cacheHandle s.cxCluster s.cx.asid h g).nameEnd i la 0 (some (d, ⟨(openCap n h g sp.mask).toBits, true⟩))

/-- Where a new queue's ring lies (R195, R209, R255): its home and whether host memory holds it. None for a ring on another
chip. A ring whose page faults now is settled when its first entry can be reached; a host page is known by its fault. -/
def State.ringPlace (s : State) (q : Queue) : Option Queue × State :=
  match s.ringTarget s.cx.asid q 0 .read with
  | .ok (.bytes key _, s) => (some { q with hostRing := 2 ^ 64 ≤ key, home := ringHome key s.cx.core }, s)
  | .ok (.stash key, s) | .ok (.plane key .., s) => (some { q with home := ringHome key s.cx.core }, s)
  | .ok (_, s) => (none, s)
  | .error (.pageFault, va) =>
    (some { q with hostRing := (s.faultInfo s.cxCluster s.cx.asid va .read).host.isSome }, s)
  | .error _ => (some q, s)

/-- MKNODE (R209). A queue's ring on another chip is refused as BADARG: only that chip could serve it (log entry 23). -/
def execMknode (la : BitVec 4) (d a b : Reg) (s : State) : Out :=
  let i : Instr := .mknode la d a b
  let sp := NodeSpec.ofBits (s.bits b)
  let k := s.cap a
  let bad (c : NameCode) : State := s.nameWord i la d (failWord c 8)
  if sp.reserved || !([0, 1, 7].contains sp.kind) then .next (bad .badarg)
  else if sp.kind = 7 then
    if a != 0 || sp.extent != 0 || sp.log2 != 0 then .next (bad .badarg)
    else .next (s.madeNode i la d sp (.dir []) 0)
  else
    s.orTrap (do
        checked (s.nameOperand a (if sp.kind = 1 then permR ||| permW else 0) [0] false)
        checked (s.tables a)
        let size := if sp.kind = 1 then 32 * 2 ^ sp.log2 else sp.extent
        if (s.openNode s.cx.asid k.handle k.gen).isNone then pure (bad .stale)
        else if !(k.base.toNat ≤ k.offset.toNat && k.offset.toNat + size ≤ k.limit.toNat) || size = 0
            || (sp.kind = 1 && (sp.log2 = 0 || k.offset.toNat % 32 != 0)) then pure (bad .badarg)
        else if sp.mask &&& ~~~(k.perm ||| permC ||| permG ||| permM) != 0 then pure (bad .denied)
        else if sp.kind = 0 then pure (s.madeNode i la d sp (.sub k.handle k.gen k.offset.toNat) sp.extent)
        else
          let q : Queue := { handle := k.handle, gen := k.gen, off := k.offset.toNat, log2 := sp.log2,
                             home := s.cx.core }
          match s.ringPlace q with
          | (some q, s) => pure (s.madeNode i la d sp (.queue q) (2 ^ 32))
          | (none, _) => pure (bad .badarg))
      id

/-- The bytes that a node's pages hold: in /mem from an address, or in host memory from an address (R210). -/
inductive PinRange where
  | none
  | mem (va len : Nat)
  | host (addr len : Nat)
deriving DecidableEq, Repr

/-- The pages that a pinned export of a node covers, through the nodes that MKNODE made. The whole of /mem is no range
of pages that a driver could make present, and pins nothing (log entry 24). -/
def State.pinRange (s : State) (a : Asid) : Nat → NodeBody → Nat → Nat → Bool → PinRange
  | fuel, body, off, len, sub =>
    match body with
    | .sub h g base =>
      match fuel, s.openNode a h g with
      | fuel + 1, some n => s.pinRange a fuel n.body (base + off) len true
      | _, _ => .none
    | .mem => if sub then .mem off len else .none
    | .host addr => .host (addr + off) len
    | _ => .none

/-- The first page of a range that is not present, as its fault (R210, R420). -/
def State.absentPage (s : State) (cl : ClusterIx) (a : Asid) : PinRange → Option (XFault × Nat) × State
  | .none => (none, s)
  | .mem va len =>
    (List.range ((va % 4096 + len + 4095) / 4096)).foldl (fun (r, s) i =>
      match r with
      | some _ => (r, s)
      | none =>
        let p := va / 4096 * 4096 + 4096 * i
        match s.translate cl a p .read with
        | .ok (_, s) => (none, s)
        | .error f => (some (f, p), s)) ((none : Option (XFault × Nat)), s)
  | .host addr len =>
    (((List.range ((addr % 4096 + len + 4095) / 4096)).find? fun i =>
        s.hostAbsent.contains (addr / 4096 + i)).map fun i =>
        (({ cause := .pageFault, host := some ((addr / 4096 + i) * 4096) } : XFault),
          addr / 4096 * 4096 + 4096 * i - addr), s)

/-- What EXPORT finds before it pins (R210): a failure, or the name and the node. -/
def State.exportCheck (s : State) (d b : Reg) (p : Option (List Byte)) : Except NameCode (Name × Node × BitVec 23) :=
  let kd := s.cap d
  if (s.bits b).extractLsb' 17 47 != 0 then .error .badarg
  else
    match oneName p with
    | none => .error .badname
    | some name =>
      match s.openNode s.cx.asid kd.handle kd.gen, (s.handleAt s.cx.asid kd.handle kd.gen).bind (·.node) with
      | some n, some ix =>
        if kd.has permL then .error .denied
        else if s.exports.any fun e => e.part == s.asidPart s.cx.asid && e.name == name then .error .exists_
        else .ok (name, n, ix)
      | _, _ => .error .stale

/-- The export's entry (R210). -/
def State.addExport (s : State) (d b : Reg) (name : Name) (ix : BitVec 23) : State :=
  let kd := s.cap d
  let pin := (s.bits b).getLsbD 16
  let e : Export := { part := s.asidPart s.cx.asid, name := name, asid := s.cx.asid, handle := kd.handle,
                      gen := kd.gen, node := ix, mask := kd.perm, keyTag := (s.bits b).setWidth 16, pin := pin }
  State.updNode { s with exports := s.exports ++ [e] } s.cx.asid ix fun n => { n with pinned := n.pinned || pin }

/-- EXPORT once its name is read: OK, a failure, or the fault of a page that is not present, for which it waits
(R210). -/
def State.exportStep (s : State) (d b : Reg) (p : Option (List Byte)) : Option NameCode × State :=
  match s.exportCheck d b p with
  | .error c => (some c, s)
  | .ok (name, n, ix) =>
    if !(s.bits b).getLsbD 16 || n.body.kind != 0 then (some .ok, s.addExport d b name ix)
    else
      let (f, s) := s.absentPage s.cxCluster s.cx.asid
        (s.pinRange s.cx.asid ((s.space s.cx.asid).nodes.length + 1) n.body 0 n.extent false)
      match f with
      | none => (some .ok, s.addExport d b name ix)
      | some (f, va) =>
        (none, s.raiseFault s.cx.asid 7 f.cause false f.malformed f.host s.cx.id (.ofNat 64 va) (.export_ s.cx.id))

/-- EXPORT (R210): the status goes to name.stat only. -/
def execExport (la : BitVec 4) (d a b : Reg) (s : State) : Out :=
  let i : Instr := .export_ la d a b
  s.orTrap (do
      checked (s.nameOperand d (permG ||| permP) [] false)
      checked (s.stringOperand a)
      s.withString i a fun p s => do
      checked (s.tables d)
      match s.exportStep d b p with
      | (some c, s) => pure (s.nameEnd i la (failWord c 9) none)
      | (none, s) => pure ((s.window i la (.pinning d a b p) none).advance))
    id

/-- The pages of an EXPORT that waits have an answer (R210, R422): it goes on, or fails with PINFAIL. -/
def State.exportAnswer (s : State) (ctx : BitVec 32) (serviced : Bool) : State :=
  s.asCtx ctx fun s =>
    match s.cx.pend.findIdx? (fun p => match p.kind with
      | .pinning .. => true
      | _ => false) with
    | none => s
    | some ix =>
      match (s.cx.pend[ix]?).map Pending.kind with
      | some (.pinning d _ b name) =>
        let fin (c : NameCode) (s : State) : State := (s.setNameStat (failWord c 9)).updCx fun c =>
          { c with pend := c.pend.modify ix fun p => { p with kind := .done } }
        if !serviced then fin .pinfail s
        else
          match s.exportStep d b name with
          | (some c, s) => fin c s
          | (none, s) => s
      | _ => s

end Sys2Proof.Machine
end

