-- ==== Sys2Proof/Machine/Tasks.lean ====
section
/-!
DEFINITION. Sys2Proof/Machine/Tasks.lean: creating contexts (R145, R146, R173, R184, R226), the Carafe (R165 to R168),
the event queue (R169, R170) and the TASK class (R171 to R182).
-/
namespace Sys2Proof.Machine

/-! ### Creating a context -/

/-- What a new context is to be. -/
structure NewCtx where
  desc : Descriptor
  launch : Nat
  fn : FnIx
  pcCap : W256
  x : BitVec 16
  y : BitVec 16
  z : BitVec 16
  prio : BitVec 2
  gang : BitVec 32
  member : BitVec 8
  count : BitVec 8
  span : BitVec 32 := 0
  gangIdx : BitVec 8 := 0
  gangs : BitVec 8 := 0
  core : CoreIx
  stack : Nat
  arg : RegVal
deriving DecidableEq, Repr

/-- The stack capability of c2 (R226). -/
def stackCap (h g : BitVec 24) : Cap where
  offset := 0x100000000
  base := 0
  limit := 0x100000000
  handle := h
  gen := g
  perm := permR ||| permW ||| permA
  kind := 0
  sealed_ := false

/-- Create a context (R145, R146): its /ctx node with the handle it rests on (R179), its stack node with the handle of
c2 (R226), and an empty root directory. None where the node or handle table is full. -/
def State.newContext (s : State) (n : NewCtx) : Option (Ctx × State) :=
  let a := n.desc.asid
  (s.makeNode a (.ctx n.desc.id) 8192).bind fun (cn, s) =>
    (s.openHandle a (some cn) none).bind fun (ch, cg, s) =>
      (s.makeNode a (.stack n.desc.id) (2 ^ 32)).bind fun (sn, s) =>
        (s.openHandle a (some sn) none).bind fun (sh, sg, s) =>
          (s.makeNode a (.dir []) 0).map fun (root, s) =>
            let c : Ctx :=
              { id := n.desc.id, asid := a, cdva := n.desc.cdva, ctxHandle := ch, ctxGen := cg, root := root
                launch := n.launch, fn := n.fn, tileX := n.x, tileY := n.y, tileZ := n.z, gang := n.gang
                member := n.member, count := n.count, span := n.span, gangIdx := n.gangIdx, gangs := n.gangs
                pcCap := n.pcCap, prio := n.prio, stkOvf := n.desc.ovf, core := n.core, stackSize := n.stack }
            let c := (c.setReg 2 ⟨(stackCap sh sg).toBits, true⟩).setReg 3 n.arg
            -- the creator writes quad 0 to the descriptor: c2 and c3
            let c := { c with qvalid := 1, qdirty := 0 }
            (c, { s with ctxs := c :: s.ctxs, pool := s.pool.filter fun d => d.id != n.desc.id })

/-- The bindings of a directory. -/
def State.dirEntries (s : State) (a : Asid) (ix : BitVec 23) : List Binding :=
  match (s.nodeAt a ix).map Node.body with
  | some (.dir es) => es
  | _ => []

/-- The digits of a number in decimal, as ASCII. -/
def decimalName (n : Nat) : Name := (Nat.toDigits 10 n).map fun c => .ofNat 8 c.toNat

/-- Bind /ctx/<id> in the directory /ctx that a root binds, if it binds one (R185). -/
def State.bindCtxNode (s : State) (a : Asid) (root : BitVec 23) (c : Ctx) : State :=
  match (s.dirEntries a root).find? (fun e => e.name == ascii "ctx"),
      ((s.space a).handles.find? fun h => h.ix == c.ctxHandle).bind Handle.node with
  | some e, some ix => s.bindEntry a e.node ⟨decimalName c.id.toNat, ix, permR ||| permW⟩
  | _, _ => s

/-- The capability to a context that rests on its own handle (R173, R179). -/
def ctxCap (c : Ctx) (perm : BitVec 12) : Cap where
  offset := 0
  base := 0
  limit := 8192
  handle := c.ctxHandle
  gen := c.ctxGen
  perm := perm
  kind := 3
  sealed_ := false

/-! ### The event queue (R169, R170) -/

/-- A context that waits in EVWAIT: its ASID and key. -/
def State.evKey (s : State) (id : BitVec 32) : Option (Asid × BitVec 32) :=
  (s.getCtx id).bind fun c => match c.wait with
    | .event _ a => some (c.asid, (c.reg a).val.setWidth 32)
    | _ => none

/-- A record matches an ASID and a key (R169, R170). -/
def recordMatches (r : W256) (k : Asid × BitVec 32) : Bool :=
  r.extractLsb' 160 9 == k.1 && r.extractLsb' 32 32 == k.2

/-- The records that no waiting EVWAIT has claimed: each claims the first of its key, in order of arrival (R170). -/
def State.unclaimed (s : State) (cl : ClusterIx) : List W256 :=
  (s.cluster cl).evWait.foldl (fun q id =>
    match s.evKey id with
    | some k => match q.findIdx? (recordMatches · k) with
      | some i => q.eraseIdx i
      | none => q
    | none => q) (s.cluster cl).evq

/-- Post a record (R169): false where the queue is full. -/
def State.postEvent (s : State) (cl : ClusterIx) (r : W256) : Bool × State :=
  if 1024 ≤ (s.unclaimed cl).length then (false, s)
  else (true, s.updCluster cl fun c => { c with evq := c.evq ++ [r] })

/-- Records that units hold enter the queue in order, as far as it has room (R170). -/
def postHeld (cl : ClusterIx) : Nat → State → State
  | 0, s => s
  | n + 1, s =>
    match (s.cluster cl).evHeld with
    | [] => s
    | h :: hs =>
      match s.postEvent cl h with
      | (true, s) => postHeld cl n (s.updCluster cl fun c => { c with evHeld := hs })
      | (false, s) => s

/-- Every held record that has room enters the queue. -/
def State.postHeldAll (s : State) (cl : ClusterIx) : State := postHeld cl (s.cluster cl).evHeld.length s

/-- A unit posts a record, behind those that units hold; it holds it while the queue is full (R170). -/
def State.postUnit (s : State) (cl : ClusterIx) (r : W256) : State :=
  (s.updCluster cl fun c => { c with evHeld := c.evHeld ++ [r] }).postHeldAll cl

/-- The record of a job or transfer (R169). -/
def unitRecord (src : Nat) (status : BitVec 8) (id : BitVec 16) (ctx : BitVec 32) (a : Asid) : W256 :=
  .ofNat 256 (src + status.toNat * 2 ^ 8 + id.toNat * 2 ^ 16 + (src * 2 ^ 24 + id.toNat) * 2 ^ 32
    + ctx.toNat * 2 ^ 128 + a.toNat * 2 ^ 160)

/-- Take a record from a cluster's queue; where that makes room, records that units hold enter it (R170). -/
def State.takeEvent (s : State) (cl : ClusterIx) (r : W256) : State :=
  (s.updCluster cl fun c => { c with evq := c.evq.erase r }).postHeldAll cl

/-! ### Gangs (R155) -/

/-- Gang of a context. -/
def State.gangOf (s : State) (c : Ctx) : Option Gang := s.gangs.find? fun g => g.id == c.gang

/-- The members of a gang that have not ended. -/
def State.membersOf (s : State) (g : Gang) : List Ctx := (g.members.filterMap s.getCtx).filter fun c => c.gang == g.id

/-- A gang is ready and unbound: every member could be bound (R155). -/
def State.gangReady (s : State) (g : Gang) : Bool :=
  let ms := s.membersOf g
  !ms.isEmpty && ms.all fun c =>
    c.res != .bound && c.run == .ready && !c.save.saved && !c.savePending && !c.preempt

/-- A gang becomes ready by what a step did to a member: its place in the order counts from here (R155). -/
def State.noteReady (s : State) (was : State) (gang : BitVec 32) : State :=
  { s with gangs := s.gangs.map fun g =>
      if g.id = gang ∧ s.gangReady g = true ∧ was.gangReady g = false then { g with readySince := s.cycle } else g }

/-! ### The Carafe (R166, R167) -/

/-- The heap of an ASID on a cluster: pops since its last push, and its entries in rank order. -/
def State.heap (s : State) (cl : ClusterIx) (a : Asid) : Nat × List W256 :=
  match (s.cluster cl).heaps.find? (fun h => h.1 == a) with
  | some (_, n, es) => (n, es)
  | none => (0, [])

/-- Replace a heap. -/
def State.setHeap (s : State) (cl : ClusterIx) (a : Asid) (n : Nat) (es : List W256) : State :=
  s.updCluster cl fun c => { c with heaps := (a, n, es) :: c.heaps.filter fun h => h.1 != a }

/-- `KEY` of an entry (R165). -/
def heapKey (e : W256) : Nat := (e.extractLsb' 0 64).toNat

/-- Insert in rank order, after its equals. -/
def heapInsert (e : W256) : List W256 → List W256
  | [] => [e]
  | x :: xs => if heapKey e < heapKey x then e :: x :: xs else x :: heapInsert e xs

/-! #### The spill (R156, R166, R180; log entry 64) -/

/-- The entries that a heap has in its spill region, with their slots. -/
def State.spillOf (s : State) (cl : ClusterIx) (a : Asid) : List (Nat × W256) :=
  ((s.cluster cl).spilled.filter fun x => x.1 == a).map (·.2)

/-- Entries of a cluster's SRAM in use: those of every heap, and a ready gang of Barista's each (R156, R166). -/
def State.sramUsed (s : State) (cl : ClusterIx) : Nat :=
  ((s.cluster cl).heaps.map fun h => h.2.2.length).sum + s.gangs.countP fun g => g.cluster == some cl && s.gangReady g

/-- Where a slot of a heap's spill region lies; none where its page cannot be supplied. -/
def State.spillKey (s : State) (cl : ClusterIx) (a : Asid) (slot : Nat) (acc : Acc) : Option (Nat × State) :=
  match s.translate cl a ((s.cluster cl).heapSpill.toNat + 32 * slot) acc with
  | .ok (.dram pa, s) => some (pa, s)
  | .ok (.host h, s) => some ((Place.host h).key, s)
  | .ok (.fabric .., _) | .error _ => none

/-- The entries of a heap, those of its spill region among them, in rank order, each with its slot there. -/
def State.heapAll (s : State) (cl : ClusterIx) (a : Asid) : List (W256 × Option Nat) :=
  let ins (l : List (W256 × Option Nat)) (x : Nat × W256) : List (W256 × Option Nat) :=
    l.takeWhile (fun y => heapKey y.1 ≤ heapKey x.2) ++ (x.2, some x.1) :: l.dropWhile fun y => heapKey y.1 ≤ heapKey x.2
  (s.spillOf cl a).foldl ins ((s.heap cl a).2.map fun e => (e, none))

/-- A push (R166): where the SRAM is full, the entry of the heap with the largest key goes to the lowest free slot of its
spill region; none where that write faults. -/
def State.heapPush (s : State) (cl : ClusterIx) (a : Asid) (e : W256) : Option State :=
  let es := heapInsert e (s.heap cl a).2
  if s.sramUsed cl < 4096 then some (s.setHeap cl a 0 es)
  else
    let used := (s.spillOf cl a).map (·.1)
    let slot := ((List.range (used.length + 1)).find? fun i => !used.contains i).getD used.length
    let big := es.getLastD e
    (s.spillKey cl a slot .write).map fun (key, s) =>
      (((s.homeWrite key (toBytes big.toNat 32)).setHeap cl a 0 es.dropLast).updCluster cl fun c =>
        { c with spilled := (a, slot, big) :: c.spilled })

/-- An entry leaves a heap's spill region, read from it; none where the read faults. -/
def State.unspill (s : State) (cl : ClusterIx) (a : Asid) (slot : Nat) : Option State :=
  (s.spillKey cl a slot .read).map fun (_, s) =>
    s.updCluster cl fun c => { c with spilled := c.spilled.filter fun x => !(x.1 == a && x.2.1 == slot) }

/-- The SRAM is refilled from a heap's spill in key order while it has room (R166); none where a read faults. -/
def heapRefill (cl : ClusterIx) (a : Asid) : Nat → State → Option State
  | 0, s => some s
  | n + 1, s =>
    match (s.heapAll cl a).find? fun x => x.2.isSome with
    | some (e, some slot) =>
      if 4096 ≤ s.sramUsed cl then some s
      else (s.unspill cl a slot).bind fun s =>
        let (k, es) := s.heap cl a
        heapRefill cl a n (s.setHeap cl a k (heapInsert e es))
    | _ => some s

/-- What a pop finds. -/
inductive Popped where
  | empty
  | fault
  | entry (e : W256) (s : State)

/-- Pop: one of the 8 smallest, and with no push between them 8 pops return the 8 smallest of the first (R167); which
one is free (log entry 10). Equal keys rank in any order. Spilling changes nothing of that; a fault of the spill leaves the
entry where it was (R166, R180). -/
def State.heapPop (s : State) (cl : ClusterIx) (a : Asid) : Popped :=
  let n := (s.heap cl a).1
  let es := s.heapAll cl a
  match es with
  | [] => .empty
  | e0 :: _ =>
    let last := (es[min (7 - min n 7) (es.length - 1)]?).getD e0
    let few := es.countP fun e => heapKey e.1 ≤ heapKey last.1
    let (i, s) := s.pick few
    let e := (es[i]?).getD e0
    let taken : Option State := match e.2 with
      | some slot => (s.unspill cl a slot).map fun s => s.setHeap cl a (n + 1) (s.heap cl a).2
      | none => some (s.setHeap cl a (n + 1) ((s.heap cl a).2.erase e.1))
    match taken.bind (heapRefill cl a (s.spillOf cl a).length) with
    | some s => .entry e.1 s
    | none => .fault

/-- Contexts that wait in HPOP on a heap, in order of arrival. -/
def State.heapLine (s : State) (cl : ClusterIx) (a : Asid) : List (BitVec 32) :=
  (s.cluster cl).heapWait.filter fun id => (s.getCtx id).any fun c => c.asid == a && match c.wait with
    | .heap .. => true
    | _ => false

/-! ### The TASK class -/

/-- The target of a checked context capability (R172). -/
def State.targetCtx (s : State) (r : Reg) : Option Ctx :=
  let k := s.cap r
  match (s.openNode s.cx.asid k.handle k.gen).map Node.body with
  | some (.ctx id) => s.getCtx id
  | _ => none

/-- The cluster of a checked heap capability (R172). -/
def State.targetHeap (s : State) (r : Reg) : ClusterIx :=
  let k := s.cap r
  match (s.openNode s.cx.asid k.handle k.gen).map Node.body with
  | some (.heap cl) => cl
  | _ => 0

/-- Fields of a spawn word that R173 refuses. -/
def State.badSpawn (s : State) (w : W256) : Bool :=
  let pc := Cap.ofBits s.cx.pcCap
  let e := (w.extractLsb' 0 32).toNat
  w.extractLsb' 82 174 != 0 || w.extractLsb' 0 2 != 0 || pc.limit.toNat < e + 4 || e < pc.base.toNat

/-- Barista is still to give the pool of an ASID a descriptor (R173; log entry 48). -/
def State.poolGrows (s : State) (a : Asid) : Bool :=
  s.agenda.any fun x => match x with
    | .poolGrow d => d.asid == a
    | _ => false

/-- SPAWN (R173; log entry 48): it takes longer while Barista grows the pool. -/
def execSpawn (d a b : Reg) (s : State) : Out :=
  let w := s.bits b
  let c := s.cx
  if s.badSpawn w then .next (s.setX d 1).finishWait
  else
    let gang := s.nextGang
    let prio : BitVec 2 := .ofNat 2 (max (w.extractLsb' 80 2).toNat c.prio.toNat)
    let made := (s.pool.find? fun p => p.asid == c.asid && p.id != 0).bind fun desc =>
      s.newContext
        { desc := desc, launch := c.launch, fn := c.fn
          pcCap := (c.pcCap >>> 64 <<< 64) ||| (w.extractLsb' 0 32).setWidth 256
          x := w.extractLsb' 32 16, y := w.extractLsb' 48 16, z := w.extractLsb' 64 16, prio := prio, gang := gang
          member := 0, count := 1, core := c.core, stack := c.stackSize, arg := s.reg a }
    match made with
    | none => .next (if s.poolGrows c.asid then s.block (.spawn d a b) else (s.setX d 2).finishWait)
    | some (n, s) =>
      let entries := s.dirEntries c.asid c.root
      let s := s.clampScope .pkg
      let s := s.updNode c.asid n.root fun r => { r with body := .dir entries }
      let s := s.bindCtxNode c.asid c.root n
      let g : Gang := { id := gang, launch := c.launch, asid := c.asid, members := [n.id],
                        cluster := some s.cxCluster, level := prio, home := prio, readySince := s.cycle }
      let s : State := { s with
        nextGang := gang + 1
        gangs := s.gangs ++ [g]
        launches := s.launches.map fun (l : Launch) =>
          if l.id = c.launch then { l with gangs := l.gangs ++ [gang], ctxs := l.ctxs ++ [n.id] } else l }
      .next (s.setCap d (ctxCap n (permR ||| permW ||| permC))).finishWait

/-- RETIRE (R174): every earlier store has performed when it issues. -/
def execRetire (a : Reg) (s : State) : Out := .next ((s.clampScope .pkg).endCtx s.cx.id (s.x a) none)

/-- The result of SLEEP: wake and signals are read and cleared in one step (R176). -/
def State.sleepEnd (s : State) (d : Reg) : State :=
  let w := s.cx.woken
  let sig := s.cx.sigPend
  let out := !w && sig == 0
  let v : W256 := .ofNat 256 (w.toNat + out.toNat * 2 + sig.toNat * 2 ^ 64)
  -- the return of a wake or signal is an acquire at the scope of its release (R178)
  let s := if out then s else s.clampScope (if s.cx.wokenFar then .pkg else .clu)
  ((s.updCx fun c => { c with woken := false, sigPend := 0, wokenFar := false }).setBits d v).finishWait

/-- SLEEP (R176). -/
def execSleep (d a : Reg) (s : State) : Out :=
  let t := s.x a
  if s.cx.woken || s.cx.sigPend != 0 || t = 0 then .next (s.sleepEnd d)
  else .next (s.block (.sleep d (if t = .allOnes 64 then none else some (s.cycle.toNat + t.toNat))))

/-- A wake or a signal has reached a context: a SLEEP that waits there returns (R176 to R178). -/
def State.rouse (s : State) (id : BitVec 32) : State :=
  s.asCtx id fun s =>
    match s.cx.wait with
    | .sleep d _ => s.sleepEnd d
    | _ => s

/-- A context is in SLEEP. -/
def Ctx.asleep (c : Ctx) : Bool :=
  match c.wait with
  | .sleep .. => true
  | _ => false

/-- A WAKE or SIGNAL of the current context reaches a context: a release at the scope of their distance (R178). -/
def State.reachOut (s : State) (t : Ctx) : State :=
  let scope := s.nearScope (clusterOf t.core)
  (s.clampScope scope).updCtx t.id fun c => { c with wokenFar := c.wokenFar || scope == .pkg }

/-- WAKE (R177). -/
def execWake (d a : Reg) (s : State) : Out :=
  s.withHandle a permW [3] <|
    match s.targetCtx a with
    | none => s.takeTrap .capStale (a.setWidth 64)
    | some t =>
      let s := ((s.reachOut t).updCtx t.id fun c => { c with woken := true }).rouse t.id
      (s.setX d (if t.asleep then 0 else 1)).advance

/-- SIGNAL (R178). -/
def execSignal (d a b : Reg) (s : State) : Out :=
  s.withHandle a permW [3] <|
    match s.targetCtx a with
    | none => s.takeTrap .capStale (a.setWidth 64)
    | some t =>
      let n := ((s.bits b).extractLsb' 0 6).toNat
      let was := t.sigPend.getLsbD n
      let s := ((s.reachOut t).updCtx t.id fun c => { c with sigPend := c.sigPend ||| (1#64 <<< n) }).rouse t.id
      (s.setX d (if was then 1 else 0)).advance

/-- The present generation of a context's own handle (R179): its opening, and every close since. -/
def State.ownGen (s : State) (c : Ctx) : BitVec 24 :=
  (((s.space c.asid).handles.find? fun h => h.ix == c.ctxHandle).map Handle.gen).getD c.ctxGen

/-- SELF (R179). -/
def execSelf (d : Reg) (s : State) : Out :=
  .next (s.setCap d { ctxCap s.cx (permR ||| permW) with gen := s.ownGen s.cx }).advance

/-- HPUSH (R180): bit 255 is stored as 0; a spill that faults traps. -/
def execHpush (a b : Reg) (s : State) : Out :=
  s.withHandle a permW [4] <|
    let cl := s.targetHeap a
    match (s.clampScope (s.nearScope cl)).heapPush cl s.cx.asid ((s.bits b).setWidth 255 |>.setWidth 256) with
    | some s => s.advance
    | none => s.takeTrap .queueFault (a.setWidth 64)

/-- A pop that may be served now: the heap has an entry, and no earlier waiter wants it (R167). -/
def State.heapServe (s : State) (cl : ClusterIx) : Popped :=
  let line := (s.heapLine cl s.cx.asid).filter fun id => id != s.cx.id
  let ahead := if (s.heapLine cl s.cx.asid).contains s.cx.id then
      ((s.heapLine cl s.cx.asid).takeWhile fun id => id != s.cx.id).length
    else line.length
  if (s.heapAll cl s.cx.asid).length ≤ ahead then .empty else s.heapPop cl s.cx.asid

/-- HPOP from its check on (R180). -/
def State.hpop (s : State) (d a : Reg) : State :=
  let cl := s.targetHeap a
  match s.heapServe cl with
  | .fault => s.takeTrap .queueFault (a.setWidth 64)
  | .entry e s =>
    let s := s.updCluster cl fun c => { c with heapWait := c.heapWait.filter fun id => id != s.cx.id }
    ((s.clampScope (s.nearScope cl)).setBits d e).finishWait
  | .empty =>
    let s := s.updCluster cl fun c =>
      { c with heapWait := if c.heapWait.contains s.cx.id then c.heapWait else c.heapWait ++ [s.cx.id] }
    s.block (.heap d a)

/-- HPOP (R180). -/
def execHpop (d a : Reg) (s : State) : Out := s.withHandle a permR [4] (s.hpop d a)
/-- HTRY (R180). -/
def execHtry (d a : Reg) (s : State) : Out :=
  s.withHandle a permR [4] <|
    match s.heapServe (s.targetHeap a) with
    | .entry e s => ((s.clampScope (s.nearScope (s.targetHeap a))).setBits d e).advance
    | .fault => s.takeTrap .queueFault (a.setWidth 64)
    | .empty => (s.setBits d (1#256 <<< 255)).advance
/-- HPOP_RETURN (R180): the waiting pop of the slot's context is served, if it can be. -/
def execHpopReturn (sl : SlotId) (s : State) : Out :=
  .next (s.withSlot sl fun s =>
    match s.cx.wait with
    | .heap d a =>
      match s.handleCheck s.cx.asid (s.reg a) permR [4] with
      | some c => s.takeTrap c (a.setWidth 64)
      | none => s.hpop d a
    | _ => s)

/-- EVPOST (R181): 0 if posted, 1 if the queue was full. -/
def execEvpost (d a b : Reg) (s : State) : Out :=
  let key := ((s.bits a).extractLsb' 0 24).toNat
  let r : W256 := .ofNat 256 (key * 2 ^ 32 + (s.x b).toNat * 2 ^ 64 + s.cx.id.toNat * 2 ^ 128
    + s.cx.asid.toNat * 2 ^ 160)
  let (ok, s) := (s.clampScope .clu).postEvent s.cxCluster r
  .next (s.setX d (if ok then 0 else 1)).advance

/-- EVWAIT (R182): it consumes a record that no earlier EVWAIT claims, or waits. -/
def execEvwait (d a : Reg) (s : State) : Out :=
  let cl := s.cxCluster
  let k : Asid × BitVec 32 := (s.cx.asid, (s.bits a).setWidth 32)
  let s := s.updCluster cl fun c => { c with evWait := c.evWait.filter fun id => id != s.cx.id }
  match (s.unclaimed cl).find? (recordMatches · k) with
  | some r => .next (((s.clampScope .clu).takeEvent cl r).setBits d r).advance
  | none =>
    .next (((s.updCluster cl fun c => { c with evWait := c.evWait ++ [s.cx.id] }).block (.event d a)).postHeldAll cl)

/-- EVWAIT_CONSUME (R182): the waiting EVWAIT of the slot's context consumes the record it has claimed. -/
def execEvwaitConsume (sl : SlotId) (s : State) : Out :=
  .next (s.withSlot sl fun s =>
    match s.cx.wait with
    | .event d _ =>
      let cl := s.cxCluster
      let q0 := (s.cluster cl).evWait.takeWhile fun id => id != s.cx.id
      let before := q0.foldl (fun q id => match s.evKey id with
        | some k => match q.findIdx? (recordMatches · k) with
          | some i => q.eraseIdx i
          | none => q
        | none => q) (s.cluster cl).evq
      match (s.evKey s.cx.id).bind (fun k => before.find? (recordMatches · k)) with
      | some r =>
        let s := s.updCluster cl fun c => { c with evWait := c.evWait.filter fun id => id != s.cx.id }
        (((s.clampScope .clu).takeEvent cl r).setBits d r).finishWait
      | none => s
    | _ => s)

/-- SLEEP_TIMEOUT (R176): the timeout of the slot's SLEEP has passed. -/
def execSleepTimeout (sl : SlotId) (s : State) : Out :=
  .next (s.withSlot sl fun s =>
    match s.cx.wait with
    | .sleep d (some t) => if t ≤ s.cycle.toNat then s.sleepEnd d else s
    | _ => s)

end Sys2Proof.Machine
end

