-- ==== Sys2Proof/Machine/Engine.lean ====
section
/-!
DEFINITION. Sys2Proof/Machine/Engine.lean: what the engines share: their numbers (R412), locators (R85, R309), barriers
(R287, R288), reading and writing through a capability (R227), status words (R293), event records (R169), counter sets
(R111, R450), the start and the completion of a job (R291, R292, R315).
-/
namespace Sys2Proof.Machine

/-! ### Engine numbers (R412) -/

/-- The kinds of engine. -/
inductive EngineKind where
  | matrix | copy | bulk | port | siphon
deriving DecidableEq, Repr

/-- The kind of an engine number (R412). -/
def engineKind (e : EngineIx) : EngineKind :=
  if e.toNat < 64 then .matrix else if e.toNat < 128 then .copy else if e.toNat < 144 then .bulk
  else if e.toNat < 156 then .port else .siphon

/-- The cluster of a matrix engine or copy unit. -/
def engineCluster (e : EngineIx) : ClusterIx := e.setWidth 6
/-- The copy unit of a cluster. -/
def copyEngine (cl : ClusterIx) : EngineIx := 64 + cl.setWidth 8
/-- Siphon. -/
def siphonEngine : EngineIx := 156

/-- `SRC` of a record that an engine posts (R169, R367). -/
def EngineKind.src : EngineKind → Nat
  | .matrix => 1 | .copy => 2 | .bulk | .port => 3 | .siphon => 4
/-- `SRC` of a fault record of an engine (R421). -/
def EngineKind.faultSrc : EngineKind → BitVec 4
  | .matrix => 1 | .copy => 2 | .bulk => 3 | .port => 4 | .siphon => 5

/-! ### Locators (R85, R309) -/

/-- The allotment of a launch on a core (R53). -/
def State.allotment (s : State) (launch : Nat) (core : CoreIx) : Option Allotment :=
  s.allotments.find? fun x => x.launch == launch && x.core == core

/-- Where `n` bytes from a locator lie, if they are in the launch's allotment (R85, R309). -/
def State.locKey (s : State) (launch : Nat) (cl : ClusterIx) (loc : BitVec 20) (n : Nat) : Option Nat :=
  let core := memberCore cl (loc.extractLsb' 17 3).toNat
  let off := 32 * (loc.extractLsb' 0 17).toNat
  match s.allotment launch core with
  | some x => if off + n ≤ x.size then some (Place.spad core (x.base + off)).key else none
  | none => none

/-! ### Transaction barriers (R287, R288) -/

/-- A barrier operand (R295): where its 16 bytes lie, or the cause and what the translation or the check names (log
entry 40). -/
def State.barTarget (s : State) (c : Ctx) (v : RegVal) (acc : Acc) : Except Bad (Nat × State) :=
  let k := Cap.ofBits v.val
  let eff := k.offset
  match s.capCheck c.asid v (if acc = .write then permW else permR) eff 16 with
  | some cause => .error (cause, eff)
  | none =>
    if k.kind != 0 then .error (.capPerm, eff)
    else if eff.toNat % 16 != 0 then .error (.align, eff)
    else
      match s.handlePlace c.asid k eff.toNat with
      | some (.raw .., _) | some (.mem, _) | some (.stack _, _) =>
        match s.accessAt c v (if acc = .write then permW else permR) eff
            { acc := acc, n := 16, size := .b128, strong := true } with
        | .error b => .error b
        | .ok (.bytes key _, t) => if key < 2 ^ 64 then .ok (key, t) else .error (.pageProt, s.capVa c.asid k)
        | .ok (_, _) => .error (.pageProt, s.capVa c.asid k)
      | some (.sub .., _) => .error (.capStale, eff)
      | _ => .error (.capPerm, eff)

/-- Barrier of a scratchpad: cluster scope; of /mem: package scope (R289). -/
def barScope (key : Nat) : Scope := if inSpad key then .clu else .pkg

/-! ### Reading and writing through a capability (R227) -/

/-- What an engine's access of at most 32 bytes at a node offset reaches: the generation is checked for each (R284,
R317). -/
def State.engReach (s : State) (cl : ClusterIx) (a : Asid) (k : Cap) (acc : Acc) (off n : Nat) :
    Except Bad (Target × State) :=
  match s.openNode a k.handle k.gen with
  | none => .error (.capStale, .ofNat 64 off)
  | some nd =>
    s.reach { core := memberCore cl 0, asid := a } a (.ofNat 64 off) { acc := acc, n := n, size := .b256, free := true }
      ((s.space a).nodes.length + 1) nd.body off (some k.handle)

/-- Bytes from a target to the end of its page. -/
def Target.room : Target → Nat
  | .bytes key _ => 4096 - key % 4096
  | .fabric _ _ off _ => 65536 - off.toNat
  | .stash _ | .plane .. | .queue .. | .ctx .. | .peer .. | .pkg _ | .wit .. => 32

/-- Free bytes: what another package's memory holds (log entry 10). -/
def freeBytes : Nat → State → List Byte × State
  | 0, s => ([], s)
  | n + 1, s =>
    let (w, s) := s.freeValue
    let (bs, s) := freeBytes n s
    (w.setWidth 8 :: bs, s)

/-- Data that an engine reads meets the uncorrectable error that is due, or a later access does (R6, R222, R317). -/
def State.meetError (s : State) : Bool × State :=
  if s.memErr then
    let (p, s) := s.pick 2
    (p == 0, s)
  else (false, s)

/-- The bytes an engine reads at a target. -/
def State.engGet (s : State) (a : Asid) (t : Target) (n : Nat) : Except Bad (List Byte × State) :=
  let (met, s) := s.meetError
  if met then .error (.memError, 0)
  else
    match t with
    | .fabric chip page off va =>
      if chip = s.pkg.chip then
        match s.fabricPage (s.asidPart a) page off false false with
        | some key => .ok (s.bytes key n, s)
        | none => .error (.fabric, va)
      else if s.farRefused chip page then .error (.fabric, va)
      else .ok (freeBytes n s)
    | t => .ok ((s.readTarget {} t n).1, s)

/-- An engine writes bytes at a target; the events are those of plane packing (R104). -/
def State.engPut (s : State) (a : Asid) (t : Target) (bs : List Byte) : Except Bad (State × List Ev) :=
  match t with
  | .bytes key _ | .stash key => .ok (s.homeWrite key bs, [])
  | .plane key ty p off => .ok (s.planeWrite key ty p off bs)
  | .pkg off =>
    .ok ({ s with pkgWrites := s.pkgWrites ++ [pkgStep (0x800 + off / 8) (.ofNat 64 (ofBytes bs))] }, [])
  | .fabric chip page off va =>
    if chip = s.pkg.chip then
      match s.fabricPage (s.asidPart a) page off true false with
      | some key => .ok (s.homeWrite key bs, [])
      | none => .error (.fabric, va)
    else if s.farRefused chip page then .error (.fabric, va)
    else .ok (s.send (.fabric chip 0 0 page off (.store bs)), [])
  | .queue .. | .ctx .. | .peer .. | .wit .. => .ok (s, [])

/-- Read `n` bytes at a node offset, in pieces of at most 32 bytes that stay in one page. -/
def engRead (cl : ClusterIx) (a : Asid) (k : Cap) : Nat → Nat → Nat → State → Except Bad (List Byte × State)
  | 0, _, _, s => .ok ([], s)
  | fuel + 1, off, n, s =>
    if n = 0 then .ok ([], s)
    else
      match s.engReach cl a k .read off (min n 32) with
      | .error b => .error b
      | .ok (t, s) =>
        let m := min (min n 32) t.room
        match s.engGet a t m with
        | .error (c, v) => .error (c, if c = .memError then .ofNat 64 off else v)
        | .ok (bs, s) =>
          match engRead cl a k fuel (off + m) (n - m) s with
          | .error b => .error b
          | .ok (rest, s) => .ok (bs ++ rest, s)

/-- A destination that takes whole sectors only: a plane or cx8 window (R103). -/
def NodeBody.wholeSectors : NodeBody → Bool
  | .plane .. | .cx8 .. => true
  | _ => false

/-- Write bytes of one 32-byte sector of node offsets; a plane or cx8 window takes none in part (R103, R285). -/
def State.engWriteSector (s : State) (cl : ClusterIx) (a : Asid) (k : Cap) (off : Nat) (bs : List Byte) :
    Except Bad (State × List Ev) :=
  let whole := (s.handlePlace a k off).any fun p => p.1.wholeSectors && (bs.length != 32 || p.2 % 32 != 0)
  if whole then .error (.align, .ofNat 64 off)
  else
    match s.engReach cl a k .write off bs.length with
    | .error b => .error b
    | .ok (t, s) =>
      if bs.length ≤ t.room then s.engPut a t bs
      else
        match s.engReach cl a k .write (off + t.room) (bs.length - t.room) with
        | .error b => .error b
        | .ok (t2, s) =>
          match s.engPut a t (bs.take t.room) with
          | .error b => .error b
          | .ok (s, e1) => (s.engPut a t2 (bs.drop t.room)).map fun (s, e2) => (s, e1 ++ e2)

/-- Write bytes sector by sector: the sectors written, the events, and the fault that stopped it with its sector
(R328: the sectors already written stay written). -/
def engWrite (cl : ClusterIx) (a : Asid) (k : Cap) :
    Nat → Nat → List Byte → Nat → List Ev → State → Nat × List Ev × Option (Bad × Nat) × State
  | 0, _, _, n, ev, s => (n, ev, none, s)
  | fuel + 1, off, bs, n, ev, s =>
    if bs.isEmpty then (n, ev, none, s)
    else
      let m := 32 - off % 32
      match s.engWriteSector cl a k off (bs.take m) with
      | .error b => (n, ev, some (b, n), s)
      | .ok (s, e) => engWrite cl a k fuel (off + m) (bs.drop m) (n + 1) (ev ++ e) s

/-- Causes that go to the ASID's fault queue when an engine meets them (R421). -/
def Cause.recorded : Cause → Bool
  | .pageFault | .pageProt | .rdupWrite | .memError | .violation => true
  | _ => false

/-- An engine's fault (R317, R411, R421): its record goes to the fault queue, MEM_ERROR has been reported, and after a
VIOLATION the engine holds the ASID's later jobs. -/
def State.engFault (s : State) (e : EngineIx) (a : Asid) (id : BitVec 32) (b : Bad) (wr : Bool) : State :=
  let cl := if e.toNat < 128 then engineCluster e else 0
  let s := if b.1 = .memError then { s with memErr := false } else s
  let s := if b.1 = .violation then
      s.updEngine e fun g => { g with frozen := if g.frozen.contains a then g.frozen else a :: g.frozen }
    else s
  if !b.1.recorded then s
  else
    let f := s.faultInfo cl a b.2 (if wr then .write else .read)
    s.raiseFault a (engineKind e).faultSrc b.1 wr (b.1 == .pageFault && f.malformed) (if b.1 = .pageFault then f.host else none)
      id b.2 .nobody

/-! ### Status words (R293) -/

/-- The fields of a status word. -/
structure Status where
  code : BitVec 8
  cause : BitVec 8 := 0
  id : BitVec 16
  tid : BitVec 16 := 0
  cmd : BitVec 8 := 0
  xfer : Bool := false
  value0 : BitVec 32 := 0
  value1 : BitVec 32 := 0
deriving DecidableEq, Repr

/-- The status word (R293). -/
def Status.word (t : Status) : W256 :=
  0#128 ++ t.value1 ++ t.value0 ++ 0#7 ++ BitVec.ofBool t.xfer ++ t.cmd ++ t.tid ++ t.id ++ t.cause ++ t.code

/-- `CMD` of a tile command word (R84). -/
def Job.cmd (j : Job) : BitVec 8 := j.word.extractLsb' 0 8
/-- `WAIT` (R84). -/
def Job.waits (j : Job) : Bool := j.word.getLsbD 8
/-- `EV` (R84). -/
def Job.ev (j : Job) : Bool := j.word.getLsbD 9
/-- `ARRIVE` (R84). -/
def Job.arrives (j : Job) : Bool := j.word.getLsbD 10
/-- `ACC` (R84). -/
def Job.acc (j : Job) : BitVec 4 := j.word.extractLsb' 12 4
/-- `TID` (R84). -/
def Job.tid (j : Job) : BitVec 16 := j.word.extractLsb' 16 16
/-- `WLOC` (R84). -/
def Job.wloc (j : Job) : BitVec 20 := j.word.extractLsb' 32 20
/-- `WPHASE` (R84). -/
def Job.wphase (j : Job) : BitVec 4 := j.word.extractLsb' 52 4
/-- `CLOC` (R320). -/
def Job.cloc (j : Job) : BitVec 20 := j.word.extractLsb' 232 20
/-- Extra register `i` of a job (R301). -/
def Job.extra (j : Job) (i : Nat) : RegVal := j.caps.getD i {}
/-- The capability in extra register `i`. -/
def Job.extraCap (j : Job) (i : Nat) : Cap := Cap.ofBits (j.extra i).val

/-- The status word of a job as it stands (R293, R302). -/
def Job.status (j : Job) : W256 :=
  match j.stage with
  | .queued => Status.word { code := 2, id := j.id, tid := j.tid, cmd := j.cmd }
  | .running | .ended => Status.word { code := 1, id := j.id, tid := j.tid, cmd := j.cmd }

/-- The final status word of a job. -/
def Job.final (j : Job) : W256 :=
  Status.word { code := j.code, cause := j.cause, id := j.id, tid := j.tid, cmd := j.cmd, value0 := j.value0,
                value1 := j.value1 }

/-- The status word of a transfer (R293, R424). -/
def Xfer.status (x : Xfer) : W256 :=
  Status.word { code := x.code, cause := if x.code = 4 then x.cause else 0, id := x.id, xfer := true, value0 := .ofNat 32 x.written,
                value1 := .ofNat 32 x.parked.length }

/-- A core's request is not accepted yet: in this cycle one of a higher core has been (R23, R282). -/
def Engine.turnTaken (g : Engine) (cycle : Word) (core : CoreIx) : Bool :=
  g.turn.any fun t => t.1 == cycle && core.toNat < t.2.toNat

/-- Change the queue pair of an ASID (R369). -/
def Engine.updPair (g : Engine) (a : Asid) (f : QueuePair → QueuePair) : Engine :=
  let p := (g.pairs.find? fun p => p.asid == a).getD { asid := a }
  { g with pairs := f p :: g.pairs.filter fun p => p.asid != a }

/-- An engine remembers the status of the last 256 jobs that it completed (R293). -/
def Engine.remember (g : Engine) (a : Asid) (scope : Scope) (w : W256) : Engine :=
  { g with past := ((a, scope, w) :: g.past).take 256 }

/-- `ID` of a status word. -/
def statusId (w : W256) : BitVec 16 := w.extractLsb' 16 16

/-- What an engine remembers of an identifier of an ASID. -/
def Engine.pastOf (g : Engine) (a : Asid) (id : BitVec 16) : Option (Asid × Scope × W256) :=
  g.past.find? fun p => p.1 == a && statusId p.2.2 == id

/-- The status word for an identifier of an ASID (R293). -/
def Engine.statusOf (g : Engine) (a : Asid) (id : BitVec 16) : W256 :=
  match g.jobs.find? (fun j => j.id == id && j.asid == a), g.xfers.find? (fun x => x.id == id && x.asid == a) with
  | some j, _ => j.status
  | _, some x => x.status
  | none, none =>
    match g.pastOf a id with
    | some p => p.2.2
    | none => Status.word { code := 8, id := id }

/-- `CODE` of a status word. -/
def statusCode (w : W256) : BitVec 8 := w.extractLsb' 0 8

/-! ### Counter sets (R111, R450) -/

/-- Where a packet's address lies: a /mem address of the ASID where bit 63 is set, else a host address (R447). -/
def State.addrKey (s : State) (cl : ClusterIx) (a : Asid) (addr : Word) (acc : Acc) : Except XFault (Nat × State) :=
  if addr.getLsbD 63 then
    match s.translate cl a (addr.toNat - 2 ^ 63) acc with
    | .error f => .error f
    | .ok (.dram pa, s) => .ok (pa, s)
    | .ok (.host h, s) => .ok ((Place.host h).key, s)
    | .ok (.fabric .., _) => .error { cause := .pageProt }
  else if s.hostAbsent.contains (addr.toNat / 4096) then .error { cause := .pageFault, host := some addr.toNat }
  else .ok ((Place.host addr.toNat).key, s)

/-- Change a launch. -/
def State.updLaunch (s : State) (id : Nat) (f : Launch → Launch) : State :=
  { s with launches := s.launches.map fun l => if l.id = id then f l else l }
/-- A launch by its number. -/
def State.launchOf (s : State) (id : Nat) : Option Launch := s.launches.find? fun l => l.id == id

/-- Field of a LAUNCH packet: `n` bytes from byte `at_` (R448). -/
def Launch.part (l : Launch) (at_ n : Nat) : Nat := ofBytes ((l.words.drop at_).take n)
/-- `DONE` (R448). -/
def Launch.doneAddr (l : Launch) : Word := .ofNat 64 (l.part 8 8)
/-- `NREC` (R448). -/
def Launch.nrec (l : Launch) : Word := .ofNat 64 (l.part 16 8)
/-- `NRECN` (R448). -/
def Launch.nrecn (l : Launch) : Nat := l.part 24 2

/-- An engine's record write waits for the driver (R450). -/
def State.nrecWaits (s : State) (id : Nat) : Bool :=
  s.faults.any fun r => r.waiter == .nrec id

/-- Write what waits for a launch's record, in order, as far as its pages allow (R450). -/
def flushRecord (id : Nat) : Nat → State → State
  | 0, s => s
  | fuel + 1, s =>
    match s.launchOf id with
    | none => s
    | some l =>
      match l.nrecPend with
      | [] => s
      | (off, bs, cl) :: rest =>
        if s.nrecWaits id then s
        else
          match s.addrKey cl l.asid (l.nrec + .ofNat 64 off) .write with
          | .error f =>
            s.raiseFault l.asid 1 f.cause true f.malformed f.host 0 ((l.nrec + .ofNat 64 off) &&& 0x7FFFFFFFFFFFFFFF) (.nrec id)
          | .ok (key, s) =>
            flushRecord id fuel ((s.homeWrite key bs).updLaunch id fun l =>
              { l with nrecPend := rest, nrecUsed := if off = 0 then l.nrecUsed else l.nrecUsed + 1 })

/-- Entry of a launch's record for a counter set (R450). -/
def CounterSet.entry (c : CounterSet) (cl : ClusterIx) : List Byte :=
  [cl.setWidth 8, 0] ++ toBytes c.tid.toNat 2 ++ toBytes 0 4 ++ c.counts.flatMap (toBytes · 4) ++ toBytes 0 24

/-- A counter set is written out to its launch's record, or counted as dropped where there is no room (R111, R450). -/
def State.writeOut (s : State) (cl : ClusterIx) (c : CounterSet) : State :=
  match s.launchOf c.launch with
  | none => s
  | some l =>
    if l.nrec = 0 then s
    else
      let n := l.nrecUsed + (l.nrecPend.countP fun p => p.1 != 0)
      if l.nrecn ≤ n then s.updLaunch l.id fun l => { l with nrecLost := l.nrecLost + 1 }
      else flushRecord l.id 1024 (s.updLaunch l.id fun l =>
        { l with nrecPend := l.nrecPend ++ [(64 + 64 * n, c.entry cl, cl)] })

/-- Add a job's counts to the engine's set for its `TID`; sets stand most recently used first (R111). -/
def State.addEngineCounts (s : State) (cl : ClusterIx) (launch : Nat) (tid : BitVec 16) (ns : List Nat) : State :=
  let sets := (s.cluster cl).counters
  let put (s : State) (c : CounterSet) (rest : List CounterSet) : State :=
    s.updCluster cl fun k =>
      { k with counters := ⟨c.launch, c.tid, (List.range 8).map fun i =>
        Nat.min (c.counts.getD i 0 + ns.getD i 0) 0xFFFFFFFF⟩ :: rest }
  match sets.find? (fun c => c.launch == launch && c.tid == tid) with
  | some c => put s c (sets.erase c)
  | none =>
    if sets.length < 256 then put s ⟨launch, tid, []⟩ sets
    else
      match (sets.reverse.find? fun c => c.launch == launch) <|> sets.getLast? with
      | none => s
      | some old => put (s.writeOut cl old) ⟨launch, tid, []⟩ (sets.erase old)

/-! ### A job's life (R291, R292, R315) -/

/-- Change a job. -/
def State.updJob (s : State) (e : EngineIx) (id : BitVec 16) (f : Job → Job) : State :=
  s.updEngine e fun g => { g with jobs := g.jobs.map fun j => if j.id = id then f j else j }
/-- A job by its identifier. -/
def State.jobOf (s : State) (e : EngineIx) (id : BitVec 16) : Option Job :=
  (s.engine e).jobs.find? fun j => j.id == id

/-- A job's work has ended: its status is fixed. -/
def State.endJob (s : State) (e : EngineIx) (id : BitVec 16) (code cause : BitVec 8) (v0 v1 : BitVec 32)
    (counts : List Nat := []) : State :=
  s.updJob e id fun j =>
    { j with stage := .ended, code := code, cause := cause, value0 := v0, value1 := v1, counts := counts }

/-- The fault place (R318). -/
def faultPlace (opnd pos : Nat) : BitVec 32 := .ofNat 32 (opnd % 16 + pos * 16)

/-- The job uses an accumulator tile (R304), or reads its visible bank through /acc (R348). -/
def Job.usesTile (j : Job) (tile : BitVec 4) : Bool :=
  (0x10 ≤ j.cmd.toNat && j.cmd.toNat ≤ 0x15 && j.acc == tile) || j.reads.contains tile

/-- A job accepted after a waiting ASWAP of its tile uses the bank that the ASWAP brings (R304). -/
def Engine.swapHolds (g : Engine) (j : Job) : Bool :=
  g.swaps.any fun w => j.usesTile w.tile && !w.ahead.contains j.id

/-- The job that an engine starts next: the first in acceptance order that is queued, is no TRIG, and is not held by
containment (R291, R367, R411). -/
def Engine.head (g : Engine) : Option Job :=
  (g.jobs.find? fun j => j.stage == .queued && j.inner.isNone && !g.frozen.contains j.asid).filter
    fun j => !g.swapHolds j

/-- A job of the engine runs or has just ended. -/
def Engine.oneBusy (g : Engine) : Bool := g.jobs.any fun j => j.stage != .queued

/-- A status word enters a completion queue; it waits while the queue is full (R369). -/
def State.pushStatus (s : State) (a : Asid) (v : RegVal) (w : W256) : Option State :=
  let k := Cap.ofBits v.val
  match s.openNode a k.handle k.gen with
  | none => some s
  | some n =>
    match n.body with
    | .queue q =>
      if q.full then none
      else
        match s.qAppend a n.ix q ⟨w, false⟩ with
        | .ok s => some s
        | .error _ => none
    | _ => some s

/-- Completion-queue entries of an engine that can be pushed are (R369). -/
def State.flushCq (s : State) (e : EngineIx) : State :=
  match (s.engine e).cq with
  | [] => s
  | (a, v, w) :: rest =>
    match s.pushStatus a v w with
    | some s => s.updEngine e fun g => { g with cq := rest }
    | none => s

/-- A transfer by its identifier. -/
def State.xferOf (s : State) (e : EngineIx) (id : BitVec 16) : Option Xfer :=
  (s.engine e).xfers.find? fun x => x.id == id

/-- `XID` of a copy-unit command. -/
def Job.xid (j : Job) : BitVec 16 := j.word.extractLsb' 64 16

/-- The transfer that a copy-unit command names, of its ASID. -/
def State.jobXfer (s : State) (e : EngineIx) (j : Job) : Option Xfer :=
  (s.xferOf e j.xid).filter fun x => x.asid == j.asid

/-- The completion barrier of a job: its `CLOC` in its launch's allotment, or the transfer's barrier of a CREPLAY or
CABORT, whether or not it has run (R292, R306, R307, R316, R320). -/
def State.completionBar (s : State) (e : EngineIx) (j : Job) : Option Nat :=
  if e.toNat < 128 then
    if j.cmd = 0x30 ∨ j.cmd = 0x31 then
      let bar := if j.xbar.tag then j.xbar else ((s.jobXfer e j).map fun x => x.regs.bar).getD {}
      if bar.tag then
        match s.barTarget { core := memberCore (engineCluster e) 0, asid := j.asid } bar .write with
        | .ok (key, _) => some key
        | .error _ => none
      else none
    else s.locKey j.launch (engineCluster e) j.cloc 16
  else none

/-- The extra register of a BCOPY or BFILL that names its completion queue (R369, R370). -/
def cqOperand (w : W256) (caps : List RegVal) : Option RegVal :=
  if w.getLsbD 99 then
    if w.extractLsb' 0 8 = 0x50 then caps[2]? else if w.extractLsb' 0 8 = 0x51 then caps[1]? else none
  else none

/-- The completion queue of a job; a TRIG's is its inner command's (R369, R372). -/
def Job.cq (j : Job) : Option RegVal :=
  match j.inner with
  | some (w, vs) => cqOperand w vs
  | none => cqOperand j.word j.caps

/-- JOB_COMPLETION (R292, R293, R315): the counts, the arrival or the poisoning, the status, the record, the completion
queue. -/
def State.completeJob (s : State) (e : EngineIx) (j : Job) : State :=
  let cl := engineCluster e
  let s := if j.code = 0 ∧ engineKind e = .matrix then
      s.addEngineCounts cl j.launch j.tid j.counts else s
  let s := if j.arrives then
      match s.completionBar e j with
      | some key => s.updBar key (if j.code = 0 then Bar.arrive else Bar.poisoned)
      | none => s
    else s
  let s := s.updEngine e fun g => { (g.remember j.asid j.scope j.final).updPair j.asid (fun p => { p with head := p.head + 1 }) with
    jobs := g.jobs.filter fun x => x.id != j.id }
  let s := if j.ev then
      s.postUnit (if e.toNat < 128 then cl else j.cluster)
        (unitRecord (engineKind e).src j.code j.id j.ctx j.asid)
    else s
  match j.cq with
  | some v => (s.updEngine e fun g => { g with cq := g.cq ++ [(j.asid, v, j.final)] }).flushCq e
  | none => s

/-- Idle cycles that the power limit inserts in a job, counted in pwr.idle (R21; log entry 12). -/
def State.idle (s : State) : Nat × State :=
  if s.powerLimited then
    let n := Config.idleCycles s.free
    (n, { s with free := s.free + 1, pkg := { s.pkg with idle := s.pkg.idle + .ofNat 64 n } })
  else (0, s)

/-- Cycles of a job whose work takes `x` (R319), with idle cycles, stopping at 2^32 - 1 (R318). -/
def State.jobCycles (s : State) (x : Nat) : BitVec 32 × State :=
  let (n, s) := s.idle
  (.ofNat 32 (Nat.min (24 + x + n) 0xFFFFFFFF), s)

/-- The latency of one access to the farthest line (R242, R319, R347; log entry 12). -/
def State.farLatency (s : State) : Nat × State := (Config.farLatency s.free, { s with free := s.free + 1 })

end Sys2Proof.Machine
end

