-- ==== Sys2Proof/Machine/Barriers.lean ====
section
/-!
DEFINITION. Sys2Proof/Machine/Barriers.lean: the BAR class (R294 to R299), the gang and span barriers (R297, R298), and
SUMCOL (R363), which is a round of the span barrier.
-/
namespace Sys2Proof.Machine

/-! ### Transaction barriers (R295, R296) -/

/-- A BAR form's barrier: trap.val holds eff, whatever failed (R295). -/
def State.barOperand (s : State) (a : Reg) (acc : Acc) : Except Bad (Nat × State) :=
  match s.barTarget s.cx (s.reg a) acc with
  | .ok r => .ok r
  | .error b => .error (b.1, (s.cap a).offset)

/-- BARINIT, BAREXP and BARPOIS perform as STL does (R244, R295): the slot goes on issuing, and the update takes its place
behind the stores that are queued. Earlier loads have their values first (R232, R234). -/
def State.barStore (s : State) (a : Reg) (op : BarOp) : Out :=
  s.orTrap (s.barOperand a .write) fun (key, s) =>
    let s := ((s.clampScope (barScope key)).resolveAll.drainStash s.cx.id)
    (if s.cx.storeQ.isEmpty then s.updBar key op.apply
     else s.enqueueStore { s.storeOf (.bytes key true) 16 .b128 {} (s.cap a).handle true with bar := some op }).advance

/-- BARINIT (R295). -/
def execBarinit (a b : Reg) (s : State) : Out := s.barStore a (.init ((s.bits b).setWidth 24))
/-- BAREXP (R295). -/
def execBarexp (a b : Reg) (s : State) : Out := s.barStore a (.expect ((s.bits b).setWidth 32))
/-- BARPOIS (R295). -/
def execBarpois (a : Reg) (s : State) : Out := s.barStore a .poison

/-- BARARV (R295): it performs in one step, with its result, once the stores before it have performed (DESIGN CHOICE, log
entry 40). Bit 4 of the result says that no arrival was due. -/
def execBararv (d a : Reg) (s : State) : Out :=
  s.orTrap (s.barOperand a .write) fun (key, s) =>
    let s := (s.clampScope (barScope key)).resolveFor (.bytes key true) 16
    let b := s.barAt key
    ((s.updBar key Bar.arrive).setBits d (.ofNat 256 (b.phase.toNat + (b.pending == 0).toNat * 16))).advance

/-- The 16 bytes of a barrier as the current context reads them: its own queued stores come first (R220). -/
def State.barBytes (s : State) (key : Nat) : BitVec 128 := .ofNat 128 (ofBytes (s.readTarget s.cx (.bytes key true) 16).1)

/-- A barrier has left the phase of `c[b][3:0]`, or is poisoned (R295, R296). -/
def Bar.released (b : Bar) (phase : BitVec 4) : Bool := b.phase != phase || b.poison

/-- BARTEST (R295): an acquire where bit 128 is set. -/
def execBartest (d a b : Reg) (s : State) : Out :=
  s.orTrap (s.barOperand a .read) fun (key, s) =>
    let v := s.barBytes key
    let r := (Bar.ofBits v).released ((s.bits b).setWidth 4)
    let s := if r then s.clampScope (barScope key) else s
    (s.setBits d (0#127 ++ BitVec.ofBool r ++ v)).advance
/-- BARRD (R295): relaxed. -/
def execBarrd (d a : Reg) (s : State) : Out :=
  s.orTrap (s.barOperand a .read) fun (key, s) => (s.setBits d (0#128 ++ s.barBytes key)).advance

/-- BARWAIT from its checks on (R296). -/
def State.barwait (s : State) (d a b : Reg) : State :=
  match s.barOperand a .read with
  | .error e => s.trapBad e
  | .ok (key, s) =>
    let v := s.barBytes key
    if (Bar.ofBits v).released ((s.bits b).setWidth 4) then
      ((s.clampScope (barScope key)).setBits d (0#128 ++ v)).finishWait
    else s.block (.bar d a b)

/-- BARWAIT (R296). -/
def execBarwait (d a b : Reg) (s : State) : Out := .next (s.barwait d a b)
/-- BARWAIT_RELEASE (R296): the waiting BARWAIT of the slot's context looks at its barrier again. -/
def execBarwaitRelease (sl : SlotId) (s : State) : Out :=
  .next (s.withSlot sl fun s =>
    match s.cx.wait with
    | .bar d a b => s.barwait d a b
    | _ => s)

/-! ### Rounds of the gang and span barriers (R297, R298, R363) -/

/-- Change a gang. -/
def State.updGang (s : State) (id : BitVec 32) (f : Gang → Gang) : State :=
  { s with gangs := s.gangs.map fun g => if g.id = id then f g else g }
/-- Change a span. -/
def State.updSpan (s : State) (id : BitVec 32) (f : Span → Span) : State :=
  { s with spans := s.spans.map fun x => if x.id = id then f x else x }
/-- The gangs of a span. -/
def State.spanGangs (s : State) (id : BitVec 32) : List Gang := s.gangs.filter fun g => g.span == id

/-- What a barrier of a context acts over: its span, or its gang where it belongs to none (R298). -/
def Ctx.group (c : Ctx) : Group := if c.span = 0 then .gang c.gang else .span c.span
/-- A span by its identity. -/
def State.spanOf (s : State) (id : BitVec 32) : Option Span := s.spans.find? fun x => x.id == id
/-- Live members of a group on other packages (R298). -/
def State.farMembers (s : State) : Group → List Nat
  | .gang _ => []
  | .span id => ((s.spanOf id).map Span.far).getD []
/-- The scope of the releases and acquires of a group's barrier (R297, R298). -/
def State.groupScope (s : State) : Group → Scope
  | .gang _ => .clu
  | .span id => if ((s.spanOf id).map fun x => !x.chips.isEmpty).getD false then .ten else .pkg
/-- That of the current context's. -/
def State.cxBarScope (s : State) : Scope := s.groupScope s.cx.group
/-- The gangs of a group. -/
def State.groupGangs (s : State) : Group → List Gang
  | .gang id => s.gangs.filter fun g => g.id == id
  | .span id => s.spanGangs id
/-- The round under way of a group. -/
def State.round (s : State) : Group → Round
  | .gang id => ((s.gangs.find? fun g => g.id == id).map (·.round)).getD {}
  | .span id => ((s.spans.find? fun x => x.id == id).map (·.round)).getD {}
/-- Change the round of a group. -/
def State.updRound (s : State) (g : Group) (f : Round → Round) : State :=
  match g with
  | .gang id => s.updGang id fun x => { x with round := f x.round }
  | .span id => s.updSpan id fun x => { x with round := f x.round }

/-- Members of a group that have neither retired nor been killed (R297). -/
def State.groupMembers (s : State) (g : Group) : List (BitVec 32) :=
  (s.groupGangs g).flatMap fun k => k.members.filter fun id => !k.gone.contains id
/-- A member of the group has been killed. -/
def State.groupKilled (s : State) (g : Group) : Bool :=
  (s.groupGangs g).any (·.killed) || match g with
    | .gang _ => false
    | .span id => (s.spanOf id).any (·.farKilled)

/-- Every member has arrived, and some member has by executing its form (R297). -/
def State.roundComplete (s : State) (g : Group) : Bool :=
  let r := s.round g
  !r.arrived.isEmpty && ((s.groupMembers g).all fun id => r.arrived.any fun x => x.ctx == id)
    && (s.farMembers g).all fun m => r.far.any fun x => x.1 == m

/-- The arrivals from other packages that belong to the round under way: the first of each member. -/
def Round.farNow (r : Round) : List (Nat × Option (List Nat)) :=
  r.far.foldl (fun l x => if l.any fun y => y.1 == x.1 then l else l ++ [x]) []

/-- What the round gives (R297, R298, R363). -/
def State.roundResult (s : State) (g : Group) : RoundResult :=
  let r := s.round g
  let given := (r.arrived.map (·.counts) ++ r.farNow.map (·.2)).filterMap id
  { arrived := r.arrived.length + r.farNow.length, killed := s.groupKilled g, contributors := given.length
    sums := (List.range 8).map fun i => (given.map fun c => c.getD i 0).sum }

/-- The result of GANGBAR and SPANBAR (R297). -/
def RoundResult.word (r : RoundResult) : W256 := .ofNat 256 (r.arrived % 2 ^ 16 + r.killed.toNat * 2 ^ 16)

/-- The same place `n` bytes on. -/
def Target.plus (t : Target) (n : Nat) : Target :=
  match t with
  | .bytes k tags => .bytes (k + n) tags
  | .stash k => .stash (k + n)
  | .plane k ty p off => .plane k ty p (off + n)
  | .queue a node off => .queue a node (off + .ofNat 64 n)
  | .ctx id off => .ctx id (off + n)
  | .peer a h off => .peer a h (off + .ofNat 64 n)
  | .pkg off => .pkg (off + n)
  | .fabric c p off va => .fabric c p (off + .ofNat 16 n) (va + .ofNat 64 n)
  | .wit k cl w off => .wit (k + n) cl w (off + n)

/-- The check of a 64-byte record's place (R363, R408): a store of 64 bytes, `KIND` 0, 64-byte aligned. -/
def State.recordTarget (s : State) (a : Reg) : Except Bad (Target × State) :=
  let k := s.cap a
  match s.capCheck s.cx.asid (s.reg a) permW k.offset 64 with
  | some c => .error (c, k.offset)
  | none =>
    if k.kind != 0 then .error (.capPerm, k.offset)
    else if k.offset.toNat % 64 != 0 then .error (.align, k.offset)
    else s.accessAt s.cx (s.reg a) permW k.offset { acc := .write, n := 64, size := .b256, free := true }

/-- A record of 64 bytes goes to its place as two stores of the current context (R363, R408). -/
def State.putRecord (s : State) (t : Target) (handle : BitVec 24) (v : BitVec 512) : State :=
  let lo : W256 := v.setWidth 256
  let hi : W256 := v.extractLsb' 256 256
  match t with
  | .stash key => (s.resolveFor t 64).stashPut key (toBytes v.toNat 64)
  | t =>
    ((s.enqueueStore { target := t, n := 32, data := lo, size := .b256, handle := handle, pc := s.here }).enqueueStore
      { target := t.plus 32, n := 32, data := hi, size := .b256, handle := handle, pc := s.here }).drain s.cx.id

/-- A SUMCOL takes its round's result: its record where it gave a tagged c[a], and c[d] (R363). -/
def State.sumcolEnd (s : State) (d a : Reg) (r : RoundResult) : State :=
  let fin (s : State) : State := ((s.clampScope s.cxBarScope).setBits d (.ofNat 256 r.contributors)).finishWait
  if !(s.reg a).tag then fin s
  else
    match s.recordTarget a with
    | .error b => s.trapBad b
    | .ok (t, s) =>
      let v : BitVec 512 := .ofNat 512 (r.sums.zipIdx.foldl (fun v (x, i) => v + x % 2 ^ 64 * 2 ^ (64 * i)) 0)
      fin (s.putRecord t (s.cap a).handle v)

/-- A member whose form waits takes its round's result; one that has left its slot finds it owed (R297, R407). -/
def State.giveResult (s : State) (g : Group) (r : RoundResult) (id : BitVec 32) : State :=
  match (s.getCtx id).map (fun (c : Ctx) => c.wait) with
  | some (.gang d) => s.asCtx id fun s => ((s.clampScope .clu).setBits d r.word).finishWait
  | some (.span d) => s.asCtx id fun s =>
      ((s.clampScope s.cxBarScope).setBits d r.word).finishWait
  | some (.sumcol d a _) => s.asCtx id fun s => s.sumcolEnd d a r
  | some _ => s.updRound g fun x => { x with owed := (id, r) :: x.owed }
  | none => s

/-- The round releases (R297, R298). -/
def State.releaseRound (s : State) (g : Group) : State :=
  if !s.roundComplete g then s
  else
    let r := s.roundResult g
    let ids := (s.round g).arrived.map (·.ctx)
    let s := s.updRound g fun x => { x with arrived := [], far := x.farNow.foldl List.erase x.far }
    ids.foldl (fun s id => s.giveResult g r id) s

/-- The result owed to the current context, taken from its group (R407). -/
def State.takeOwed (s : State) (g : Group) : Option (RoundResult × State) :=
  ((s.round g).owed.find? fun x => x.1 == s.cx.id).map fun x =>
    (x.2, s.updRound g fun r => { r with owed := r.owed.filter fun y => y.1 != s.cx.id })

/-- The current context has arrived in its group's round already (R142, R297). -/
def State.hasArrived (s : State) (g : Group) : Bool := (s.round g).arrived.any fun x => x.ctx == s.cx.id

/-- An arrival that persists (R297). -/
def State.arriveRound (s : State) (g : Group) (counts : Option (List Nat)) : State :=
  let s := s.updRound g fun r => { r with arrived := r.arrived ++ [⟨s.cx.id, counts⟩] }
  match g with
  | .gang _ => s
  | .span id => s.tellSpan id (.arrive s.cx.spanMember counts)

/-- GANGBAR and SPANBAR over a group, with the scope of the release and of the acquire (R297, R298). A gang of one
releases at once. -/
def State.groupBar (s : State) (g : Group) (scope : Scope) (d : Reg) (w : Wait) : State :=
  match s.takeOwed g with
  | some (r, s) => ((s.clampScope scope).setBits d r.word).finishWait
  | none =>
    if s.hasArrived g then s.block w
    else
      let s := (s.clampScope scope).arriveRound g none
      if (match g with
          | .gang _ => s.cx.count == 1
          | .span _ => false) then (s.block w).releaseRound g
      else s.block w

/-- GANGBAR (R297). -/
def execGangbar (d : Reg) (s : State) : Out := .next (s.groupBar (.gang s.cx.gang) .clu d (.gang d))
/-- SPANBAR (R298). -/
def execSpanbar (d : Reg) (s : State) : Out :=
  .next (s.groupBar s.cx.group s.cxBarScope d (.span d))

/-- GANGBAR_RELEASE (R297). -/
def execGangbarRelease (gang : BitVec 32) (s : State) : Out := .next (s.releaseRound (.gang gang))
/-- SPANBAR_RELEASE (R298). -/
def execSpanbarRelease (span : BitVec 32) (s : State) : Out := .next (s.releaseRound (.span span))

/-- SUMCOL (R363): the checks of c[a] come first; a member that has arrived waits on. -/
def execSumcol (d a b : Reg) (s : State) : Out :=
  let g := s.cx.group
  let clear := (s.bits b).getLsbD 0
  let w : Wait := .sumcol d a clear
  let go (s : State) : State :=
    match s.takeOwed g with
    | some (r, s) => s.sumcolEnd d a r
    | none =>
      if s.hasArrived g then s.block w
      else
        let counts := s.cx.nec.toList.map BitVec.toNat
        let s := (s.clampScope s.cxBarScope).arriveRound g (some counts)
        let s := if clear then s.updCx fun c => { c with nec := Vector.replicate 8 0, necFlags := 0 } else s
        if (match g with
            | .gang _ => s.cx.count == 1
            | .span _ => false) then (s.block w).releaseRound g
        else s.block w
  if a = 0 then .next (go s)
  else s.orTrap (s.recordTarget a) fun (_, s) => go s

end Sys2Proof.Machine
end

