-- ==== Sys2Proof/Machine/Crypto.lean ====
section
/-!
DEFINITION. Sys2Proof/Machine/Crypto.lean: SHA-384 (R451 to R453), HMAC-SHA-384 and the SP 800-108 key of a protected
context (R396), AES-256 in GCM (R396), and RSASSA-PSS verification (R452), each as its standard gives it.
-/
namespace Sys2Proof.Machine

/-! ### SHA-384 (FIPS 180-4) -/

/-- The integer part of the `k`-th root of `n`: the bits below bit `b` that `r` does not hold yet, highest first. -/
def rootFrom (k n : Nat) : Nat → Nat → Nat
  | 0, r => r
  | b + 1, r => rootFrom k n b (if (r + 2 ^ b) ^ k ≤ n then r + 2 ^ b else r)

/-- The first 64 bits of the fractional part of the `k`-th root of `p`. -/
def fracRoot (k p : Nat) : Word := .ofNat 64 (rootFrom k (p * 2 ^ (64 * k)) 69 0)

/-- The first 80 primes. -/
def shaPrimes : List Nat := (List.range 410).filter fun p => 2 ≤ p && (List.range 21).all fun d => d < 2 || p ≤ d || p % d != 0

/-- The 80 round constants: fractions of the cube roots of the first 80 primes. -/
def shaK : List Word := shaPrimes.map (fracRoot 3)

/-- The initial hash value of SHA-384: fractions of the square roots of the 9th to the 16th prime. -/
def shaInit : List Word := ((shaPrimes.drop 8).take 8).map (fracRoot 2)

/-- The number that big-endian bytes hold. -/
def ofBytesBE (bs : List Byte) : Nat := bs.foldl (fun v b => v * 256 + b.toNat) 0
/-- `n` big-endian bytes of a number. -/
def toBytesBE (v n : Nat) : List Byte := (toBytes v n).reverse

/-- Cut a list into pieces of `n`. -/
def chunks {α : Type} (n : Nat) (xs : List α) : List (List α) :=
  (List.range ((xs.length + n - 1) / n)).map fun i => (xs.drop (n * i)).take n

/-- The exclusive or of a word's rotations to the right. -/
def xorRot (w : Word) (rs : List Nat) : Word := rs.foldl (fun v r => v ^^^ w.rotateRight r) 0

/-- One word of the message schedule from the sixteen before it, newest first: σ1 of the second, the seventh, σ0 of the
fifteenth, and the sixteenth. -/
def shaNext (w : List Word) : Word :=
  let at_ (i : Nat) : Word := w.getD (i - 1) 0
  (xorRot (at_ 2) [19, 61] ^^^ at_ 2 >>> 6) + at_ 7 + (xorRot (at_ 15) [1, 8] ^^^ at_ 15 >>> 7) + at_ 16

/-- The message schedule, newest first. -/
def shaSchedule : Nat → List Word → List Word
  | 0, w => w
  | n + 1, w => shaSchedule n (shaNext w :: w)

/-- One round over the eight working variables, given the sum of the round's constant and its schedule word: what leaves the
last variable is added to the fourth, and makes the new first with Σ0 and the majority of the first three. -/
def shaRound (v : List Word) (kw : Word) : List Word :=
  let x (i : Nat) : Word := v.getD i 0
  let choose := x 6 ^^^ (x 4 &&& (x 5 ^^^ x 6))
  let major := (x 0 &&& (x 1 ||| x 2)) ||| (x 1 &&& x 2)
  let out := x 7 + kw + choose + xorRot (x 4) [14, 18, 41]
  (out + major + xorRot (x 0) [28, 34, 39]) :: v.take 3 ++ [x 3 + out] ++ (v.drop 4).take 3

/-- One block of 128 bytes. -/
def shaBlock (h : List Word) (block : List Byte) : List Word :=
  let w := ((chunks 8 block).map fun c => BitVec.ofNat 64 (ofBytesBE c)).reverse
  let sched := (shaSchedule 64 w).reverse
  List.zipWith (· + ·) h ((List.zipWith (· + ·) shaK sched).foldl shaRound h)

/-- SHA-384. -/
def sha384 (msg : List Byte) : List Byte :=
  let n := msg.length
  let padded := msg ++ [0x80] ++ List.replicate ((239 - n % 128) % 128) 0 ++ toBytesBE (8 * n) 16
  (((chunks 128 padded).foldl shaBlock shaInit).take 6).flatMap fun w => toBytesBE w.toNat 8

/-- A digest as a register of 384 bits: its first byte is least significant (R2; DEDUCED, log entry 19). -/
def sha384Bits (msg : List Byte) : BitVec 384 := .ofNat 384 (ofBytes (sha384 msg))

/-! ### HMAC (FIPS 198-1) and the key of a protected context (R396) -/

/-- HMAC-SHA-384 with a key of at most 128 bytes. -/
def hmac384 (key msg : List Byte) : List Byte :=
  let k := key ++ List.replicate (128 - key.length) 0
  sha384 (k.map (· ^^^ 0x5C) ++ sha384 (k.map (· ^^^ 0x36) ++ msg))

/-- The 32 bytes of the key of R396: one iteration of the counter-mode KDF of SP 800-108. -/
def contextKey (tenant : List Byte) (asid : Asid) (ctx : BitVec 32) : List Byte :=
  let label : List Byte := "GW-CLR-CTX".toList.map fun c => .ofNat 8 c.toNat
  (hmac384 tenant (toBytesBE 1 4 ++ label ++ [0] ++ toBytes asid.toNat 2 ++ toBytes ctx.toNat 4
    ++ toBytesBE 256 4)).take 32

/-! ### AES-256 (FIPS 197) -/

/-- Product of two bytes in GF(2^8). -/
def gmul (a b : Byte) : Byte :=
  ((List.range 8).foldl (fun (acc : Byte × Byte) i =>
    (if b.getLsbD i then acc.1 ^^^ acc.2 else acc.1,
     (acc.2 <<< 1) ^^^ (if acc.2.getLsbD 7 then 0x1B else 0))) (0, a)).1

/-- b^254: the inverse of a byte, and 0 for 0. -/
def ginv (b : Byte) : Byte :=
  let p2 := gmul b b
  let p3 := gmul p2 b
  let p6 := gmul p3 p3
  let p12 := gmul p6 p6
  let p15 := gmul p12 p3
  let p30 := gmul p15 p15
  let p60 := gmul p30 p30
  let p120 := gmul p60 p60
  let p126 := gmul p120 p6
  let p127 := gmul p126 b
  gmul p127 p127

/-- The S-box. -/
def sbox (b : Byte) : Byte :=
  let v := ginv b
  v ^^^ v.rotateLeft 1 ^^^ v.rotateLeft 2 ^^^ v.rotateLeft 3 ^^^ v.rotateLeft 4 ^^^ 0x63

/-- Exclusive or of two byte strings. -/
def xorBytes (a b : List Byte) : List Byte := List.zipWith (· ^^^ ·) a b

/-- The key schedule: words of 4 bytes, newest first; `n` more words, the next being word `i`. -/
def aesExpand : Nat → Nat → Byte → List (List Byte) → List (List Byte)
  | 0, _, _, w => w
  | n + 1, i, rcon, w =>
    let prev := w.headD []
    let t := if i % 8 = 0 then xorBytes ((prev.drop 1 ++ prev.take 1).map sbox) [rcon, 0, 0, 0]
      else if i % 8 = 4 then prev.map sbox else prev
    aesExpand n (i + 1) (if i % 8 = 0 then gmul rcon 2 else rcon) (xorBytes (w.getD 7 []) t :: w)

/-- The 15 round keys of a 32-byte key. -/
def aesKeys (key : List Byte) : List (List Byte) :=
  (chunks 4 (aesExpand 52 8 1 (chunks 4 key).reverse).reverse).map List.flatten

/-- ShiftRows on the 16 bytes of a block, column by column. -/
def shiftRows (s : List Byte) : List Byte :=
  (List.range 16).map fun i => s.getD ((i + 4 * (i % 4)) % 16) 0

/-- MixColumns on one column. -/
def mixColumn (c : List Byte) : List Byte :=
  (List.range 4).map fun i =>
    gmul (c.getD i 0) 2 ^^^ gmul (c.getD ((i + 1) % 4) 0) 3 ^^^ c.getD ((i + 2) % 4) 0 ^^^ c.getD ((i + 3) % 4) 0

/-- The rounds that remain; the last one has no MixColumns. -/
def aesRounds : List (List Byte) → List Byte → List Byte
  | [], s => s
  | [k], s => xorBytes (shiftRows (s.map sbox)) k
  | k :: ks, s => aesRounds ks (xorBytes ((chunks 4 (shiftRows (s.map sbox))).flatMap mixColumn) k)

/-- One block of 16 bytes under the round keys. -/
def aesBlock (keys : List (List Byte)) (b : List Byte) : List Byte :=
  match keys with
  | [] => b
  | k :: ks => aesRounds ks (xorBytes b k)

/-! ### GCM (SP 800-38D) -/

/-- Product in GF(2^128), with the first bit of a block most significant. -/
def ghashMul (x y : Nat) : Nat :=
  ((List.range 128).foldl (fun (zv : Nat × Nat) i =>
    (if x.testBit (127 - i) then zv.1 ^^^ zv.2 else zv.1,
     if zv.2 % 2 = 1 then (zv.2 / 2) ^^^ (0xE1 * 2 ^ 120) else zv.2 / 2)) (0, y)).1

/-- GHASH of whole blocks. -/
def ghash (h : Nat) (bs : List Byte) : Nat :=
  (chunks 16 bs).foldl (fun y b => ghashMul (y ^^^ ofBytesBE b) h) 0

/-- Pad with zeros to a whole block. -/
def padBlock (bs : List Byte) : List Byte := bs ++ List.replicate ((16 - bs.length % 16) % 16) 0

/-- The counter-mode stream over `data`, from counter block 2 of a 12-byte nonce. -/
def gcmStream (keys : List (List Byte)) (nonce data : List Byte) : List Byte :=
  ((chunks 16 data).zipIdx.map fun (b, i) => xorBytes b (aesBlock keys (nonce ++ toBytesBE (i + 2) 4))).flatten

/-- The tag over associated data and ciphertext. -/
def gcmTag (keys : List (List Byte)) (nonce aad ct : List Byte) : List Byte :=
  let h := ofBytesBE (aesBlock keys (List.replicate 16 0))
  let s := ghash h (padBlock aad ++ padBlock ct ++ toBytesBE (8 * aad.length) 8 ++ toBytesBE (8 * ct.length) 8)
  xorBytes (toBytesBE s 16) (aesBlock keys (nonce ++ toBytesBE 1 4))

/-- Seal: ciphertext and tag. -/
def gcmSeal (key nonce aad pt : List Byte) : List Byte × List Byte :=
  let keys := aesKeys key
  let ct := gcmStream keys nonce pt
  (ct, gcmTag keys nonce aad ct)

/-- Open: the plaintext, where the tag verifies. -/
def gcmOpen (key nonce aad ct tag : List Byte) : Option (List Byte) :=
  let keys := aesKeys key
  if gcmTag keys nonce aad ct = tag then some (gcmStream keys nonce ct) else none

/-! ### RSASSA-PSS (PKCS #1 v2.2, R452) -/

/-- b^e mod m by squaring, over `n` bits of e. -/
def powMod (m : Nat) : Nat → Nat → Nat → Nat
  | 0, _, _ => 1 % m
  | n + 1, b, e =>
    let r := powMod m n (b * b % m) (e / 2)
    if e % 2 = 1 then r * b % m else r

/-- MGF1 with SHA-384. -/
def mgf1 (seed : List Byte) (n : Nat) : List Byte :=
  ((List.range ((n + 47) / 48)).flatMap fun i => sha384 (seed ++ toBytesBE i 4)).take n

/-- EMSA-PSS verification of an encoded message of 384 bytes (3,071 bits), with a salt of 48 bytes. -/
def pssCheck (mHash em : List Byte) : Bool :=
  let maskedDb := em.take 335
  let h := (em.drop 335).take 48
  let db0 := xorBytes maskedDb (mgf1 h 335)
  let db := match db0 with
    | [] => []
    | b :: rest => (b &&& 0x7F) :: rest
  em.length == 384 && em.getLast? == some 0xBC && !(em.headD 0).getLsbD 7
    && db.take 286 == List.replicate 286 0 && db.getD 286 0 == 1
    && sha384 (List.replicate 8 0 ++ mHash ++ db.drop 287) == h

/-- RSASSA-PSS with a 3,072-bit modulus, exponent 65,537 and SHA-384; the message is the 48-byte digest's image. -/
def rsaPssVerify (modulus sig : Nat) (mHash : List Byte) : Bool :=
  modulus.log2 == 3071 && sig < modulus && pssCheck mHash (toBytesBE (powMod modulus 17 sig 65537) 384)

/-- DER of a non-negative INTEGER's content. -/
def derInt (v : Nat) : List Byte :=
  let n := v.log2 / 8 + 1
  let bs := toBytesBE v n
  let bs := if (bs.headD 0).getLsbD 7 then 0 :: bs else bs
  0x02 :: (derLen bs.length ++ bs)
where
  /-- DER length octets. -/
  derLen (n : Nat) : List Byte :=
    if n < 128 then [.ofNat 8 n]
    else
      let k := n.log2 / 8 + 1
      .ofNat 8 (128 + k) :: toBytesBE n k

/-- DER of RSAPublicKey (RFC 8017). -/
def rsaPublicKeyDer (modulus : Nat) : List Byte :=
  let body := derInt modulus ++ derInt 65537
  0x30 :: (derInt.derLen body.length ++ body)

end Sys2Proof.Machine
end

