-- ==== Sys2Proof/Machine/Fetch.lean ====
section
/-!
DEFINITION. Sys2Proof/Machine/Fetch.lean: the unit at a program counter: its words (R76, R77, R157), its legality (R66, R67)
and the register quads that it names (R150).
-/
namespace Sys2Proof.Machine

/-! ### Fetching a unit (R76, R77, R157) -/

/-- What fetching a unit gives. -/
inductive Fetched where
  | unit (u : IUnit)
  | illegal (w : Nat)
  | fault (c : Cause) (addr : Word)
deriving DecidableEq, Repr

/-- The word at an address, through the PC capability (R157). A word of a page homed on another chip is a free value (log
entry 28). -/
def State.fetchWord (s : State) (addr : Word) : Except Cause (Nat × State) :=
  match s.accessAt s.cx ⟨s.cx.pcCap, s.cx.pcTag⟩ permX addr { acc := .fetch, n := 4, size := .b32, strong := true } with
  | .error b => .error b.1
  | .ok (.fabric chip page off _, s) =>
    match (if chip = s.pkg.chip then s.fabricPage (s.asidPart s.cx.asid) page off false false else none) with
    | some key => .ok (s.nat key 4, s)
    | none =>
      let (v, s) := s.freeValue
      if chip = s.pkg.chip || s.farRefused chip page then .error .fabric else .ok (v.toNat % 2 ^ 32, s)
  | .ok (t, s) => .ok (ofBytes (s.readTarget {} t 4).1, s)

/-- The words of the unit at an address: how many were fetched, and what they are. `fuel`: a unit has at most three. -/
def State.fetchFrom : Nat → Word → List Nat → State → Nat × Fetched × State
  | 0, addr, ws, s => (ws.length, .fault .illegal addr, s)
  | fuel + 1, addr, ws, s =>
    match s.fetchWord addr with
    | .error c => (ws.length + 1, .fault c addr, s)
    | .ok (w, s) =>
      let ws := ws ++ [w]
      match decodeUnit ws with
      | .done u => (ws.length, .unit u, s)
      | .illegal x => (ws.length, .illegal x, s)
      | .more => State.fetchFrom fuel (addr + 4) ws s

/-- The unit at the program counter. -/
def State.fetchUnit (s : State) : Nat × Fetched × State := State.fetchFrom 3 s.cx.pc [] s

/-- The guard's register counts as a source (R75). -/
def guardRegs : Option Guard → List Nat
  | none => []
  | some g => [g.reg.toNat]

/-- The unit in flight (R76, R77). -/
def unitInfo (pc : Word) (n : Nat) (f : Fetched) : UnitInfo where
  first := pc
  addr := pc + 4 * .ofNat 64 (n - 1)
  words := n
  guard := match f with
    | .unit u => guardRegs u.guard
    | _ => []
  stores := match f with
    | .unit u => instrStores u.instr
    | _ => false

/-! ### The quads that a unit names (R150) -/

/-- The quad of the register that a guard reads. -/
def guardQuads (g : Option Guard) : List (BitVec 4) := (guardRegs g).map fun r => .ofNat 4 (r / 4)

/-- Quads of the registers that a unit names, each once (R150). -/
def unitQuads (u : IUnit) : List (BitVec 4) :=
  let (src, dst) := instrRegs u.instr
  ((guardRegs u.guard ++ src ++ dst).filter (· < 64)).map (fun r => .ofNat 4 (r / 4)) |>.eraseDups

end Sys2Proof.Machine
end

