-- ==== Sys2Proof/Machine/Copy.lean ====
section
/-!
DEFINITION. Sys2Proof/Machine/Copy.lean: the copy unit (R274 to R286, R423, R424) and its tile commands CREPLAY and CABORT
(R306, R307).
-/
namespace Sys2Proof.Machine

/-! ### What a transfer visits (R275 to R280) -/

/-- Bytes of an element (R275). -/
def CopyRegs.elemSize (r : CopyRegs) : Nat := 2 ^ (r.shape.extractLsb' 48 3).toNat
/-- Number of elements of dimension `i` (R275). -/
def CopyRegs.count (r : CopyRegs) (i : Nat) : Nat := (r.shape.extractLsb' (16 * i) 16).toNat + 1
/-- Stride of dimension `i` in a stride register, signed (R276). -/
def copyStride (w : Word) (i : Nat) : Int := (w.extractLsb' (21 * i) 21).toInt
/-- `LIM` of dimension `i` (R277). -/
def CopyRegs.lim (r : CopyRegs) (i : Nat) : Nat := (r.clip.extractLsb' (16 * i) 16).toNat
/-- The source capability. -/
def CopyRegs.srcCap (r : CopyRegs) : Cap := Cap.ofBits r.src.val
/-- The destination capability. -/
def CopyRegs.dstCap (r : CopyRegs) : Cap := Cap.ofBits r.dst.val

/-- The indices that are neither skipped nor outside the clip box, i0 fastest (R277 to R279). -/
def CopyRegs.indices (r : CopyRegs) : List (Nat × Nat × Nat) :=
  (List.range (r.count 2)).flatMap fun i2 => (List.range (r.count 1)).flatMap fun i1 =>
    ((List.range (r.count 0)).filter fun i0 =>
      !r.mode.getLsbD (i0 % 32)
        && !(r.clip.getLsbD 63 && (r.lim 0 < i0 || r.lim 1 < i1 || r.lim 2 < i2))).map fun i0 => (i0, i1, i2)

/-- The exact offset of an element (R279). -/
def elemOffset (base : Word) (stride : Word) (i : Nat × Nat × Nat) : Int :=
  (base.toNat : Int) + i.1 * copyStride stride 0 + i.2.1 * copyStride stride 1 + i.2.2 * copyStride stride 2

/-- `n` bytes at an exact offset lie in a capability's bounds. -/
def Cap.holds (k : Cap) (off : Int) (n : Nat) : Bool := (k.base.toNat : Int) ≤ off && off + n ≤ (k.limit.toNat : Int)

/-- Source and destination offsets of an element. -/
def CopyRegs.offsets (r : CopyRegs) (i : Nat × Nat × Nat) : Int × Int :=
  (elemOffset r.srcCap.offset r.sstride i, elemOffset r.dstCap.offset r.dstride i)

/-- Every visited element lies in its capability's bounds; else the control number of the failing register (R281). -/
def CopyRegs.outOfBounds (r : CopyRegs) : Option Word :=
  let os := r.indices.map r.offsets
  if !os.all fun o => r.srcCap.holds o.1 r.elemSize then some 0x040
  else if !os.all fun o => r.dstCap.holds o.2 r.elemSize then some 0x041
  else none

/-- The elements that are copied, source and destination offset, in order (R279): with `CAPCLIP` those outside either
capability's bounds are clipped too. -/
def CopyRegs.elements (r : CopyRegs) : List (Nat × Nat) :=
  ((r.indices.map r.offsets).filter fun o =>
    !r.mode.getLsbD 32 || (r.srcCap.holds o.1 r.elemSize && r.dstCap.holds o.2 r.elemSize)).map fun o =>
      (o.1.toNat, o.2.toNat)

/-- The distinct destination sectors, rising (R280). -/
def CopyRegs.sectors (r : CopyRegs) : List Nat :=
  (r.elements.flatMap fun o =>
    (List.range ((o.2 + r.elemSize - 1) / 32 + 1 - o.2 / 32)).map fun i => o.2 / 32 + i).foldl
      (fun l k => insertSorted k l) []

/-- The elements with a byte in a sector. -/
def CopyRegs.inSector (r : CopyRegs) (k : Nat) : List (Nat × Nat) :=
  r.elements.filter fun o => o.2 < 32 * k + 32 && 32 * k < o.2 + r.elemSize

/-! ### Starting a transfer (R281, R282) -/

/-- Reserved bits of the copy registers, by control number (R275 to R278). -/
def CopyRegs.reserved (r : CopyRegs) : Option Word :=
  let bad (n : Nat) (v : Word) : Option Word := if v &&& ~~~copyMask n != 0 then some (.ofNat 64 (0x03 + n % 256 * 256)) else none
  bad 0x042 r.shape <|> bad 0x043 r.sstride <|> bad 0x044 r.dstride <|> bad 0x045 r.clip <|> bad 0x047 r.mode
    <|> (if 5 < (r.shape.extractLsb' 48 3).toNat then some 0x4206 else none)

/-- The check of cpy.bar: a failure of the capability is reported with the control number, one of the translation with
the virtual address (R281). -/
def State.copyBarCheck (s : State) (v : RegVal) : Except Bad State :=
  if !v.tag then .ok s
  else
    match s.barTarget s.cx v .write with
    | .ok (_, s) => .ok s
    | .error (c, va) =>
      match c with
      | .pageFault | .pageProt | .rdupWrite | .violation => .error (c, va)
      | c => .error (c, 0x046)

/-- The checks of a read of cpy.go, in their order (R281). -/
def State.copyCheck (s : State) : Except Bad State :=
  let r := s.cx.copy
  match s.handleCheck s.cx.asid r.src permR [0], s.handleCheck s.cx.asid r.dst permW [0] with
  | some c, _ => .error (c, 0x040)
  | none, some c => .error (c, 0x041)
  | none, none =>
    match (if r.mode.getLsbD 32 then none else r.outOfBounds) with
    | some n => .error (.capBounds, n)
    | none =>
      match s.copyBarCheck r.bar with
      | .error b => .error b
      | .ok s =>
        match r.reserved with
        | some v => .error (.enqInvalid, v)
        | none => .ok s

/-- An identifier is taken (R290). -/
def Engine.bumpId (g : Engine) : Engine := { g with next := if g.next = 0xFFFF then 1 else g.next + 1 }

/-- Change a transfer. -/
def State.updXfer (s : State) (e : EngineIx) (id : BitVec 16) (f : Xfer → Xfer) : State :=
  s.updEngine e fun g => { g with xfers := g.xfers.map fun x => if x.id = id then f x else x }

/-- The status of a transfer becomes FAULT_OPERAND, DONE or ABORTED: its record is posted (R286). -/
def State.xferEvent (s : State) (e : EngineIx) (x : Xfer) (code : BitVec 8) : State :=
  if x.regs.mode.getLsbD 33 then s.postUnit (engineCluster e) (unitRecord 2 code x.id x.ctx x.asid) else s

/-- A transfer ends and frees its entry (R282). -/
def State.endXfer (s : State) (e : EngineIx) (x : Xfer) (code cause : BitVec 8) : State :=
  let x := { x with code := code, cause := cause, parked := [] }
  let s := s.updEngine e fun g => { (g.remember x.asid .pkg x.status) with xfers := g.xfers.filter fun y => y.id != x.id }
  s.xferEvent e x code

/-- Nothing is left to try: the transfer is DONE, or FAULT_OPERAND with what it has parked (R285). -/
def State.settleXfer (s : State) (e : EngineIx) (id : BitVec 16) : State :=
  match s.xferOf e id with
  | none => s
  | some x =>
    if !x.todo.isEmpty then s
    else if x.parked.isEmpty then s.endXfer e x 0 0
    else if x.code = 4 then s
    else (s.updXfer e id fun x => { x with code := 4 }).xferEvent e x 4

/-- The copy unit of the current context's cluster accepts its transfer, if an entry is free and no higher core's has been
accepted in this cycle; else the read waits (R282). -/
def State.acceptCopy (s : State) (d : Reg) : State :=
  let e := copyEngine s.cxCluster
  let g := s.engine e
  if 32 ≤ g.xfers.length || g.turnTaken s.cycle s.cx.core then s.block (.cpyGo d)
  else
    let c := s.cx
    let x : Xfer := { id := g.next, asid := c.asid, ctx := c.id, launch := c.launch, core := c.core, regs := c.copy,
                      todo := c.copy.sectors }
    let s := s.updEngine e fun g => { g.bumpId with xfers := g.xfers ++ [x], turn := some (s.cycle, c.core) }
    ((s.setBits d (.ofNat 256 x.id.toNat)).finishWait).settleXfer e x.id

/-- CPY_GO (R281, R282): a read of cpy.go, a release at package scope (R228). -/
def execCpyGo (d : Reg) (s : State) : Out :=
  match s.copyCheck with
  | .error b => .next (s.trapBad b)
  | .ok s => .next ((s.clampScope .pkg).acceptCopy d)

/-- TRANSFER_ACCEPT (R282): the copy unit accepts the waiting read of the slot's context. -/
def execTransferAccept (sl : SlotId) (s : State) : Out :=
  .next (s.withSlot sl fun s =>
    match s.cx.wait with
    | .cpyGo d => s.acceptCopy d
    | _ => s)

/-! ### Sectors (R283 to R285) -/

/-- Read every element of a sector, each at its offset (R279, R284). -/
def readElems (cl : ClusterIx) (a : Asid) (k : Cap) (n : Nat) :
    List (Nat × Nat) → State → Except Bad (List (Nat × List Byte) × State)
  | [], s => .ok ([], s)
  | (so, dof) :: rest, s =>
    match engRead cl a k n so n s with
    | .error b => .error b
    | .ok (bs, s) =>
      match readElems cl a k n rest s with
      | .error b => .error b
      | .ok (es, s) => .ok ((dof, bs) :: es, s)

/-- The bytes of a sector, the later element remaining (R279). -/
def sectorBytes (k : Nat) (es : List (Nat × List Byte)) : List (Option Byte) :=
  (List.range 32).map fun i =>
    es.foldl (fun acc (o, bs) => if o ≤ 32 * k + i ∧ 32 * k + i < o + bs.length then bs[32 * k + i - o]? else acc) none

/-- The runs of bytes present, each with its offset. -/
def byteRuns : Nat → List (Option Byte) → List (Nat × List Byte)
  | _, [] => []
  | o, none :: t => byteRuns (o + 1) t
  | o, some b :: t =>
    match byteRuns (o + 1) t with
    | (o', bs) :: rest => if o' = o + 1 then (o, b :: bs) :: rest else (o, [b]) :: (o', bs) :: rest
    | [] => [(o, [b])]

/-- Write runs of one sector. -/
def writeRuns (cl : ClusterIx) (a : Asid) (k : Cap) :
    List (Nat × List Byte) → List Ev → State → Except Bad (State × List Ev)
  | [], ev, s => .ok (s, ev)
  | (o, bs) :: rest, ev, s =>
    match s.engWriteSector cl a k o bs with
    | .error b => .error b
    | .ok (s, e) => writeRuns cl a k rest (ev ++ e) s

/-- Move one destination sector as one write (R280, R284): the fault says whether it met the write. -/
def State.moveSector (s : State) (cl : ClusterIx) (x : Xfer) (k : Nat) : Except (Bad × Bool) (State × List Ev) :=
  match readElems cl x.asid x.regs.srcCap x.regs.elemSize (x.regs.inSector k) s with
  | .error b => .error (b, false)
  | .ok (es, s) =>
    match writeRuns cl x.asid x.regs.dstCap (byteRuns (32 * k) (sectorBytes k es)) [] s with
    | .error b => .error (b, true)
    | .ok r => .ok r

/-- Update a transfer's barrier; a transfer without one counts nothing (R283). Its page may no longer translate
(R281). -/
def State.xferBar (s : State) (cl : ClusterIx) (x : Xfer) (f : Bar → Bar) : Except Bad State :=
  if !x.regs.bar.tag then .ok s
  else
    match s.barTarget { core := memberCore cl 0, asid := x.asid } x.regs.bar .write with
    | .ok (key, s) => .ok (s.updBar key f)
    | .error b => .error b

/-- Runs of consecutive sectors (R285). -/
def runCount (ks : List Nat) : Nat := ks.countP fun k => k = 0 || !ks.contains (k - 1)

/-- The block or host page of a fault, which one record of a pass covers (R285, R423). -/
def faultBlock (f : XFault) (va : Word) : Nat :=
  match f.host with
  | some addr => 2 * (addr / 4096) + 1
  | none => 2 * (va.toNat / 65536)

/-- Faults that park a sector (R285). -/
def Cause.parkable : Cause → Bool
  | .pageFault | .rdupWrite => true
  | _ => false

/-- Every parkable fault that a sector meets, whether it meets the write, and its block: of each element's read, and of each
write (R285). -/
def State.sectorBads (s : State) (cl : ClusterIx) (x : Xfer) (k : Nat) : List (Nat × Bad × Bool) :=
  let r := x.regs
  let es := r.inSector k
  let reads := es.map fun o => ((engRead cl x.asid r.srcCap r.elemSize o.1 r.elemSize s).map fun _ => (), false)
  let runs := byteRuns (32 * k) (sectorBytes k (es.map fun o => (o.2, List.replicate r.elemSize 0)))
  let writes := runs.map fun w => ((s.engWriteSector cl x.asid r.dstCap w.1 w.2).map fun _ => (), true)
  (reads ++ writes).filterMap fun t => match t with
    | (.error b, wr) =>
      if b.1.parkable then
        some (faultBlock (s.faultInfo cl x.asid b.2 (if wr then .write else .read)) b.2, b, wr)
      else none
    | (.ok _, _) => none

/-- A record for one fault of a transfer (R285, R421). -/
def State.recordFault (s : State) (e : EngineIx) (x : Xfer) (b : Bad) (wr : Bool) : State :=
  let f := s.faultInfo (engineCluster e) x.asid b.2 (if wr then .write else .read)
  s.raiseFault x.asid 2 b.1 wr (b.1 == .pageFault && f.malformed) (if b.1 = .pageFault then f.host else none)
    (x.id.setWidth 32) b.2 .nobody

/-- The records of a sector's fault (R285, R421, R423): for a parkable one, a record for each block in which the sector
faults and this pass has none yet, at the lowest address that faults in the block among the sectors still to be tried. -/
def State.recordSector (s : State) (e : EngineIx) (x : Xfer) (k : Nat) (b : Bad) (wr : Bool) : State :=
  let cl := engineCluster e
  if !b.1.recorded then s
  else if !b.1.parkable then s.recordFault e x b wr
  else
    let mine := (s.sectorBads cl x k).filter fun t => !x.faultPages.contains t.1
    let all := (k :: x.todo).flatMap fun k => s.sectorBads cl x k
    (mine.map (·.1)).eraseDups.foldl (fun s block =>
      let here := all.filter fun t => t.1 == block
      match here with
      | [] => s
      | t :: ts =>
        let low := ts.foldl (fun m u => if u.2.1.2.toNat < m.2.1.2.toNat then u else m) t
        (s.recordFault e x low.2.1 low.2.2).updXfer e x.id fun x => { x with faultPages := block :: x.faultPages }) s

/-- A sector of a transfer faults: it is parked, or it poisons (R285). -/
def State.sectorFault (s : State) (e : EngineIx) (x : Xfer) (k : Nat) (b : Bad) (wr : Bool) : State :=
  let cl := engineCluster e
  let s := if b.1 = .memError then { s with memErr := false } else s
  match s.xferBar cl x Bar.fault with
  | .error b => s.endXfer e x 4 b.1.code
  | .ok s =>
    let s := s.recordSector e x k b wr
    let parked := insertSorted k x.parked
    if b.1.parkable && !x.regs.mode.getLsbD 34 && runCount parked ≤ 64 then
      s.updXfer e x.id fun x => { x with parked := parked, cause := if x.parked.isEmpty then b.1.code else x.cause }
    else
      let s := if b.1 = .violation then
          s.updEngine e fun g => { g with frozen := if g.frozen.contains x.asid then g.frozen else x.asid :: g.frozen }
        else s
      let s := match s.xferBar cl x Bar.poisoned with
        | .ok s => s
        | .error _ => s
      s.endXfer e x 4 b.1.code

/-- Try one sector of a transfer (R283 to R285). -/
def State.trySector (s : State) (e : EngineIx) (id : BitVec 16) (k : Nat) : State :=
  let cl := engineCluster e
  match s.xferOf e id with
  | none => s
  | some x =>
    let x := { x with todo := x.todo.filter (· != k), code := if x.code = 2 then 1 else x.code, started := true }
    let s := s.updXfer e id fun _ => x
    match s.moveSector cl x k with
    | .error (b, wr) => s.sectorFault e x k b wr
    | .ok (s, ev) =>
      let x := { x with written := x.written + 1 }
      let s := (s.updXfer e id fun _ => x).countFor x.ctx ev
      match s.xferBar cl x Bar.decrement with
      | .ok s => s
      | .error b => s.endXfer e x 4 b.1.code

/-- A transfer may be worked on: it has started, or it is the first that has not and fewer than four are under way
(R284). Containment holds the transfers of a frozen ASID (R411, R412). -/
def Engine.xferReady (g : Engine) (x : Xfer) : Bool :=
  !g.frozen.contains x.asid
    && (x.started || ((g.xfers.countP fun y => y.started && !y.todo.isEmpty) < 4
      && (g.xfers.find? fun y => !y.started && !g.frozen.contains y.asid) == some x))

/-- COPY_SECTOR (R284): the copy unit moves one destination sector of a transfer. -/
def execCopySector (cluster : ClusterIx) (xid : BitVec 16) (sector : Nat) (s : State) : Out :=
  let e := copyEngine cluster
  match s.xferOf e xid with
  | none => .next s
  | some x =>
    if !x.todo.contains sector || !(s.engine e).xferReady x then .next s
    else .next ((s.trySector e xid sector).settleXfer e xid)

end Sys2Proof.Machine
end

