-- ==== Sys2Proof/Machine/TileWord.lean ====
section
/-!
DEFINITION. Sys2Proof/Machine/TileWord.lean: the checks that ENQ makes of a tile command word, in the order of R87, and of
its extra registers (R301, R320 to R322, R327, R329, R342, R344, R366 to R371, R376).
-/
namespace Sys2Proof.Machine

/-- Commands (R86). -/
inductive Cmd where
  | nop | mma | mmas | mzero | mlda | msta | mcvt | red | adjb | wrel | creplay | cabort | reshard | rsresume | rsquery
  | bcopy | bfill | trig | tcount
deriving DecidableEq, Repr

/-- The command of a code (R86). -/
def Cmd.ofCode (c : Nat) : Option Cmd :=
  match c with
  | 0x00 => some .nop | 0x10 => some .mma | 0x11 => some .mmas | 0x12 => some .mzero | 0x13 => some .mlda
  | 0x14 => some .msta | 0x15 => some .mcvt | 0x20 => some .red | 0x21 => some .adjb | 0x22 => some .wrel
  | 0x30 => some .creplay | 0x31 => some .cabort | 0x40 => some .reshard | 0x41 => some .rsresume
  | 0x42 => some .rsquery | 0x50 => some .bcopy | 0x51 => some .bfill | 0x52 => some .trig | 0x53 => some .tcount
  | _ => none

/-- The engine that a command runs on (R86). -/
def Cmd.runsOn (c : Cmd) (k : EngineKind) : Bool :=
  match c with
  | .nop => true
  | .mma | .mmas | .mzero | .mlda | .msta | .mcvt | .red | .adjb | .wrel => k == .matrix
  | .creplay | .cabort => k == .copy
  | .reshard | .rsresume | .rsquery => k == .siphon
  | .bcopy | .bfill | .trig | .tcount => k == .bulk || k == .port

/-- Reserved bit ranges of a command's own layout: lowest bit and width (R86, R306, R320 to R376). -/
def Cmd.reserved (c : Cmd) : List (Nat × Nat) :=
  match c with
  | .nop | .mlda | .wrel => [(64, 168), (252, 4)]
  | .mma => [(132, 100), (252, 4)]
  | .mmas => [(154, 78), (252, 4)]
  | .mzero | .msta => [(65, 167), (252, 4)]
  | .mcvt => [(73, 7), (96, 136), (252, 4)]
  | .red => [(71, 1), (77, 3), (164, 68), (252, 4)]
  | .adjb => [(88, 40), (132, 2), (135, 1), (141, 3), (200, 32), (252, 4)]
  | .creplay | .cabort => [(80, 176)]
  | .reshard | .rsresume => [(72, 184)]
  | .rsquery => [(64, 192)]
  | .bcopy => [(100, 4), (112, 16), (192, 64)]
  | .bfill => [(96, 1), (100, 12), (112, 16)]
  | .trig => [(128, 128)]
  | .tcount => [(129, 127)]

/-- A field of a command word. -/
def wf (w : W256) (lo n : Nat) : Nat := bitsOf w.toNat lo n

/-- The lowest set bit of a field, if any. -/
def lowestSet (w : W256) (lo n : Nat) : Option Nat := ((List.range n).find? fun i => w.getLsbD (lo + i)).map (lo + ·)

/-- The first result of a list of optional checks. -/
def firstSome {α : Type} (l : List (Option α)) : Option α := (l.filterMap id).head?

/-- Locators of a command, by their lowest bit, in ascending order (R85). -/
def Cmd.locators (c : Cmd) : List Nat :=
  match c with
  | .mma => [32, 64, 84, 232]
  | .mmas => [32, 64, 84, 132, 232]
  | .red => [32, 144, 232]
  | .nop | .mzero | .mlda | .msta | .mcvt | .adjb | .wrel => [32, 232]
  | .creplay | .cabort | .reshard | .rsresume | .rsquery | .bcopy | .bfill | .trig | .tcount => [32]

/-- Element types by code (R88). -/
def elemOfCode (n : Nat) : Option ElemType := elemTypes[n]?

/-- A type that a matrix operand may have (R321). -/
def isOperand : ElemType → Bool
  | .b1 | .s4 | .s8 | .s16 | .n8 | .n16 | .e2m1 | .e5m2 | .e4m3 | .cx8 | .bf16 | .f16 | .f32 | .f64 => true
  | .s32 | .s64 | .n32 | .n64 => false

/-- The declared planes of an operand: 0 takes the default (R101, R321). -/
def planesOf (t : ElemType) (p : Nat) : Nat := if p = 0 then t.defaultPlanes else p

/-- The refusal of an operand's type or planes (R321). -/
def operandBad (w : W256) (tlo plo : Nat) : List Nat :=
  match elemOfCode (wf w tlo 5) with
  | none => [tlo]
  | some t => if !isOperand t then [tlo] else if t.planesOk (planesOf t (wf w plo 7)) then [] else [plo]

/-- An operand field names an integer type; none where it is no operand type. -/
def operandInt (w : W256) (tlo : Nat) : Option Bool :=
  ((elemOfCode (wf w tlo 5)).filter isOperand).map (·.isInt)

/-- The refusals of MMA and MMAS (R321, R322). -/
def mmaBad (w : W256) : List Nat :=
  let afmt := wf w 128 2
  operandBad w 104 109 ++ operandBad w 116 121
    ++ (if operandInt w 104 = some true ∧ operandInt w 116 = some true ∧ afmt ≠ 2 then [104] else [])
    ++ (if (operandInt w 104 = some false ∨ operandInt w 116 = some false) ∧ afmt = 2 then [104] else [])
    ++ (if afmt = 3 then [128] else []) ++ (if wf w 130 1 = 1 ∧ afmt ≠ 2 then [128] else [])

/-- Element size of a source or gradient type; `ints`: s32 is accepted (R342, R344). -/
def redSize (code : Nat) (ints : Bool) : Option Nat :=
  match code with
  | 0x04 => if ints then some 4 else none
  | 0x0E => some 2
  | 0x10 => some 4
  | 0x11 => some 8
  | _ => none

/-- A pitch or stride that R342 and R344 refuse: nonzero, and below a row or no multiple of the element size. -/
def pitchBad (v es row : Nat) : Bool := v != 0 && (v % es != 0 || v < row)

/-- The refusals of RED (R342), but for those of the CLAMP bounds. -/
def redBad (w : W256) : List Nat :=
  let op := wf w 64 4
  let tie := wf w 68 2
  let axis := wf w 70 1
  let g := wf w 80 8 + 1
  let rows := wf w 88 8 + 1
  let cols := wf w 96 8 + 1
  (if 4 < op then [64] else []) ++ (if tie = 3 then [68] else []) ++ (if tie ≠ 0 ∧ 1 < op then [64] else [])
    ++ (if op = 2 ∧ (g ≠ 1 ∨ axis ≠ 0) then [64] else [])
    ++ (if (if axis = 0 then rows else cols) % g ≠ 0 then [70] else [])
    ++ (match redSize (wf w 72 5) true with
      | none => [72]
      | some es =>
        let row := (if axis = 0 then cols else cols / g) * es
        (if pitchBad (wf w 104 8) es es then [104] else []) ++ (if pitchBad (wf w 112 16) es 0 then [112] else [])
          ++ (if pitchBad (wf w 128 16) es row then [128] else []))

/-- The refusals of ADJB (R344). -/
def adjbBad (w : W256) : List Nat :=
  let op := wf w 128 4
  let axis := wf w 134 1
  let g := wf w 144 8 + 1
  let rows := wf w 152 8 + 1
  let cols := wf w 160 8 + 1
  (if 4 < op then [128] else []) ++ (if op = 2 ∧ (g ≠ 1 ∨ axis ≠ 0) then [128] else [])
    ++ (if (if axis = 0 then rows else cols) % g ≠ 0 then [134] else [])
    ++ (match redSize (wf w 136 5) false with
      | none => [136]
      | some es =>
        let row := (if axis = 0 then cols else cols / g) * es
        (if pitchBad (wf w 168 16) es row then [168] else []) ++ (if pitchBad (wf w 184 16) es (cols * es) then [184] else []))

/-- Bytes of one converted row of MCVT (R329). -/
def mcvtRow (t : ElemType) : Nat := 8 * t.bits

/-- The refusals of MCVT (R329). -/
def mcvtBad (w : W256) : List Nat :=
  (match (if wf w 64 5 = 0 then none else elemOfCode (wf w 64 5)) with
    | none => [64]
    | some t => if pitchBad (wf w 80 16) 32 (mcvtRow t) then [80] else [])
    ++ (if wf w 69 2 = 3 then [69] else [])

/-- The fields whose values the command refuses, by their lowest bits (reason 0x06 of R87). A nonzero `CLOC` without
`ARRIVE` is reported as `CLOC` (DEDUCED, as reason 0x04 reports `WLOC`; log
entry 38). -/
def Cmd.refused (c : Cmd) (k : EngineKind) (w : W256) : List Nat :=
  let plain := k == .bulk || k == .port || k == .siphon
  (if plain && wf w 8 1 != 0 then [8] else []) ++ (if plain && wf w 10 1 != 0 then [10] else [])
    ++ (if (plain || c == .creplay || c == .cabort || c == .nop) && wf w 12 4 != 0 then [12] else [])
    ++ (if c.locators.contains 232 && wf w 232 20 != 0 && wf w 10 1 == 0 then [232] else [])
    ++ (match c with
      | .mma | .mmas => mmaBad w
      | .mcvt => mcvtBad w
      | .red => redBad w
      | .adjb => adjbBad w
      | .bcopy | .bfill => (if wf w 64 32 = 0 then [64] else []) ++ (if wf w 128 64 % 8 ≠ 0 then [128] else [])
      | .nop | .mzero | .mlda | .msta | .wrel | .creplay | .cabort | .reshard | .rsresume | .rsquery | .trig | .tcount => [])

/-- The reason word of ENQ_INVALID: reason and bit number (R87). -/
def reasonWord (reason bit : Nat) : Word := .ofNat 64 (reason + bit * 256)

/-- The checks of a word by itself, in the order of R87. -/
def wordBad (k : EngineKind) (w : W256) : Option Word :=
  match Cmd.ofCode (wf w 0 8) with
  | none => some (reasonWord 0x01 0)
  | some c =>
    if !c.runsOn k then some (reasonWord 0x02 0)
    else
      match firstSome (((11, 1) :: (56, 8) :: c.reserved).map fun r => lowestSet w r.1 r.2) with
      | some b => some (reasonWord 0x03 b)
      | none =>
        match (if wf w 8 1 = 0 then lowestSet w 32 24 else none) with
        | some b => some (reasonWord 0x04 b)
        | none =>
          match c.locators.find? fun lo => 98304 ≤ wf w lo 17 with
          | some lo => some (reasonWord 0x05 lo)
          | none =>
            match c.refused k w with
            | [] => none
            | b :: bs => some (reasonWord 0x06 (bs.foldl Nat.min b))

/-! ### Extra registers (R301) -/

/-- An extra register: a capability with the rights it needs, a key register, or plain bits. -/
inductive ExtraKind where
  | cap (need : BitVec 12)
  | key
  | plain
deriving DecidableEq, Repr

/-- The extra registers of a word, in order (R327, R329, R342, R344, R370, R371, R373, R376). -/
def extras (w : W256) : List ExtraKind :=
  let bit (i : Nat) : Bool := w.getLsbD i
  match Cmd.ofCode (wf w 0 8) with
  | some .mlda => [.cap permR]
  | some .msta | some .mcvt => [.cap permW]
  | some .red => [.cap permR, .cap permW] ++ (if wf w 64 4 = 2 then [.plain] else [])
  | some .adjb => [.cap permR, .cap (permR ||| permW)]
  | some .reshard | some .rsresume => [.cap permR, .cap permR, .cap (permR ||| permW)]
  | some .rsquery => [.cap (permR ||| permW)]
  | some .bcopy =>
    [if bit 96 then .key else .cap permR,
      if bit 97 then .key else .cap (if bit 98 then permW ||| permA else permW)] ++ (if bit 99 then [.cap permW] else [])
  | some .bfill =>
    [if bit 97 then .key else .cap (if bit 98 then permW ||| permA else permW)] ++ (if bit 99 then [.cap permW] else [])
  | some .trig => [.cap permA, .cap permR]
  | some .tcount => [if bit 128 then .key else .cap permA]
  | some .nop | some .mma | some .mmas | some .mzero | some .wrel | some .creplay | some .cabort | none => []

/-- Tag, seal, permission and generation of the extra capabilities (R301): the first that fails, with its index. -/
def State.extrasBad (s : State) (a : Asid) : List ExtraKind → List RegVal → Nat → Option (Cause × Nat)
  | .cap need :: ks, v :: vs, i =>
    let k := Cap.ofBits v.val
    if !v.tag then some (.capTag, i)
    else if k.sealed_ then some (.capSealed, i)
    else if !k.has need then some (.capPerm, i)
    else if (s.openNode a k.handle k.gen).isNone then some (.capStale, i)
    else s.extrasBad a ks vs (i + 1)
  | _ :: ks, _ :: vs, i => s.extrasBad a ks vs (i + 1)
  | _, _, _ => none

/-- Fields of a key register (R366). -/
structure Key where
  handle : BitVec 24
  gen : BitVec 24
  tag : BitVec 16
  chip : ChipIx
  off : Nat
  /-- the whole register -/
  bits : W256
deriving DecidableEq, Repr

/-- The fields of a key register. -/
def Key.ofBits (v : W256) : Key :=
  ⟨v.extractLsb' 0 24, v.extractLsb' 24 24, v.extractLsb' 48 16, v.extractLsb' 64 8, (v.extractLsb' 128 64).toNat, v⟩

/-- A key register that ENQ refuses: a reserved bit, or a chip that the partition's chip table does not hold (R368). This
chip is in its own partition. -/
def State.keyBad (s : State) (v : W256) : Bool :=
  v.extractLsb' 72 56 != 0 || v.extractLsb' 192 64 != 0
    || !((Key.ofBits v).chip == s.pkg.chip || s.chips.any fun c => c.2 == (Key.ofBits v).chip)

/-- The CLAMP bounds of RED: a NaN, or lo above hi (R342). -/
def clampBad (w : W256) (v : W256) : Bool :=
  match (elemOfCode (wf w 72 5)).bind fun t => (redSize (wf w 72 5) true).map fun es => (t, es) with
  | none => false
  | some (t, es) =>
    let lo := t.decode (wf v 0 (8 * es))
    let hi := t.decode (wf v 64 (8 * es))
    lo.isNan || hi.isNan || hi.lt lo || (hi.isZero && lo.isZero && hi.neg? && !lo.neg?)

/-- The refusals of a word that rest on its extra registers (R342, R368, R370). -/
def State.wordExtraBad (s : State) (a : Asid) (w : W256) (vs : List RegVal) : Option Word :=
  let keys := ((extras w).zip vs).any fun (k, v) => k == .key && s.keyBad v.val
  match Cmd.ofCode (wf w 0 8) with
  | some .red => if wf w 64 4 = 2 && clampBad w (vs.getD 2 {}).val then some (reasonWord 0x06 0) else none
  | some .bcopy =>
    if keys then some (reasonWord 0x06 0)
    else if wf w 104 8 = 0 then none
    else
      match s.handleBase a (Cap.ofBits (vs.getD 1 {}).val) with
      | some (.raw ..) => if wf w 97 1 = 0 then none else some (reasonWord 0x06 104)
      | _ => some (reasonWord 0x06 104)
  | _ => if keys then some (reasonWord 0x06 0) else none

/-- Bytes from an operand's offset that a rows x cols tile spans (R342). -/
def footprint (rows cols pitch stride es : Nat) : Nat :=
  (rows - 1) * (if pitch = 0 then cols * stride else pitch) + (cols - 1) * stride + es

/-- What a command's entry asks of its extra capabilities: index, node kind, bytes from `OFFSET`, alignment (R327, R329,
R342, R344, R368, R370, R371, R373, R376). -/
def extraRules (w : W256) : List (Nat × BitVec 3 × Nat × Nat) :=
  let bit (i : Nat) : Bool := w.getLsbD i
  match Cmd.ofCode (wf w 0 8) with
  | some .mlda | some .msta => [(0, 0, 32768, 32)]
  | some .mcvt =>
    match elemOfCode (wf w 64 5) with
    | none => []
    | some t =>
      let rb := mcvtRow t
      [(0, 0, 63 * (if wf w 80 16 = 0 then rb else wf w 80 16) + rb, 32)]
  | some .red =>
    match redSize (wf w 72 5) true with
    | none => []
    | some es =>
      let g := wf w 80 8 + 1
      let rows := wf w 88 8 + 1
      let cols := wf w 96 8 + 1
      let stride := if wf w 104 8 = 0 then es else wf w 104 8
      let (orows, ocols) := if wf w 70 1 = 0 then (rows / g, cols) else (rows, cols / g)
      [(0, 0, footprint rows cols (wf w 112 16) stride es, es), (1, 0, footprint orows ocols (wf w 128 16) es es, es)]
  | some .adjb =>
    match redSize (wf w 136 5) false with
    | none => []
    | some es =>
      let g := wf w 144 8 + 1
      let rows := wf w 152 8 + 1
      let cols := wf w 160 8 + 1
      let (orows, ocols) := if wf w 134 1 = 0 then (rows / g, cols) else (rows, cols / g)
      [(0, 0, footprint orows ocols (wf w 168 16) es es, es), (1, 0, footprint rows cols (wf w 184 16) es es, es)]
  | some .reshard | some .rsresume =>
    [(0, 0, 256, 32), (1, 0, 256, 32), (2, 0, 64 + 16 * (wf w 64 8 + 1), 64)]
  | some .rsquery => [(0, 0, 64, 64)]
  | some .bcopy =>
    (if bit 96 then [] else [(0, 0, wf w 64 32, 1)])
      ++ (if bit 97 then [] else [(1, 0, wf w 64 32, 1)]) ++ (if bit 99 then [(2, 1, 0, 1)] else [])
  | some .bfill =>
    (if bit 97 then [] else [(0, 0, wf w 64 32, 1)]) ++ (if bit 99 then [(1, 1, 0, 1)] else [])
  | some .trig => [(0, 0, 8, 8), (1, 0, 128, 32)]
  | some .tcount => if bit 128 then [] else [(0, 0, 8, 8)]
  | some .nop | some .mma | some .mmas | some .mzero | some .wrel | some .creplay | some .cabort | none => []

/-- The first rule that an extra capability fails: kind, bounds, alignment, in this order for each (R327, R342). -/
def extraRuleBad (vs : List RegVal) : List (Nat × BitVec 3 × Nat × Nat) → Option (Cause × Nat)
  | [] => none
  | (i, kind, n, al) :: rest =>
    let k := Cap.ofBits (vs.getD i {}).val
    if k.kind != kind then some (.capPerm, i)
    else if n != 0 && !(k.base.toNat ≤ k.offset.toNat && k.offset.toNat + n ≤ k.limit.toNat) then some (.capBounds, i)
    else if k.offset.toNat % al != 0 then some (.align, i)
    else extraRuleBad vs rest

/-- Every check of a word and its extra registers, in the order of R87: the cause, and trap.val, which for an extra
capability is given by its index (log entry 38). -/
def State.commandBad (s : State) (a : Asid) (k : EngineKind) (w : W256) (vs : List RegVal) (at_ : Nat → Word) :
    Option Bad :=
  match s.extrasBad a (extras w) vs 0 with
  | some (c, i) => some (c, at_ i)
  | none =>
    match wordBad k w with
    | some v => some (.enqInvalid, v)
    | none =>
      match s.wordExtraBad a w vs with
      | some v => some (.enqInvalid, v)
      | none => (extraRuleBad vs (extraRules w)).map fun (c, i) => (c, at_ i)

end Sys2Proof.Machine
end

