-- ==== Sys2Proof/Machine/Eng.lean ====
section
/-!
DEFINITION. Sys2Proof/Machine/Eng.lean: the ENG class (R300 to R305) and the steps that end its waits: job completion,
JWAIT's return, ASWAP's exchange.
-/
namespace Sys2Proof.Machine

/-- Entries of an engine's queue (R290, R367, R376). -/
def EngineKind.depth : EngineKind → Nat
  | .matrix => 64 | .copy => 16 | .bulk => 64 | .port => 256 | .siphon => 8

/-- The engine of a checked engine capability. -/
def State.targetEngine (s : State) (r : Reg) : EngineIx :=
  let k := s.cap r
  match (s.openNode s.cx.asid k.handle k.gen).map Node.body with
  | some (.engine e) => e
  | _ => 0

/-- An ENG form on its checked engine (R300). -/
def State.eng (s : State) (a : Reg) (f : EngineIx → State) : Out :=
  s.withHandle a permE [2] (f (s.targetEngine a))

/-! ### TRIG's operands (R370, R371) -/

/-- Where bytes of a capability lie, which R370 and R371 require to be local DRAM. -/
def State.dramKey (s : State) (cl : ClusterIx) (a : Asid) (k : Cap) (acc : Acc) (off n : Nat) : Except Bad (Nat × State) :=
  match s.engReach cl a k acc off n with
  | .error b => .error b
  | .ok (.bytes key _, s) => if inDram key then .ok (key, s) else .error (.capPerm, .ofNat 64 off)
  | .ok (_, _) => .error (.capPerm, .ofNat 64 off)

/-- The four granules of a command block, tags included. -/
def State.readBlock (s : State) (cl : ClusterIx) (a : Asid) (k : Cap) : List Nat → Except Bad (List RegVal × State)
  | [] => .ok ([], s)
  | i :: is =>
    match s.dramKey cl a k .read (k.offset.toNat + 32 * i) 32 with
    | .error b => .error b
    | .ok (key, s) =>
      match s.readBlock cl a k is with
      | .error b => .error b
      | .ok (vs, s) => .ok (⟨.ofNat 256 (s.nat key 32), s.tagAt key⟩ :: vs, s)

/-- The checks that ENQ makes of a TRIG's block, and its copy of the inner command (R371; log entry 59). -/
def State.trigInner (s : State) (e : EngineIx) (vs : List RegVal) : Except Bad ((W256 × List RegVal) × State) :=
  let cl := s.cxCluster
  let a := s.cx.asid
  let counter := Cap.ofBits (vs.getD 0 {}).val
  match s.dramKey cl a counter .read counter.offset.toNat 8 with
  | .error b => .error b
  | .ok (_, s) =>
    match s.readBlock cl a (Cap.ofBits (vs.getD 1 {}).val) [0, 1, 2, 3] with
    | .error b => .error b
    | .ok (gs, s) =>
      let w := (gs.getD 0 {}).val
      let xs := (gs.drop 1).take (extras w).length
      let bad : Bad := (.enqInvalid, reasonWord 0x06 0)
      match Cmd.ofCode (wf w 0 8) with
      | some .bcopy | some .bfill | some .tcount =>
        match s.commandBad a (engineKind e) w xs fun i => .ofNat 64 (32 * (i + 1)) with
        | some (.enqInvalid, _) => .error bad
        | some b => .error b
        | none => .ok ((w, xs), s)
      | _ => .error bad

/-! ### ENQ (R301) -/

/-- The engine has a free entry; and for a TRIG, fewer than 256 are armed (R290, R367, R371). -/
def State.engineRoom (s : State) (e : EngineIx) (trig : Bool) : Bool :=
  let js := (s.engine e).jobs
  js.length < (engineKind e).depth && !(trig && 256 ≤ js.countP fun j => j.inner.isSome && !j.fired)

/-- The tiles whose visible banks a RED or ADJB on this cluster's engine reads through /acc (R348). -/
def State.accReads (s : State) (e : EngineIx) (w : W256) (caps : List RegVal) : List (BitVec 4) :=
  if wf w 0 8 = 0x20 ∨ wf w 0 8 = 0x21 then
    (caps.take 2).filterMap fun v => match s.handleBase s.cx.asid (Cap.ofBits v.val) with
      | some (.acc cl tile) => if cl = engineCluster e then some tile else none
      | _ => none
  else []

/-- Accept a job (R290, R301): it is the newest of its engine, of its queue pair and of the package. -/
def State.acceptJob (s : State) (e : EngineIx) (w : W256) (caps : List RegVal) (inner : Option (W256 × List RegVal)) :
    BitVec 16 × State :=
  let c := s.cx
  let g := s.engine e
  let j : Job := { id := g.next, word := w, caps := caps, asid := c.asid, ctx := c.id, launch := c.launch,
                   cluster := s.cxCluster, inner := inner, seq := s.accepts, reads := s.accReads e w caps
                   scope := if engineKind e = .siphon then .ten else .pkg }
  (g.next, State.updEngine { s with accepts := s.accepts + 1 } e fun g =>
    { (g.bumpId.updPair c.asid fun p => { p with tail := p.tail + 1 }) with
      jobs := g.jobs ++ [j], last := (c.asid, g.next) :: g.last.filter fun p => p.1 != c.asid
      turn := some (s.cycle, c.core) })

/-- The inner command of an ENQ: the copy that a waiting TRIG holds, else what its block holds now (R371). -/
def State.enqInner (s : State) (e : EngineIx) (w : W256) (caps : List RegVal) (kept : Option (W256 × List RegVal)) :
    Except Bad (Option (W256 × List RegVal) × State) :=
  if wf w 0 8 != 0x52 then .ok (none, s)
  else
    match kept with
    | some i => .ok (some i, s)
    | none => (s.trigInner e caps).map fun (i, s) => (some i, s)

/-- ENQ past its handle check (R301): a full queue delays it, and so does a higher core's ENQ accepted in this cycle (R23).
`kept` is what it read of a TRIG's block before it waited. -/
def State.enqueue (s : State) (e : EngineIx) (la : BitVec 4) (d a b : Reg) (kept : Option (W256 × List RegVal)) : State :=
  let w := s.bits b
  let n := (extras w).length
  if 63 < b.toNat + n then s.takeTrap .enqInvalid (reasonWord 0x06 0)
  else
    let caps := (List.range n).map fun i => s.reg (.ofNat 6 (b.toNat + 1 + i))
    match s.commandBad s.cx.asid (engineKind e) w caps fun i => (Cap.ofBits (caps.getD i {}).val).offset with
    | some bad => s.trapBad bad
    | none =>
      match s.enqInner e w caps kept with
      | .error bad => s.trapBad bad
      | .ok (inner, s) =>
        if !s.engineRoom e (wf w 0 8 == 0x52) || (s.engine e).turnTaken s.cycle s.cx.core then
          s.block (.enq la d a b inner)
        else
          let (id, s) := (s.clampScope .pkg).acceptJob e w caps inner
          ((s.setBits d (id.setWidth 256)).windowDone (.enq la d a b) la).finishWait

/-- ENQ (R301). -/
def execEnq (la : BitVec 4) (d a b : Reg) (s : State) : Out := s.eng a fun e => s.enqueue e la d a b none

/-! ### JWAIT, JTEST, JSTAT, JCANCEL (R302, R303, R305) -/

/-- A status word reaches `d`; DONE is an acquire (R302, R368, R380). -/
def State.takeStatus (s : State) (e : EngineIx) (d : Reg) (w : W256) : State :=
  let scope := (((s.engine e).pastOf s.cx.asid (statusId w)).map fun p => p.2.1).getD .pkg
  (if statusCode w = 0 then s.clampScope scope else s).setBits d w

/-- The status of a job of the current ASID. -/
def State.jobStatus (s : State) (e : EngineIx) (b : Reg) : W256 :=
  (s.engine e).statusOf s.cx.asid ((s.bits b).setWidth 16)

/-- JWAIT past its check (R302). -/
def State.jwait (s : State) (e : EngineIx) (d a b : Reg) : State :=
  let w := s.jobStatus e b
  if statusCode w = 1 ∨ statusCode w = 2 then s.block (.job d a b) else (s.takeStatus e d w).finishWait

/-- JWAIT (R302). -/
def execJwait (d a b : Reg) (s : State) : Out := s.eng a fun e => s.jwait e d a b

/-- JWAIT_RETURN (R302): the waiting JWAIT of the slot's context looks at its job again. -/
def execJwaitReturn (sl : SlotId) (s : State) : Out :=
  .next (s.withSlot sl fun s =>
    match s.cx.wait with
    | .job d a b =>
      match s.handleCheck s.cx.asid (s.reg a) permE [2] with
      | some c => s.takeTrap c (a.setWidth 64)
      | none => s.jwait (s.targetEngine a) d a b
    | _ => s)

/-- JTEST (R302). -/
def execJtest (la : BitVec 4) (d a b : Reg) (s : State) : Out :=
  s.eng a fun e => ((s.takeStatus e d (s.jobStatus e b)).windowDone (.jtest la d a b) la).advance

/-- A count in a field of 8 bits; the manual gives no value for a count above 255, which a port can reach: a free
value (log entry 10). -/
def State.count8 (s : State) (n : Nat) : BitVec 8 × State :=
  if n < 256 then (.ofNat 8 n, s) else let (v, s) := s.freeValue; (v.setWidth 8, s)

/-- JSTAT (R303; log entry 59). -/
def execJstat (la : BitVec 4) (d a : Reg) (s : State) : Out :=
  s.eng a fun e =>
    let g := s.engine e
    let last := (g.last.lookup s.cx.asid).getD 0
    let (mine, s) := s.count8 (g.jobs.countP fun j => j.asid == s.cx.asid)
    let (free, s) := s.count8 ((engineKind e).depth - g.jobs.length)
    ((s.setBits d ((free ++ mine ++ last).setWidth 256)).windowDone (.jstat la d a) la).advance

/-- JCANCEL of an identifier: a queued job, or a transfer that has not started, becomes ABORTED (R305). -/
def State.cancel (s : State) (e : EngineIx) (id : BitVec 16) : State :=
  match (s.jobOf e id).filter fun j => j.asid == s.cx.asid, (s.xferOf e id).filter fun x => x.asid == s.cx.asid with
  | some j, _ =>
    if j.stage = .queued then s.completeJob e { j with code := 6 } else s
  | none, some x =>
    if x.started then s
    else
      let s := match s.xferBar (engineCluster e) x Bar.poisoned with
        | .ok s => s
        | .error _ => s
      s.endXfer e x 6 0
  | none, none => s

/-- JCANCEL (R305). -/
def execJcancel (la : BitVec 4) (d a b : Reg) (s : State) : Out :=
  s.eng a fun e =>
    let s := s.cancel e ((s.bits b).setWidth 16)
    ((s.setBits d (s.jobStatus e b)).windowDone (.jcancel la d a b) la).advance

/-- JOB_COMPLETION (R292): a job whose work has ended reaches its final status. -/
def execJobCompletion (e : EngineIx) (id : BitVec 16) (s : State) : Out :=
  match s.jobOf e id with
  | some j => .next (if j.stage = .ended then s.completeJob e j else s)
  | none => .next s

/-! ### ASWAP (R304, R313) -/

/-- Loads through /acc that have issued have their values before the bank that they read is exchanged (R304, R314, R331). -/
def State.settleAcc (s : State) (key : Nat) : State :=
  let hits (p : Pending) : Bool := p.reads.any fun (t, n) => t.meets n (.bytes key false) 32768
  ((s.allCtxs.filter fun c => c.pend.any hits).map Ctx.id).foldl (fun s id => s.asCtx id fun s =>
    (List.range s.cx.pend.length).foldl (fun s i => if s.cx.pend[i]?.any hits then s.resolvePend i else s) s) s

/-- The banks of a tile are exchanged, where the tile is the ASID's; the status names the last job waited for (R304,
R313). -/
def State.exchangeBanks (s : State) (cl : ClusterIx) (a : Asid) (tile : BitVec 4) (last : BitVec 16) : W256 × State :=
  if s.ownsTile cl tile.toNat a then
    let s := s.settleAcc (Place.acc cl tile (s.visibleBank cl tile.toNat) 0).key
    (Status.word { code := 0, id := last },
      s.updCluster cl fun k => { k with visible := k.visible ^^^ (1#16 <<< tile.toNat) })
  else (Status.word { code := 4, cause := Cause.capPerm.code, id := last }, s)

/-- The current context's ASWAP ends: an acquire at cluster scope. -/
def State.aswapEnd (s : State) (la : BitVec 4) (d a b : Reg) (w : W256) : State :=
  (((s.clampScope .clu).setBits d w).windowDone (.aswap la d a b) la).finishWait

/-- ASWAP (R304): it takes its place among the engine's jobs, and waits for those of the tile. -/
def execAswap (la : BitVec 4) (d a b : Reg) (s : State) : Out :=
  s.eng a fun e =>
    let tile : BitVec 4 := (s.bits b).setWidth 4
    if engineKind e ≠ .matrix then s.takeTrap .capPerm (a.setWidth 64)
    else
      let g := s.engine e
      let waits := (g.jobs.filter fun j => j.usesTile tile).map (·.id)
      if waits.isEmpty && !(g.swaps.any fun w => w.tile == tile) then
        let (w, s) := s.exchangeBanks (engineCluster e) s.cx.asid tile 0
        s.aswapEnd la d a b w
      else
        let w : Swap := { ctx := s.cx.id, asid := s.cx.asid, tile := tile, waits := waits
                          last := waits.getLastD 0, ahead := g.jobs.map (·.id) }
        (s.updEngine e fun g => { g with swaps := g.swaps ++ [w] }).block (.aswap la d a b)

/-- A waiting ASWAP is still its context's: the context waits in it (R82, R383). -/
def State.swapLive (s : State) (w : Swap) : Bool :=
  (s.getCtx w.ctx).any fun c => match c.wait with
    | .aswap .. => true
    | _ => false

/-- The waiting ASWAPs that their contexts still wait in. -/
def State.liveSwaps (s : State) (e : EngineIx) : List Swap := (s.engine e).swaps.filter s.swapLive

/-- Every job that a waiting ASWAP waits for has completed, and no earlier ASWAP of its tile waits. -/
def State.swapReady (s : State) (e : EngineIx) (w : Swap) : Bool :=
  w.waits.all (fun id => (s.jobOf e id).isNone)
    && ((s.liveSwaps e).find? fun x => x.tile == w.tile) == some w

/-- ASWAP_EXCHANGE (R304): the oldest waiting ASWAP of a cluster's engine that can exchange does. -/
def execAswapExchange (cluster : ClusterIx) (s : State) : Out :=
  let e : EngineIx := cluster.setWidth 8
  let s := s.updEngine e fun g => { g with swaps := s.liveSwaps e }
  match (s.engine e).swaps.find? (s.swapReady e) with
  | none => .next s
  | some w =>
    let s := s.updEngine e fun g => { g with swaps := g.swaps.erase w }
    .next (s.asCtx w.ctx fun s =>
      match s.cx.wait with
      | .aswap la d a b =>
        let (v, s) := s.exchangeBanks cluster w.asid w.tile w.last
        s.aswapEnd la d a b v
      | _ => s)

end Sys2Proof.Machine
end

