-- ==== Sys2Proof/Machine/Save.lean ====
section
/-!
DEFINITION. Sys2Proof/Machine/Save.lean: images and the save engine (R394 to R399, R427), pre-emption requests (R153,
R393, R426), PHINT, SAVE and RESUME (R404 to R406).
-/
namespace Sys2Proof.Machine

/-! ### Images (R395, R396) -/

/-- Fields of an image's header (R395). -/
structure ImageHead where
  cnt : Word
  ctx : BitVec 32
  core : CoreIx
  chip : ChipIx
  prot : Bool
  full : Bool
  res : BitVec 13
  live : Word
  tags : Word
  ranges : W256
deriving DecidableEq, Repr

/-- The 64 bytes of a header (R395). -/
def ImageHead.toBits (h : ImageHead) : BitVec 512 :=
  h.ranges ++ h.tags ++ h.live ++ h.res ++ BitVec.ofBool h.full ++ BitVec.ofBool h.prot ++ h.chip ++ h.core ++ h.ctx
    ++ h.cnt

/-- The fields of a header (R395). -/
def ImageHead.ofBits (v : BitVec 512) : ImageHead where
  cnt := v.extractLsb' 0 64
  ctx := v.extractLsb' 64 32
  core := v.extractLsb' 96 9
  chip := v.extractLsb' 105 8
  prot := v.getLsbD 113
  full := v.getLsbD 114
  res := v.extractLsb' 115 13
  live := v.extractLsb' 128 64
  tags := v.extractLsb' 192 64
  ranges := v.extractLsb' 256 256

/-- The four ranges: offset and length (R395). -/
def imageRanges (v : W256) : List (Nat × Nat) :=
  (List.range 4).map fun i => ((v.extractLsb' (64 * i) 32).toNat, (v.extractLsb' (64 * i + 32) 32).toNat)

/-- The registers of a bitmap, rising. -/
def liveRegs (live : Word) : List Reg := (List.range 64).filterMap fun i => if live.getLsbD i then some (.ofNat 6 i) else none

/-- Bytes of an image's registers and ranges. -/
def ImageHead.bodySize (h : ImageHead) : Nat :=
  32 * (liveRegs h.live).length + ((imageRanges h.ranges).map (·.2)).sum

/-- Bytes of an image (R395). -/
def ImageHead.size (h : ImageHead) : Nat := 64 + h.bodySize + (if h.prot then 16 else 0)

/-- Bytes of the allotment that a context's launch holds on a core (R53). -/
def State.allotSize (s : State) (c : Ctx) (core : CoreIx) : Nat := ((s.allotment c.launch core).map (·.size)).getD 0

/-- A range lies in the allotment on a core, or in the carve-out where bit 31 of its offset is set; the other 31 bits
are then the offset in the carve-out (R395, R397, R404; the reading of bit 31 is DEDUCED, log entry 14). -/
def State.rangeOk (s : State) (c : Ctx) (core : CoreIx) (r : Nat × Nat) : Bool :=
  if r.1 < 2 ^ 31 then r.1 + r.2 ≤ s.allotSize c core else r.1 - 2 ^ 31 + r.2 ≤ c.stackSize

/-- Where a range's first byte lies. -/
def State.rangeKey (s : State) (c : Ctx) (core : CoreIx) (off : Nat) : Nat :=
  if off < 2 ^ 31 then (Place.spad core (((s.allotment c.launch core).map (·.base)).getD 0 + off)).key
  else (Place.spad c.stackCore (c.stackBase + (off - 2 ^ 31))).key

/-- The ranges of a full save: the allotment, and the carve-out while the context holds it (R393). -/
def State.fullRanges (s : State) (c : Ctx) : W256 :=
  .ofNat 256 (s.allotSize c c.core * 2 ^ 32
    + (if c.stackHeld then (2 ^ 31 + c.stackSize * 2 ^ 32) * 2 ^ 64 else 0))

/-- The header of a context's next image (R395, R397, R398). -/
def State.imageHead (s : State) (c : Ctx) (full : Bool) : ImageHead where
  cnt := c.saveCnt + 1
  ctx := c.id
  core := c.core
  chip := s.pkg.chip
  prot := c.protected_
  full := full
  res := 0
  live := if full then .allOnes 64 else c.save.live
  tags := c.tagWord
  ranges := if full then s.fullRanges c else c.save.ranges

/-- The key of a context's images: none where its key slot holds none (R396). -/
def State.imageKey (s : State) (c : Ctx) : Option (List Byte) :=
  (s.keys.lookup c.keySlot.toNat).map fun k => contextKey (toBytes k.toNat 32) c.asid c.id

/-- The nonce of an image (R396). -/
def imageNonce (h : ImageHead) : List Byte := toBytes h.cnt.toNat 8 ++ toBytes h.ctx.toNat 4

/-- The registers and ranges of an image (R395). -/
def State.imageBody (s : State) (c : Ctx) (h : ImageHead) : List Byte :=
  (liveRegs h.live).flatMap (fun r => toBytes (c.reg r).val.toNat 32)
    ++ (imageRanges h.ranges).flatMap fun r => s.bytes (s.rangeKey c h.core r.1) r.2

/-- The bytes of an image, sealed where the context is protected (R395, R396). -/
def State.imageBytes (s : State) (c : Ctx) (full : Bool) : List Byte :=
  let h := s.imageHead c full
  let head := toBytes h.toBits.toNat 64
  let body := s.imageBody c h
  if h.prot then
    let (ct, tag) := gcmSeal ((s.imageKey c).getD []) (imageNonce h) head body
    head ++ ct ++ tag
  else head ++ body

/-- A context needs a key and its key slot holds none (R393, R397). -/
def State.keyMissing (s : State) (c : Ctx) : Bool := c.protected_ && (s.imageKey c).isNone

/-! ### The save engine (R397 to R399, R427) -/

/-- Faults that the driver may service (R399). -/
def Cause.serviceable : Cause → Bool
  | .pageFault | .pageProt | .rdupWrite | .violation => true
  | _ => false

/-- What writing an image ends in. -/
inductive SaveEnd where
  | ok | waits | failed (c : Cause)
deriving DecidableEq, Repr

/-- Queue a fault of the save engine; the context's `SAVE_PENDING` is set (R399, R421). -/
def State.saveFault (s : State) (cl : ClusterIx) (a : Asid) (id : BitVec 32) (b : Bad) : State :=
  let f := s.faultInfo cl a b.2 .write
  let s := s.updCtx id fun c => { c with savePending := true, qpinned := c.qdirty }
  s.raiseFault a 6 b.1 true (b.1 == .pageFault && f.malformed) (if b.1 = .pageFault then f.host else none) id b.2 (.save id)

/-- Write a context's image through a capability of an ASID, from a cluster (R395, R399). Its dirty quads go to the
descriptor first (R149). -/
def State.writeImage (s : State) (cl : ClusterIx) (a : Asid) (v : RegVal) (id : BitVec 32) (full : Bool) :
    SaveEnd × State :=
  let s := s.writeQuads id 6
  match s.getCtx id with
  | none => (.failed .capStale, s)
  | some c =>
    if c.savePending then (.waits, s)
    else
      let k := Cap.ofBits v.val
      match s.capCheck a v permW k.offset (s.imageHead c full).size with
      | some e => (.failed e, s)
      | none =>
        let bs := s.imageBytes c full
        let (_, _, f, s) := engWrite cl a k (bs.length + 1) k.offset.toNat bs 0 [] s
        match f with
        | none => (.ok, s)
        | some (b, _) =>
          if b.1.serviceable then (.waits, s.saveFault cl a id b)
          else (.failed b.1, if b.1 = .memError then { s with memErr := false } else s)

/-- A core's register cache holds nothing of a context. -/
def State.dropLines (s : State) (id : BitVec 32) : State :=
  { s with cores := s.cores.map fun (k, c) => (k, { c with lines := c.lines.filter fun l => l.1 != id }) }

/-- The image is complete: `SAVED` and `SAVECNT` in one step (R397, R427); the carve-out is free (R53). -/
def State.setSaved (s : State) (id : BitVec 32) : State :=
  (s.dropLines id).updCtx id fun c =>
    { c with
      save := { c.save with saved := true }
      saveCnt := c.saveCnt + 1, preempt := false, fullSave := false, stackHeld := false, savePending := false
      qcached := 0, qpinned := 0, res := if c.res = .bound then c.res else .dormant }

/-- A context is killed with its image incomplete: its gang counts it as killed (R297, R399, R409). -/
def State.saveLost (s : State) (id : BitVec 32) (cause : BitVec 8) : State :=
  let gang := ((s.getCtx id).map fun (c : Ctx) => c.gang).getD 0
  ((s.updCtx id fun c => { c with incomplete := true }).updGang gang fun g => { g with killed := true }).endCtx id
    (cause.setWidth 64) none

/-- A context that has left its slot for a pre-emption and whose image is not complete (R393). -/
def Ctx.leaving (c : Ctx) : Bool := c.preempt && c.res != .bound

/-- SAVE_COMPLETE (R393, R399, R427): the image of a context that left its slot is written, once its stores have
performed and no fault of it waits; a fault that waiting cannot service kills it. -/
def execSaveComplete (ctx : BitVec 32) (s : State) : Out :=
  match s.getCtx ctx with
  | none => .next s
  | some c =>
    if !c.leaving || c.savePending || !c.storeQ.isEmpty then .next s
    else
      match s.writeImage (clusterOf c.core) c.asid c.save.imgCap ctx c.fullSave with
      | (.ok, s) => .next (s.setSaved ctx)
      | (.waits, s) => .next s
      | (.failed e, s) => .next (s.saveLost ctx e.code)

/-! ### Pre-emption requests (R153, R393, R394, R426) -/

/-- `IMGCAP` for the next save of a task with an image region (R426). -/
def Ctx.nextImage (c : Ctx) : RegVal :=
  if !c.imgRegion.tag then c.save.imgCap
  else
    let k := Cap.ofBits c.imgRegion.val
    let h := k.limit.toNat / 2 / 64 * 64
    let base := h * ((c.saveCnt.toNat + 1) % 2)
    ⟨{ k with base := .ofNat 64 base, offset := .ofNat 64 base, limit := .ofNat 64 (base + h) }.toBits, true⟩

/-- Bytes of the largest image that a context can produce (R394). -/
def State.largestImage (s : State) (c : Ctx) : Nat :=
  64 + 2048 + s.allotSize c c.core + c.stackSize + (if c.protected_ then 16 else 0)

/-- `IMGCAP` passes R394. -/
def State.imageCapOk (s : State) (c : Ctx) : Bool :=
  let v := c.save.imgCap
  let k := Cap.ofBits v.val
  v.tag && !k.sealed_ && k.has permW && k.kind == 0 && k.base.toNat ≤ k.offset.toNat
    && k.offset.toNat + s.largestImage c ≤ k.limit.toNat

/-- A pre-emption request reaches a context: Barista has written its `IMGCAP`, and the request stands unless R393
refuses it. -/
def State.requestPreempt (s : State) (id : BitVec 32) : Bool × State :=
  match s.getCtx id with
  | none => (false, s)
  | some c =>
    if c.preempt then (true, s)
    else
      let c := { c with save := { c.save with imgCap := c.nextImage } }
      let s := s.updCtx id fun _ => c
      if !s.imageCapOk c || s.keyMissing c then (false, s)
      else (true, s.updCtx id fun c => { c with preempt := true, preemptCyc := s.cycle })

/-- PHINT's ranges keep their limits (R404). -/
def State.hintOk (s : State) (v : W256) : Bool :=
  (imageRanges v).all fun r => r.1 % 32 == 0 && r.2 % 32 == 0 && s.rangeOk s.cx s.cx.core r

/-- PHINT (R404): it has waited under R82; a pending pre-emption is served here, in full where a range breaks its
limits. -/
def execPhint (a b : Reg) (s : State) : Out :=
  let rs := s.bits b
  let s := (s.updCx fun c => { c with save := { c.save with live := s.x a, ranges := rs, hintCyc := s.cycle } }).advance
  .next (if s.cx.preempt then s.leave s.cx.id (.save (!s.hintOk rs)) else s)

/-- A context waits in a blocking instruction that R393 and R407 interrupt: any but XGO. FENCE, HFENCE and SAVE are none (R82),
nor is a form that only waits to be accepted. -/
def Wait.stops : Wait → Bool
  | .bar .. | .gang _ | .span _ | .sumcol .. | .job .. | .queue .. | .heap .. | .event .. | .sleep .. | .record .. => true
  | .none | .fence | .hfence _ | .enq .. | .aswap .. | .cpyGo _ | .xgo _ | .txn _ | .save .. | .leave _ | .string ..
  | .spawn .. => false

/-- This chip asks an exporter to withdraw the held operation of a transaction (R440). -/
def State.askWithdraw (s : State) (label : Nat) : State :=
  match s.txns.find? fun t => t.label == label with
  | none => s
  | some t =>
    if !t.held || t.withdrawn then s
    else
      State.send { s with txns := s.txns.map fun x => if x.label = label then { x with withdrawn := true } else x }
        (.withdraw t.chip label)

/-- FORCED_SAVE (R393, R440): the occupant of a slot has a request pending, and waits in a blocking instruction or has
reached no PHINT for 200,000 cycles: it is saved in full at its unit boundary. An operation that a peer holds is withdrawn
first. -/
def execForcedSave (sl : SlotId) (s : State) : Out :=
  .next (s.withSlot sl fun s =>
    let c := s.cx
    let late := c.preemptCyc.toNat + 200000 ≤ s.cycle.toNat
    if c.preempt && (c.wait.stops || (c.wait == .none && late)) && !c.pend.any Pending.outside then
      s.completeAll.leave c.id (.save true)
    else
      match c.preempt, c.wait with
      | true, .txn label => s.askWithdraw label
      | _, _ => s)

/-! ### SAVE and RESUME (R405, R406) -/

/-- A privileged form of the SYS class: PRIV where the mode bit is clear, then the context capability of c[a] (R401). -/
def State.sysForm (s : State) (i : Instr) (a : Reg) (f : Ctx → State) : Out :=
  if !s.cx.priv then .next (s.takeTrap .priv (.ofNat 64 ((encodeWord i).getD 0)))
  else
    s.withHandle a permW [3] <|
      match s.targetCtx a with
      | none => s.takeTrap .capStale (a.setWidth 64)
      | some t => f t

/-- c[b] fails SAVE's checks (R405). -/
def State.saveCapBad (s : State) (t : Ctx) (b : Reg) : Bool :=
  let k := s.cap b
  (s.capCheck s.cx.asid (s.reg b) permW k.offset (s.imageHead t true).size).isSome || k.kind != 0 || s.keyMissing t

/-- A status of the SYS class reaches `d` and the unit ends (R401). -/
def State.sysStatus (s : State) (d : Reg) (v : Nat) : State := (s.setX d (.ofNat 64 v)).finishWait

/-- SAVE past its context check (R405). -/
def State.saveForm (s : State) (d a b : Reg) (t : Ctx) : State :=
  if t.res = .bound ∨ t.leaving = true then s.sysStatus d 1
  else if t.save.saved then s.sysStatus d 2
  else if s.saveCapBad t b then s.sysStatus d 3
  else
    match s.writeImage s.cxCluster s.cx.asid (s.reg b) t.id true with
    | (.ok, s) => (s.setSaved t.id).sysStatus d 0
    | (.waits, s) => s.block (.save d a b)
    | (.failed _, s) => s.sysStatus d 4

/-- SAVE (R405). -/
def execSave (d a b : Reg) (s : State) : Out := s.sysForm (.save d a b) a (s.saveForm d a b)

/-- The image header is consistent with the target (R397). -/
def State.headOk (s : State) (t : Ctx) (h : ImageHead) : Bool :=
  h.ctx == t.id && h.res == 0 && h.prot == t.protected_
    && ((imageRanges h.ranges).all fun r => r.2 == 0 || s.rangeOk t h.core r) && !s.keyMissing t

/-- The registers of an image, those not saved reading zero (R398, R404, R406). -/
def imageRegs (h : ImageHead) (sameChip : Bool) (body : List Byte) : Vector RegVal 64 :=
  let rs := liveRegs h.live
  Vector.ofFn fun i : Fin 64 =>
    match rs.idxOf? (.ofNat 6 i.val) with
    | none => {}
    | some k =>
      let v : W256 := .ofNat 256 (ofBytes ((body.drop (32 * k)).take 32))
      ⟨v, h.tags.getLsbD i.val && (sameChip || (Cap.ofBits v).has permK)⟩

/-- The ranges of an image go back to their places (R406). -/
def State.putRanges (s : State) (t : Ctx) (core : CoreIx) : List (Nat × Nat) → List Byte → State
  | [], _ => s
  | (off, len) :: rs, bs =>
    State.putRanges (if len = 0 then s else s.homeWrite (s.rangeKey t core off) (bs.take len)) t core rs (bs.drop len)

/-- Bytes that a stretch of scratchpad shares with a stretch. -/
def stretchesMeet (a n b m : Nat) : Bool := decide (a < b + m) && decide (b < a + n)

/-- The scratchpad of a core that is held: allotments and carve-outs (R53). -/
def State.heldSpad (s : State) (core : CoreIx) : List (Nat × Nat) :=
  (s.allotments.filter fun x => x.core == core).map (fun x => (x.base, x.size))
    ++ (s.allCtxs.filter fun c => c.stackHeld && c.stackCore == core).map fun c => (c.stackBase, c.stackSize)

/-- The lowest place for `n` bytes in the 3 MiB of a core's scratchpad (R51, R53; first fit is DESIGN CHOICE, log entry
15). -/
def State.spadFit (s : State) (core : CoreIx) (n : Nat) : Option Nat :=
  let held := s.heldSpad core
  ((0 :: held.map fun x => x.1 + x.2).mergeSort).find? fun b =>
    b + n ≤ 3 * 2 ^ 20 && held.all fun x => x.2 == 0 || n == 0 || !stretchesMeet b n x.1 x.2

/-- A context holds its stack carve-out: none where its core has no room (R53). -/
def State.holdStack (s : State) (id : BitVec 32) : Option State :=
  (s.getCtx id).bind fun c =>
    if c.stackHeld then some s
    else (s.spadFit c.core c.stackSize).map fun b => s.updCtx id fun c => { c with stackCore := c.core, stackBase := b, stackHeld := true }

/-- The target takes an image that has passed every check (R406). Its carve-out is held again so that its range can be
written; without room RESUME answers BUSY (DESIGN CHOICE, log entry 15). -/
def State.restore (s : State) (d : Reg) (t : Ctx) (h : ImageHead) (body : List Byte) : State :=
  let regs := imageRegs h (h.chip == s.pkg.chip) body
  let carve := (imageRanges h.ranges).any fun r => r.2 != 0 && 2 ^ 31 ≤ r.1
  let was := s
  match (if carve then s.holdStack t.id else some s) with
  | none => s.sysStatus d 2
  | some s =>
    let t := (s.getCtx t.id).getD t
    let s := s.putRanges t h.core (imageRanges h.ranges) (body.drop (32 * (liveRegs h.live).length))
    let qv : BitVec 16 := (liveRegs h.live).foldl (fun v r => v ||| (1#16 <<< (r.toNat / 4))) 0
    let s := (s.dropLines t.id).updCtx t.id fun c =>
      { c with regs := regs, qvalid := qv, qcached := 0, qdirty := qv, qpinned := 0, res := .dormant, run := .ready
               save := { c.save with saved := false } }
    -- the quads go to the descriptor; where its page faults they stay dirty and pinned (R399)
    let s := (s.writeQuads t.id 6).updCtx t.id fun c => if c.savePending then { c with qcached := qv, res := .resident } else c
    (s.noteReady was t.gang).sysStatus d 0

/-- RESUME past its checks: the whole image is read before anything is written (R397, R406). -/
def State.resumeBody (s : State) (d : Reg) (t : Ctx) (k : Cap) (h : ImageHead) (head : List Byte) : State :=
  let eff := k.offset
  match s.capCheck s.cx.asid ⟨k.toBits, true⟩ permR eff h.size with
  | some c => s.takeTrap c eff
  | none =>
    match engRead s.cxCluster s.cx.asid k (h.size + 1) (eff.toNat + 64) (h.size - 64) s with
    | .error b => s.trapBad b
    | .ok (bs, s) =>
      if !h.prot then s.restore d t h bs
      else
        let ct := bs.take h.bodySize
        match gcmOpen ((s.imageKey t).getD []) (imageNonce h) head ct (bs.drop h.bodySize) with
        | none => s.sysStatus d 0x19
        | some body => s.restore d t h body

/-- RESUME past its context check (R397, R399, R406). A failing check of c[b] traps with its offset (DEDUCED: R22; log
entry 15). -/
def State.resumeForm (s : State) (d b : Reg) (t : Ctx) : State :=
  let k := s.cap b
  match s.capCheck s.cx.asid (s.reg b) permR k.offset 64 with
  | some c => s.takeTrap c k.offset
  | none =>
    if k.kind != 0 then s.takeTrap .capPerm k.offset
    else if t.savePending then s.sysStatus d 2
    else if t.incomplete then s.sysStatus d 4
    else if !t.save.saved then s.sysStatus d 1
    else
      let s := s.clampScope .sys
      match engRead s.cxCluster s.cx.asid k 65 k.offset.toNat 64 s with
      | .error b => s.trapBad b
      | .ok (head, s) =>
        let h := ImageHead.ofBits (.ofNat 512 (ofBytes head))
        if !s.headOk t h then s.sysStatus d 3
        else if h.cnt != t.saveCnt then s.sysStatus d 0x18
        else s.resumeBody d t k h head

/-- RESUME (R406). -/
def execResume (d a b : Reg) (s : State) : Out := s.sysForm (.resume d a b) a (s.resumeForm d b)

end Sys2Proof.Machine
end

