-- ==== Sys2Proof/Machine/Sys.lean ====
section
/-!
DEFINITION. Sys2Proof/Machine/Sys.lean: the rest of the SYS class (R401 to R409), and the steps that follow an exception:
the record's way to a buddy or to Barista (R385, R386, R428, R449), the interruption of a handler (R386) and the
watchdog (R388).
-/
namespace Sys2Proof.Machine

/-! ### TRAP, BKPT, ERET (R402, R403) -/

/-- TRAP (R402): it has waited under R82. -/
def execTrap (imm : BitVec 12) (s : State) : Out := .next (s.takeTrap .syscall (imm.setWidth 64))
/-- BKPT (R402). -/
def execBkpt (s : State) : Out := .next (s.takeTrap .bkpt 0)
/-- ERET (R403). -/
def execEret (s : State) : Out :=
  if s.cx.priv then .next s.returnHandler else .next (s.takeTrap .priv (.ofNat 64 ((encodeWord .eret).getD 0)))

/-! ### Stopping a context (R239, R407, R409) -/

/-- Each store that has been issued and has not performed performs whole or not at all, as a free pick says; one that
had to follow a store that did not perform does not either (R239, R249; log entry 10). -/
def killFrom (id : BitVec 32) : List StoreEntry → List StoreEntry → State → State
  | [], _, s => s
  | e :: es, gone, s =>
    if e.marker then killFrom id es (if gone.isEmpty then gone else e :: gone) s
    else
      let (go, s) := s.pick 2
      if go = 0 || gone.any fun g => g.blocks e then killFrom id es (e :: gone) s
      else
        match s.performStore id e, e.target with
        | some s, _ => killFrom id es gone s
        | none, .queue .. => killFrom id es (e :: gone) s
        | none, _ =>
          match s.getCtx id with
          | none => s
          | some c => killFrom id es gone (s.sendStore c e).2

/-- A context is killed (R239, R297, R409): its stash is discarded, its gang counts it as killed, and it leaves as
RETIRE does. -/
def State.killCtx (s : State) (id : BitVec 32) (exit : Word) (cause : Option (BitVec 8)) : State :=
  match s.getCtx id with
  | none => s
  | some c =>
    let s := killFrom id c.storeQ [] (s.stopWait id)
    let s := s.updCtx id fun c => { c with storeQ := [], stash := [] }
    let s := s.updGang c.gang fun g => { g with killed := true }
    s.endCtx id exit cause

/-- A context freezes without a record, once its earlier stores have performed (R383, R407). One whose image is being written
freezes as it stands. -/
def State.freezeQuiet (s : State) (id : BitVec 32) : State :=
  match s.getCtx id with
  | none => s
  | some c =>
    if c.leaving then s.updCtx id fun c => { c with run := .frozen, freezeReq := false }
    else (s.asCtx id fun s => s.completeAll).leave id .freeze

/-- A context that a FREEZE or a KILL has named stops, if it stands at a unit boundary: it holds no slot, or it is between
units, or it waits in an instruction that is stopped where it waits. A held queue operation is withdrawn first; XGO
returns first (R359, R407, R409, R440). One that waits to leave its slot is killed at once, and freezes once it has left. -/
def State.tryStop (s : State) (id : BitVec 32) : State :=
  match s.getCtx id with
  | none => s
  | some c =>
    let stop (s : State) : State :=
      match c.killReq with
      | some exit => s.killCtx id exit none
      | none => s.freezeQuiet id
    if !c.freezeReq && c.killReq.isNone then s
    else if c.res != .bound then stop s
    else
      match c.wait with
      | .txn label => s.askWithdraw label
      | .leave _ => if c.killReq.isSome then stop s else s
      | w =>
        if !(w == .none || w.stops) || (c.killReq.isNone && c.pend.any Pending.outside) then s else stop s

/-! ### FREEZE, THAW, KILL (R407, R409) -/

/-- FREEZE (R407). -/
def execFreeze (d a : Reg) (s : State) : Out :=
  s.sysForm (.freeze d a) a fun t =>
    if t.run = .frozen then s.sysStatus d 1
    else ((s.sysStatus d 0).updCtx t.id fun c => { c with freezeReq := true }).tryStop t.id

/-- THAW (R407). -/
def execThaw (d a b : Reg) (s : State) : Out :=
  s.sysForm (.thaw d a b) a fun t =>
    if t.run = .frozen then ((s.thaw t.id (s.x b)).noteReady s t.gang).sysStatus d 0 else s.sysStatus d 1

/-- KILL (R409). -/
def execKill (d a b : Reg) (s : State) : Out :=
  s.sysForm (.kill d a b) a fun t =>
    if t.killReq.isSome then s.sysStatus d 1
    else
      let exit := s.x b
      ((s.sysStatus d 0).updCtx t.id fun c => { c with killReq := some exit }).tryStop t.id

/-! ### Trap records (R384, R385) -/

/-- The 64 bytes of a trap record (R384). -/
def TrapRec.toBits (r : TrapRec) : BitVec 512 :=
  .ofNat 512 (r.cause.toNat + r.ulen.toNat * 2 ^ 8 + r.slot.toNat * 2 ^ 10 + r.core.toNat * 2 ^ 13
    + r.asid.toNat * 2 ^ 22 + r.ctxId.toNat * 2 ^ 32 + r.pc.toNat * 2 ^ 64 + r.val.toNat * 2 ^ 128
    + r.cdva.toNat * 2 ^ 192 + r.ctxH.toNat * 2 ^ 256 + r.ctxGen.toNat * 2 ^ 280 + r.seq.toNat * 2 ^ 304
    + r.cycle.toNat * 2 ^ 320 + r.gang.toNat * 2 ^ 384 + r.member.toNat * 2 ^ 416)

/-- `BCORE` of core.buddy (R385). -/
def Core.buddyCore (c : Core) : CoreIx := c.buddy.extractLsb' 0 9
/-- `BSLOT` of core.buddy (R385). -/
def Core.buddySlot (c : Core) : SlotIx := c.buddy.extractLsb' 9 3
/-- `VALID` of core.buddy (R385). -/
def Core.buddyValid (c : Core) : Bool := c.buddy.getLsbD 12

/-- The handler's handle on the context of a record: a handle of its own ASID on the node, or a foreign one (R408). -/
def State.openRecordCtx (s : State) (r : TrapRec) : Option (BitVec 24 × BitVec 24 × State) :=
  let a := s.cx.asid
  let node := ((s.space a).nodes.find? fun n => n.live && n.body == .ctx r.ctxId).map (·.ix)
  if r.asid = a then
    match node with
    | some ix => s.openHandle a (some ix) none
    | none => s.openHandle a none (some 0)
  else s.openHandle a none (some (if (s.getCtx r.ctxId).isSome then r.ctxId else 0))

/-- The capability that WAITEV returns (R408). -/
def recordCap (h g : BitVec 24) : Cap where
  offset := 0
  base := 0
  limit := 8192
  handle := h
  gen := g
  perm := permR ||| permW ||| permC
  kind := 3
  sealed_ := false

/-- WAITEV takes a record (R408): an acquire under R383. -/
def State.takeRecord (s : State) (d a : Reg) (target : Option Target) (r : TrapRec) : State :=
  let s := s.clampScope .pkg
  let s := match target with
    | some t => s.putRecord t (s.cap a).handle r.toBits
    | none => s
  let s := s.updCx fun c => { c with trap := { c.trap with ctx := .ofNat 64 (r.ctxId.toNat + r.asid.toNat * 2 ^ 32) } }
  match s.openRecordCtx r with
  | some (h, g, s) => (s.setCap d (recordCap h g)).finishWait
  | none => (s.setBits d (NameCode.nohandle.code.setWidth 256)).finishWait

/-- WAITEV from its checks on (R408): it waits while the inbox of its core is empty (log entry 51). -/
def State.waitev (s : State) (d a : Reg) : State :=
  let go (target : Option Target) (s : State) : State :=
    match (s.core s.cx.core).inbox with
    | [] => s.block (.record d a)
    | r :: rest => (s.updCore s.cx.core fun k => { k with inbox := rest }).takeRecord d a target r
  if a = 0 then go none s
  else
    match s.recordTarget a with
    | .error b => s.trapBad b
    | .ok (t, s) => go (some t) s

/-- WAITEV (R408). -/
def execWaitev (d a : Reg) (s : State) : Out :=
  if s.cx.priv && s.cx.handler then .next (s.waitev d a)
  else .next (s.takeTrap .priv (.ofNat 64 ((encodeWord (.waitev d a)).getD 0)))

/-- A record has entered a core's inbox (R386): a handler that waits in WAITEV takes it; one that runs with `IE` set is
to be interrupted. -/
def State.recordArrived (s : State) (core : CoreIx) (slot : SlotIx) : State :=
  let sl : SlotId := ⟨core, slot⟩
  match (s.boundAt sl).bind s.getCtx with
  | none => s
  | some c =>
    if !c.handler then s
    else
      match c.wait with
      | .record d a => s.asCtx c.id fun s => s.waitev d a
      | _ => if c.ie then s.updCore core fun k => { k with ints := k.ints ||| (1#8 <<< slot.toNat) } else s

/-- The descriptor of a record's context is complete: its stores and its pending accesses have performed, and its quads
are written (R383). -/
def State.recordReady (s : State) (r : TrapRec) : Bool :=
  match s.getCtx r.ctxId with
  | none => true
  | some c => c.storeQ.isEmpty && c.pend.isEmpty && !c.savePending

/-- TRAP_RECORD_DELIVERY (R385): the oldest record that a core holds goes to its buddy's inbox once that has room, or
to Barista of the core's cluster. -/
def execTrapRecordDelivery (core : CoreIx) (s : State) : Out :=
  let k := s.core core
  match k.held with
  | [] => .next s
  | r :: rest =>
    if !s.recordReady r then .next s
    else if !k.buddyValid then
      .next ((s.updCore core fun k => { k with held := rest }).updCluster (clusterOf core) fun c =>
        { c with barista := c.barista ++ [r] })
    else
      let b := k.buddyCore
      if 64 ≤ (s.core b).inbox.length then .next s
      else
        let s := s.updCore core fun k => { k with held := rest }
        .next ((s.updCore b fun x => { x with inbox := x.inbox ++ [r] }).recordArrived b k.buddySlot)

/-- The handler in a slot is interrupted at its unit boundary, its windows closed first (R386); with `IE` clear by then the
record waits. -/
def State.interruptSlot (s : State) (sl : SlotId) : State :=
  let clear (s : State) : State := s.updCore sl.core fun k => { k with ints := k.ints &&& ~~~(1#8 <<< sl.slot.toNat) }
  match (s.boundAt sl).bind s.getCtx with
  | none => clear s
  | some c =>
    if !c.handler || !c.ie then clear s
    else if c.wait != .none || c.pend.any Pending.outside then s
    else (clear s).asCtx c.id fun s => s.completeAll.updCx Ctx.interrupt

/-- A record that has arrived is to interrupt the handler in a slot (R386). -/
def State.interruptDue (s : State) (sl : SlotId) : Bool := (s.core sl.core).ints.getLsbD sl.slot.toNat

/-- HANDLER_INTERRUPT (R386): every handler of a core that is to be interrupted and stands at a unit boundary is. -/
def execHandlerInterrupt (core : CoreIx) (s : State) : Out :=
  .next ((List.range 8).foldl (fun s i =>
    let sl : SlotId := ⟨core, .ofNat 3 i⟩
    if s.interruptDue sl then s.interruptSlot sl else s) s)

/-! ### WATCHDOG (R388) -/

/-- WATCHDOG (R388): a bound context has retired nothing for the limit of its core; the cycles of a blocking instruction do
not count. It is precise (R381): it waits until every earlier unit has completed. `ULEN` of its record is that of a unit of one
word (log entry 16). -/
def execWatchdog (sl : SlotId) (s : State) : Out :=
  .next (s.withSlot sl fun s =>
    let c := s.cx
    let limit := (s.core sl.core).wdog
    let n := s.cycle - c.retireCyc
    let leaves := match c.wait with
      | .leave _ => true
      | _ => false
    if limit = 0 || n.toNat < limit.toNat || c.run != .ready || leaves || c.pend.any Pending.outside then s
    else
      let s := if c.wait = .none then s.updCx fun c => { c with unit := { first := c.pc, addr := c.pc } } else s
      s.takeTrap .watchdog n)

/-! ### Barista (R428, R449) -/

/-- Causes whose records Barista hands to the driver (R428). -/
def driverCause (cause : BitVec 8) : Option Cause :=
  if cause = 0x0A then some .pageFault else if cause = 0x0B then some .pageProt
  else if cause = 0x0C then some .rdupWrite else none

/-- The fault record of a frozen context (R428). -/
def State.baristaFault (s : State) (r : TrapRec) (cause : Cause) : State :=
  let f := s.faultInfo (clusterOf r.core) r.asid r.val (if r.wr then .write else .read)
  let page := cause == .pageFault
  s.raiseFault r.asid 7 cause r.wr (page && f.malformed) (if page then f.host else none) r.ctxId r.val (.ctx r.ctxId r.pc)

/-- BARISTA_TRAP_RECORD (R428, R449): the oldest record at a cluster becomes a fault record, or its context is killed with
the cause as `EXIT`. -/
def execBaristaTrapRecord (cluster : ClusterIx) (s : State) : Out :=
  match (s.cluster cluster).barista with
  | [] => .next s
  | r :: rest =>
    let s := s.updCluster cluster fun c => { c with barista := rest }
    match s.getCtx r.ctxId with
    | none => .next s
    | some c =>
      if c.run != .frozen then .next s
      else
        match driverCause r.cause with
        | some cause => .next (s.baristaFault r cause)
        | none => .next (s.killCtx r.ctxId (r.cause.setWidth 64) (some r.cause))

end Sys2Proof.Machine
end

