-- ==== Sys2Proof/Machine/Sched.lean ====
section
/-!
DEFINITION. Sys2Proof/Machine/Sched.lean: the register cache (R148 to R151), bind records and slots (R152 to R154), the
quantum and aging (R153, R155), Barista's choice of what to bind and pre-empt (R142, R144, R155, R156), and the steps by
which a context's own stores, loads and fences complete (R79, R219, R242, R251).
-/
namespace Sys2Proof.Machine

/-! ### The register cache (R148 to R151) -/

/-- The set of the register cache that a quad goes to (R148). -/
def Ctx.quadSet (c : Ctx) (q : BitVec 4) : Nat := 16 * ((c.cdva.extractLsb' 13 4).toNat) + q.toNat

/-- The set of a line that is cached. -/
def State.lineSet (s : State) (l : BitVec 32 × BitVec 4) : Option Nat := (s.getCtx l.1).map fun c => c.quadSet l.2

/-- Bit `q` of a quad mask. -/
def quadBit (q : BitVec 4) : BitVec 16 := 1#16 <<< q.toNat

/-- A line is pinned (R151). -/
def State.linePinned (s : State) (l : BitVec 32 × BitVec 4) : Bool :=
  (s.getCtx l.1).any fun c => c.qpinned &&& quadBit l.2 != 0
/-- A line belongs to a bound context. -/
def State.lineBound (s : State) (l : BitVec 32 × BitVec 4) : Bool := (s.getCtx l.1).any fun c => c.res == .bound

/-- A quad leaves the cache of a core. -/
def State.dropLine (s : State) (core : CoreIx) (l : BitVec 32 × BitVec 4) : State :=
  (s.updCore core fun k => { k with lines := k.lines.erase l }).updCtx l.1 fun c =>
    let left := c.qcached &&& ~~~quadBit l.2
    { c with qcached := left, res := if c.res = .resident ∧ left = 0 then .dormant else c.res }

/-- A line is replaced: a dirty one is written to its descriptor first; where that faults it stays, pinned, and the fault
is queued with source 0 (R148, R151, R421). The answer is none where it stays. -/
def State.replaceLine (s : State) (core : CoreIx) (l : BitVec 32 × BitVec 4) : Bool × State :=
  match s.getCtx l.1 with
  | none => (true, s.dropLine core l)
  | some c =>
    if c.qdirty &&& quadBit l.2 = 0 then (true, s.dropLine core l)
    else
      match s.cdReady c with
      | .ok (pa, s) =>
        (true, ((s.putQuads c (quadBit l.2) pa).updCtx l.1 fun c =>
          { c with qvalid := c.qvalid ||| quadBit l.2, qdirty := c.qdirty &&& ~~~quadBit l.2 }).dropLine core l)
      | .error f =>
        let s := s.updCtx l.1 fun c => { c with qpinned := c.qpinned ||| quadBit l.2 }
        (false, s.raiseFault c.asid 0 f.cause true f.malformed f.host c.id (.ofNat 64 (c.quadVa l.2.toNat)) (.quad c.id))

/-- Make room in a set: the least recently used line of no bound context goes, else the least recently used line (R148);
a line whose write-back faults is pinned and the next one is tried (R151). False where every line is pinned. -/
def State.makeRoom (core : CoreIx) (set : Nat) : Nat → State → Bool × State
  | 0, s => (false, s)
  | fuel + 1, s =>
    let mine := (s.core core).lines.filter fun l => s.lineSet l == some set
    if mine.length < 16 then (true, s)
    else
      let free := mine.reverse.filter fun l => !s.linePinned l
      match (free.find? fun l => !s.lineBound l) <|> free.head? with
      | none => (false, s)
      | some l =>
        match s.replaceLine core l with
        | (true, s) => (true, s)
        | (false, s) => State.makeRoom core set fuel s

/-- The page of a context's descriptor is present in local DRAM, valid and writable (R145; log entry 47). -/
def State.cdPresent (s : State) (c : Ctx) : Bool × State :=
  match s.coreTranslate c.core c.asid c.cdva.toNat .read with
  | .ok (.dram _, s) =>
    let w := match tlbCovers (s.core c.core).tlb c.asid c.cdva.toNat with
      | some t => t.pte.getLsbD 1
      | none => false
    (w, s)
  | .ok (_, s) => (false, s)
  | .error _ => (false, s)

/-- Bring quad `q` of the current context into its core's register cache (R150): filled with zeros where it has never
been written, from the descriptor where it has; a descriptor that is not there freezes the context with CTX_FAULT
(R151). A set with every line pinned stalls. -/
def State.fillQuad (s : State) (q : BitVec 4) : State :=
  let c := s.cx
  let core := c.core
  let bring (s : State) : State :=
    match State.makeRoom core (c.quadSet q) 17 s with
    | (false, s) => s
    | (true, s) =>
      (s.updCore core fun k => { k with lines := (c.id, q) :: k.lines }).updCx fun c =>
        { c with qcached := c.qcached ||| quadBit q }
  if c.qcached &&& quadBit q != 0 then s
  else if c.qvalid &&& quadBit q = 0 then bring s
  else
    match s.cdPresent c with
    | (true, s) => bring s
    | (false, s) => s.takeTrap .ctxFault (.ofNat 64 (c.quadVa q.toNat))

/-- The unit at the current context's program counter names a quad (R150). -/
def State.namesQuad (s : State) (q : BitVec 4) : Bool :=
  match s.fetchUnit with
  | (_, .unit u, _) => (unitQuads u).contains q
  | (_, .illegal _, _) | (_, .fault .., _) => false

/-- QUAD_FILL (R150, R151): a quad that the next unit of the slot's context names is brought in; a fault there is that
unit's. -/
def execQuadFill (sl : SlotId) (q : BitVec 4) (s : State) : Out :=
  .next (s.withSlot sl fun s =>
    if s.cx.wait != .none || !s.namesQuad q then s
    else
      match s.fetchUnit with
      | (n, f, s) => (s.updCx fun c => { c with unit := unitInfo c.pc n f }).fillQuad q)

/-- A quad of the current context is used: its line is the most recent (R148). -/
def State.useQuad (s : State) (q : BitVec 4) : State :=
  s.updCore s.cx.core fun k => { k with lines := (s.cx.id, q) :: k.lines.erase (s.cx.id, q) }

/-! ### Bind records (R152, R153, R400) -/

/-- The record of a slot. -/
def State.slotRec (s : State) (sl : SlotId) : BindRec := (s.core sl.core).records[sl.slot.toNat]'sl.slot.isLt
/-- Change the record of a slot. -/
def State.setSlotRec (s : State) (sl : SlotId) (r : BindRec) : State :=
  s.updCore sl.core fun c => { c with records := c.records.set sl.slot.toNat r sl.slot.isLt }
/-- `VALID` (R152). -/
def BindRec.valid (r : BindRec) : Bool := r.w2.getLsbD 0
/-- `PREEMPT` (R152). -/
def BindRec.preempt (r : BindRec) : Bool := r.w2.getLsbD 1
/-- Clear `VALID`. -/
def State.clearValid (s : State) (sl : SlotId) : State :=
  let r := s.slotRec sl
  s.setSlotRec sl { r with w2 := r.w2 &&& ~~~1#64 }

/-- Word `w` of a record with its RO bits kept at 0 (R152). -/
def slotMask (w : Nat) : Word := if w = 0 then 0x3FFFFFFFFFFFFFFF else if w = 1 then .allOnes 64 else if w = 2 then 7 else 0
/-- Word `w` of a record. -/
def BindRec.word (r : BindRec) (w : Nat) : Word := if w = 0 then r.w0 else if w = 1 then r.w1 else if w = 2 then r.w2 else r.w3
/-- Write word `w` of a record. -/
def BindRec.setWord (r : BindRec) (w : Nat) (v : Word) : BindRec :=
  let v := v &&& slotMask w
  if w = 0 then { r with w0 := v } else if w = 1 then { r with w1 := v } else if w = 2 then { r with w2 := v }
  else { r with w3 := v }

/-- The context that a record names, where its handle's generation and its slot agree and R400 lets it be bound. A context
that is bound, or whose image is being written, is refused too (DESIGN CHOICE, log entry 18). -/
def State.recordCtx (s : State) (sl : SlotId) (r : BindRec) : Option Ctx :=
  if r.w0.extractLsb' 57 3 != sl.slot then none
  else
    match (s.openNode (r.w0.extractLsb' 48 9) (r.w0.extractLsb' 0 24) (r.w0.extractLsb' 24 24)).map Node.body with
    | some (.ctx id) => (s.getCtx id).filter fun c =>
        !c.save.saved && !c.savePending && c.run != .frozen && c.res != .bound && !c.leaving
    | _ => none

/-- The slot is empty, and no image of its last occupant is being written (R393). -/
def State.slotFree (s : State) (sl : SlotId) : Bool :=
  (s.boundAt sl).isNone && !s.allCtxs.any fun c => c.core == sl.core && c.slot == sl.slot && c.leaving

/-- A gang returns to its own level when it is bound (R155). -/
def Gang.rest (g : Gang) : Gang := { g with level := g.home }

/-- The slot in which a task of a launch is first bound is kept for its record (R451). -/
def Launch.noteSlot (id : BitVec 32) (sl : SlotId) (l : Launch) : Launch :=
  match l.ctxs.findIdx? fun k => k == id with
  | some i => if i < l.tasks.length && (l.slots.lookup i).isNone then { l with slots := l.slots ++ [(i, sl)] } else l
  | none => l

/-- A context moves to another core (R154): its first core writes back its dirty quads and gives up its lines. False where
that faults: the quads stay there, dirty and pinned (R151). -/
def State.moveOff (s : State) (c : Ctx) : Bool × State :=
  let s := s.writeQuads c.id 0
  if (s.getCtx c.id).any fun k => k.qdirty != 0 then (false, s)
  else (true, (s.dropLines c.id).updCtx c.id fun k => { k with qcached := 0 })

/-- A context is bound in an empty slot; it waits while the core has no room for its carve-out (R53, R153). -/
def State.enterSlot (s : State) (sl : SlotId) (r : BindRec) (c : Ctx) : State :=
  match (s.updCtx c.id fun k => { k with core := sl.core, slot := sl.slot }).holdStack c.id with
  | none => s
  | some s =>
    let s := s.updCtx c.id fun k =>
      { k with res := .bound, bindCyc := s.cycle, retireCyc := s.cycle, quantum := r.w1.setWidth 32, alone := false }
    (((s.setBound sl (some c.id)).clearValid sl).updGang c.gang Gang.rest).updLaunch c.launch (Launch.noteSlot c.id sl)

/-- Bind a context in an empty slot (R153, R154): on another core, once the first core has written back its dirty quads. -/
def State.bindSlot (s : State) (sl : SlotId) (r : BindRec) (c : Ctx) : State :=
  if c.core = sl.core ∨ c.qcached = 0 then s.enterSlot sl r c
  else
    match s.moveOff c with
    | (true, s) => s.enterSlot sl r c
    | (false, s) => s

/-- The dispatch hardware carries out the record of a slot (R153, R393, R400). -/
def State.carryOut (s : State) (sl : SlotId) : State :=
  let r := s.slotRec sl
  if !r.valid then s
  else
    match s.recordCtx sl r with
    | none => s.clearValid sl
    | some c =>
      if s.slotFree sl then s.bindSlot sl r c
      else if !r.preempt then s
      else
        match s.boundAt sl with
        | none => s
        | some id =>
          match s.requestPreempt id with
          | (true, s) => s
          | (false, s) => s.clearValid sl

/-- SLOT_BIND (R153). -/
def execSlotBind (sl : SlotId) (s : State) : Out := .next (s.carryOut sl)

/-- BIND_RECORD (R153): Barista writes words 0, 1 and 3, then word 2, which takes effect with `VALID` set. -/
def execBindRecord (sl : SlotId) (w0 w1 w2 w3 : Word) (s : State) : Out :=
  let r := ((((s.slotRec sl).setWord 0 w0).setWord 1 w1).setWord 3 w3).setWord 2 w2
  .next ((s.setSlotRec sl r).carryOut sl)

/-- QUANTUM_EXPIRY (R153): once `QUANTUM` cycles have passed, the occupant receives a pre-emption request. One that R393
refuses is not made again for this binding. -/
def execQuantumExpiry (sl : SlotId) (s : State) : Out :=
  match (s.boundAt sl).bind s.getCtx with
  | none => .next s
  | some c =>
    if c.quantum = 0 || c.preempt || s.cycle.toNat < c.bindCyc.toNat + c.quantum.toNat then .next s
    else
      match s.requestPreempt c.id with
      | (true, s) => .next s
      | (false, s) => .next (s.updCtx c.id fun c => { c with quantum := 0 })

/-! ### Aging, and Barista's choices (R142, R144, R155, R156) -/

/-- The aging interval of a cluster (R155). -/
def State.aging (s : State) (cl : ClusterIx) : Nat := (s.cluster cl).aging.toNat

/-- Cycles for which a gang has been ready and unbound. -/
def State.gangAge (s : State) (g : Gang) : Nat := (s.cycle - g.readySince).toNat

/-- The gang has waited long enough to rise once more (R155). -/
def State.agingDue (s : State) (g : Gang) : Bool :=
  match g.cluster with
  | none => false
  | some cl => g.level != 0 && s.gangReady g
      && s.aging cl * (g.home.toNat - g.level.toNat + 1) < s.gangAge g

/-- AGING_INTERVAL_EXPIRY (R155): a gang that has been ready and unbound for longer than the interval rises a level. -/
def execAgingIntervalExpiry (gang : BitVec 32) (s : State) : Out :=
  match s.gangs.find? (fun g => g.id == gang) with
  | none => .next s
  | some g => .next (if s.agingDue g then s.updGang gang fun g => { g with level := g.level - 1 } else s)

/-- The gangs that are bound with it: its span's, or itself (R143, R155). -/
def State.bindGroup (s : State) (g : Gang) : List Gang := if g.span = 0 then [g] else s.spanGangs g.span

/-- The loader has built the gang's launch (R62). -/
def State.launchRuns (s : State) (g : Gang) : Bool :=
  match s.launchOf g.launch with
  | some l => l.stage == .running
  | none => true

/-- The tiles that the gang's launch owns on its cluster are there (R313). -/
def State.tilesReady (s : State) (g : Gang) : Bool :=
  match g.cluster, s.launchOf g.launch with
  | some cl, some l => l.tiles.any fun t => t.1 == cl
  | some _, none => true
  | none, _ => false

/-- Members of a gang that hold no slot. -/
def State.unboundMembers (s : State) (g : Gang) : List Ctx := (s.membersOf g).filter fun c => c.res != .bound

/-- Bound members of the gangs that are bound with a gang. -/
def State.boundMembers (s : State) (g : Gang) : List Ctx :=
  ((s.bindGroup g).flatMap s.membersOf).filter fun c => c.res == .bound

/-- The lowest slot of a core that is free, has no record waiting, and is not already taken (R144). -/
def State.freeSlot (s : State) (core : CoreIx) (taken : List SlotId) : Option SlotId :=
  ((List.range 8).map fun i => (⟨core, .ofNat 3 i⟩ : SlotId)).find? fun sl =>
    s.slotFree sl && !(s.slotRec sl).valid && !taken.contains sl

/-- The slot that a replay gives a task (R451). -/
def State.replaySlot (s : State) (c : Ctx) : Option SlotId :=
  (s.launchOf c.launch).bind fun l => l.replay.bind fun r => (l.ctxs.findIdx? fun id => id == c.id).bind fun i => r.slots.lookup i

/-- The slot for a context: the recorded one of a replay, or the lowest free one of its core (R144, R451). -/
def State.slotFor (s : State) (c : Ctx) (taken : List SlotId) : Option SlotId :=
  match s.replaySlot c with
  | some sl => if s.slotFree sl && !(s.slotRec sl).valid && !taken.contains sl then some sl else none
  | none => s.freeSlot c.core taken

/-- A slot for each context of a list, and room for its carve-out (R53, R144). -/
def State.slotsFor : List Ctx → List SlotId → State → Option (List (SlotId × Ctx))
  | [], _, _ => some []
  | c :: cs, taken, s =>
    (s.slotFor c taken).bind fun sl => (s.holdStack c.id).bind fun s' =>
      (State.slotsFor cs (sl :: taken) s').map fun r => (sl, c) :: r

/-- The words of the record that binds a context (R152, R425). -/
def State.recordFor (s : State) (sl : SlotId) (c : Ctx) : BindRec where
  w0 := .ofNat 64 (c.ctxHandle.toNat + c.ctxGen.toNat * 2 ^ 24 + c.asid.toNat * 2 ^ 48 + sl.slot.toNat * 2 ^ 57
    + c.prio.toNat * 2 ^ 60)
  w1 := .ofNat 64 (((s.launchOf c.launch).bind fun l =>
      ((l.ctxs.zip l.tasks).find? fun x => x.1 == c.id).map fun x => x.2.quantum.toNat).getD 0 + c.gang.toNat * 2 ^ 32)
  w2 := .ofNat 64 (1 + (if c.span = 0 then 0 else 4))
  w3 := 0

/-- Of two ready gangs, which Barista serves first (R155). -/
def Gang.before (a b : Gang) : Bool :=
  decide (a.level.toNat < b.level.toNat) || (a.level == b.level && decide (a.readySince.toNat ≤ b.readySince.toNat))

/-- A gang is among Barista's ready gangs: its launch runs, and every gang that is bound with it is ready (R155, R156). -/
def State.gangWaits (s : State) (g : Gang) : Bool :=
  s.launchRuns g && (s.bindGroup g).all s.gangReady

/-- The ready gangs of a cluster in the order in which Barista serves them (R155). -/
def State.readyGangs (s : State) (cl : ClusterIx) : List Gang :=
  (s.gangs.filter fun g => g.cluster == some cl && s.gangWaits g).mergeSort Gang.before

/-- A gang has been ready at level 0 for longer than two aging intervals: its cores go to no later gang (R155). -/
def State.gangStarved (s : State) (g : Gang) : Bool :=
  match g.cluster with
  | some cl => g.level == 0 && decide (s.aging cl * (g.home.toNat + 2) < s.gangAge g)
  | none => false

/-- Slots and tiles for a gang and all that are bound with it; none where it does not fit (R142, R144, R155). -/
def State.gangFits (s : State) (g : Gang) : Option (List (SlotId × Ctx)) :=
  if (s.bindGroup g).all s.tilesReady then State.slotsFor ((s.bindGroup g).flatMap s.unboundMembers) [] s else none

/-- The first gang in order that fits, with the slots of its whole group; a starved gang keeps its cores (R144, R155). -/
def State.pickGang : List Gang → List CoreIx → State → Option (List (SlotId × Ctx))
  | [], _, _ => none
  | g :: gs, kept, s =>
    let cores := ((s.bindGroup g).flatMap s.unboundMembers).map (·.core)
    match (if cores.any kept.contains then none else s.gangFits g) with
    | some r => some r
    | none => State.pickGang gs (if s.gangStarved g then kept ++ cores else kept) s

/-- Barista binds the first gang of a cluster that fits: all its members at once (R142, R144, R155). -/
def State.baristaBind (s : State) (cl : ClusterIx) : State :=
  match State.pickGang (s.readyGangs cl) [] s with
  | none => s
  | some rs => rs.foldl (fun s (sl, c) => (s.setSlotRec sl (s.recordFor sl c)).carryOut sl) s

/-- A member of a gang that is bound with this one has a pre-emption under way, or its image is written (R142). -/
def State.gangLeaves (s : State) (g : Gang) : Bool :=
  ((s.bindGroup g).flatMap s.membersOf).any fun c => c.preempt || c.save.saved

/-- Contexts of a cluster that rejoin a gang which stayed bound while they were frozen (R142, R407). -/
def State.rejoining (s : State) (cl : ClusterIx) : List Ctx :=
  s.allCtxs.filter fun c => clusterOf c.core == cl && c.alone && c.res != .bound && c.run == .ready && !c.savePending
    && (s.gangOf c).any fun g => !s.gangLeaves g && (s.membersOf g).any fun k => k.res == .bound

/-- Barista binds such a context once a slot is free. -/
def State.baristaRejoin (s : State) (cl : ClusterIx) : State :=
  match (s.rejoining cl).head? with
  | none => s
  | some c =>
    match State.slotsFor [c] [] s with
    | some [(sl, c)] => (s.setSlotRec sl (s.recordFor sl c)).carryOut sl
    | _ => s

/-- The next image of a context can be written (R394). -/
def State.savable (s : State) (c : Ctx) : Bool :=
  let c := { c with save := { c.save with imgCap := c.nextImage } }
  s.imageCapOk c && !s.keyMissing c

/-- A bound gang that Barista may pre-empt for level `level`: every bound member of what is bound with it can be saved (R140,
R156, R394; log entry 42). -/
def State.preemptable (s : State) (g : Gang) (level : BitVec 2) : Bool :=
  let ms := s.boundMembers g
  decide (level.toNat < g.home.toNat) && !ms.isEmpty && ms.all s.savable

/-- The cycle at which a gang was bound. -/
def State.gangBound (s : State) (g : Gang) : Nat := ((s.membersOf g).map fun c => c.bindCyc.toNat).foldl Nat.max 0

/-- Barista asks every bound member of a gang, and of all that are bound with it, to leave (R140, R142, R156). -/
def State.preemptGang (s : State) (g : Gang) : State := (s.boundMembers g).foldl (fun s c => (s.requestPreempt c.id).2) s

/-- A gang some of whose members, or of those bound with them, have been pre-empted has the others pre-empted too (R140,
R142). -/
def State.gangSplit (s : State) (g : Gang) : Bool := s.gangLeaves g && (s.boundMembers g).any fun c => !c.preempt

/-- The bound gang that goes to make room for `g`: of those on its cores with strictly lower priority, the lowest, and of
equals the one bound longest (R156). -/
def State.victim (s : State) (cl : ClusterIx) (g : Gang) : Option Gang :=
  let cores := (s.unboundMembers g).map (·.core)
  let victims := s.gangs.filter fun k => k.cluster == some cl && s.preemptable k g.level
    && (s.membersOf k).any fun c => c.res == .bound && cores.contains c.core
  victims.foldl (fun (b : Option Gang) k =>
    match b with
    | none => some k
    | some x => if decide (x.home.toNat < k.home.toNat) || (x.home == k.home && decide (s.gangBound k < s.gangBound x))
        then some k else some x) none

/-- Barista makes room for the first ready gang of a cluster, where its tiles are there and it lacks slots or scratchpad, and
no pre-emption is under way (R156). For a launch's allotment it pre-empts no gang, which R53 leaves to it (DESIGN CHOICE, log
entry 42). -/
def State.baristaPreempt (s : State) (cl : ClusterIx) : State :=
  match s.readyGangs cl with
  | [] => s
  | g :: _ =>
    let busy := s.gangs.any fun k => k.cluster == some cl && (s.membersOf k).any (·.preempt)
    if busy || !(s.bindGroup g).all s.tilesReady || (s.gangFits g).isSome then s
    else
      match s.victim cl g with
      | some k => s.preemptGang k
      | none => s

/-! ### YIELD (R175) -/

/-- Another gang, of equal or higher present level, is ready for a core (R175). -/
def State.betterReady (s : State) (c : Ctx) (level : BitVec 2) : Bool :=
  s.gangs.any fun g => g.id != c.gang && g.cluster == some (clusterOf c.core) && g.level.toNat ≤ level.toNat
    && s.gangWaits g && (s.membersOf g).any fun m => m.core == c.core

/-- YIELD (R175). -/
def execYield (s : State) : Out :=
  let c := s.cx
  let s := s.advance
  match s.gangOf c with
  | some g =>
    if g.members.length = 1 && g.span = 0 && s.betterReady c g.level then
      let s := s.leaveSlot c.id
      .next { s with gangs := s.gangs.map fun k => if k.id = g.id then { k with readySince := s.cycle } else k }
    else .next s
  | none => .next s

/-! ### Stores, loads, fences (R79, R219, R242, R251) -/

/-- The context that a step of a slot concerns: the one bound there, or a frozen or leaving one that was, whose accesses
are still under way (R381). -/
def State.slotOwner (s : State) (sl : SlotId) : Option (BitVec 32) :=
  (s.boundAt sl) <|> ((s.allCtxs.find? fun c =>
    c.core == sl.core && c.slot == sl.slot && c.res != .bound && (!c.storeQ.isEmpty || !c.pend.isEmpty)).map (·.id))

/-- Forget a transaction. -/
def State.dropTxn (s : State) (label : Nat) : State := { s with txns := s.txns.filter fun t => t.label != label }

/-- A store that another chip has performed leaves its store queue (R250, R364). -/
def State.storeAcked (s : State) (id : BitVec 32) (txn : Nat) : State :=
  (s.updCtx id fun c => { c with storeQ := c.storeQ.filter fun e => e.sent != some txn }).dropTxn txn

/-- STORE_PERFORM (R219, R364): a store to another chip's window that has been sent performs there. -/
def execStorePerform (sl : SlotId) (i : Nat) (s : State) : Out :=
  .next (match s.slotOwner sl with
    | none => s
    | some id =>
      match (s.getCtx id).bind fun (c : Ctx) => (c.storeQ[i]?).map fun (e : StoreEntry) => (e.target, e.sent) with
      | some (.fabric chip _ _ _, some txn) => if chip = s.pkg.chip then s else s.storeAcked id txn
      | _ => s.performAt id i)

/-- A fault that has arrived late is taken by the current unit: the oldest of those that `p` lets it take (R81, R197,
R365). -/
def State.takeLate (s : State) (p : LateFault → Bool) : Option State :=
  (s.cx.late.find? p).map fun f => (s.updCx fun c => { c with late := c.late.erase f }).takeTrap f.cause f.val

/-- The waiting fence of a slot's context goes on once what it waits for has performed (R249 to R251); a store that has
failed traps there (R197, R365). -/
def State.fenceEnd (s : State) : State :=
  let s := s.drain s.cx.id
  match s.cx.wait with
  | .fence => (s.takeLate fun _ => true).getD (if s.cx.storeQ.isEmpty then s.finishWait else s)
  | .hfence h =>
    (s.takeLate fun f => f.handle.all (· == h)).getD (if s.cx.unperformed h then s else s.finishWait)
  | _ => s

/-- FENCE_COMPLETE (R251). -/
def execFenceComplete (sl : SlotId) (s : State) : Out := .next (s.withSlot sl State.fenceEnd)

/-- The pending instructions once the `i`-th has its answer: only its window stays, where it is still open. A frozen
context's windows are closed (R79, R382). -/
def Ctx.answered (c : Ctx) (i : Nat) (p : Pending) : List Pending :=
  if p.left = 0 || c.run == .frozen then c.pend.eraseIdx i else c.pend.set i { p with kind := .done, wr := none }

/-- The answer to a pending access of the current context arrives: its register is written and only its window stays, or
it goes where the window is over (R79, R242). -/
def State.pendAnswer (s : State) (i : Nat) (v : RegVal) : State :=
  match s.cx.pend[i]? with
  | none => s
  | some p =>
    let s := s.pendWrite p v
    s.updCx fun c => { c with pend := c.answered i p }

/-- A pending access fails: its fault is taken at a later unit (R81, R197, R365). -/
def State.pendFail (s : State) (i : Nat) (cause : Cause) (val : Word) (handle : Option (BitVec 24)) : State :=
  match s.cx.pend[i]? with
  | none => s
  | some p =>
    (s.updCx fun c => { c with pend := c.answered i p }).lateFault cause val handle

/-- The value that an answer's data gives a load or an atomic of a size (R241). -/
def answerValue (data : W256) (size : MemSize) (sign : Bool) : RegVal :=
  loadValue (toBytes data.toNat size.bytes) size sign false

/-- The events of an atomic whose old value a chip has returned go to its context (R247). -/
def State.atomEvents (s : State) (txn : Nat) (old : W256) : State :=
  match (s.txns.find? fun t => t.label == txn).map Txn.kind with
  | some (.atom fn w32 y) =>
    s.countOne ((AtomFn.ofCode fn.toNat).apply (if w32 then 32 else 64) (old.toNat % 2 ^ (if w32 then 32 else 64)) y).2
  | _ => s

/-- The answer to one element of a gather (R270): its lane takes the value; with the last one the register is written. -/
def State.laneAnswer (s : State) (i txn : Nat) (data : W256) : State :=
  match (s.cx.pend[i]?).map fun (p : Pending) => (p, p.kind) with
  | some (p, .gatherFar ts lanes n reach) =>
    let lane := ((ts.find? fun x => x.1 == txn).map Prod.snd).getD 0
    let v := lanes ||| (.ofNat 256 (data.toNat % 2 ^ (8 * n) * 2 ^ (8 * n * lane)))
    let rest := ts.filter fun x => x.1 != txn
    if rest.isEmpty then s.pendAnswer i ⟨v, false⟩
    else s.updCx fun c => { c with pend := c.pend.set i { p with kind := .gatherFar rest v n reach } }
  | _ => s

/-- LOAD_DATA_RETURN (R222, R242): the `i`-th pending access of the slot's context receives its data: of this package, or
brought by a link, or with an uncorrectable error. -/
def execLoadDataReturn (sl : SlotId) (i : Nat) (r : LoadReply) (s : State) : Out :=
  .next (match s.slotOwner sl with
    | none => s
    | some id => s.asCtx id fun s =>
        match s.cx.pend[i]? with
        | none => s
        | some p =>
          match r, p.kind with
          | .local_, _ => s.resolvePend i
          | .memError, .load .. | .memError, .value .. | .memError, .gather .. =>
            s.pendFail i .memError p.pc none
          | .memError, .remote txn .. => (s.pendFail i .memError p.pc none).dropTxn txn
          | .remote data, .remote txn size sign _ =>
            (State.pendAnswer (s.atomEvents txn data) i (answerValue data size sign)).dropTxn txn
          | .memError, .gatherFar .. => s.pendFail i .memError p.pc none
          | .remote data, .gatherFar ((txn, _) :: _) .. => (s.laneAnswer i txn data).dropTxn txn
          | _, _ => s)

/-- LONG_LATENCY_COMPLETION (R79): the `i`-th pending instruction of the slot's context completes, where it waits for
nothing beyond its context. -/
def execLongLatencyCompletion (sl : SlotId) (i : Nat) (s : State) : Out :=
  .next (match s.slotOwner sl with
    | none => s
    | some id => s.asCtx id fun s => s.completePend i)

end Sys2Proof.Machine
end

