-- ==== Sys2Proof/Machine/Jobs.lean ====
section
/-!
DEFINITION. Sys2Proof/Machine/Jobs.lean: how jobs start (R291, R315), the work times of R319, how jobs move their sectors
(R328, R368), NOP (R86), and the copy unit's CREPLAY and CABORT (R306, R307).
-/
namespace Sys2Proof.Machine

/-! ### Waiting at the start (R291) -/

/-- What the wait of a job finds (R291). -/
inductive WaitResult where
  | wait | skip | fault | go
deriving DecidableEq, Repr

/-- The check of `WLOC` and the barrier there (R291). -/
def State.jobWait (s : State) (e : EngineIx) (j : Job) : WaitResult :=
  if !j.waits then .go
  else
    match s.locKey j.launch (engineCluster e) j.wloc 16 with
    | none => .fault
    | some key =>
      let b := s.barAt key
      if b.poison then .skip else if b.phase = j.wphase - 1 then .wait else .go

/-! ### What an accumulating command declares (R310, R321, R323) -/

/-- The declared element type of an operand field; the word has passed ENQ's checks. -/
def operandType (w : W256) (lo : Nat) : ElemType := (elemOfCode (wf w lo 5)).getD .bf16

/-- Bytes of one operand tile (R310). -/
def operandBytes (t : ElemType) (p : Nat) : Nat := if t = .cx8 then 16384 else planeTile p

/-- What an accumulating command declares. -/
structure MmaSpec where
  ta : ElemType
  pa : Nat
  tb : ElemType
  pb : Nat
  afmt : Nat
  sat : Bool
  zero : Bool
deriving DecidableEq, Repr

/-- The fields of an MMA or MMAS word (R321, R323). -/
def MmaSpec.ofWord (w : W256) : MmaSpec :=
  let ta := operandType w 104
  let tb := operandType w 116
  { ta := ta, pa := planesOf ta (wf w 109 7), tb := tb, pb := planesOf tb (wf w 121 7), afmt := wf w 128 2
    sat := w.getLsbD 130, zero := w.getLsbD 131 }

/-- A locator of a job: the operand it names in a fault place, and its bytes. -/
structure Locator where
  opnd : Nat
  loc : BitVec 20
  bytes : Nat
deriving DecidableEq, Repr

/-- The operands of an MMA word. -/
def denseLocators (w : W256) : List Locator :=
  let m := MmaSpec.ofWord w
  [⟨1, w.extractLsb' 64 20, operandBytes m.ta m.pa⟩, ⟨2, w.extractLsb' 84 20, operandBytes m.tb m.pb⟩]

/-- Group size of an MMAS word (R324). -/
def sparseGroup (w : W256) : Nat := 8 * 2 ^ wf w 152 2

/-- The operands of an MMAS word. -/
def sparseLocators (w : W256) : List Locator :=
  let m := MmaSpec.ofWord w
  [⟨1, w.extractLsb' 64 20, operandBytes m.ta m.pa⟩,
   ⟨2, w.extractLsb' 84 20, 128 / sparseGroup w * operandBytes m.tb m.pb⟩, ⟨3, w.extractLsb' 132 20, 16384⟩]

/-! ### Work times (R319, R347) -/

/-- Bytes that a job reads from each member core: the greatest over the cores (R319). -/
def mostRead (locs : List Locator) : Nat :=
  (List.range 8).foldl (fun m k => Nat.max m ((locs.filter fun l => (l.loc.extractLsb' 17 3).toNat == k).map
    (·.bytes)).sum) 0

/-- ceil(a / b). -/
def ceilDiv (a b : Nat) : Nat := (a + b - 1) / b

/-- X of an accumulating job: array cycles, or the reads at 512 bytes a cycle (R319). -/
def mmaTime (m : MmaSpec) (locs : List Locator) : Nat :=
  Nat.max (ceilDiv (m.pa * m.pb) 4) (ceilDiv (mostRead locs) 512)

/-- A node that reaches a scratchpad of the cluster at these offsets (R319, R347). -/
def State.nearScratch (s : State) (cl : ClusterIx) (b : NodeBody) (off : Nat) : Bool :=
  match b with
  | .raw core _ | .plane core .. | .cx8 core _ | .stash core _ => clusterOf core == cl
  | .stack id => (s.getCtx id).any fun c => clusterOf c.stackCore == cl && 2 ^ 32 - c.stackSize ≤ off
  | _ => false

/-- An extra capability reaches a scratchpad of the engine's cluster. -/
def State.capNear (s : State) (e : EngineIx) (j : Job) (i : Nat) : Bool :=
  let k := j.extraCap i
  (s.handlePlace j.asid k k.offset.toNat).any fun p => s.nearScratch (engineCluster e) p.1 p.2

/-- Work time of moving sectors: near the engine at 512 bytes a cycle and at least `least`, elsewhere at 64 and one far
access (R319, R347). -/
def State.moveTime (s : State) (near : Bool) (least sectors : Nat) : Nat × State :=
  if near then (Nat.max least (ceilDiv (32 * sectors) 512), s)
  else let (l, s) := s.farLatency; (ceilDiv (32 * sectors) 64 + l, s)

/-- X of an MMA, MMAS, MZERO or MLDA (R319). -/
def State.jobWork (s : State) (e : EngineIx) (j : Job) : Nat × State :=
  if j.cmd = 0x10 then (mmaTime (MmaSpec.ofWord j.word) (denseLocators j.word), s)
  else if j.cmd = 0x11 then (mmaTime (MmaSpec.ofWord j.word) (sparseLocators j.word), s)
  else if j.cmd = 0x12 then (64, s)
  else s.moveTime (s.capNear e j 0) 64 1024

/-! ### Starting a job (R291, R315) -/

/-- `VALUE0` of a job that ends without its work: the cycles of an MMA, MMAS, MZERO or MLDA, which last as R319 states
(DEDUCED, log entry 38); the slot's `GEN` for RED and WREL; else nothing (R318, R343). -/
def State.idleValue0 (s : State) (e : EngineIx) (j : Job) : BitVec 32 × State :=
  if 0x10 ≤ j.cmd.toNat ∧ j.cmd.toNat ≤ 0x13 then let (x, s) := s.jobWork e j; s.jobCycles x
  else if j.cmd = 0x20 ∨ j.cmd = 0x22 then
    (((s.cluster (engineCluster e)).wit[j.acc.toNat]'j.acc.isLt).gen.setWidth 32, s)
  else (0, s)

/-- A job ends at its start: SKIPPED_POISON, or a fault with its fault place. -/
def State.endAtStart (s : State) (e : EngineIx) (j : Job) (code cause : BitVec 8) (place : BitVec 32) : State :=
  let (v, s) := s.idleValue0 e j
  s.endJob e j.id code cause v place

/-- A job of this command starts after the engine's earlier jobs have ended: every one of a matrix engine or copy unit
(R291, R315), a plan of Siphon (R376), a NOP wherever it runs (R86, R319). -/
def EngineKind.serial (k : EngineKind) (cmd : BitVec 8) : Bool :=
  match k with
  | .matrix | .copy => true
  | .siphon => cmd == 0x40 || cmd == 0x41 || cmd == 0
  | .bulk | .port => cmd == 0

/-- The engine's next job runs, if it is this command and may start; otherwise nothing happens (R291, R315). `place`:
the command reports a fault place. -/
def State.runHead (s : State) (e : EngineIx) (kind : EngineKind) (cmd : BitVec 8) (place : Bool)
    (run : Job → State → State) : Out :=
  let g := s.engine e
  match g.head with
  | none => .next s
  | some j =>
    if engineKind e ≠ kind ∨ j.cmd ≠ cmd ∨ (kind.serial cmd && g.oneBusy) = true then .next s
    else
      match s.jobWait e j with
      | .wait => .next s
      | .skip => .next (s.endAtStart e j 3 0 0)
      | .fault => .next (s.endAtStart e j 4 0x05 (if place then faultPlace 10 0 else 0))
      | .go => .next (run j s)

/-- A job of this command that has paused among its sectors, and that containment does not hold (log entry 67). -/
def Engine.paused (g : Engine) (cmd : BitVec 8) : Option Job :=
  g.jobs.find? fun j => j.stage == .running && j.cmd == cmd && j.todo.isSome && !j.parked && !g.frozen.contains j.asid

/-- A command whose jobs move sectors: one that has paused goes on, else the engine's next job runs. -/
def State.runMoves (s : State) (e : EngineIx) (kind : EngineKind) (cmd : BitVec 8) (place : Bool)
    (start go : Job → State → State) : Out :=
  match (s.engine e).paused cmd with
  | some j => .next (go j s)
  | none => s.runHead e kind cmd place start

/-! ### Moving sectors (R328, R368) -/

/-- How far a run of a job has come: the pieces left, the events of packing, what stopped it, the state. -/
structure Moved (β : Type) where
  left : List Piece
  evs : List Ev
  bad : Option β
  state : State

/-- One piece after another is done, in an order that is left open (R6; log entry 10), until none is left, one fails or
`fuel` are done. -/
def pieceLoop {β : Type} (go : Piece → State → Except β (List Piece × List Ev × State)) :
    Nat → List Piece → List Ev → State → Moved β
  | 0, ps, evs, s => ⟨ps, evs, none, s⟩
  | fuel + 1, ps, evs, s =>
    let (i, s) := if ps.length = 1 then (0, s) else s.pick ps.length
    match ps[i]? with
    | none => ⟨ps, evs, none, s⟩
    | some p =>
      match go p s with
      | .error b => ⟨ps, evs, some b, s⟩
      | .ok (more, ev, s) => pieceLoop go fuel (more ++ ps.eraseIdx i) (evs ++ ev) s

/-- How many pieces the next run of a job does before it pauses: `all` of them once no slice is given (log entry 67). -/
def State.slice (s : State) (all : Nat) : Nat × State :=
  match s.slices with
  | [] => (all, s)
  | n :: rest => (n, { s with slices := rest })

/-- A run of a job that moves sectors. -/
def State.runPieces {β : Type} (s : State) (go : Piece → State → Except β (List Piece × List Ev × State)) (all : Nat)
    (ps : List Piece) : Moved β :=
  let (n, s) := s.slice all
  pieceLoop go n ps [] s

/-! ### NOP -/

/-- NOP (R86): it ends DONE with both values 0. It makes none of R316's checks: an arrival at a `CLOC` outside the
allotment does nothing (DESIGN CHOICE, log entry 38). -/
def execNop (e : EngineIx) (s : State) : Out :=
  s.runHead e (engineKind e) 0x00 false fun j s => s.endJob e j.id 0 0 0 0

/-! ### CREPLAY and CABORT (R306, R307) -/

/-- One parked sector is tried again. -/
def replayPiece (e : EngineIx) (id : BitVec 16) (p : Piece) (s : State) :
    Except Bad (List Piece × List Ev × State) :=
  match p with
  | .move k => .ok ([], [], s.trySector e id k)
  | .put .. => .ok ([], [], s)

/-- CREPLAY (R306, R424): the parked sectors are tried again, as one pass. -/
def execCreplay (e : EngineIx) (s : State) : Out :=
  s.runHead e .copy 0x30 false fun j s =>
    match s.jobXfer e j with
    | none => s.endJob e j.id 0 0 0 0
    | some x =>
      let s := s.updJob e j.id fun j => { j with xbar := x.regs.bar }
      if x.parked.isEmpty then s.endJob e j.id 0 0 0 0
      else
        let s := s.updXfer e x.id fun y => { y with todo := y.todo ++ x.parked, parked := [], faultPages := [] }
        let s := (pieceLoop (replayPiece e x.id) x.parked.length (x.parked.map .move) [] s).state
        match s.xferOf e x.id with
        | some y =>
          let n := y.parked.length
          let s := s.settleXfer e x.id
          s.endJob e j.id (if n = 0 then 0 else 4) (if n = 0 then 0 else y.cause) (.ofNat 32 (y.written - x.written))
            (.ofNat 32 n)
        | none =>
          -- a fault that poisons has ended the transfer
          let w := (s.engine e).statusOf j.asid x.id
          s.endJob e j.id 4 (w.extractLsb' 8 8) (.ofNat 32 ((w.extractLsb' 64 32).toNat - x.written)) 0

/-- CABORT (R307): the transfer is stopped, its barrier poisoned, its entry freed. -/
def execCabort (e : EngineIx) (s : State) : Out :=
  s.runHead e .copy 0x31 false fun j s =>
    match s.jobXfer e j with
    | none => s.endJob e j.id 0 0 0 0
    | some x =>
      let s := s.updJob e j.id fun j => { j with xbar := x.regs.bar }
      let s := match s.xferBar (engineCluster e) x Bar.poisoned with
        | .ok s => s
        | .error _ => s
      (s.endXfer e x 6 0).endJob e j.id 0 0 (.ofNat 32 x.written) 0

end Sys2Proof.Machine
end

