-- ==== Sys2Proof/Machine/Matrix.lean ====
section
/-!
DEFINITION. Sys2Proof/Machine/Matrix.lean: the six matrix tile commands (R309 to R331). The reads of a job and its commit to
the working bank are one step: of the instants that R311 allows for the reads of its blocks, the model takes one for all of
them (DESIGN CHOICE, log entry 67). MSTA and MCVT move their sectors in an open order and may pause among them (R328).
-/
namespace Sys2Proof.Machine

/-! ### The start checks (R309, R316) -/

/-- The first start check that fails: its cause and operand (R316, R343). No access is made, so `POS` is 0. `extras` are
the operands that the job's extra capabilities are. -/
def State.startBad (s : State) (e : EngineIx) (j : Job) (locs : List Locator) (extras : List Nat) :
    Option (BitVec 8 × Nat) :=
  let cl := engineCluster e
  let locs := locs ++ (if j.arrives then [⟨5, j.cloc, 16⟩] else [])
  if !s.ownsTile cl j.acc.toNat j.asid then some (Cause.capPerm.code, 6)
  else
    match locs.find? fun l => (s.locKey j.launch cl l.loc l.bytes).isNone with
    | some l => some (Cause.capBounds.code, l.opnd)
    | none =>
      (extras.zipIdx.find? fun (_, i) =>
        (s.openNode j.asid (j.extraCap i).handle (j.extraCap i).gen).isNone).map fun x => (Cause.capStale.code, x.1)

/-- Run a job past its start checks. -/
def State.started (s : State) (e : EngineIx) (j : Job) (locs : List Locator) (extras : List Nat)
    (run : State → State) : State :=
  match s.startBad e j locs extras with
  | some (cause, opnd) => s.endAtStart e j 4 cause (faultPlace opnd 0)
  | none => run s

/-- Where a checked locator lies. -/
def State.locAt (s : State) (e : EngineIx) (j : Job) (loc : BitVec 20) : Nat :=
  (s.locKey j.launch (engineCluster e) loc 0).getD 0

/-! ### Operands (R310, R311) -/

/-- One block of an operand as the array computes on it: cx8 is expanded at the declared planes (R100, R311). -/
def State.operandBlock (s : State) (key : Nat) (t : ElemType) (p r j : Nat) : PlaneBlock × List Ev :=
  if t = .cx8 then packCx p (s.nat (key + 256 * r + 32 * j) 32)
  else (s.planeBlock key t p ⟨0, r, j, 0⟩, [])

/-- A row of blocks. -/
abbrev BlockRow := List PlaneBlock

/-- The 64 rows of an operand of `tiles` tiles, and the events of expanding it. -/
def State.operandRows (s : State) (key : Nat) (t : ElemType) (p tiles : Nat) : List BlockRow × List Ev :=
  let rows := (List.range 64).map fun r =>
    (List.range tiles).flatMap fun i => (List.range 8).map fun j => s.operandBlock (key + i * operandBytes t p) t p r j
  (rows.map fun r => r.map (·.1), rows.flatMap fun r => r.flatMap (·.2))

/-! ### Sums (R105, R106, R325) -/

/-- σ of an operand's block (R105). -/
def sigma (t : ElemType) (p : Nat) (b : PlaneBlock) : Int :=
  if t.isInt then 0 else sextInt b.eb 16 - ((p : Int) - 2)

/-- One pair of blocks and the element pairs that meet in it: A block, B block, and (index in A, index in B). -/
structure Meeting where
  a : Nat
  b : Nat
  pairs : List (Nat × Nat)
deriving DecidableEq, Repr

/-- The exact sum of a meeting. -/
def Meeting.sum (m : Meeting) (ra rb : BlockRow) : Int :=
  match ra[m.a]?, rb[m.b]? with
  | some x, some y => (m.pairs.map fun (i, k) => x.a.getD i 0 * y.a.getD k 0).sum
  | _, _ => 0

/-- The meetings of MMA: block b of A with block b of B (R105). -/
def denseMeetings : List Meeting :=
  (List.range 8).map fun b => ⟨b, b, (List.range 32).map fun i => (i, i)⟩

/-- The meetings of a row of MMAS whose kept elements have these logical indices, which rise (R325). -/
def sparseMeetings (ks : List Nat) : List Meeting :=
  (List.range 8).flatMap fun b =>
    let js := ((ks.drop (32 * b)).take 32).zipIdx
    let cs := js.foldl (fun cs (k, _) => insertSorted (k / 32) cs) []
    cs.map fun c => ⟨b, c, (js.filter fun x => x.1 / 32 == c).map fun (k, i) => (i, k % 32)⟩

/-- The type that an accumulator format reads and writes (R312): f32, f64, s32. -/
def accType : Nat → ElemType
  | 0 => .f32 | 1 => .f64 | _ => .s32

/-- One step of the block loop (R105): a special block makes NaN, an acc that is NaN stays NaN, and each block rounds
once. -/
def accStep (f : Fmt) (acc : Num × Ev) (special : Bool) (sum sg : Int) : Num × Ev :=
  if special then (.nan false, acc.2 ||| evNan)
  else if acc.1.isNan then acc
  else
    let v : Num := if sum = 0 then .fin false 0 0 else .fin (sum < 0) sum.natAbs sg
    let (r, e) := f.round .rne false (acc.1.add .rne v).1
    (f.decode r, acc.2 ||| e)

/-- One output (m, n) from the working-bank bits: its 64 stored bits and its events (R105, R106, R325). A signalling NaN
read from the bank counts as invalid (R90; log entry 50). -/
def MmaSpec.output (m : MmaSpec) (meets : List Meeting) (ra rb : BlockRow) (old : Nat) : Nat × Ev :=
  if m.ta.isInt && m.tb.isInt then
    let sum := (meets.map fun x => x.sum ra rb).sum + (if m.zero then 0 else sextInt old 32)
    if m.sat && (sum < -(2 ^ 31) || 2 ^ 31 ≤ sum) then
      (wrapNat (if sum < 0 then -(2 ^ 31) else 2 ^ 31 - 1) 32, evSat)
    else (wrapNat sum 32, 0)
  else
    match (accType m.afmt).fmt with
    | none => (old, 0)
    | some f =>
      let start : Num := if m.zero then .fin false 0 0 else f.decode (old % 2 ^ f.width)
      let (v, ev) := meets.foldl (fun acc x =>
        let ba := ra.getD x.a ⟨0, []⟩
        let bb := rb.getD x.b ⟨0, []⟩
        accStep f acc (ba.eb == ebSpecial || bb.eb == ebSpecial) (x.sum ra rb)
          (sigma m.ta m.pa ba + sigma m.tb m.pb bb)) (start, start.sigEv)
      ((f.round .rne false v).1, ev)

/-! ### Banks (R312) -/

/-- Where a bank of the job's tile lies. -/
def State.bankKey (s : State) (e : EngineIx) (j : Job) (visible : Bool) : Nat :=
  let cl := engineCluster e
  (Place.acc cl j.acc (s.visibleBank cl j.acc.toNat == visible) 0).key

/-- Element `i` of a bank: 64 bits. -/
def State.bankElem (s : State) (e : EngineIx) (j : Job) (visible : Bool) (i : Nat) : Nat :=
  s.nat (s.bankKey e j visible + 8 * i) 8

/-- Commit to the working bank (R315). -/
def State.commitBank (s : State) (e : EngineIx) (j : Job) (bs : List Byte) : State :=
  s.write (s.bankKey e j false) bs

/-! ### Faults of a running job (R317, R318) -/

/-- An access fails during a job (R317, R318). -/
def State.accessFault (s : State) (e : EngineIx) (j : Job) (b : Bad) (wr : Bool) (opnd pos : Nat) (v0 : BitVec 32) : State :=
  (s.engFault e j.asid (j.id.setWidth 32) b wr).endJob e j.id 4 b.1.code v0 (faultPlace opnd pos)

/-- An uncorrectable error in what a job reads ends it (R317). `parts` are the operands read and their sectors; which of
them holds the error, and whether a later access meets it instead, is left open (log entry 10). -/
def State.cleanRead (s : State) (e : EngineIx) (j : Job) (parts : List (Nat × Nat)) (x : Nat) (run : State → State) : State :=
  if s.memErr then
    let (p, s) := s.pick (parts.length + 1)
    match parts[p]? with
    | none => run s
    | some (opnd, sectors) =>
      let (pos, s) := s.pick (Nat.max 1 sectors)
      let (v0, s) := s.jobCycles x
      s.accessFault e j (.memError, 0) false opnd pos v0
  else run s

/-- What an MMA or MMAS reads: its operands, and the working bank unless it starts from zero (R323). -/
def mmaParts (m : MmaSpec) (locs : List Locator) : List (Nat × Nat) :=
  locs.map (fun l => (l.opnd, l.bytes / 32)) ++ (if m.zero then [] else [(6, 1024)])

/-! ### MMA and MMAS (R323 to R325) -/

/-- The outputs of a tile, row by row, and their events, with the meetings of each row. -/
def State.mmaOutputs (s : State) (e : EngineIx) (j : Job) (m : MmaSpec) (ra rb : List BlockRow)
    (meets : Nat → List Meeting) : List (Nat × Ev) :=
  (ra.zipIdx).flatMap fun (a, r) =>
    let ms := meets r
    rb.zipIdx.map fun (b, c) => m.output ms a b (s.bankElem e j false (64 * r + c))

/-- The outputs are committed and the job is DONE (R315). -/
def State.mmaCommit (s : State) (e : EngineIx) (j : Job) (outs : List (Nat × Ev)) (trunc : List Ev) (x : Nat) : State :=
  let (v0, s) := s.jobCycles x
  (s.commitBank e j (outs.flatMap fun o => toBytes o.1 8)).endJob e j.id 0 0 v0 0 (evCounts (outs.map (·.2) ++ trunc))

/-- MMA (R323). -/
def execMma (e : EngineIx) (s : State) : Out :=
  s.runHead e .matrix 0x10 true fun j s =>
    let m := MmaSpec.ofWord j.word
    let la := j.word.extractLsb' 64 20
    let lb := j.word.extractLsb' 84 20
    let locs := denseLocators j.word
    s.started e j locs [] fun s =>
      s.cleanRead e j (mmaParts m locs) (mmaTime m locs) fun s =>
      let (ra, ta) := s.operandRows (s.locAt e j la) m.ta m.pa 1
      let (rb, tb) := s.operandRows (s.locAt e j lb) m.tb m.pb 1
      s.mmaCommit e j (s.mmaOutputs e j m ra rb fun _ => denseMeetings) (ta ++ tb) (mmaTime m locs)

/-- The index bytes of one row are such as R324 allows, with groups of `n`. -/
def indexRowOk (n : Nat) (bs : List Byte) : Bool :=
  bs.all (fun b => !b.getLsbD 7) &&
    (List.range 255).all fun j => (j + 1) % n == 0 || (bs.getD j 0).toNat < (bs.getD (j + 1) 0).toNat

/-- MMAS (R325). -/
def execMmas (e : EngineIx) (s : State) : Out :=
  s.runHead e .matrix 0x11 true fun j s =>
    let m := MmaSpec.ofWord j.word
    let n := sparseGroup j.word
    let la := j.word.extractLsb' 64 20
    let lb := j.word.extractLsb' 84 20
    let lx := j.word.extractLsb' 132 20
    let tiles := 128 / n
    let locs := sparseLocators j.word
    s.started e j locs [] fun s =>
      let x := mmaTime m locs
      s.cleanRead e j (mmaParts m locs) x fun s =>
      let ix (r : Nat) : List Byte := s.bytes (s.locAt e j lx + 256 * r) 256
      match (List.range 64).find? fun r => !indexRowOk n (ix r) with
      | some r =>
        let (v0, s) := s.jobCycles x
        s.endJob e j.id 7 0 v0 (faultPlace 3 r)
      | none =>
        let (ra, ta) := s.operandRows (s.locAt e j la) m.ta m.pa 1
        let (rb, tb) := s.operandRows (s.locAt e j lb) m.tb m.pb tiles
        let ks (r : Nat) : List Nat := (ix r).zipIdx.map fun (b, i) => 128 * (i / n) + b.toNat
        s.mmaCommit e j (s.mmaOutputs e j m ra rb fun r => sparseMeetings (ks r)) (ta ++ tb) x

/-! ### MZERO, MLDA, MSTA (R326 to R328) -/

/-- MZERO (R326). -/
def execMzero (e : EngineIx) (s : State) : Out :=
  s.runHead e .matrix 0x12 true fun j s =>
    s.started e j [] [] fun s =>
      let zero := List.replicate 32768 (0 : Byte)
      let (v0, s) := s.jobCycles 64
      let s := s.commitBank e j zero
      let s := if j.word.getLsbD 64 then s.write (s.bankKey e j true) zero else s
      s.endJob e j.id 0 0 v0 0

/-- Read `n` sectors from a node offset; a fault names its sector. -/
def readSectors (cl : ClusterIx) (a : Asid) (k : Cap) : Nat → Nat → Nat → State → Except (Bad × Nat) (List Byte × State)
  | 0, _, _, s => .ok ([], s)
  | n + 1, off, pos, s =>
    match engRead cl a k 64 off 32 s with
    | .error b => .error (b, pos)
    | .ok (bs, s) =>
      match readSectors cl a k n (off + 32) (pos + 1) s with
      | .error b => .error b
      | .ok (rest, s) => .ok (bs ++ rest, s)

/-- MLDA (R328). -/
def execMlda (e : EngineIx) (s : State) : Out :=
  s.runHead e .matrix 0x13 true fun j s =>
    s.started e j [] [4] fun s =>
      let k := j.extraCap 0
      let (x, s) := s.moveTime (s.capNear e j 0) 64 1024
      let (v0, s) := s.jobCycles x
      match readSectors (engineCluster e) j.asid k 1024 k.offset.toNat 0 s with
      | .error (b, pos) => s.accessFault e j b false 4 pos v0
      | .ok (bs, s) => (s.commitBank e j bs).endJob e j.id 0 0 v0 0

/-- A job that writes the sectors of a bank goes on (R317, R328, R330): it ends once every sector is written, or at the first
that fails; else it pauses. `total` is the number of its sectors, `own` its events by element, but for packing; a job that
counts keeps the events of packing. -/
def State.writeJob (s : State) (e : EngineIx) (j : Job) (total : Nat) (own : List Ev) (counts : Bool)
    (go : Piece → State → Except (Bad × Nat) (List Piece × List Ev × State)) : State :=
  let todo := j.todo.getD ((List.range total).map .move)
  let m := s.runPieces go todo.length todo
  let sum := if counts then (evCounts m.evs).zipWith (· + ·) (j.counts ++ List.replicate 8 0) else []
  let n := total - m.left.length
  match m.bad with
  | some (b, pos) => m.state.accessFault e j b (b.1 != .memError) (if b.1 = .memError then 6 else 4) pos (.ofNat 32 n)
  | none =>
    if m.left.isEmpty then
      m.state.endJob e j.id 0 0 (.ofNat 32 n) 0 (if counts then sum.zipWith (· + ·) (evCounts own) else [])
    else
      m.state.updJob e j.id fun j => { j with stage := .running, todo := some m.left, counts := sum }

/-- A sector of a bank's data goes out (R227, R317): the data may meet an error; `at_` is its offset from `OFFSET`. -/
def State.storeSector (s : State) (e : EngineIx) (j : Job) (at_ : Nat) (bs : List Byte) :
    Except (Bad × Nat) (List Piece × List Ev × State) :=
  let k := j.extraCap 0
  let off := k.offset.toNat + at_
  let (met, s) := s.meetError
  if met then .error ((.memError, .ofNat 64 off), at_ / 32)
  else
    match s.engWriteSector (engineCluster e) j.asid k off bs with
    | .error b => .error (b, at_ / 32)
    | .ok (s, ev) => .ok ([], ev, s)

/-- One sector of MSTA. -/
def mstaPiece (e : EngineIx) (j : Job) (p : Piece) (s : State) : Except (Bad × Nat) (List Piece × List Ev × State) :=
  match p with
  | .move i => s.storeSector e j (32 * i) (s.bytes (s.bankKey e j (j.word.getLsbD 64) + 32 * i) 32)
  | .put .. => .ok ([], [], s)

/-- MSTA as far as it goes (R328). No later job of the engine and no ASWAP changes the bank until it has ended. -/
def State.runMsta (s : State) (e : EngineIx) (j : Job) : State := s.writeJob e j 1024 [] false (mstaPiece e j)

/-- MSTA (R328). -/
def execMsta (e : EngineIx) (s : State) : Out :=
  s.runMoves e .matrix 0x14 true (fun j s => s.started e j [] [4] fun s => s.idle.2.runMsta e j) fun j s => s.runMsta e j

/-! ### MCVT (R329, R330) -/

/-- One converted row: its bytes and its events. -/
def cvtRow (t : ElemType) (sat : Bool) (xs : List Num) : List Byte × List Ev :=
  if t = .cx8 then
    let (b0, e0) := cxEncode (xs.take 32)
    let (b1, e1) := cxEncode (xs.drop 32)
    (toBytes b0 32 ++ toBytes b1 32, (e0 ++ e1).zipWith (· ||| ·) (xs.map Num.sigEv))
  else
    let rs := xs.map (t.round .rne sat)
    (toBytes (rs.zipIdx.foldl (fun v (x, i) => v + x.1 * 2 ^ (t.bits * i)) 0) (8 * t.bits), rs.map (·.2))

/-- The rows of a converted tile: bytes and events. -/
def State.cvtRows (s : State) (e : EngineIx) (j : Job) : List (List Byte × List Ev) :=
  let w := j.word
  let src := accType (wf w 69 2)
  (List.range 64).map fun m => cvtRow ((elemOfCode (wf w 64 5)).getD .s32) (w.getLsbD 71) ((List.range 64).map fun n =>
    src.decode (s.bankElem e j (w.getLsbD 72) (64 * m + n) % 2 ^ src.bits))

/-- Bytes of a row of an MCVT word, and from row to row (R329). -/
def cvtPitch (w : W256) : Nat × Nat :=
  let rb := mcvtRow ((elemOfCode (wf w 64 5)).getD .s32)
  (rb, if wf w 80 16 = 0 then rb else wf w 80 16)

/-- One sector of MCVT: sectors are numbered row by row. -/
def mcvtPiece (e : EngineIx) (j : Job) (rows : List (List Byte)) (p : Piece) (s : State) :
    Except (Bad × Nat) (List Piece × List Ev × State) :=
  match p with
  | .move i =>
    let (rb, pitch) := cvtPitch j.word
    let m := i / (rb / 32)
    let c := i % (rb / 32)
    s.storeSector e j (m * pitch + 32 * c) (((rows.getD m []).drop (32 * c)).take 32)
  | .put .. => .ok ([], [], s)

/-- MCVT as far as it goes (R330). -/
def State.runMcvt (s : State) (e : EngineIx) (j : Job) : State :=
  let rows := s.cvtRows e j
  s.writeJob e j (64 * ((cvtPitch j.word).1 / 32)) (rows.flatMap (·.2)) true (mcvtPiece e j (rows.map (·.1)))

/-- MCVT (R330). -/
def execMcvt (e : EngineIx) (s : State) : Out :=
  s.runMoves e .matrix 0x15 true (fun j s => s.started e j [] [4] fun s => s.idle.2.runMcvt e j) fun j s => s.runMcvt e j

end Sys2Proof.Machine
end

