-- ==== Sys2Proof/Machine/Witness.lean ====
section
/-!
DEFINITION. Sys2Proof/Machine/Witness.lean: witness slots (R332 to R336), the operators (R337 to R341), and the tile
commands RED, ADJB and WREL (R342 to R349). A job runs in one step: of the instants at which its sectors may be read and
written, the model takes one for all of them (DESIGN CHOICE, log entry 67).
-/
namespace Sys2Proof.Machine

/-! ### Witness slots (R332, R346) -/

/-- A witness slot of a cluster. -/
def State.witSlot (s : State) (cl : ClusterIx) (n : BitVec 4) : WitSlot := (s.cluster cl).wit[n.toNat]'n.isLt
/-- Change a witness slot. -/
def State.updWit (s : State) (cl : ClusterIx) (n : BitVec 4) (f : WitSlot → WitSlot) : State :=
  s.updCluster cl fun k => { k with wit := k.wit.set n.toNat (f (k.wit[n.toNat]'n.isLt)) n.isLt }
/-- A witness is released (R346). -/
def WitSlot.release (w : WitSlot) : WitSlot := { w with gen := w.gen + 1, valid := false }

/-- mx.own<n> is written (R313, R332): the owner of tile `n` changes and the witness slot is released. -/
def State.setOwner (s : State) (cl : ClusterIx) (n : BitVec 4) (value : Word) : State :=
  let s := s.updCluster cl fun k => { k with own := k.own.set n.toNat (value.setWidth 10) n.isLt }
  s.updWit cl n WitSlot.release

/-- Barista writes mx.own<n> (R313, R455): it zeroes both banks before it writes a new owner. -/
def State.writeOwner (s : State) (cl : ClusterIx) (n : BitVec 4) (value : Word) : State :=
  if !value.getLsbD 9 then s.setOwner cl n value
  else
    let zero := List.replicate 32768 (0 : Byte)
    let s := s.write (Place.acc cl n false 0).key zero
    (s.write (Place.acc cl n true 0).key zero).setOwner cl n value

/-- MX_OWN_WRITE (R313, R332). -/
def execMxOwnWrite (cluster : ClusterIx) (n : BitVec 4) (value : Word) (s : State) : Out :=
  .next (s.writeOwner cluster n value)

/-! ### Shapes (R336) -/

/-- The shape of a reduction. -/
structure Shape where
  op : Nat
  tie : Nat
  axis : Nat
  g : Nat
  rows : Nat
  cols : Nat
deriving DecidableEq, Repr

/-- Rows of the output. -/
def Shape.orows (h : Shape) : Nat := if h.axis = 0 then h.rows / h.g else h.rows
/-- Columns of the output. -/
def Shape.ocols (h : Shape) : Nat := if h.axis = 0 then h.cols else h.cols / h.g
/-- Number of outputs. -/
def Shape.outputs (h : Shape) : Nat := h.orows * h.ocols
/-- The inputs of output `o`, in index order: row and column. -/
def Shape.group (h : Shape) (o : Nat) : List (Nat × Nat) :=
  let r := o / h.ocols
  let c := o % h.ocols
  (List.range h.g).map fun t => if h.axis = 0 then (h.g * r + t, c) else (r, h.g * c + t)
/-- Bytes of the witness body (R336). -/
def Shape.bodyBytes (h : Shape) : Nat :=
  if h.op ≤ 1 then (if h.tie ≤ 1 then h.outputs else ceilDiv (h.rows * h.cols) 8)
  else if h.op = 2 then ceilDiv (h.rows * h.cols) 4
  else 2 * h.outputs

/-- Bytes of a witness tile: whole sectors (R335). -/
def witTileBytes (body : Nat) : Nat := ceilDiv (32 + body) 32 * 32

/-! ### Values (R337) -/

/-- The rank of a value's bits in the total order; every NaN ranks alike, above +inf. -/
def rankOf (t : ElemType) (b : Nat) : Int :=
  match t.fmt with
  | none => sextInt b t.bits
  | some f =>
    if (f.decode b).isNan then 2 ^ 64
    else
      let m : Int := (b % 2 ^ (t.bits - 1) : Nat)
      if bitsOf b (t.bits - 1) 1 = 1 then -m - 1 else m

/-- A NaN of the type; s32 has none. -/
def isNanBits (t : ElemType) (b : Nat) : Bool := (t.decode b).isNan
/-- The canonical NaN of the type (R90). -/
def nanOf (t : ElemType) : Nat := (t.fmt.map Fmt.nanBits).getD 0

/-- What an operator gives: the value's bits, the two witness numbers (or the tied inputs for ALL), and the events but
those of signalling inputs. -/
structure RedOut where
  v : Nat
  w0 : Nat := 0
  w1 : Nat := 0
  ties : List Nat := []
  ev : Ev := 0
deriving DecidableEq, Repr

/-- The result of the input that leads a list of indexed inputs under `better`, which prefers its first argument. -/
def leader (better : Nat → Nat → Bool) (xs : List (Nat × Nat)) : Nat × Nat :=
  match xs with
  | [] => (0, 0)
  | x :: rest => rest.foldl (fun b y => if better y.1 b.1 then y else b) x

/-- MAX and MIN (R338). -/
def redExtreme (t : ElemType) (min : Bool) (tie : Nat) (xs : List Nat) : RedOut :=
  let ix := xs.zipIdx
  match ix.find? fun x => isNanBits t x.1 with
  | some (_, i) => { v := nanOf t, w0 := i, ties := [i], ev := evNan }
  | none =>
    let (v, first) := leader (fun a b => if min then rankOf t a < rankOf t b else rankOf t b < rankOf t a) ix
    let tied := (ix.filter fun x => rankOf t x.1 == rankOf t v).map (·.2)
    { v := v, w0 := if tie = 1 then tied.getLastD first else first, ties := tied }

/-- CLAMP (R339). -/
def redClamp (t : ElemType) (lo hi x : Nat) : RedOut :=
  if isNanBits t x then { v := nanOf t, w0 := 3, ev := evNan }
  else if rankOf t x < rankOf t lo then { v := lo, w0 := 1 }
  else if rankOf t hi < rankOf t x then { v := hi, w0 := 2 }
  else { v := x }

/-- Insert an input in the order of (value, index). -/
def insertRanked (t : ElemType) (x : Nat × Nat) : List (Nat × Nat) → List (Nat × Nat)
  | [] => [x]
  | y :: ys => if rankOf t y.1 ≤ rankOf t x.1 then y :: insertRanked t x ys else x :: y :: ys

/-- MEDIAN (R340). -/
def redMedian (t : ElemType) (xs : List Nat) : RedOut :=
  let sorted := xs.zipIdx.foldl (fun l x => insertRanked t x l) []
  let n := xs.length
  let a := sorted.getD ((n - 1) / 2) (0, 0)
  let b := sorted.getD (n / 2) (0, 0)
  let lo := Nat.min a.2 b.2
  let hi := Nat.max a.2 b.2
  if isNanBits t a.1 || isNanBits t b.1 then { v := nanOf t, w0 := lo, w1 := hi, ev := evNan }
  else if n % 2 = 1 then { v := a.1, w0 := lo, w1 := hi }
  else
    match t.fmt with
    | none => { v := wrapNat ((sextInt a.1 t.bits + sextInt b.1 t.bits) / 2) t.bits, w0 := lo, w1 := hi }
    | some f =>
      let half : Num := match (f.decode a.1).add .rne (f.decode b.1) |>.1 with
        | .fin n m e => .fin n m (e - 1)
        | x => x
      let (v, ev) := f.round .rne false half
      { v := v, w0 := lo, w1 := hi, ev := ev &&& (evInexact ||| evNan) }

/-- The running sum of SATSUM over the inputs from index `t` on (R341): `ev` are the events so far. -/
def satFrom (ty : ElemType) : List Nat → Nat → Nat → Nat → Nat → Ev → RedOut
  | [], _, sum, idx, dir, ev => { v := sum, w0 := idx, w1 := dir, ev := ev ||| evIf (dir == 1 || dir == 2) evSat }
  | x :: xs, t, sum, idx, dir, ev =>
    if isNanBits ty x then { v := nanOf ty, w0 := t, w1 := 3, ev := ev ||| evNan }
    else
      match ty.fmt with
      | none =>
        let r := sextInt sum 32 + sextInt x 32
        if 2 ^ 31 ≤ r then satFrom ty xs (t + 1) (wrapNat (2 ^ 31 - 1) 32) t 1 ev
        else if r < -(2 ^ 31) then satFrom ty xs (t + 1) (wrapNat (-(2 ^ 31)) 32) t 2 ev
        else satFrom ty xs (t + 1) (wrapNat r 32) idx dir ev
      | some f =>
        let (r, e) := f.round .rne false ((f.decode sum).add .rne (f.decode x)).1
        let ev := ev ||| (e &&& evInexact)
        match f.decode r with
        | .inf false => satFrom ty xs (t + 1) (f.maxBits false) t 1 ev
        | .inf true => satFrom ty xs (t + 1) (f.maxBits true) t 2 ev
        | _ => satFrom ty xs (t + 1) r idx dir ev

/-- One output of RED (R337 to R341); a signalling NaN input counts invalid (R349). -/
def redOutput (t : ElemType) (h : Shape) (lo hi : Nat) (xs : List Nat) : RedOut :=
  let r := match h.op with
    | 0 => redExtreme t false h.tie xs
    | 1 => redExtreme t true h.tie xs
    | 2 => redClamp t lo hi (xs.headD 0)
    | 3 => redMedian t xs
    | _ => satFrom t xs 0 0 0xFF 0 0
  { r with ev := r.ev ||| evIf (xs.any fun x => (t.decode x).sigEv != 0) evInvalid }

/-- The body of the witness tile (R336). -/
def witBody (h : Shape) (rs : List RedOut) : List Byte :=
  let num (i j : Nat) : Nat := h.cols * i + j
  if h.op ≤ 1 then
    if h.tie ≤ 1 then rs.map fun r => .ofNat 8 r.w0
    else
      let marks := rs.zipIdx.flatMap fun (r, o) =>
        r.ties.map fun t => let (i, j) := (h.group o).getD t (0, 0); num i j
      toBytes (marks.foldl (fun v e => v + 2 ^ e) 0) h.bodyBytes
  else if h.op = 2 then
    toBytes (rs.zipIdx.foldl (fun v (r, e) => v + r.w0 * 2 ^ (2 * e)) 0) h.bodyBytes
  else rs.flatMap fun r => [.ofNat 8 r.w0, .ofNat 8 r.w1]

/-- The header of the witness tile (R335). -/
def witHeader (h : Shape) (type : Nat) (j : Job) (gen : BitVec 24) : Nat :=
  h.op + h.tie * 2 ^ 4 + h.axis * 2 ^ 6 + (h.g - 1) * 2 ^ 8 + (h.rows - 1) * 2 ^ 16 + (h.cols - 1) * 2 ^ 24
    + type * 2 ^ 32 + j.id.toNat * 2 ^ 48 + gen.toNat * 2 ^ 64 + (j.extraCap 0).handle.toNat * 2 ^ 96
    + j.tid.toNat * 2 ^ 128 + h.bodyBytes * 2 ^ 144

/-! ### Tiles in memory -/

/-- Read the sectors of a list, each at one instant; a fault names its sector. -/
def readSectorList (cl : ClusterIx) (a : Asid) (k : Cap) :
    List Nat → State → Except (Bad × Nat) (List (Nat × List Byte) × State)
  | [], s => .ok ([], s)
  | c :: cs, s =>
    match engRead cl a k 64 (32 * c) 32 s with
    | .error b => .error (b, c)
    | .ok (bs, s) =>
      match readSectorList cl a k cs s with
      | .error b => .error b
      | .ok (rest, s) => .ok ((c, bs) :: rest, s)

/-- The distinct sectors of elements at these offsets, rising. -/
def sectorsOf (offs : List Nat) : List Nat := offs.foldl (fun l o => insertSorted (o / 32) l) []

/-- An element of `es` bytes at an offset, from the sectors read. -/
def elemAt (secs : List (Nat × List Byte)) (off es : Nat) : Nat :=
  match secs.lookup (off / 32) with
  | some bs => ofBytes ((bs.drop (off % 32)).take es)
  | none => 0

/-- What a job writes of one sector: the bytes of its results, merged with what stands there where the window takes whole
sectors only (R103, R328, R343). -/
def State.mergeSector (s : State) (cl : ClusterIx) (a : Asid) (k : Cap) (c : Nat) (bs : List (Option Byte)) :
    Except Bad (List (Option Byte) × State) :=
  if bs.all (·.isSome) || !(s.handlePlace a k (32 * c)).any (fun p => p.1.wholeSectors) then .ok (bs, s)
  else
    match s.engReach cl a k .read (32 * c) 32 with
    | .error b => .error b
    | .ok (t, s) =>
      let old := (s.readTarget {} t 32).1
      .ok (bs.zipIdx.map fun (b, i) => some (b.getD (old.getD i 0)), s)

/-- Write elements, sector by sector: the sectors written, and the fault with its sector. What packing truncates at a plane
window counts nothing: R349 lists what RED and ADJB count (DEDUCED, log entry 67). -/
def writeSectorList (cl : ClusterIx) (a : Asid) (k : Cap) (es : List (Nat × List Byte)) :
    List Nat → Nat → State → Nat × Option (Bad × Nat) × State
  | [], n, s => (n, none, s)
  | c :: cs, n, s =>
    match s.mergeSector cl a k c (sectorBytes c (es.filter fun x => x.1 / 32 == c)) with
    | .error b => (n, some (b, c), s)
    | .ok (bs, s) =>
      match writeRuns cl a k (byteRuns (32 * c) bs) [] s with
      | .error b => (n, some (b, c), s)
      | .ok (s, _) => writeSectorList cl a k es cs (n + 1) s

/-! ### RED (R342, R343) -/

/-- The shape that a RED word gives. -/
def redShape (w : W256) : Shape :=
  { op := wf w 64 4, tie := wf w 68 2, axis := wf w 70 1, g := wf w 80 8 + 1, rows := wf w 88 8 + 1
    cols := wf w 96 8 + 1 }

/-- The shape that an ADJB word expects. -/
def adjShape (w : W256) (tie : Nat) : Shape :=
  { op := wf w 128 4, tie := tie, axis := wf w 134 1, g := wf w 144 8 + 1, rows := wf w 152 8 + 1
    cols := wf w 160 8 + 1 }

/-- Offsets of a rows x cols tile, row-major. -/
def tileOffsets (base rows cols pitch stride : Nat) : List Nat :=
  (List.range rows).flatMap fun i => (List.range cols).map fun j => base + i * pitch + j * stride

/-- RED past its start checks (R343). -/
def State.runRed (s : State) (e : EngineIx) (j : Job) : State :=
  let cl := engineCluster e
  let w := j.word
  let h := redShape w
  let t := operandType w 72
  let es := t.bits / 8
  let src := j.extraCap 0
  let out := j.extraCap 1
  let stride := if wf w 104 8 = 0 then es else wf w 104 8
  let pitch := if wf w 112 16 = 0 then h.cols * stride else wf w 112 16
  let opitch := if wf w 128 16 = 0 then h.ocols * es else wf w 128 16
  let s := s.updWit cl j.acc fun x => if x.valid then x.release else x
  let gen := (s.witSlot cl j.acc).gen
  let v0 : BitVec 32 := gen.setWidth 32
  let (_, s) := s.idle
  let offs := tileOffsets src.offset.toNat h.rows h.cols pitch stride
  match readSectorList cl j.asid src (sectorsOf offs) s with
  | .error (b, c) => s.accessFault e j b false 4 (c - src.offset.toNat / 32) v0
  | .ok (secs, s) =>
    let bounds := (j.extra 2).val.toNat
    let rs := (List.range h.outputs).map fun o =>
      redOutput t h (bitsOf bounds 0 (8 * es)) (bitsOf bounds 64 (8 * es)) ((h.group o).map fun (i, c) =>
        elemAt secs (src.offset.toNat + i * pitch + c * stride) es)
    let ooffs := tileOffsets out.offset.toNat h.orows h.ocols opitch es
    let cells := ooffs.zip (rs.map fun r => toBytes r.v es)
    match writeSectorList cl j.asid out cells (sectorsOf ooffs) 0 s with
    | (_, some (b, c), s) => s.accessFault e j b true 7 (c - out.offset.toNat / 32) v0
    | (_, none, s) =>
      let loc := w.extractLsb' 144 20
      let key := s.locAt e j loc
      let body := witBody h rs
      let tile := toBytes (witHeader h (wf w 72 5) j gen) 32 ++ body
      let s := s.homeWrite key (tile ++ List.replicate (witTileBytes h.bodyBytes - tile.length) 0)
      let core : BitVec 3 := loc.extractLsb' 17 3
      let base := key - (Place.spad (memberCore cl core.toNat) 0).key
      let s := s.updWit cl j.acc fun x => { x with valid := true, core := core, off := loc.setWidth 17, base := base }
      s.endJob e j.id 0 0 v0 0 (evCounts (rs.map (·.ev)))

/-- RED (R343). -/
def execRed (e : EngineIx) (s : State) : Out :=
  s.runHead e .matrix 0x20 true fun j s =>
    let tile : Locator := ⟨8, j.word.extractLsb' 144 20, witTileBytes (redShape j.word).bodyBytes⟩
    s.started e j [tile] [4, 7] fun s => s.runRed e j

/-! ### ADJB (R345) -/

/-- What the inputs of a group receive: index and divisor; none where the body holds what R336 cannot produce. -/
def adjRoute (h : Shape) (body : List Byte) (o : Nat) : Option (List (Nat × Nat)) :=
  let at_ (i : Nat) : Nat := (body.getD i 0).toNat
  let num (t : Nat) : Nat := let (i, c) := (h.group o).getD t (0, 0); h.cols * i + c
  if h.op ≤ 1 then
    if h.tie ≤ 1 then (if h.g ≤ at_ o then none else some [(at_ o, 1)])
    else
      let on := (List.range h.g).filter fun t => (body.getD (num t / 8) 0).getLsbD (num t % 8)
      if on.isEmpty then none else some (on.map fun t => (t, on.length))
  else if h.op = 2 then
    some (if bitsOf (at_ (num 0 / 4)) (2 * (num 0 % 4)) 2 = 0 then [(0, 1)] else [])
  else
    let a := at_ (2 * o)
    let b := at_ (2 * o + 1)
    if h.op = 3 then
      if h.g ≤ a ∨ h.g ≤ b ∨ b < a then none else some (if a = b then [(a, 1)] else [(a, 2), (b, 2)])
    else if 3 < b ∨ ((b = 1 ∨ b = 2) ∧ h.g ≤ a) then none
    else if b = 0 then some ((List.range h.g).map fun t => (t, 1))
    else if b = 3 then some []
    else some (((List.range h.g).filter fun t => a < t).map fun t => (t, 1))

/-- dest + g / k, each rounded RNE in the type, and the events that ADJB counts (R345, R349). -/
def adjAdd (f : Fmt) (dest g k : Nat) : Nat × Ev :=
  let (c, e1) : Num × Ev :=
    if k = 1 then (f.decode g, 0)
    else
      let (q, e) := (f.decode g).div (.ofInt k)
      let (b, e') := f.round .rne false q
      (f.decode b, e ||| e')
  let (v, e2) := (f.decode dest).add .rne c
  let (b, e3) := f.round .rne false v
  (b, (e1 ||| e2 ||| e3) &&& (evInexact ||| evOverflow ||| evNan ||| evInvalid))

/-- The header's remaining fields are such as R335 and R336 allow (R345). -/
def headerOk (hd : Nat) (h : Shape) : Bool :=
  h.tie != 3 && (h.tie == 0 || h.op ≤ 1) && (redSize (bitsOf hd 32 5) true).isSome && bitsOf hd 144 32 == h.bodyBytes

/-- ADJB past its start checks (R345). -/
def State.runAdjb (s : State) (e : EngineIx) (j : Job) : State :=
  let cl := engineCluster e
  let w := j.word
  let slot := s.witSlot cl j.acc
  let key := (Place.spad (memberCore cl slot.core.toNat) slot.base).key
  let hd := s.nat key 32
  let h := adjShape w (bitsOf hd 4 2)
  let wgen := w.extractLsb' 64 24
  let (_, s) := s.idle
  let (met, s) := if slot.valid then s.meetError else (false, s)
  if met then s.accessFault e j (.memError, 0) false 8 0 0
  else if !slot.valid || bitsOf hd 64 24 != wgen.toNat || wgen != slot.gen || bitsOf hd 0 4 != h.op
      || bitsOf hd 6 1 != h.axis || bitsOf hd 8 8 != h.g - 1 || bitsOf hd 16 8 != h.rows - 1
      || bitsOf hd 24 8 != h.cols - 1 then
    s.endJob e j.id 5 0 0 0
  else if !headerOk hd h then s.endJob e j.id 7 0 0 (faultPlace 8 0)
  else
    let t := operandType w 136
    let es := t.bits / 8
    let grad := j.extraCap 0
    let dest := j.extraCap 1
    let gpitch := if wf w 168 16 = 0 then h.ocols * es else wf w 168 16
    let dpitch := if wf w 184 16 = 0 then h.cols * es else wf w 184 16
    let body := s.bytes (key + 32) h.bodyBytes
    let goff (o : Nat) : Nat := grad.offset.toNat + o / h.ocols * gpitch + o % h.ocols * es
    let doff (i c : Nat) : Nat := dest.offset.toNat + i * dpitch + c * es
    match readSectorList cl j.asid grad (sectorsOf ((List.range h.outputs).map goff)) s with
    | .error (b, c) => s.accessFault e j b false 4 (c - grad.offset.toNat / 32) 0
    | .ok (gs, s) =>
      match readSectorList cl j.asid dest (sectorsOf (tileOffsets dest.offset.toNat h.rows h.cols dpitch es)) s with
      | .error (b, c) => s.accessFault e j b false 7 (c - dest.offset.toNat / 32) 0
      | .ok (ds, s) =>
        match (List.range h.outputs).find? fun o => (adjRoute h body o).isNone with
        | some o => s.endJob e j.id 7 0 0 (faultPlace 8 o)
        | none =>
          match t.fmt with
          | none => s.endJob e j.id 0 0 0 0
          | some f =>
            let out := (List.range h.outputs).flatMap fun o =>
              ((adjRoute h body o).getD []).map fun (tt, k) =>
                let (i, c) := (h.group o).getD tt (0, 0)
                (doff i c, adjAdd f (elemAt ds (doff i c) es) (elemAt gs (goff o) es) k)
            let cells := out.map fun x => (x.1, toBytes x.2.1 es)
            match writeSectorList cl j.asid dest cells (sectorsOf (cells.map (·.1))) 0 s with
            | (n, some (b, c), s) => s.accessFault e j b true 7 (c - dest.offset.toNat / 32) (.ofNat 32 n)
            | (n, none, s) => s.endJob e j.id 0 0 (.ofNat 32 n) 0 (evCounts (out.map fun x => x.2.2))

/-- ADJB (R345). -/
def execAdjb (e : EngineIx) (s : State) : Out :=
  s.runHead e .matrix 0x21 true fun j s => s.started e j [] [4, 7] fun s => s.runAdjb e j

/-! ### WREL (R346) -/

/-- WREL (R346). -/
def execWrel (e : EngineIx) (s : State) : Out :=
  s.runHead e .matrix 0x22 true fun j s =>
    s.started e j [] [] fun s =>
      let (_, s) := s.idle
      let s := s.updWit (engineCluster e) j.acc WitSlot.release
      s.endJob e j.id 0 0 ((s.witSlot (engineCluster e) j.acc).gen.setWidth 32) 0

end Sys2Proof.Machine
end

