-- ==== Sys2Proof/Machine/Ctl.lean ====
section
/-!
DEFINITION. Sys2Proof/Machine/Ctl.lean: the CTL class (R389 to R392).
-/
namespace Sys2Proof.Machine

/-! ### Reading (R389) -/

/-- mx.wit<n> (R332). -/
def WitSlot.word (w : WitSlot) : Word :=
  .ofNat 64 (w.gen.toNat + w.valid.toNat * 2 ^ 24 + w.core.toNat * 2 ^ 25 + w.off.toNat * 2 ^ 28)

/-- A core register of the current context's core (R389). -/
def State.coreCtl (s : State) (n : Nat) : Word :=
  let k := s.core s.cx.core
  if h : 0x200 ≤ n ∧ n < 0x220 then (k.records[(n - 0x200) / 4]'(by omega)).word ((n - 0x200) % 4)
  else if n = 0x220 then k.buddy.setWidth 64
  else if n = 0x221 then k.temp.setWidth 64
  else if n = 0x222 then k.droop.setWidth 64
  else if n = 0x223 then k.wdog.setWidth 64
  else if n = 0x224 then .ofNat 64 (k.inbox.length % 128)
  else 0

/-- A cluster register of the current context's cluster (R389); clu.ncinv holds nothing. -/
def State.clusterCtl (s : State) (n : Nat) : Word :=
  let k := s.cluster s.cxCluster
  if n = 0x300 then .ofNat 64 ((s.unclaimed s.cxCluster).length % 2048)
  else if n = 0x310 then k.heapSpill.setWidth 64
  else if n = 0x318 then k.aging.setWidth 64
  else if h : 0x340 ≤ n ∧ n < 0x350 then (k.own[n - 0x340]'(by omega)).setWidth 64
  else if h : 0x350 ≤ n ∧ n < 0x360 then (k.wit[n - 0x350]'(by omega)).word
  else 0

/-- A control register by its number (R389). -/
def State.ctlRead (s : State) (n : Nat) : Word :=
  if n = 0x004 then s.cycle
  else if n < 0x200 then s.cx.ctl n
  else if n < 0x300 then s.coreCtl n
  else s.clusterCtl n

/-- A privileged number (R389). -/
def ctlPrivileged (num : BitVec 12) : Bool := 0x100 ≤ num.toNat
/-- cpy.src, cpy.dst, cpy.bar (R274). -/
def ctlWide (num : BitVec 12) : Bool := num == 0x040 || num == 0x041 || num == 0x046

/-- A CTL form whose number the mode allows (R392). -/
def State.ctlForm (s : State) (i : Instr) (num : BitVec 12) (f : Out) : Out :=
  if ctlPrivileged num && !s.cx.priv then .next (s.takeTrap .priv (.ofNat 64 ((encodeWord i).getD 0))) else f

/-- CTLR (R391): cpy.go starts a transfer; a wide register gives its 256 bits, its tag clear (R274). -/
def execCtlr (d : Reg) (num : BitVec 12) (s : State) : Out :=
  s.ctlForm (.ctlr d num) num <|
    if num = 0x04F then execCpyGo d s
    else if ctlWide num then .next (s.setBits d (s.cx.copy.wide num.toNat).val).advance
    else .next (s.setX d (s.ctlRead num.toNat)).advance

/-! ### Writing (R391) -/

/-- Give the RW fields of a core register the bits of `v`; word 2 of a slot's record takes effect with `VALID` set
(R153). The sensors and the inbox count are RO (log entry 60). -/
def State.coreCtlWrite (s : State) (n : Nat) (v : Word) : State :=
  let core := s.cx.core
  if 0x200 ≤ n ∧ n < 0x220 then
    let sl : SlotId := ⟨core, .ofNat 3 ((n - 0x200) / 4)⟩
    let w := (n - 0x200) % 4
    let s := s.setSlotRec sl ((s.slotRec sl).setWord w v)
    if w = 2 then s.carryOut sl else s
  else if n = 0x220 then s.updCore core fun k => { k with buddy := v.setWidth 13 }
  else if n = 0x223 then s.updCore core fun k => { k with wdog := v.setWidth 32 }
  else s

/-- The name cache of a cluster drops the entries of an ASID (R389). -/
def State.dropNames (s : State) (cl : ClusterIx) (a : Asid) : State :=
  s.updCluster cl fun k => { k with names := k.names.filter fun x => x.asid != a }

/-- Give the RW fields of a cluster register the bits of `v` (R166, R313, R389; log entry 60). -/
def State.clusterCtlWrite (s : State) (n : Nat) (v : Word) : State :=
  let cl := s.cxCluster
  if n = 0x310 then s.updCluster cl fun k => { k with heapSpill := v.setWidth 48 }
  else if n = 0x318 then s.updCluster cl fun k => { k with aging := v.setWidth 32 }
  else if n = 0x320 then s.dropNames cl (v.setWidth 9)
  else if 0x340 ≤ n ∧ n < 0x350 then s.setOwner cl (.ofNat 4 (n - 0x340)) v
  else s

/-- Give the RW fields of a control register the bits of `v`. -/
def State.ctlWrite (s : State) (n : Nat) (v : Word) : State :=
  if n < 0x200 then s.updCx fun c => c.setCtl n v
  else if n < 0x300 then s.coreCtlWrite n v
  else s.clusterCtlWrite n v

/-- CTLW (R391): W1C bits that are set in y are cleared; a wide register takes all of c[s] with its tag. -/
def execCtlw (r : Reg) (num : BitVec 12) (s : State) : Out :=
  s.ctlForm (.ctlw r num) num <|
    if ctlWide num then
      .next (s.updCx fun c => { c with copy := c.copy.setWide num.toNat (s.reg r) }).advance
    else if num = 0x008 then .next (s.updCx fun c => c.clearSticky (s.x r)).advance
    else .next (s.advance.ctlWrite num.toNat (s.x r))

/-- CTLS (R391). -/
def execCtls (r : Reg) (num : BitVec 12) (s : State) : Out :=
  s.ctlForm (.ctls r num) num <|
    if num = 0x008 then .next (s.updCx fun c => c.clearSticky (s.x r)).advance
    else .next (s.advance.ctlWrite num.toNat (s.ctlRead num.toNat ||| s.x r))

/-- CTLC (R391): W1C fields are kept. -/
def execCtlc (r : Reg) (num : BitVec 12) (s : State) : Out :=
  s.ctlForm (.ctlc r num) num <|
    .next (s.advance.ctlWrite num.toNat (s.ctlRead num.toNat &&& ~~~s.x r))

/-- CLU_NCINV (R389): clu.ncinv of a cluster is written. -/
def execCluNcinv (cluster : ClusterIx) (value : Word) (s : State) : Out :=
  .next (s.dropNames cluster (value.setWidth 9))

end Sys2Proof.Machine
end

