-- ==== Sys2Proof/Machine/Kettle.lean ====
section
/-!
DEFINITION. Sys2Proof/Machine/Kettle.lean: the package registers that a write changes (R390, R443), Kettle's queues
(R444 to R446), its WAIT, SIGNAL, FENCE and NOP packets (R447), and the extension of measurements (R453).
-/
namespace Sys2Proof.Machine

/-! ### Memory as Kettle reaches it (R447) -/

/-- Read `n` bytes from a packet's address, up to the end of each 4 KiB page at a time. -/
def kettleRead (a : Asid) : Nat → Word → Nat → State → Except XFault (List Byte × State)
  | _, _, 0, s => .ok ([], s)
  | 0, _, _, s => .ok ([], s)
  | fuel + 1, addr, n, s =>
    match s.addrKey 0 a addr .read with
    | .error f => .error f
    | .ok (key, s) =>
      let k := Nat.min n (4096 - addr.toNat % 4096)
      match kettleRead a fuel (addr + .ofNat 64 k) (n - k) s with
      | .error f => .error f
      | .ok (bs, s) => .ok (s.bytes key k ++ bs, s)

/-- Write bytes from a packet's address, up to the end of each 4 KiB page at a time. `acc` is what the page must allow:
the loader fills pages that no program may write (R62). -/
def kettleWrite (a : Asid) (acc : Acc) : Nat → Word → List Byte → State → Except XFault State
  | _, _, [], s => .ok s
  | 0, _, _, s => .ok s
  | fuel + 1, addr, bs, s =>
    match s.addrKey 0 a addr acc with
    | .error f => .error f
    | .ok (key, s) =>
      let k := Nat.min bs.length (4096 - addr.toNat % 4096)
      kettleWrite a acc fuel (addr + .ofNat 64 k) (bs.drop k) (s.homeWrite key (bs.take k))

/-- The package's registers and memory answer only outside the recovery state (R452; log entry 55). -/
def State.answering (s : State) (o : Out) : Out := if s.recovery then .next s else o

/-! ### Queues (R444 to R446) -/

/-- A command queue. -/
def State.kq (s : State) (q : BitVec 5) : KQueue := s.queues[q.toNat]'q.isLt
/-- Change a command queue. -/
def State.updKq (s : State) (q : BitVec 5) (f : KQueue → KQueue) : State :=
  { s with queues := s.queues.set q.toNat (f (s.kq q)) q.isLt }

/-- A function is frozen (R446). -/
def State.fnFrozen (s : State) (fn : FnIx) : Bool := if h : fn.toNat < 65 then s.pkg.frozen[fn.toNat] else false
/-- Set or clear `FROZEN` of a function. -/
def State.setFrozen (s : State) (fn : FnIx) (b : Bool) : State :=
  if h : fn.toNat < 65 then { s with pkg := { s.pkg with frozen := s.pkg.frozen.set fn.toNat b } } else s

/-- A function is frozen and its queues go to FROZEN (R446). -/
def State.freezeFn (s : State) (fn : FnIx) : State :=
  let s := s.setFrozen fn true
  { s with queues := s.queues.map fun k => if k.fn = fn then { k with state := 3 } else k }

/-- `FROZEN` of a function is written 1: it is released and its frozen queues run (R446). -/
def State.releaseFn (s : State) (fn : FnIx) : State :=
  if !s.fnFrozen fn then s
  else
    let s := s.setFrozen fn false
    { s with queues := s.queues.map fun k => if k.fn = fn ∧ k.state = 3 then { k with state := 0 } else k }

/-- VF_UNFREEZE (R446). -/
def execVfUnfreeze (f : FnIx) (s : State) : Out := s.answering (.next (s.releaseFn f))

/-- Slots of a queue's ring. -/
def KQueue.size (k : KQueue) : Nat := 2 ^ k.log2n.toNat

/-- KQ_TAIL_WRITE (R446): a write that advances or fills by more than the ring holds overruns; a function that does not
own the queue is frozen. Function 0 owns every register (R442; DEDUCED, log entry 20). A virtual function that the
configuration has not enabled writes nothing (R454; DEDUCED, log entry 20). -/
def execKqTailWrite (fn : FnIx) (q : BitVec 5) (value : Word) (s : State) : Out :=
  let k := s.kq q
  let new : BitVec 32 := value.setWidth 32
  s.answering <|
  if s.pkg.vfs.toNat < fn.toNat then .next s
  else if fn ≠ 0 ∧ k.fn ≠ fn then .next (s.freezeFn fn)
  else if k.size < (new - k.tail).toNat ∨ k.size < (new - k.head).toNat then
    .next ((s.updKq q fun k => { k with state := 1 }).tell (.msix k.fn (q.toNat + 1)))
  else .next (s.updKq q fun k => { k with tail := new })

/-- KQ_ENABLE (R444): kq.ctl is written; `EN` written 1 clears `STATE` and both indices. A frozen function's queue stays
FROZEN. -/
def execKqEnable (q : BitVec 5) (value : Word) (s : State) : Out :=
  let fn : FnIx := field value 0 7
  let en := value.getLsbD 16
  s.answering <| .next (s.updKq q fun k =>
    let k := { k with fn := fn, asid := field value 7 9, en := en }
    if en then { k with state := if s.fnFrozen fn then 3 else 0, tail := 0, head := 0, blocked := none, open_ := [] } else k)

/-! ### Package registers (R390, R443) -/

/-- REGISTER_WRITE (R390, R413, R443): what a write of a package register gives its RW fields and takes from its W1C
ones. A read-only register, one with a step of its own, and a number that names none discard the write. -/
def execRegisterWrite (num : BitVec 12) (value : Word) (s : State) : Out :=
  let n := num.toNat
  let pkg (f : PkgRegs → PkgRegs) : Out := .next { s with pkg := f s.pkg }
  s.answering <|
  if n = 0x802 then
    let w : BitVec 16 := value.setWidth 16
    pkg fun p => { p with watts := if p.wattsMax.ult w then p.wattsMax else w }
  else if n = 0x804 then pkg fun p => { p with corr := p.corr &&& ~~~value }
  else if n = 0x805 then pkg fun p => { p with unc := p.unc &&& ~~~value }
  else if n = 0x810 then pkg fun p => { p with asidTab := value }
  else if n = 0x840 then pkg fun p => { p with lrp := value }
  else if h : 0x880 ≤ n ∧ n < 0x8C1 then
    pkg fun p => { p with weights := p.weights.set (n - 0x880) (value.setWidth 8) (by omega) }
  else if 0x900 ≤ n ∧ n < 0x980 ∧ n % 4 = 0 then
    .next (s.updKq (.ofNat 5 ((n - 0x900) / 4)) fun k => { k with base := value.setWidth 48, log2n := field value 48 4 })
  else if h : 0xA00 ≤ n ∧ n < 0xA41 then
    let m : BitVec 3 := field value 1 3
    let s : State := { s with pkg :=
      { s.pkg with maxScope := s.pkg.maxScope.set (n - 0xA00) (if 4 < m.toNat then 4 else m) (by omega) } }
    .next (if value.getLsbD 0 then s.releaseFn (.ofNat 7 (n - 0xA00)) else s)
  else .next s

/-- MEAS_EXTEND (R453): only function 0 may extend, and only meas.5 to meas.7. -/
def execMeasExtend (fn : FnIx) (k : BitVec 3) (digest : BitVec 384) (s : State) : Out :=
  if fn ≠ 0 ∨ k.toNat < 5 ∨ s.recovery = true then .next s
  else
    let old := s.pkg.meas[k.toNat]'k.isLt
    let new := sha384Bits (toBytes old.toNat 48 ++ toBytes digest.toNat 48)
    .next { s with pkg := { s.pkg with meas := s.pkg.meas.set k.toNat new k.isLt } }

/-! ### Packets (R445, R447) -/

/-- Where the head's slot of a queue's ring lies, in host or package memory (R444, R445; log entry 20). -/
def KQueue.slotPlace (k : KQueue) : Place :=
  let addr := k.base.toNat + 256 * (k.head.toNat % k.size)
  if k.inPackage then .dram addr else .host addr

/-- The ring's slot can be read: the page is there, or the vault (R14, R420). -/
def State.slotThere (s : State) : Place → Bool
  | .host addr => !s.hostAbsent.contains (addr / 4096)
  | p => inDram (p.key + 255)

/-- The packet at the head of a queue, once its slot holds the expected `VALID` (R445). -/
def State.packetAt (s : State) (q : BitVec 5) : Option (List Byte) :=
  let k := s.kq q
  if !k.en || k.state != 0 || k.blocked.isSome || k.head == k.tail || !s.slotThere k.slotPlace then none
  else
    let bs := s.bytes k.slotPlace.key 256
    if (bs.getD 255 0).toNat = 1 + k.head.toNat / k.size % 2 then some bs else none

/-- A trailer that stops the queue (R445). -/
def badTrailer (bs : List Byte) : Bool :=
  let ty := (bs.getD 252 0).toNat
  let w := (bs.getD 253 0).toNat
  ty = 0 || 5 < ty || 1 < w % 16 || 4 < w / 16 || bs.getD 254 0 != 0

/-- A field of a packet. -/
def packetField (bs : List Byte) (at_ n : Nat) : Nat := ofBytes ((bs.drop at_).take n)
/-- `FSCOPE` (R445). -/
def packetScope (bs : List Byte) : BitVec 4 := .ofNat 4 ((bs.getD 253 0).toNat / 16)

/-- The packet at the head of a queue starts, if it is of this type and `ORDER` lets it; a malformed one stops the queue
with ERROR_PACKET (R445). -/
def State.startPacket (s : State) (q : BitVec 5) (ty : Nat) (run : List Byte → State → State) : Out :=
  match s.packetAt q with
  | none => .next s
  | some bs =>
    if badTrailer bs then .next (s.updKq q fun k => { k with state := 2 })
    else if (bs.getD 252 0).toNat ≠ ty then .next s
    else if (bs.getD 253 0).toNat % 16 = 0 && !(s.kq q).open_.isEmpty then .next s
    else .next (run bs (s.updKq q fun k => { k with head := k.head + 1 }))

/-- A packet completes at its scope, clamped by its function's `MAXSCOPE` (R238, R445). -/
def State.packetDone (s : State) (q : BitVec 5) (scope : BitVec 4) : State := s.clampFn (s.kq q).fn scope.toNat

/-- FENCE packets with nothing before them complete (R447). -/
def settleFences (q : BitVec 5) : Nat → State → State
  | 0, s => s
  | fuel + 1, s =>
    match (s.kq q).open_ with
    | (_, some scope) :: rest => settleFences q fuel ((s.updKq q fun k => { k with open_ := rest }).packetDone q scope)
    | _ => s

/-- A packet that completes later has completed: it leaves its queue. -/
def State.closePacket (s : State) (q : BitVec 5) (n : Nat) : State :=
  let s := s.updKq q fun k => { k with open_ := k.open_.filter fun p => p.1 != n }
  settleFences q (s.kq q).open_.length s

/-- A packet that completes later joins its queue's open ones: its number. -/
def State.openPacket (s : State) (q : BitVec 5) (fence : Option (BitVec 4)) : Nat × State :=
  (s.nextLaunch, State.updKq { s with nextLaunch := s.nextLaunch + 1 } q fun k =>
    { k with open_ := k.open_ ++ [(s.nextLaunch, fence)] })

/-- The condition of a WAIT (R447). -/
def waitHolds (cond : BitVec 8) (word value : Word) : Bool :=
  if cond = 0 then word == value else if cond = 1 then word != value else value.ule word

/-- WAIT packet (R447). An unknown condition stops the queue with ERROR_PACKET (DESIGN CHOICE, log entry 20). -/
def execWaitPacket (q : BitVec 5) (s : State) : Out :=
  s.startPacket q 2 fun bs s =>
    let addr : Word := .ofNat 64 (packetField bs 0 8)
    let value : Word := .ofNat 64 (packetField bs 8 8)
    let cond := bs.getD 16 0
    let scope := packetScope bs
    if 2 < cond.toNat then s.updKq q fun k => { k with state := 2 }
    else
      match kettleRead (s.kq q).asid 9 addr 8 s with
      | .error _ => s.freezeFn (s.kq q).fn
      | .ok (w, s) =>
        if waitHolds cond (.ofNat 64 (ofBytes w)) value then s.packetDone q scope
        else s.updKq q fun k => { k with blocked := some (addr, value, cond, scope) }

/-- A blocked WAIT packet's condition holds (R447): the thread goes on. -/
def execWaitPacketSatisfied (q : BitVec 5) (s : State) : Out :=
  match (s.kq q).blocked with
  | none => .next s
  | some (addr, value, cond, scope) =>
    if (s.kq q).state ≠ 0 then .next s
    else
      match kettleRead (s.kq q).asid 9 addr 8 s with
      | .error _ => .next (s.freezeFn (s.kq q).fn)
      | .ok (w, s) =>
        .next (if waitHolds cond (.ofNat 64 (ofBytes w)) value then
          (s.updKq q fun k => { k with blocked := none }).packetDone q scope else s)

/-- SIGNAL packet (R447): 0 stores, 1 adds. An unknown operation stops the queue with ERROR_PACKET (DESIGN CHOICE, log
entry 20). -/
def execSignalPacket (q : BitVec 5) (s : State) : Out :=
  s.startPacket q 3 fun bs s =>
    let addr : Word := .ofNat 64 (packetField bs 0 8)
    let value := packetField bs 8 8
    let op := bs.getD 16 0
    if 1 < op.toNat then s.updKq q fun k => { k with state := 2 }
    else
      match kettleRead (s.kq q).asid 9 addr 8 s with
      | .error _ => s.freezeFn (s.kq q).fn
      | .ok (w, s) =>
        match kettleWrite (s.kq q).asid .write 9 addr (toBytes (if op = 0 then value else ofBytes w + value) 8) s with
        | .error _ => s.freezeFn (s.kq q).fn
        | .ok s => s.packetDone q (packetScope bs)

/-- FENCE packet (R447): it completes once every earlier packet of its queue has. -/
def execFencePacket (q : BitVec 5) (s : State) : Out :=
  s.startPacket q 4 fun bs s =>
    let s := (s.openPacket q (some (packetScope bs))).2
    settleFences q (s.kq q).open_.length s

/-- NOP packet (R447). -/
def execNopPacket (q : BitVec 5) (s : State) : Out := s.startPacket q 5 fun bs s => s.packetDone q (packetScope bs)

end Sys2Proof.Machine
end

