-- ==== Sys2Proof/Machine/Boot.lean ====
section
/-!
DEFINITION. Sys2Proof/Machine/Boot.lean: the boot ROM (R452), measurement at boot and the DOE responder (R453), and the
configuration image (R454).
-/
namespace Sys2Proof.Machine

/-- The digest of an image. -/
def BootImage.digest (b : BootImage) : List Byte := sha384 b.body

/-- The ROM accepts an image whose keys hash to the root key digest, whose two signatures verify, and whose version is
not below the previous image of its kind (R452). -/
def imageAccepted (b : BootImage) (previous : Nat) : Bool :=
  b.slhKey.length == 48
    && sha384Bits (rsaPublicKeyDer b.rsaModulus ++ b.slhKey) == Config.rootKeyDigest
    && rsaPssVerify b.rsaModulus b.rsaSig (BootImage.digest b)
    && Config.slhDsaVerify b.slhKey (BootImage.digest b) b.slhSig
    && decide (previous ≤ b.version)

/-- The values of the configuration image lie in their ranges (R454). -/
def configInRange (c : BootConfig) : Bool :=
  decide (c.watts.toNat ≤ 3600) && decide (c.vfs.toNat ≤ 64)
    && c.fns.all fun f => decide (f.1.toNat ≤ 64) && decide (f.2.1.toNat ≤ 4)

/-- meas.k ← SHA-384(meas.k ‖ digest) (R453). -/
def PkgRegs.extend (p : PkgRegs) (k : BitVec 3) (digest : List Byte) : PkgRegs :=
  let old := p.meas[k.toNat]'k.isLt
  { p with meas := p.meas.set k.toNat (sha384Bits (toBytes old.toNat 48 ++ digest)) k.isLt }

/-- Replace item `k` of a list of numbers; missing items are 0. -/
def setNat : Nat → Nat → List Nat → List Nat
  | 0, v, [] => [v]
  | 0, v, _ :: l => v :: l
  | k + 1, v, [] => 0 :: setNat k v []
  | k + 1, v, x :: l => x :: setNat k v l

/-- The ROM takes the images from number `k` on, in order: false at the first that it refuses (R452, R453). -/
def bootImages (cfg : BootConfig) : Nat → List BootImage → State → Bool × State
  | k, [], s => (k == 5, s)
  | k, b :: bs, s =>
    if 4 < k then (true, s)
    else if !imageAccepted b (s.versions.getD k 0) || (k == 4 && !configInRange cfg) then (false, s)
    else bootImages cfg (k + 1) bs
      { s with pkg := s.pkg.extend (.ofNat 3 k) (BootImage.digest b), versions := setNat k b.version s.versions }

/-- One function's `MAXSCOPE` and exchange weight (R454). -/
def PkgRegs.setFn (p : PkgRegs) (f : FnIx × BitVec 3 × BitVec 8) : PkgRegs :=
  if h : f.1.toNat < 65 then
    { p with maxScope := p.maxScope.set f.1.toNat f.2.1 h, weights := p.weights.set f.1.toNat f.2.2 h }
  else p

/-- The configuration takes effect (R454). -/
def State.configure (s : State) (c : BootConfig) : State :=
  let p : PkgRegs := { s.pkg with chip := c.chip, part := c.part, watts := c.watts, wattsMax := c.watts, vfs := c.vfs }
  { s with
    pkg := c.fns.foldl PkgRegs.setFn p
    keys := c.keys.foldl (fun t k => tset k.1.toNat k.2 t) []
    chips := c.chips, booted := true }

/-- The package right after its reset pin: what stands outside it stays (log entry 29), and so do the versions that the
ROM compares with. -/
def State.afterReset (s : State) : State :=
  { State.reset with
    agenda := s.agenda, pace := s.pace, free := s.free, hostAbsent := s.hostAbsent, versions := s.versions
    mem := s.mem.filter fun c => 2 ^ 64 ≤ c.1 }

/-- PACKAGE_RESET (R452 to R454): the boot ROM measures itself, then verifies and loads the four images in order; after a
refusal the package is in the recovery state. -/
def execPackageReset (imgs : List BootImage) (cfg : BootConfig) (s : State) : Out :=
  let s := s.afterReset
  let s : State := { s with pkg := s.pkg.extend 0 (toBytes Config.romDigest.toNat 48) }
  match bootImages cfg 1 imgs s with
  | (true, s) => .next (s.configure cfg)
  | (false, s) => .next { s with recovery := true }

/-! ### The DOE responder (R453) -/

/-- meas.0 to meas.4, which fix the device key. -/
def State.deviceMeas (s : State) : List (BitVec 384) := s.pkg.meas.toList.take 5

/-- GET_VERSION (R453): the answer's bytes are those of SPDM, which the manual does not repeat (log entry 26). -/
def execGetVersion (s : State) : Out := .next (s.tell (.doe "VERSION" []))
/-- GET_CAPABILITIES (R453; log entry 26). -/
def execGetCapabilities (s : State) : Out := .next (s.tell (.doe "CAPABILITIES" []))
/-- NEGOTIATE_ALGORITHMS (R453): SHA-384 and ECDSA over P-384 (log entry 26). -/
def execNegotiateAlgorithms (s : State) : Out := .next (s.tell (.doe "ALGORITHMS" []))
/-- GET_DIGESTS (R453): the SHA-384 digest of the certificate chain. -/
def execGetDigests (s : State) : Out := .next (s.tell (.doe "DIGESTS" (sha384 (Config.deviceCert s.deviceMeas))))
/-- GET_CERTIFICATE (R453): a stretch of the certificate chain. -/
def execGetCertificate (off len : Nat) (s : State) : Out :=
  .next (s.tell (.doe "CERTIFICATE" (((Config.deviceCert s.deviceMeas).drop off).take len)))
/-- CHALLENGE (R453): a signature by the device key over the nonce (log entry 26). -/
def execChallenge (nonce : List Byte) (s : State) : Out :=
  .next (s.tell (.doe "CHALLENGE_AUTH" (Config.deviceSign s.deviceMeas nonce)))
/-- GET_MEASUREMENTS (R453): the eight registers, signed with the nonce by the device key (log entry 26). -/
def execGetMeasurements (nonce : List Byte) (s : State) : Out :=
  let regs := s.pkg.meas.toList
  .next (s.tell (.measurements nonce regs
    (Config.deviceSign s.deviceMeas (nonce ++ regs.flatMap fun m => toBytes m.toNat 48))))

end Sys2Proof.Machine
end

