-- ==== Sys2Proof/Machine/Bulk.lean ====
section
/-!
DEFINITION. Sys2Proof/Machine/Bulk.lean: keyed access of exports (R366), and the commands of the bulk engines and ports:
BCOPY, BFILL, TRIG and TCOUNT (R367 to R373).
-/
namespace Sys2Proof.Machine

/-! ### Keys (R366) -/

/-- The live, pinned export that a key names, for an access with a right at bytes of it; else the cause (R366). -/
def State.keyedExport (s : State) (k : Key) (need : BitVec 12) (off n : Nat) : Except Cause Export :=
  match s.exports.find? fun x => x.handle == k.handle && x.gen == k.gen && x.keyTag == k.tag with
  | none => .error .capStale
  | some x =>
    match s.openNode x.asid x.handle x.gen with
    | none => .error .capStale
    | some nd =>
      if nd.body.kind != 0 || !x.pin || x.mask &&& need != need then .error .capPerm
      else if nd.extent < off + n then .error .capBounds
      else .ok x

/-- The exported capability, as an engine uses it. -/
def Export.cap (x : Export) : Cap where
  offset := 0
  base := 0
  limit := .allOnes 64
  handle := x.handle
  gen := x.gen
  perm := x.mask
  kind := 0
  sealed_ := false

/-- Cluster whose TLB an engine translates through (R417); bulk engines, ports and Siphon take cluster 0. -/
def xlateCluster (e : EngineIx) : ClusterIx := if e.toNat < 128 then engineCluster e else 0

/-- Add to an 8-byte counter at its home, its tag cleared (R370, R373): refused where no bytes lie, and on host memory unless
`host`, where PCI Express carries the addition and the completer may refuse it (R248). -/
def State.counterAdd (s : State) (cl : ClusterIx) (a : Asid) (k : Cap) (off : Nat) (v : Word) (host : Bool := false) :
    Except Bad State :=
  match s.engReach cl a k .write off 8 with
  | .error b => .error b
  | .ok (.bytes key _, s) =>
    if 2 ^ 64 ≤ key ∧ !host then .error (.capPerm, .ofNat 64 off)
    else if 2 ^ 64 ≤ key ∧ s.hostRefuse then .error (.memError, .ofNat 64 off)
    else .ok (s.homeWrite key (toBytes (.ofNat 64 (s.nat key 8) + v : Word).toNat 8))
  | .ok (.fabric chip page o va, s) =>
    if chip = s.pkg.chip then
      match s.fabricPage (s.asidPart a) page o true true with
      | some key => .ok (s.homeWrite key (toBytes (.ofNat 64 (s.nat key 8) + v : Word).toNat 8))
      | none => .error (.fabric, va)
    else if s.farRefused chip page then .error (.fabric, va)
    else .ok (s.send (.fabric chip 0 0 page o (.atom 0 false (v.setWidth 256))))
  | .ok (_, _) => .error (.capPerm, .ofNat 64 off)

/-- What the exporter's port does with a keyed access: the cause that refuses it, or the data (R366). -/
def State.keyedStep (s : State) (k : Key) (off : Nat) (op : KeyedOp) : Except Cause (List Byte × State) :=
  match op with
  | .read n =>
    match s.keyedExport k permR off n with
    | .error c => .error c
    | .ok x => (engRead 0 x.asid x.cap (n + 1) off n s).mapError (·.1)
  | .write bs =>
    match s.keyedExport k permW off bs.length with
    | .error c => .error c
    | .ok x =>
      match engWrite 0 x.asid x.cap (bs.length + 1) off bs 0 [] s with
      | (_, _, some (b, _), _) => .error b.1
      | (_, _, none, s) => .ok ([], s)
  | .add v =>
    match s.keyedExport k permA off 8 with
    | .error c => .error c
    | .ok x => ((s.counterAdd 0 x.asid x.cap off v).map fun s => ([], s)).mapError (·.1)

/-- KEYED_ACCESS (R366): `off` is the byte offset within the export. -/
def execKeyedAccess (chip : ChipIx) (txn : Nat) (key : W256) (off : Word) (op : KeyedOp) (s : State) : Out :=
  match s.keyedStep (Key.ofBits key) off.toNat op with
  | .ok (bs, s) => .next (s.send (.keyedReply chip txn 0 bs))
  | .error c => .next (s.send (.keyedReply chip txn c.code []))

/-! ### Operands of a bulk job -/

/-- An operand: a local capability, or a key register (R368). -/
inductive BulkOperand where
  | cap (k : Cap)
  | key (k : Key)
deriving DecidableEq, Repr

/-- The operand in an extra register. -/
def bulkOperand (isKey : Bool) (v : RegVal) : BulkOperand :=
  if isKey then .key (Key.ofBits v.val) else .cap (Cap.ofBits v.val)

/-- Its first byte: the node offset of a capability, the offset in the export of a key. -/
def BulkOperand.start : BulkOperand → Nat
  | .cap k => k.offset.toNat
  | .key k => k.off

/-- Another chip holds the operand. -/
def BulkOperand.remote (o : BulkOperand) (s : State) : Bool :=
  match o with
  | .cap _ => false
  | .key k => k.chip != s.pkg.chip

/-- A bulk command as it runs: its engine, ASID, launch, context and identifier, and its word and operands. -/
structure BulkRun where
  e : EngineIx
  asid : Asid
  launch : Nat
  ctx : BitVec 32
  id : BitVec 16
  word : W256
  src : Option BulkOperand
  dst : BulkOperand
  /-- source bytes that a peer supplies -/
  remote : List Byte
deriving DecidableEq, Repr

/-- The run of a BCOPY or BFILL word (R370). -/
def BulkRun.of (e : EngineIx) (j : Job) (w : W256) (caps : List RegVal) (remote : List Byte) : BulkRun :=
  let copy := w.extractLsb' 0 8 == 0x50
  { e := e, asid := j.asid, launch := j.launch, ctx := j.ctx, id := j.id, word := w
    src := if copy then some (bulkOperand (w.getLsbD 96) (caps.getD 0 {})) else none
    dst := bulkOperand (w.getLsbD 97) (caps.getD (if copy then 1 else 0) {}), remote := remote }

/-- `LEN`. -/
def BulkRun.len (r : BulkRun) : Nat := wf r.word 64 32

/-- A keyed access leaves for a peer through the engine's own port, or through the port nearest its chip, under the next
sequence number of the ASID's queue pair there (R18, R367, R369; log entry 65). -/
def State.sendKeyed (s : State) (e : EngineIx) (a : Asid) (job : BitVec 16) (k : Key) (off : Nat) (op : KeyedOp) : State :=
  let port : BitVec 4 := if engineKind e = .port then .ofNat 4 (e.toNat - 144) else s.portTo 0 k.chip
  let pe : EngineIx := 144 + port.setWidth 8
  let pair := ((s.engine pe).pairs.find? fun p => p.asid == a).getD { asid := a }
  let n := (pair.seqs.lookup k.chip).getD 0
  (s.updEngine pe fun g => g.updPair a fun p => { p with seqs := (k.chip, n + 1) :: p.seqs.filter fun x => x.1 != k.chip }).send
    (.keyed k.chip job k.bits (.ofNat 64 off) op port n)

/-- Source bytes `[off, off + n)`: of a capability, an export of this chip, a peer, or the pattern. -/
def State.bulkRead (s : State) (r : BulkRun) (off n : Nat) : Except Bad (List Byte × State) :=
  match r.src with
  | none =>
    let pat := toBytes (wf r.word 192 64) 8
    .ok ((List.range n).map fun i => pat.getD ((off + i) % 8) 0, s)
  | some (.cap k) => engRead (xlateCluster r.e) r.asid k (n + 1) (k.offset.toNat + off) n s
  | some (.key k) =>
    if k.chip = s.pkg.chip then (s.keyedStep k (k.off + off) (.read n)).mapError fun c => (c, 0)
    else
      let s := s.sendKeyed r.e r.asid r.id k (k.off + off) (.read n)
      let given := (r.remote.drop off).take n
      let (more, s) := freeBytes (n - given.length) s
      .ok (given ++ more, s)

/-- Member cores of a multicast (R370). -/
def BulkRun.members (r : BulkRun) : List Nat := (List.range 8).filter fun k => r.word.getLsbD (104 + k)

/-- A chunk that lies within one sector of the destination: its first byte of the command, and its length (R368). -/
def BulkRun.chunk (r : BulkRun) (i : Nat) : Nat × Nat :=
  let skew := r.dst.start % 32
  let off := 32 * i - skew
  (off, Nat.min (32 * (i + 1) - skew) r.len - off)

/-- The chunks of a run. -/
def BulkRun.pieces (r : BulkRun) : List Piece :=
  (List.range ((r.dst.start % 32 + r.len + 31) / 32)).map .move

/-- Where a piece begins. -/
def BulkRun.offsetOf (r : BulkRun) : Piece → Nat
  | .move i => (r.chunk i).1
  | .put _ off _ => off

/-- Bytes written while these pieces are left (R370). -/
def BulkRun.written (r : BulkRun) (left : List Piece) : Nat :=
  r.len - ((left.map r.offsetOf).eraseDups.map fun off => (r.chunk ((r.dst.start + off) / 32 - r.dst.start / 32)).2).sum

/-- A chunk goes by multicast to the same allotment offset of a member, checked against that core's allotment (R370). Each
copy is a write of its own at its own home (R351). -/
def State.bulkPut (s : State) (r : BulkRun) (m off : Nat) (bs : List Byte) : Except Bad State :=
  match r.dst with
  | .key .. => .error (.capPerm, .ofNat 64 off)
  | .cap k =>
    let at_ := k.offset.toNat + off
    match s.engReach (xlateCluster r.e) r.asid k .write at_ bs.length with
    | .error b => .error b
    | .ok (.bytes key _, s) =>
      let place := key - (Place.spad 0 0).key
      let core : CoreIx := .ofNat 9 (place / 2 ^ 22)
      let rel := place % 2 ^ 22 - ((s.allotment r.launch core).map (·.base)).getD 0
      let member := memberCore (clusterOf core) m
      match s.allotment r.launch member with
      | none => .error (.capBounds, .ofNat 64 at_)
      | some x =>
        if x.size < rel + bs.length then .error (.capBounds, .ofNat 64 at_)
        else .ok (s.homeWrite (Place.spad member (x.base + rel)).key bs)
    | .ok (_, _) => .error (.capPerm, .ofNat 64 at_)

/-- Write one chunk of the destination; the events are those of plane packing (R104). -/
def State.bulkWrite (s : State) (r : BulkRun) (off : Nat) (bs : List Byte) : Except Bad (State × List Ev) :=
  match r.dst with
  | .cap k => s.engWriteSector (xlateCluster r.e) r.asid k (k.offset.toNat + off) bs
  | .key k =>
    if k.chip = s.pkg.chip then
      ((s.keyedStep k (k.off + off) (.write bs)).map fun x => (x.2, [])).mapError fun c => (c, 0)
    else .ok (s.sendKeyed r.e r.asid r.id k (k.off + off) (.write bs), [])

/-- How a run stops short: the failed check, whether the operand is local (and the fault may park), whether it was
written, the operand's number in a fault place, and the first byte of the piece that failed (R370). -/
structure BulkStop where
  bad : Bad
  local_ : Bool
  wr : Bool
  opnd : Nat
  at_ : Nat
deriving DecidableEq, Repr

/-- An operand of this package that a parked job may retry: a local capability (R368). -/
def BulkOperand.parks : BulkOperand → Bool
  | .cap _ => true
  | .key .. => false

/-- One piece of a BCOPY or BFILL: a chunk moves, or its bytes are read for the members of a multicast, to each of which they
go as a piece of its own (R370). -/
def bulkPiece (r : BulkRun) (p : Piece) (s : State) : Except BulkStop (List Piece × List Ev × State) :=
  match p with
  | .put m off bs =>
    match s.bulkPut r m off bs with
    | .error b => .error ⟨b, true, true, 7, off⟩
    | .ok s => .ok ([], [], s)
  | .move i =>
    let (off, n) := r.chunk i
    match s.bulkRead r off n with
    | .error b => .error ⟨b, (r.src.map (·.parks)).getD true, false, 4, off⟩
    | .ok (bs, s) =>
      if r.members.isEmpty then
        match s.bulkWrite r off bs with
        | .error b => .error ⟨b, r.dst.parks, true, 7, off⟩
        | .ok (s, ev) => .ok ([], ev, s)
      else .ok (r.members.map fun m => .put m off bs, [], s)

/-- What a peer answers to a keyed access: it takes it, or refuses it, or its link is lost, as the peer and the link decide
(R366, R367; log entry 10). -/
def State.peerRefusal (s : State) : Option Cause × State :=
  let (p, s) := s.pick 5
  match p with
  | 0 => (none, s)
  | 1 => (some .capStale, s)
  | 2 => (some .capPerm, s)
  | 3 => (some .capBounds, s)
  | _ => (some .fabric, s)

/-- The same for a run, with the operand that reaches the peer. -/
def State.peerAnswer (s : State) (r : BulkRun) : Option (Cause × Nat) × State :=
  let opnd := if (r.src.map (·.remote s)).getD false then some 4 else if r.dst.remote s then some 7 else none
  match opnd with
  | none => (none, s)
  | some o =>
    let (c, s) := s.peerRefusal
    (c.map fun c => (c, o), s)

/-- Add 1 to the counter at `CTROFF` of the destination, as AADD does (R370). -/
def State.bulkCounter (s : State) (r : BulkRun) : Option BulkStop × State :=
  let off := wf r.word 128 64
  if !r.word.getLsbD 98 then (none, s)
  else
    match r.dst with
    | .cap k =>
      if !(k.base.toNat ≤ off && off + 8 ≤ k.limit.toNat) then
        (some ⟨(.capBounds, .ofNat 64 off), true, true, 9, 0⟩, s)
      else
        match s.counterAdd (xlateCluster r.e) r.asid k off 1 true with
        | .error b => (some ⟨b, true, true, 9, 0⟩, if b.1 = .memError then { s with hostRefuse := false } else s)
        | .ok s => (none, s)
    | .key k =>
      if k.chip = s.pkg.chip then
        match s.keyedStep k off (.add 1) with
        | .error c => (some ⟨(c, 0), false, true, 9, 0⟩, s)
        | .ok (_, s) => (none, s)
      else
        let (c, s) := s.peerRefusal
        (c.map fun c => ⟨(c, 0), false, true, 9, 0⟩, s.sendKeyed r.e r.asid r.id k off (.add 1))

/-- How a run of a bulk command ends: the job is done or has failed, it parks (R368), or it pauses (log entry 67). -/
inductive BulkEnd where
  | done (v0 : BitVec 32)
  | fail (cause : BitVec 8) (v0 v1 : BitVec 32)
  | parked (v0 v1 : BitVec 32) (left : List Piece)
  | paused (left : List Piece)
deriving DecidableEq, Repr

/-- A run that stops: a parkable fault on a local page parks the job and raises its record; another ends it (R368). -/
def State.bulkStop (s : State) (r : BulkRun) (v0 : Nat) (left : List Piece) (x : BulkStop) (pos : Nat) : BulkEnd × State :=
  if x.local_ && x.bad.1.parkable then
    let f := s.faultInfo (xlateCluster r.e) r.asid x.bad.2 (if x.wr then .write else .read)
    let s := s.raiseFault r.asid (engineKind r.e).faultSrc x.bad.1 x.wr (x.bad.1 == .pageFault && f.malformed)
      (if x.bad.1 = .pageFault then f.host else none) (r.id.setWidth 32) x.bad.2 (.job r.e r.id)
    (.parked (.ofNat 32 v0) (faultPlace x.opnd pos) left, s)
  else
    (.fail x.bad.1.code (.ofNat 32 v0) (faultPlace x.opnd pos),
      s.engFault r.e r.asid (r.id.setWidth 32) x.bad x.wr)

/-- Sector offset within an operand of the piece that begins at a byte of the command (R318). -/
def BulkRun.place (r : BulkRun) (opnd off : Nat) : Nat :=
  let base := if opnd = 4 then (r.src.map (·.start)).getD 0 else r.dst.start
  (base + off) / 32 - base / 32

/-- Run a BCOPY or BFILL whose pieces are left: its sectors perform in an open order, so that each byte of an overlapping
destination receives the source byte from before or after its own write (R368, R370). A peer's refusal comes after some of
them. -/
def State.bulkCopy (s : State) (r : BulkRun) (todo : List Piece) : BulkEnd × State :=
  let (answer, s) := s.peerAnswer r
  let (cut, s) : Nat × State := if answer.isSome then s.pick (Nat.max 1 todo.length) else (9 * todo.length, s)
  let (n, s) := s.slice (9 * todo.length)
  let m := pieceLoop (bulkPiece r) (Nat.min n cut) todo [] s
  let s := m.state.countFor r.ctx m.evs
  match m.bad with
  | some x => s.bulkStop r (r.written m.left) m.left x (r.place x.opnd x.at_)
  | none =>
    match answer with
    | some (c, o) =>
      let (i, s) := s.pick (Nat.max 1 m.left.length)
      (.fail c.code (.ofNat 32 (r.written m.left)) (faultPlace o (r.place o ((m.left[i]?.map r.offsetOf).getD 0))), s)
    | none =>
      if !m.left.isEmpty then (.paused m.left, s)
      else
        match s.bulkCounter r with
        | (some x, s) => s.bulkStop r r.len [] x 0
        | (none, s) => (.done (.ofNat 32 (Nat.min r.len 0xFFFFFFFF)), s)

/-- Run a TCOUNT word (R373): one atomic step at the counter's home. -/
def State.bulkCount (s : State) (e : EngineIx) (j : Job) (w : W256) (caps : List RegVal) : BulkEnd × State :=
  let v : Word := w.extractLsb' 64 64
  let o := bulkOperand (w.getLsbD 128) (caps.getD 0 {})
  let r : BulkRun := { e := e, asid := j.asid, launch := j.launch, ctx := j.ctx, id := j.id, word := w, src := none, dst := o
                       remote := [] }
  match o with
  | .cap k =>
    match s.counterAdd (xlateCluster e) j.asid k k.offset.toNat v with
    | .error b => s.bulkStop r 0 [] ⟨b, true, true, 9, 0⟩ 0
    | .ok s => (.done 8, s)
  | .key k =>
    if k.chip = s.pkg.chip then
      match s.keyedStep k k.off (.add v) with
      | .error c => (.fail c.code 0 (faultPlace 9 0), s)
      | .ok (_, s) => (.done 8, s)
    else
      let (c, s) := s.peerRefusal
      let s := s.sendKeyed e j.asid j.id k k.off (.add v)
      match c with
      | none => (.done 8, s)
      | some c => (.fail c.code 0 (faultPlace 9 0), s)

/-- Run a bulk command, or what is left of it. -/
def State.bulkWork (s : State) (e : EngineIx) (j : Job) (w : W256) (caps : List RegVal) (remote : List Byte) : BulkEnd × State :=
  if w.extractLsb' 0 8 = 0x53 then s.bulkCount e j w caps
  else
    let r := BulkRun.of e j w caps remote
    s.bulkCopy r (j.todo.getD r.pieces)

/-- The narrowest of package, tenant and system scope that holds every byte of a destination (R234, R368). -/
def State.holdingScope (s : State) (a : Asid) (o : BulkOperand) (len : Nat) : Scope :=
  match o with
  | .key k => if k.chip = s.pkg.chip then .pkg else .ten
  | .cap k =>
    let first := k.offset.toNat / 65536
    let scopes := (List.range ((k.offset.toNat + len - 1) / 65536 + 1 - first)).map fun i =>
      match s.engReach 0 a k .write (Nat.max k.offset.toNat (65536 * (first + i))) 1 with
      | .ok (.fabric .., _) => Scope.ten
      | .ok (.bytes key _, _) => if 2 ^ 64 ≤ key then .sys else .pkg
      | _ => .pkg
    if scopes.contains .sys then .sys else if scopes.contains .ten then .ten else .pkg

/-- The scope at which DONE of a bulk command is an acquire of its writes (R368). -/
def State.bulkScope (s : State) (a : Asid) (w : W256) (caps : List RegVal) : Scope :=
  if w.extractLsb' 0 8 = 0x50 then s.holdingScope a (bulkOperand (w.getLsbD 97) (caps.getD 1 {})) (wf w 64 32)
  else if w.extractLsb' 0 8 = 0x51 then s.holdingScope a (bulkOperand (w.getLsbD 97) (caps.getD 0 {})) (wf w 64 32)
  else s.holdingScope a (bulkOperand (w.getLsbD 128) (caps.getD 0 {})) 8

/-! ### TRIG (R371, R372) -/

/-- `THRESH`. -/
def Job.thresh (j : Job) : Nat := wf j.word 64 64

/-- Where a TRIG's counter lies. -/
def State.trigKey (s : State) (e : EngineIx) (j : Job) : Option Nat :=
  let k := j.extraCap 0
  match s.dramKey (xlateCluster e) j.asid k .read k.offset.toNat 8 with
  | .ok (key, _) => some key
  | .error _ => none

/-- The bulk engines and ports. -/
def bulkEngines : List EngineIx := (List.range 28).map fun i => .ofNat 8 (128 + i)

/-- Every TRIG of the package. -/
def State.trigs (s : State) : List (EngineIx × Job) :=
  bulkEngines.flatMap fun e => ((s.engine e).jobs.filter fun j => j.inner.isSome).map fun j => (e, j)

/-- `reserved` of a counter: the thresholds of its TRIGs that have fired and not finished (R372). -/
def State.reserved (s : State) (key : Nat) : Nat :=
  ((s.trigs.filter fun (e, j) => j.fired && j.stage == .running && s.trigKey e j == some key).map (·.2.thresh)).sum

/-- An armed TRIG's condition holds (R372). -/
def State.trigHolds (s : State) (e : EngineIx) (j : Job) : Bool :=
  j.inner.isSome && !j.fired && j.stage == .queued && !(s.engine e).frozen.contains j.asid
    && (s.trigKey e j).any fun key => s.reserved key + j.thresh ≤ s.nat key 8

/-- Fewer than 8 jobs of the engine run, parked ones among them (R367). -/
def Engine.roomToRun (g : Engine) : Bool := (g.jobs.countP fun j => j.stage != .queued) < 8

/-- The TRIG fires next on its counter: its condition holds, it is the first accepted of which that is true, and its engine
may run one more (R367, R372). -/
def State.trigNext (s : State) (e : EngineIx) (j : Job) : Bool :=
  s.trigHolds e j && (s.engine e).roomToRun
    && s.trigs.all fun (e', j') => !(s.trigKey e' j' == s.trigKey e j && s.trigHolds e' j') || j.seq ≤ j'.seq

/-- THRESH leaves the counter, atomically (R372). -/
def State.subtractThresh (s : State) (e : EngineIx) (j : Job) : State :=
  match s.counterAdd (xlateCluster e) j.asid (j.extraCap 0) (j.extraCap 0).offset.toNat (0 - .ofNat 64 j.thresh) with
  | .ok s => s
  | .error _ => s

/-- What a run makes of its job; a TRIG that ends DONE subtracts its threshold (R368, R372). -/
def State.settleBulk (s : State) (e : EngineIx) (j : Job) (r : BulkEnd) : State :=
  match r with
  | .done v0 =>
    let s := if j.inner.isSome then s.subtractThresh e j else s
    let (w, caps) := j.inner.getD (j.word, j.caps)
    let scope := s.bulkScope j.asid w caps
    (s.updJob e j.id fun j => { j with scope := scope }).endJob e j.id 0 0 v0 0
  | .fail c v0 v1 => s.endJob e j.id 4 c v0 v1
  | .parked v0 v1 left => s.updJob e j.id fun j =>
      { j with stage := .running, value0 := v0, value1 := v1, todo := some left, parked := true }
  | .paused left => s.updJob e j.id fun j => { j with stage := .running, todo := some left }

/-- Run a job of a bulk engine, or what is left of it; a TRIG runs its inner command. -/
def State.runBulk (s : State) (e : EngineIx) (j : Job) (remote : List Byte) : State :=
  let (w, caps) := j.inner.getD (j.word, j.caps)
  let (r, s) := s.bulkWork e j w caps remote
  s.settleBulk e j r

/-- A TRIG fires (R372): it reserves its threshold and its inner command runs. -/
def State.fireTrig (s : State) (e : EngineIx) (j : Job) : State :=
  (s.updJob e j.id fun j => { j with fired := true, stage := .running }).runBulk e
    { j with fired := true, stage := .running } []

/-- TRIG (R371, R372): a TRIG is evaluated at its enqueue. -/
def execTrig (e : EngineIx) (s : State) : Out :=
  match (s.engine e).jobs.find? fun j => j.inner.isSome && !j.seen with
  | none => .next s
  | some j =>
    let s := s.updJob e j.id fun j => { j with seen := true }
    .next (if s.trigNext e { j with seen := true } then s.fireTrig e { j with seen := true } else s)

/-- TRIG_FIRE (R372): an armed TRIG is evaluated again and fires; the inner command of one that has fired and paused goes
on. -/
def execTrigFire (e : EngineIx) (id : BitVec 16) (s : State) : Out :=
  match s.jobOf e id with
  | none => .next s
  | some j =>
    if s.trigNext e j then .next (s.fireTrig e j)
    else if j.fired && (s.engine e).paused j.cmd == some j then .next (s.runBulk e j [])
    else .next s

/-! ### BCOPY, BFILL, TCOUNT (R367, R370, R373) -/

/-- The engine's next job runs if it is this command, or one that has paused goes on; up to 8 run at once, parked ones among
them (R367). -/
def State.runBulkHead (s : State) (e : EngineIx) (cmd : BitVec 8) (remote : List Byte) : Out :=
  match (s.engine e).paused cmd with
  | some j => .next (s.runBulk e j remote)
  | none =>
    if !(s.engine e).roomToRun then .next s
    else s.runHead e (engineKind e) cmd false fun j s => s.runBulk e j remote

/-- BCOPY (R370). -/
def execBcopy (e : EngineIx) (remote : List Byte) (s : State) : Out := s.runBulkHead e 0x50 remote
/-- BFILL (R370). -/
def execBfill (e : EngineIx) (s : State) : Out := s.runBulkHead e 0x51 []
/-- TCOUNT (R373). -/
def execTcount (e : EngineIx) (s : State) : Out := s.runBulkHead e 0x53 []

/-- The driver has answered the record that a parked job waits for: the engine retries its access, or the job ends with
the record's cause (R368, R422). -/
def State.answerJob (s : State) (e : EngineIx) (id : BitVec 16) (serviced : Bool) (cause : BitVec 8) : State :=
  match s.jobOf e id with
  | none => s
  | some j =>
    if j.stage ≠ .running ∨ !j.parked then s
    else if serviced then
      (s.updJob e id fun j => { j with parked := false }).runBulk e { j with parked := false } []
    else s.settleBulk e j (.fail cause j.value0 j.value1)

end Sys2Proof.Machine
end

