-- ==== Sys2Proof/Machine/Control.lean ====
section
/-!
DEFINITION. Sys2Proof/Machine/Control.lean: branches and jumps (R159 to R164) and the capability class (R134 to R138).
-/
namespace Sys2Proof.Machine

/-- Branch to a target, or go on past the branch (R159). -/
def State.branchIf (s : State) (t : Bool) (disp : Word) : Out :=
  .next (if t then s.setPc (s.branchTo disp) else s.advance)

/-- BCC (R160). -/
def execBcc (cond : Cond) (a b : Reg) (imm : Imm 11) (s : State) : Out :=
  s.branchIf (condHolds cond (s.x a) (s.x b)) (immValue imm)
/-- BB (R161). -/
def execBb (sense : Bool) (a : Reg) (bit : BitVec 8) (imm : Imm 11) (s : State) : Out :=
  s.branchIf ((s.bits a).getLsbD bit.toNat == sense) (immValue imm)
/-- J (R162). -/
def execJ (imm : BitVec 26) (s : State) : Out := s.branchIf true (imm.signExtend 64)
/-- JAL (R162): the link goes to c1. -/
def execJal (imm : BitVec 26) (s : State) : Out :=
  .next ((s.setX 1 (s.here + 4)).setPc (s.branchTo (imm.signExtend 64)))
/-- JALR (R163): a target that is not a multiple of 4 traps with nothing written. -/
def execJalr (d a : Reg) (imm : Imm 14) (s : State) : Out :=
  let t := s.x a + immValue imm
  if t.extractLsb' 0 2 != 0 then .next (s.takeTrap .align t)
  else .next ((s.setX d (s.here + 4)).setPc t)
/-- DBNZ (R164). -/
def execDbnz (a : Reg) (imm : Imm 20) (s : State) : Out :=
  let v := s.x a - 1
  let t := s.setX a v
  .next (if v != 0 then t.setPc (t.branchTo (immValue imm)) else t.advance)

/-- A getter's scalar result (R134). -/
def State.getter (s : State) (d : Reg) (v : Word) : Out := .next (s.setX d v).advance

/-- CGETOFF (R134). -/
def execCgetoff (d a : Reg) (s : State) : Out := s.getter d (s.cap a).offset
/-- CGETBASE (R134). -/
def execCgetbase (d a : Reg) (s : State) : Out := s.getter d (s.cap a).base
/-- CGETLIM (R134). -/
def execCgetlim (d a : Reg) (s : State) : Out := s.getter d (s.cap a).limit
/-- CGETPERM (R134). -/
def execCgetperm (d a : Reg) (s : State) : Out := s.getter d ((s.cap a).perm.setWidth 64)
/-- CGETHND (R134). -/
def execCgethnd (d a : Reg) (s : State) : Out := s.getter d ((s.cap a).handle.setWidth 64)
/-- CGETGEN (R134). -/
def execCgetgen (d a : Reg) (s : State) : Out := s.getter d ((s.cap a).gen.setWidth 64)
/-- CGETKIND (R134): `KIND` in [2:0], `SEALED` in [3]. -/
def execCgetkind (d a : Reg) (s : State) : Out :=
  s.getter d ((BitVec.ofBool (s.cap a).sealed_ ++ (s.cap a).kind).setWidth 64)

/-- A register number as trap.val. -/
def regVal (r : Reg) : Word := r.setWidth 64

/-- A derivation: c[a] tagged and uncovered, then the changed view, tagged (R135). -/
def State.derive (s : State) (d a : Reg) (f : Cap → Except Bad Cap) : Out :=
  if !(s.reg a).tag then .next (s.takeTrap .capTag (regVal a))
  else if (s.cap a).sealed_ then .next (s.takeTrap .capSealed (regVal a))
  else s.orTrap (f (s.cap a)) fun k => (s.setCap d k).advance

/-- CCUR (R135). -/
def execCcur (d a b : Reg) (s : State) : Out := s.derive d a fun k => .ok { k with offset := s.x b }
/-- CSTEP (R135). -/
def execCstep (d a b : Reg) (s : State) : Out := s.derive d a fun k => .ok { k with offset := k.offset + s.x b }
/-- CNARROW (R135): the window becomes [cursor, y). -/
def execCnarrow (d a b : Reg) (s : State) : Out :=
  s.derive d a fun k =>
    let y := s.x b
    if k.offset.ult k.base || y.ult k.offset || k.limit.ult y then .error (.capBounds, regVal b)
    else .ok { k with base := k.offset, limit := y }
/-- CDROP (R135). -/
def execCdrop (d a b : Reg) (s : State) : Out :=
  s.derive d a fun k => .ok { k with perm := k.perm &&& ~~~((s.x b).setWidth 12) }

/-- The checks of CCOVER and CUNCOVER that come before the view changes (R136). -/
def State.coverCheck (s : State) (a b : Reg) : Option Bad :=
  let k := s.cap a
  let u := s.cap b
  if !(s.reg a).tag then some (.capTag, regVal a)
  else if !(s.reg b).tag then some (.capTag, regVal b)
  else if u.sealed_ then some (.capSealed, regVal b)
  else if !u.has permS then some (.capPerm, regVal b)
  else if u.handle != k.handle || u.gen != k.gen then some (.capPerm, regVal b)
  else none

/-- CCOVER (R136). -/
def execCcover (d a b : Reg) (s : State) : Out :=
  match s.coverCheck a b with
  | some e => .next (s.trapBad e)
  | none =>
    if (s.cap a).sealed_ then .next (s.takeTrap .capSealed (regVal a))
    else .next (s.setCap d { s.cap a with sealed_ := true }).advance
/-- CUNCOVER (R136). -/
def execCuncover (d a b : Reg) (s : State) : Out :=
  match s.coverCheck a b with
  | some e => .next (s.trapBad e)
  | none => .next (s.setCap d { s.cap a with sealed_ := false }).advance
/-- CPLAIN (R137). -/
def execCplain (d a : Reg) (s : State) : Out := .next (s.setBits d (s.bits a)).advance
/-- CPROBE (R137). -/
def execCprobe (d a : Reg) (s : State) : Out :=
  let k := s.cap a
  let inside := k.base.ule k.offset && k.offset.ult k.limit
  s.getter d ((BitVec.ofBool k.isWalkRef ++ BitVec.ofBool k.sealed_ ++ BitVec.ofBool inside
    ++ BitVec.ofBool (s.reg a).tag).setWidth 64)
/-- CDIST (R137). -/
def execCdist (d a b : Reg) (s : State) : Out :=
  let k := s.cap a
  let u := s.cap b
  if !(s.reg a).tag then .next (s.takeTrap .capTag (regVal a))
  else if !(s.reg b).tag then .next (s.takeTrap .capTag (regVal b))
  else if k.handle != u.handle || k.gen != u.gen then .next (s.takeTrap .capPerm (regVal b))
  else s.getter d (k.offset - u.offset)
/-- CINCI (R138): CSTEP by an immediate. -/
def execCinci (d a : Reg) (imm : Imm 14) (s : State) : Out :=
  s.derive d a fun k => .ok { k with offset := k.offset + immValue imm }

end Sys2Proof.Machine
end

