-- ==== Sys2Proof/Machine/Siphon.lean ====
section
/-!
DEFINITION. Sys2Proof/Machine/Siphon.lean: tensor layout records (R374, R375) and Siphon's commands RESHARD, RSRESUME and
RSQUERY (R376 to R380). A plan completes one box row a step, and rows behind it may move
ahead (R378).
-/
namespace Sys2Proof.Machine

/-! ### Tensor layout records (R374) -/

/-- A tensor layout record, as its fields. -/
structure Tlr where
  type : Nat
  rank : Nat
  naxes : Nat
  order : Nat
  shape : List Nat
  mesh : List Nat
  map : List Nat
  ndev : Nat
  /-- `KIDX` and `KBASE` of the 64 devices -/
  devs : List (Nat × Nat)
deriving DecidableEq, Repr

/-- `n` bytes at an index, as a number. -/
def numAt (bs : List Byte) (i n : Nat) : Nat := ofBytes ((bs.drop i).take n)

/-- The fields of 256 bytes. -/
def Tlr.ofBytes (bs : List Byte) : Tlr where
  type := numAt bs 0 1 % 32
  rank := numAt bs 1 1
  naxes := numAt bs 2 1
  order := numAt bs 3 1
  shape := (List.range 6).map fun d => numAt bs (8 + 4 * d) 4
  mesh := (List.range 4).map fun a => numAt bs (32 + a) 1
  map := (List.range 6).map fun d => numAt bs (36 + d) 1
  ndev := numAt bs 42 1
  devs := (List.range 64).map fun j => (numAt bs (64 + 3 * j) 1, numAt bs (65 + 3 * j) 2)

/-- Types that a record may have (R374). -/
def tlrType (n : Nat) : Bool := (2 ≤ n && n ≤ 9) || n == 0x0B || n == 0x0C || (0x0E ≤ n && n ≤ 0x11)

/-- The byte offsets of the fields that R374 does not allow, and of the `KIDX` above `NKM1` (R378). A nonzero reserved
field is not allowed (DEDUCED from R3, log entry 38). -/
def tlrBad (bs : List Byte) (nkm1 : Nat) : List Nat :=
  let t := Tlr.ofBytes bs
  let at_ (bad : Bool) (off : Nat) : List Nat := if bad then [off] else []
  at_ (!tlrType t.type || numAt bs 0 1 ≥ 32) 0
    ++ at_ (!(1 ≤ t.rank && t.rank ≤ 6)) 1 ++ at_ (!(1 ≤ t.naxes && t.naxes ≤ 4)) 2 ++ at_ (1 < t.order) 3
    ++ at_ (numAt bs 4 4 != 0) 4
    ++ ((List.range 6).flatMap fun d => at_ ((t.shape.getD d 0 != 0) != (d < t.rank : Bool)) (8 + 4 * d))
    ++ ((List.range 4).flatMap fun a => at_ ((t.mesh.getD a 0 != 0) != (a < t.naxes : Bool)) (32 + a))
    ++ ((List.range 6).flatMap fun d =>
      let m := t.map.getD d 0
      at_ (if d < t.rank then m != 0xFF && t.naxes ≤ m else m != 0) (36 + d))
    ++ at_ (t.ndev != (t.mesh.take t.naxes).foldl (· * ·) 1 || 64 < t.ndev) 42
    ++ at_ (numAt bs 43 21 != 0) 43
    ++ ((List.range 64).flatMap fun j =>
      let (k, b) := t.devs.getD j (0, 0)
      if j < t.ndev then at_ (nkm1 < k) (64 + 3 * j)
      else at_ (k != 0) (64 + 3 * j) ++ at_ (b != 0) (65 + 3 * j))

/-- The byte offsets at which the destination's `TYPE`, `RANK` or `SHAPE` differs from the source's (R378). -/
def tlrDiffer (src dst : Tlr) : List Nat :=
  (if src.type = dst.type then [] else [0]) ++ (if src.rank = dst.rank then [] else [1])
    ++ (List.range 6).flatMap fun d => if src.shape.getD d 0 = dst.shape.getD d 0 then [] else [8 + 4 * d]

/-- Bytes of an element. -/
def Tlr.elemBytes (t : Tlr) : Nat := ((elemOfCode t.type).map fun x => x.bits / 8).getD 1

/-- Coordinate of device `j` on mesh axis `a`. -/
def Tlr.coord (t : Tlr) (j a : Nat) : Nat := j / ((t.mesh.take t.naxes).drop (a + 1)).foldl (· * ·) 1 % t.mesh.getD a 1

/-! ### Shards (R375) -/

/-- The axis of a dimension, if it is mapped. -/
def Tlr.axis (t : Tlr) (d : Nat) : Option Nat := let m := t.map.getD d 0xFF; if m = 0xFF then none else some m
/-- Local extent of a dimension. -/
def Tlr.localExtent (t : Tlr) (d : Nat) : Nat :=
  match t.axis d with
  | none => t.shape.getD d 1
  | some a => ceilDiv (t.shape.getD d 1) (t.mesh.getD a 1)

/-- Device `j` holds index `i` of dimension `d`. -/
def Tlr.holds (t : Tlr) (j d i : Nat) : Bool :=
  match t.axis d with
  | none => true
  | some a =>
    let c := t.localExtent d
    if t.order = 0 then i / c == t.coord j a else i % t.mesh.getD a 1 == t.coord j a

/-- Local index of index `i` of dimension `d`. -/
def Tlr.localIndex (t : Tlr) (d i : Nat) : Nat :=
  match t.axis d with
  | none => i
  | some a => if t.order = 0 then i % t.localExtent d else i / t.mesh.getD a 1

/-- Row-major place of an element in its shard, from the indices of the dimensions 0, 1, .... -/
def Tlr.place (t : Tlr) (ix : List Nat) : Nat :=
  ix.zipIdx.foldl (fun p (i, d) => p * t.localExtent d + t.localIndex d i) 0

/-- A key table entry: its key and the region offset (R376). -/
structure KeyEntry where
  key : Key
  region : Nat
deriving DecidableEq, Repr

/-- The entry of 16 bytes. -/
def KeyEntry.of (b : BitVec 128) : KeyEntry where
  key := Key.ofBits ((b.extractLsb' 0 72).setWidth 256)
  region := (b.extractLsb' 72 56).toNat

/-- The entry of device `j`, and where its shard begins in that entry's export. -/
def Plan.shard (p : Plan) (t : Tlr) (j : Nat) : KeyEntry × Nat :=
  let (k, b) := t.devs.getD j (0, 0)
  let e := KeyEntry.of (p.keys.getD k 0)
  (e, e.region + b * 65536)

/-! ### The plan (R378, R379) -/

/-- The chip of a source device's shard. -/
def Plan.chipOf (p : Plan) (t : Tlr) (j : Nat) : ChipIx := (p.shard t j).1.key.chip

/-- Source devices that hold the same elements: the same coordinates on every mapped axis (R375). -/
def Tlr.sameClass (t : Tlr) (i j : Nat) : Bool :=
  (List.range t.rank).all fun d => match t.axis d with
    | none => true
    | some a => t.coord i a == t.coord j a

/-- Torus coordinates of a core (R12, R18). -/
def coreXY (c : CoreIx) : Nat × Nat :=
  let cl := c.toNat / 8
  let m := c.toNat % 8
  (cl % 8 * 2 + m % 2, cl / 8 * 4 + m / 2)

/-- Hops between two cores of this chip (R18). -/
def torusHops (a b : CoreIx) : Nat :=
  let (ax, ay) := coreXY a
  let (bx, b_y) := coreXY b
  let d (n p q : Nat) : Nat := let k := Nat.max p q - Nat.min p q; Nat.min k (n - k)
  d 16 ax bx + d 32 ay b_y

/-- Home core of a shard's first byte (R379): on another chip, where that chip has put it (log entry 13). -/
def State.shardHome (s : State) (k : Key) (off : Nat) : CoreIx :=
  if k.chip ≠ s.pkg.chip then .ofNat 9 (Config.farHome k.chip.toNat k.handle.toNat off)
  else
    match s.keyedExport k 0 off 1 with
    | .error _ => 0
    | .ok x =>
      match s.engReach 0 x.asid x.cap .read off 1 with
      | .ok (.bytes key _, _) => if key < 2 ^ 39 then .ofNat 9 (key / 2 ^ 30) else .ofNat 9 ((key - 2 ^ 40) / 2 ^ 22)
      | _ => 0

/-- Nolost hops between two chips (R379): one where a port of this chip joins them; between others, what the wiring of the
packages makes them (log entry 13). -/
def State.nolostHops (s : State) (a b : ChipIx) : Nat :=
  let joins (x y : ChipIx) : Bool := s.pkg.chip == x && s.ports.toList.any fun q => q.valid && q.peer == y
  if a = b then 0 else if joins a b || joins b a then 1 else Nat.max 1 (Config.nolostHops a.toNat b.toNat)

/-- The least element of a list of keyed candidates, the earliest among equals. -/
def leastBy (f : Nat → Nat) : List Nat → Option Nat
  | [] => none
  | x :: xs => some (xs.foldl (fun b y => if f y < f b then y else b) x)

/-- The replica that Siphon takes from the class of source device `c` for destination device `d` (R379): the fewest Nolost
hops, then the smallest torus distance, then the lowest chip, then the lowest device. -/
def State.replica (s : State) (p : Plan) (src dst : Tlr) (d c : Nat) : Nat :=
  let (de, doff) := p.shard dst d
  let home := s.shardHome de.key doff
  let rank (j : Nat) : Nat :=
    let (e, off) := p.shard src j
    (s.nolostHops e.key.chip de.key.chip * 2 ^ 10 + torusHops (s.shardHome e.key off) home) * 2 ^ 8 + e.key.chip.toNat
  (leastBy rank ((List.range src.ndev).filter fun j => src.sameClass c j)).getD c

/-- Indices of dimension `k` that both devices hold. -/
def boxIndices (src dst : Tlr) (sd dd k : Nat) : List Nat :=
  (List.range (src.shape.getD k 1)).filter fun i => src.holds sd k i && dst.holds dd k i

/-- Box rows of a pair of devices. -/
def boxRows (src dst : Tlr) (dd sd : Nat) : Nat :=
  let ns := (List.range src.rank).map fun k => (boxIndices src dst sd dd k).length
  if ns.contains 0 then 0 else (ns.take (src.rank - 1)).foldl (· * ·) 1

/-- The leading indices of box row `r`, row-major. -/
def rowIndices (lists : List (List Nat)) (r : Nat) : List Nat :=
  (lists.foldr (fun l (acc : List Nat × Nat) =>
    (l.getD (acc.2 % l.length) 0 :: acc.1, acc.2 / l.length)) ([], r)).1

/-- The elements of a box row: offsets in the source's and the destination's export. -/
def Plan.rowElems (p : Plan) (src dst : Tlr) (dd sd r : Nat) : List (Nat × Nat) :=
  let lead := rowIndices ((List.range (src.rank - 1)).map fun k => boxIndices src dst sd dd k) r
  let (_, so) := p.shard src sd
  let (_, dof) := p.shard dst dd
  (boxIndices src dst sd dd (src.rank - 1)).map fun i =>
    (so + src.place (lead ++ [i]) * src.elemBytes, dof + dst.place (lead ++ [i]) * src.elemBytes)

/-- The pairs that the plan takes: every pair of devices whose source is the chosen replica and that shares a row. -/
def State.planPairs (s : State) (p : Plan) : List (Nat × Nat) :=
  let src := Tlr.ofBytes p.src
  let dst := Tlr.ofBytes p.dst
  (List.range dst.ndev).flatMap fun d => ((List.range src.ndev).filter fun c =>
    s.replica p src dst d c == c && 0 < boxRows src dst d c).map fun c => (d, c)

/-- The first row at or after the cursors, as a plan with its cursors there; none at the end. -/
def State.planNext (s : State) (p : Plan) : Option Plan :=
  let src := Tlr.ofBytes p.src
  let dst := Tlr.ofBytes p.dst
  match (s.planPairs p).find? fun (d, c) =>
      p.dcur < d || (p.dcur == d && (p.scur < c || (p.scur == c && p.row < boxRows src dst d c))) with
  | none => none
  | some (d, c) => some { p with dcur := d, scur := c, row := if p.dcur = d ∧ p.scur = c then p.row else 0 }

/-- The plan meets another chip in the row at its cursors. -/
def State.rowRemote (s : State) (p : Plan) : Bool :=
  p.chipOf (Tlr.ofBytes p.src) p.scur != s.pkg.chip || p.chipOf (Tlr.ofBytes p.dst) p.dcur != s.pkg.chip

/-! ### The progress record (R377) -/

/-- One step of the CRC-32 of IEEE 802.3, reflected. -/
def crcBit : Nat → BitVec 32 → BitVec 32
  | 0, c => c
  | n + 1, c => crcBit n (if c.getLsbD 0 then (c >>> 1) ^^^ 0xEDB88320#32 else c >>> 1)
/-- CRC-32 (IEEE 802.3). -/
def crc32 (bs : List Byte) : BitVec 32 :=
  ~~~(bs.foldl (fun c b => crcBit 8 (c ^^^ b.setWidth 32)) (.allOnes 32))

/-- The record's 64 bytes. -/
def Plan.record (p : Plan) (state cause : Nat) : List Byte :=
  toBytes ((crc32 (p.src ++ p.dst)).toNat + p.first.toNat * 2 ^ 32 + p.dcur % 2 ^ 8 * 2 ^ 64 + p.scur % 2 ^ 8 * 2 ^ 72
    + p.row % 2 ^ 32 * 2 ^ 80 + p.secs % 2 ^ 64 * 2 ^ 128 + state * 2 ^ 192 + cause * 2 ^ 200) 64

/-- Write the record in the plan's control block. -/
def State.writeRecord (s : State) (p : Plan) (state cause : Nat) : Except Bad State :=
  let k := Cap.ofBits (p.caps.getD 2 {}).val
  match engWrite 0 p.asid k 66 k.offset.toNat (p.record state cause) 0 [] s with
  | (_, _, some (b, _), _) => .error b
  | (_, _, none, s) => .ok s

/-- A Siphon job ends on a fault (R378): the operand and the position of its fault place, and the sectors done. -/
def State.siphonFault (s : State) (e : EngineIx) (a : Asid) (id : BitVec 16) (b : Bad) (wr : Bool) (opnd pos sectors : Nat) :
    State :=
  { (s.engFault e a (id.setWidth 32) b wr).endJob e id 4 b.1.code (.ofNat 32 sectors) (faultPlace opnd pos) with
    plan := none }

/-- The plan has no more rows: `STATE` 4, DONE (R378). The manual does not say what the cursors hold then: free values
(log entry 10). -/
def State.planDone (s : State) (e : EngineIx) (p : Plan) : State :=
  let (w, s) := s.freeValue
  let q := { p with dcur := bitsOf w.toNat 0 8, scur := bitsOf w.toNat 8 8, row := bitsOf w.toNat 16 32 }
  match s.writeRecord q 4 0 with
  | .ok s => { s.endJob e p.job 0 0 (.ofNat 32 p.mine) 0 with plan := none }
  | .error b => s.siphonFault e p.asid p.job b true 8 0 p.mine

/-- RESHARD's first record shows the cursors at 0, whichever row comes first, and also where the plan has no row (R378). -/
def State.planBegin (s : State) (e : EngineIx) (p : Plan) : State :=
  match s.writeRecord p 1 0 with
  | .error b => s.siphonFault e p.asid p.job b true 8 0 p.mine
  | .ok s =>
    match s.planNext p with
    | none => s.planDone e p
    | some q => { s with plan := some q }

/-- The record shows the plan running at its next row, or the plan is done. -/
def State.planGo (s : State) (e : EngineIx) (p : Plan) : State :=
  match s.planNext p with
  | none => s.planDone e p
  | some q =>
    match s.writeRecord q 1 0 with
    | .ok s => { s with plan := some q }
    | .error b => s.siphonFault e p.asid p.job b true 8 0 p.mine

/-! ### RESHARD, RSRESUME, RSQUERY (R378, R380) -/

/-- What a start of RESHARD or RSRESUME reads: both records and the key table. -/
def State.planOperands (s : State) (j : Job) :
    Except (Bad × Nat × Nat) ((List Byte × List Byte × List (BitVec 128)) × State) :=
  let n := wf j.word 64 8 + 1
  let off (i : Nat) : Nat := (j.extraCap i).offset.toNat
  match readSectors 0 j.asid (j.extraCap 0) 8 (off 0) 0 s with
  | .error (b, pos) => .error (b, 4, pos)
  | .ok (src, s) =>
    match readSectors 0 j.asid (j.extraCap 1) 8 (off 1) 0 s with
    | .error (b, pos) => .error (b, 7, pos)
    | .ok (dst, s) =>
      match engRead 0 j.asid (j.extraCap 2) (n + 2) (off 2 + 64) (16 * n) s with
      | .error b => .error (b, 8, 2)
      | .ok (ks, s) => .ok ((src, dst, (List.range n).map fun i => .ofNat 128 (numAt ks (16 * i) 16)), s)

/-- The first field of the records that a start refuses: `OPND` and its byte offset (R378). -/
def planBad (src dst : List Byte) (nkm1 : Nat) : Option (Nat × Nat) :=
  match tlrBad src nkm1 with
  | b :: bs => some (4, bs.foldl Nat.min b)
  | [] =>
    match tlrBad dst nkm1 ++ tlrDiffer (Tlr.ofBytes src) (Tlr.ofBytes dst) with
    | b :: bs => some (7, bs.foldl Nat.min b)
    | [] => none

/-- A plan starts: RESHARD from the beginning, RSRESUME from the record's cursors. -/
def State.startPlan (s : State) (e : EngineIx) (j : Job) (resume : Bool) : State :=
  match s.planOperands j with
  | .error (b, opnd, pos) => s.siphonFault e j.asid j.id b false opnd pos 0
  | .ok ((src, dst, keys), s) =>
    match planBad src dst (wf j.word 64 8) with
    | some (opnd, pos) => s.endJob e j.id 7 0 0 (faultPlace opnd pos)
    | none =>
      let p : Plan := { job := j.id, first := j.id, asid := j.asid, caps := j.caps, src := src, dst := dst, keys := keys
                        dcur := 0, scur := 0, row := 0, secs := 0, mine := 0 }
      let running (s : State) : State := s.updJob e j.id fun j => { j with stage := .running }
      if !resume then (running s).planBegin e p
      else
        match readSectors 0 j.asid (j.extraCap 2) 2 (j.extraCap 2).offset.toNat 0 s with
        | .error (b, pos) => s.siphonFault e j.asid j.id b false 8 pos 0
        | .ok (r, s) =>
          if numAt r 0 4 ≠ (crc32 (src ++ dst)).toNat then s.endJob e j.id 7 0 0 (faultPlace 8 0)
          else if numAt r 24 1 = 4 then s.endJob e j.id 0 0 0 0
          else
            (running s).planGo e { p with first := .ofNat 16 (numAt r 4 2), dcur := numAt r 8 1, scur := numAt r 9 1
                                          row := numAt r 10 4, secs := numAt r 16 8 }

/-- RESHARD (R378). -/
def execReshard (e : EngineIx) (s : State) : Out := s.runHead e .siphon 0x40 false fun j s => s.startPlan e j false
/-- RSRESUME (R380). -/
def execRsresume (e : EngineIx) (s : State) : Out := s.runHead e .siphon 0x41 false fun j s => s.startPlan e j true

/-- The record of a control block, live where it is the running plan's (R380). -/
def State.progress (s : State) (j : Job) : Except Bad (List Byte × State) :=
  match s.plan with
  | some p =>
    let k := Cap.ofBits (p.caps.getD 2 {}).val
    if p.asid = j.asid ∧ k.handle = (j.extraCap 0).handle ∧ k.gen = (j.extraCap 0).gen
        ∧ k.offset = (j.extraCap 0).offset then .ok (p.record 1 0, s)
    else engRead 0 j.asid (j.extraCap 0) 66 (j.extraCap 0).offset.toNat 64 s
  | none => engRead 0 j.asid (j.extraCap 0) 66 (j.extraCap 0).offset.toNat 64 s

/-- RSQUERY (R380). -/
def execRsquery (e : EngineIx) (s : State) : Out :=
  s.runHead e .siphon 0x42 false fun j s =>
    match s.progress j with
    | .error b => (s.engFault e j.asid (j.id.setWidth 32) b false).endJob e j.id 4 b.1.code 0 (faultPlace 4 0)
    | .ok (r, s) =>
      s.endJob e j.id 0 0 (.ofNat 32 (numAt r 16 4))
        (.ofNat 32 (numAt r 8 2 + numAt r 24 2 * 2 ^ 16))

/-! ### Box rows (R378) -/

/-- Move the elements of a row in order; `remote` holds what a peer supplies. The operand that stopped it, if one
did. -/
def rowLoop (a : Asid) (job : BitVec 16) (es : Nat) (se de : KeyEntry) :
    List (Nat × Nat) → List Byte → State → Option (Cause × Nat) × State
  | [], _, s => (none, s)
  | (so, dof) :: rest, remote, s =>
    match (if se.key.chip = s.pkg.chip then (s.keyedStep se.key so (.read es)).map fun (bs, s) => (bs, s)
        else
          let given := remote.take es
          let (more, s) := freeBytes (es - given.length) (s.sendKeyed siphonEngine a job se.key so (.read es))
          (.ok (given ++ more, s) : Except Cause (List Byte × State))) with
    | .error c => (some (c, 4), s)
    | .ok (bs, s) =>
      if de.key.chip = s.pkg.chip then
        match s.keyedStep de.key dof (.write bs) with
        | .error c => (some (c, 7), s)
        | .ok (_, s) => rowLoop a job es se de rest (remote.drop es) s
      else rowLoop a job es se de rest (remote.drop es) (s.sendKeyed siphonEngine a job de.key dof (.write bs))

/-- The plan stops at its cursors (R378; log entry 58). -/
def State.planStop (s : State) (e : EngineIx) (p : Plan) (state : Nat) (cause : BitVec 8) (opnd : Nat) : State :=
  let s := match s.writeRecord p state cause.toNat with
    | .ok s => s
    | .error _ => s
  { s.endJob e p.job 4 cause (.ofNat 32 p.mine) (faultPlace opnd p.row) with plan := none }

/-- Move the row at a plan's cursors: what stopped it, if anything did, and its destination sectors (R280, R378). -/
def State.moveRow (s : State) (p : Plan) (remote : List Byte) : Option (Cause × Nat) × Nat × State :=
  let src := Tlr.ofBytes p.src
  let dst := Tlr.ofBytes p.dst
  let es := p.rowElems src dst p.dcur p.scur p.row
  let (bad, s) := rowLoop p.asid p.job src.elemBytes (p.shard src p.scur).1 (p.shard dst p.dcur).1 es remote s
  (bad, (sectorsOf (es.flatMap fun x => [x.2, x.2 + src.elemBytes - 1])).length, s)

/-- Rows behind the one at the cursors move before it completes, up to `n` of them, so that up to 16 are in flight (R378).
One that meets a peer waits for its answer; one that fails meets its fault again when its turn comes. -/
def rowsAhead : Nat → Plan → Plan → State → Plan × State
  | 0, p, _, s => (p, s)
  | n + 1, p, at_, s =>
    match s.planNext { at_ with row := at_.row + 1 } with
    | none => (p, s)
    | some q =>
      if s.rowRemote q || p.ahead.any (fun x => x.1 == q.dcur && x.2.1 == q.scur && x.2.2.1 == q.row) then rowsAhead n p q s
      else
        match s.moveRow q [] with
        | (some _, _, s) => rowsAhead n p q s
        | (none, k, s) => rowsAhead n { p with ahead := (q.dcur, q.scur, q.row, k) :: p.ahead } q s

/-- How many rows move ahead in this step: none once no slice is given (log entry 67). -/
def State.rowSlice (s : State) : Nat × State :=
  match s.slices with
  | [] => (0, s)
  | n :: rest => (Nat.min n 15, { s with slices := rest })

/-- The row at the cursors moves, unless it has moved ahead, and completes; or it stops the plan (R378). -/
def State.completeRow (s : State) (e : EngineIx) (p : Plan) (remote : List Byte) : State :=
  let here (x : Nat × Nat × Nat × Nat) : Bool := x.1 == p.dcur && x.2.1 == p.scur && x.2.2.1 == p.row
  match p.ahead.find? here with
  | some x =>
    let k := x.2.2.2
    s.planGo e { p with row := p.row + 1, secs := p.secs + k, mine := p.mine + k, ahead := p.ahead.filter fun y => !here y }
  | none =>
    match s.moveRow p remote with
    | (some (c, opnd), _, s) => s.planStop e p 2 c.code opnd
    | (none, k, s) => s.planGo e { p with row := p.row + 1, secs := p.secs + k, mine := p.mine + k }

/-- BOX_ROW_COMPLETE (R378): the row at the cursors completes, or stops the plan. What another chip answers comes with
the step. -/
def execBoxRowComplete (o : RowOutcome) (s : State) : Out :=
  match s.plan with
  | none => .next s
  | some p =>
    let e := siphonEngine
    let opnd := if p.chipOf (Tlr.ofBytes p.src) p.scur != s.pkg.chip then 4 else 7
    let (n, s) := s.rowSlice
    let (p, s) := rowsAhead n p p s
    .next (match o with
      | .moved remote => s.completeRow e p remote
      | .linkLost => if s.rowRemote p then s.planStop e p 3 Cause.fabric.code opnd else s.completeRow e p []
      | .faulted c => if s.rowRemote p then s.planStop e p 2 c opnd else s.completeRow e p [])

end Sys2Proof.Machine
end

