-- ==== Sys2Proof/Machine/Exchange.lean ====
section
/-!
DEFINITION. Sys2Proof/Machine/Exchange.lean: the timed exchange (R352 to R362): XGO, XSTAT, the grant, the flits of a
phase and its end. A phase's flits are worked off in the order of their cycles: the writes of a cycle, then its reads.
-/
namespace Sys2Proof.Machine

/-! ### Timetables (R353, R354, R360) -/

/-- A timetable entry from its 16 bytes (R353); the reserved bits go into `res`. -/
def XEntry.ofBits (v : Nat) : XEntry where
  ofs := bitsOf v 0 32
  kind := .ofNat 8 (bitsOf v 32 8)
  dir := .ofNat 8 (bitsOf v 40 8)
  fmt := .ofNat 8 (bitsOf v 48 8)
  fwd := .ofNat 4 (bitsOf v 56 4)
  res := .ofNat 4 (bitsOf v 60 4)
  spad := bitsOf v 64 32
  len := bitsOf v 96 32

/-- Flits in one cycle on a link: 2 on the torus, 8 on a port (R352, R354). -/
def linkWidth (dir : BitVec 8) : Nat := if dir.toNat < 4 then 2 else 8

/-- The element type of an addition format (R353). -/
def xFormat (fmt : BitVec 8) : Option ElemType :=
  if fmt = 0x04 then some .s32 else if fmt = 0x05 then some .s64 else if fmt = 0x0E then some .bf16
  else if fmt = 0x0F then some .f16 else if fmt = 0x10 then some .f32 else if fmt = 0x11 then some .f64 else none

/-- `FMT` suits the kind (R354). -/
def XEntry.fmtOk (e : XEntry) : Bool :=
  if e.kind = 3 then (xFormat e.fmt).isSome
  else if e.kind = 4 then e.fmt == 0 || (xFormat e.fmt).isSome
  else e.fmt == 0

/-- Cycles that an entry's flits take. -/
def XEntry.cycles (e : XEntry) : Nat := (e.len + linkWidth e.dir - 1) / linkWidth e.dir

/-- The first cycle after everything the entry does: a receive writes one cycle after its flit, and forwards two after
(R354). -/
def XEntry.end_ (e : XEntry) : Nat :=
  e.ofs + e.cycles + (if e.kind = 2 ∨ e.kind = 3 then 1 else if e.kind = 4 then 2 else 0)

/-- The outgoing link that an entry uses: link, first cycle, cycles (R360). -/
def XEntry.out (e : XEntry) : Option (BitVec 8 × Nat × Nat) :=
  if e.kind = 1 then some (e.dir, e.ofs, e.cycles)
  else if e.kind = 4 then some (e.fwd.setWidth 8, e.ofs + 2, e.cycles) else none
/-- The incoming link that an entry uses (R360). -/
def XEntry.in_ (e : XEntry) : Option (BitVec 8 × Nat × Nat) :=
  if e.kind = 2 ∨ e.kind = 3 ∨ e.kind = 4 then some (e.dir, e.ofs, e.cycles) else none

/-- Two uses share a link in a common cycle (log entry 37). -/
def linkClash (a b : Option (BitVec 8 × Nat × Nat)) : Bool :=
  match a, b with
  | some (l, p, n), some (m, q, k) => l == m && decide (p < q + k) && decide (q < p + n)
  | _, _ => false

/-- A core by its torus coordinates (R12). -/
def coreAt (x y : Nat) : CoreIx := .ofNat 9 ((y / 4 * 8 + x / 2) * 8 + y % 4 * 2 + x % 2)
/-- The core at a port's attach node (R355). -/
def portCore (n : Nat) : CoreIx := coreAt (2 * (n % 6) + 2) (if n < 6 then 0 else 31)

/-- A link that this core may name: one of the torus, or a port in exchange mode attached here (R355, R360). -/
def State.linkOk (s : State) (core : CoreIx) (dir : BitVec 8) : Bool :=
  dir.toNat < 4 || (match s.ports.toList[dir.toNat - 4]? with
    | some p => p.exMode && portCore (dir.toNat - 4) == core
    | none => false)

/-- An entry by itself passes (R360). -/
def State.entryOk (s : State) (core : CoreIx) (size d : Nat) (e : XEntry) : Bool :=
  e.kind.toNat ≤ 4 && e.dir.toNat ≤ 15 && (e.fwd == 0 || e.kind == 4) && e.fmtOk && e.res == 0 && e.len != 0
    && e.spad % 32 == 0 && e.spad + 32 * e.len ≤ size && s.linkOk core e.dir
    && (e.kind != 4 || s.linkOk core (e.fwd.setWidth 8)) && e.end_ ≤ d

/-- The lowest entry that fails: by itself, or against an earlier one (R360). `before` holds the earlier entries. -/
def State.badEntry (s : State) (core : CoreIx) (size d : Nat) : List XEntry → List XEntry → Option Nat
  | _, [] => none
  | before, e :: rest =>
    if !s.entryOk core size d e || before.any (fun b =>
        decide (e.ofs < b.ofs) || linkClash b.out e.out || linkClash b.in_ e.in_) then some before.length
    else s.badEntry core size d (before ++ [e]) rest

/-! ### XGO (R359) -/

/-- The entries of a table, read through the current context's capability (R359). What another chip would bring is free
(log entry 10). -/
def State.readEntries (v : RegVal) : Nat → Word → State → Except Bad (List XEntry × State)
  | 0, _, s => .ok ([], s)
  | n + 1, eff, s =>
    match s.accessAt s.cx v permR eff { acc := .read, n := 16, size := .b128 } with
    | .error b => .error b
    | .ok (t, s) =>
      let far : Bool × Nat × State :=
        let (x, s) := s.freeValue
        let (y, s) := s.freeValue
        (true, x.toNat + y.toNat * 2 ^ 64, s)
      let (granted, w, s) : Bool × Nat × State := match t with
        | .fabric chip page off _ =>
          match s.ownPage s.cx.asid chip page off with
          | some (.ok key) => (true, s.nat key 16, s)
          | some (.error ()) => (false, 0, s)
          | none => if s.farRefused chip page then (false, 0, s) else far
        | .peer .. => far
        | t => (true, ofBytes (s.readTarget s.cx t 16).1, s)
      if !granted then .error (.fabric, eff) else
      match State.readEntries v n (eff + 16) s with
      | .error b => .error b
      | .ok (es, s) => .ok (XEntry.ofBits w :: es, s)

/-- The allotment of the current context's launch on its core (R53). -/
def State.cxAllotment (s : State) : Option Allotment :=
  s.allotments.find? fun x => x.launch == s.cx.launch && x.core == s.cx.core

/-- The checks of XGO on its table's capability, and the entries (R359). -/
def State.xgoTable (s : State) (a : Reg) (n : Nat) : Except Bad (List XEntry × State) :=
  let k := s.cap a
  if n = 0 then .ok ([], s)
  else
    match s.capCheck s.cx.asid (s.reg a) permR k.offset (16 * n) with
    | some c => .error (c, k.offset)
    | none =>
      if k.kind != 0 then .error (.capPerm, k.offset)
      else if k.offset.toNat % 16 != 0 then .error (.align, k.offset)
      else State.readEntries (s.reg a) n k.offset s

/-- A member of a phase as it arrives: its table checked (R359, R360). -/
def State.xMember (s : State) (es : List XEntry) (d : Nat) : XMember :=
  let size := (s.cxAllotment.map (·.size)).getD 0
  match s.badEntry s.cx.core size d [] es with
  | some i => { ctx := s.cx.id, core := s.cx.core, entries := es, d := d, code := 1, entry := .ofNat 16 i }
  | none => { ctx := s.cx.id, core := s.cx.core, entries := es, d := d }

/-- The exchange status word (R361). -/
def xStatus (code : BitVec 8) (entry : BitVec 16) (drop miss : Nat) (t0 : Word) (dp : Nat) : W256 :=
  .ofNat 256 (code.toNat + entry.toNat * 2 ^ 8 + Nat.min drop 0xFFFF * 2 ^ 32 + Nat.min miss 0xFFFF * 2 ^ 48
    + t0.toNat * 2 ^ 64 + dp % 2 ^ 32 * 2 ^ 128)

/-- A member's XGO returns with a status word; its counters receive what its additions counted (R356, R359, R362). -/
def State.xgoEnd (s : State) (m : XMember) (word : W256) : State :=
  match (s.getCtx m.ctx).map (fun (c : Ctx) => c.wait) with
  | some (.xgo d) => s.asCtx m.ctx fun s =>
      (((s.clampScope s.cxBarScope).setBits d word).updCx fun c =>
        { c.addCounts m.counts with xstat := word }).finishWait
  | _ => s

/-- Every member of the request's group that has neither retired nor been killed has arrived (R357). -/
def State.xComplete (s : State) (r : XRequest) : Bool :=
  ((s.groupMembers r.group).all fun id => r.members.any fun m => m.ctx == id)
    && (s.farMembers r.group).all fun m => r.far.any fun x => x.1 == m

/-- Weight of a function (R357). -/
def State.xWeight (s : State) (f : FnIx) : Nat :=
  if h : f.toNat < 65 then (s.pkg.weights[f.toNat]).toNat else 0

/-- The other packages of a group are told. -/
def State.tellGroup (s : State) (g : Group) (m : SpanMsg) : State :=
  match g with
  | .gang _ => s
  | .span id => s.tellSpan id m

/-- A request is refused: each member's XGO returns NOWEIGHT (R357). -/
def State.xRefuse (s : State) (r : XRequest) : State :=
  (r.members.foldl (fun s m => s.xgoEnd { m with counts := [] } (xStatus 3 0 0 0 0 0)) s).tellGroup r.group .refuse

/-- Another package holds gang 0 of a group, and schedules its phases (R357). -/
def State.farLed (s : State) : Group → Bool
  | .gang _ => false
  | .span id => (s.spanOf id).any fun x => x.lead.isSome

/-- Requests whose members have all arrived join their functions' queues; a function of weight 0 has them refused. One whose
gang 0 lies on another package waits for that package's grant (R357). -/
def State.xJoin (s : State) : State :=
  let now (r : XRequest) : Bool := s.xComplete r && !s.farLed r.group
  let ready := s.xarrived.filter now
  let s := { s with xarrived := s.xarrived.filter fun r => !now r }
  ready.foldl (fun s r =>
    if s.xWeight r.fn = 0 then s.xRefuse r else { s with xqueue := s.xqueue ++ [r] }) s

/-- The current context arrives for a phase of its group (R357, R359). -/
def State.xArrive (s : State) (m : XMember) : State :=
  let g := s.cx.group
  let s := s.tellGroup g (.xgo s.cx.spanMember m.d)
  if s.xarrived.any fun r => r.group == g then
    { s with xarrived := s.xarrived.map fun r => if r.group = g then { r with members := r.members ++ [m] } else r }
  else { s with xarrived := s.xarrived ++ [{ group := g, fn := s.cx.fn, members := [m] }] }

/-- XGO (R359): every trap comes before the context arrives; then it waits for its phase. -/
def execXgo (d a b : Reg) (s : State) : Out :=
  let v := (s.bits b).toNat
  let n := bitsOf v 0 16
  let dl := bitsOf v 32 32
  s.orTrap (s.xgoTable a n) fun (es, s) =>
    (((s.clampScope s.cxBarScope).block (.xgo d)).xArrive (s.xMember es dl)).xJoin

/-- XSTAT (R362). -/
def execXstat (d a : Reg) (s : State) : Out :=
  let k := (s.x a).toNat
  let v : W256 :=
    if k = 0 then s.cx.xstat
    else match s.ports.toList[k - 1]? with
      | some p => .ofNat 256 (p.lat.toNat + p.valid.toNat * 2 ^ 32 + p.exMode.toNat * 2 ^ 33 + p.peer.toNat * 2 ^ 40)
      | none => 0
  .next (s.setBits d v).advance

/-! ### The grant (R357) -/

/-- The greatest D among the members. -/
def XRequest.length (r : XRequest) : Nat := (r.members.map (·.d) ++ r.far.map (·.2)).foldl Nat.max 0

/-- The slot that a member is bound in. -/
def State.memberSlot (s : State) (m : XMember) : Nat := ((s.getCtx m.ctx).map fun c => c.slot.toNat).getD 8

/-- Of two members on one core that both give entries, the one in the lower slot runs its table (R360). -/
def State.xBusy (s : State) (ms : List XMember) (m : XMember) : XMember :=
  if !m.entries.isEmpty && ms.any fun k =>
      k.core == m.core && !k.entries.isEmpty && decide (s.memberSlot k < s.memberSlot m)
  then { m with code := 2, entry := 0 } else m

/-- The items of an entry of member `i`, whose allotment begins at `base` (R354). -/
def XEntry.items (e : XEntry) (i base : Nat) : List XItem :=
  if e.kind = 0 then []
  else (List.range e.len).map fun f =>
    let c := e.ofs + f / linkWidth e.dir
    let send := e.kind == 1
    { cycle := if send then c else c + 1, rank := if send then 1 else 0, member := i, kind := e.kind, dir := e.dir,
      fmt := e.fmt, fwd := e.fwd, key := base + e.spad + 32 * f }

/-- Order of items: by cycle, writes before reads. -/
def XItem.before (a b : XItem) : Bool := decide (a.cycle < b.cycle) || (a.cycle == b.cycle && decide (a.rank ≤ b.rank))

/-- Insert an item in front of those that come after it. -/
def insertItem (x : XItem) : List XItem → List XItem
  | [] => [x]
  | y :: t => if x.before y then x :: y :: t else y :: insertItem x t

/-- The items that a member runs: none unless its table passed (R359). -/
def State.memberItems (s : State) (launchOf : BitVec 32 → Nat) (m : XMember) (i : Nat) : List XItem :=
  if m.code != 0 then []
  else
    let base := ((s.allotments.find? fun x => x.launch == launchOf m.ctx && x.core == m.core).map
      fun x => (Place.spad m.core x.base).key).getD 0
    m.entries.flatMap fun e => e.items i base

/-- A phase of `dp` cycles starts at T0 (R357). -/
def State.beginPhase (s : State) (r : XRequest) (t0 : Word) (dp : Nat) : State :=
  let ms := r.members.map (s.xBusy r.members)
  let launchOf (id : BitVec 32) : Nat := ((s.getCtx id).map fun (c : Ctx) => c.launch).getD 0
  let items := (ms.zipIdx.flatMap fun (m, i) => s.memberItems launchOf m i).foldr insertItem []
  { s with phase := some { group := r.group, t0 := t0, dp := dp, members := ms, items := items, flits := [] } }

/-- A granted phase: T0 lies a free number of cycles ahead (R357; log entry 12). The other packages of the group are told. -/
def State.startPhase (s : State) (r : XRequest) : State :=
  let t0 := s.cycle + 1 + .ofNat 64 (Config.farLatency s.free)
  (State.beginPhase { s with free := s.free + 1 } r t0 r.length).tellGroup r.group (.grant t0 r.length)

/-- The head request of a function's exchange queue. -/
def State.xHead (s : State) (f : FnIx) : Option XRequest := s.xqueue.find? fun r => r.fn == f

/-- Remove the head request of a function; a queue that empties leaves the deficit at 0 (R357). -/
def State.xPop (s : State) (f : FnIx) (deficit : Nat) : State :=
  let q := s.xqueue.eraseP fun r => r.fn == f
  { s with xqueue := q, deficits := tset f.toNat (if q.any fun r => r.fn == f then deficit else 0) s.deficits }

/-- The next function, in ascending order round after round, that has a request pending (R357). -/
def State.xNext (s : State) : FnIx :=
  let pending (f : Nat) : Bool := s.xqueue.any fun r => r.fn.toNat == f
  let later := (List.range 65).find? fun f => decide (s.xvisit.toNat < f) && pending f
  .ofNat 7 ((later <|> (List.range 65).find? pending).getD s.xvisit.toNat)

/-- The scheduler grants the head request of the function it visits if its length is within the deficit (R357). -/
def State.xTry (s : State) : State :=
  let f := s.xvisit
  let have_ := tget s.deficits f.toNat 0
  match s.xHead f with
  | none => s
  | some r =>
    if s.xWeight f = 0 then (s.xRefuse r).xPop f have_
    else if r.length ≤ have_ then (s.startPhase r).xPop f (have_ - r.length)
    else s

/-- The visit of the next function: its deficit grows by the weight times 1,024 cycles (R357). -/
def State.xVisit (s : State) : State :=
  let f := s.xNext
  { s with xvisit := f, deficits := tset f.toNat (tget s.deficits f.toNat 0 + s.xWeight f * 1024) s.deficits }

/-- EXCHANGE_GRANT (R357): while no phase runs, the function being visited has its head request granted while its
deficit allows; otherwise the scheduler visits the next function. -/
def execExchangeGrant (s : State) : Out :=
  let s := s.xJoin
  .next (if s.phase.isSome || s.xqueue.isEmpty then s
    else
      let t := s.xTry
      if t.phase.isSome || t.xqueue.length < s.xqueue.length then t else s.xVisit.xTry)

/-! ### Other packages of a span (R298, R357) -/

/-- A member on another package arrives in XGO. -/
def State.xFar (s : State) (span : BitVec 32) (m d : Nat) : State :=
  let g : Group := .span span
  let s : State :=
    if s.xarrived.any fun r => r.group == g then
      { s with xarrived := s.xarrived.map fun r => if r.group = g then { r with far := r.far ++ [(m, d)] } else r }
    else
      { s with xarrived := s.xarrived ++ [{ group := g, fn := ((s.spanOf span).map Span.fn).getD 0, members := [], far := [(m, d)] }] }
  s.xJoin

/-- The request of a span whose phases another package schedules. -/
def State.xTake (s : State) (span : BitVec 32) : Option (XRequest × State) :=
  (s.xarrived.find? fun r => r.group == .span span && s.farLed r.group && s.xComplete r).map fun r =>
    (r, { s with xarrived := s.xarrived.filter fun x => x != r })

/-- Another package of a span tells this one (R298, R357, R363; log entry 66). T0 of a grant is aligned to this package's
cycles by the ports' calibrated latencies. -/
def State.spanTold (s : State) (span : BitVec 32) (m : SpanMsg) : State :=
  match m with
  | .arrive k counts => (s.updSpan span fun x => { x with round := { x.round with far := x.round.far ++ [(k, counts)] } }).releaseRound (.span span)
  | .gone k killed => ((s.updSpan span fun x => { x with far := x.far.erase k, farKilled := x.farKilled || killed }).releaseRound (.span span)).xJoin
  | .xgo k d => s.xFar span k d
  | .grant t0 dp =>
    match (if s.phase.isSome then none else s.xTake span) with
    | some (r, s) => s.beginPhase r t0 dp
    | none => s
  | .refuse =>
    match s.xTake span with
    | some (r, s) => r.members.foldl (fun s m => s.xgoEnd { m with counts := [] } (xStatus 3 0 0 0 0 0)) s
    | none => s

/-! ### The flits of a phase (R354 to R356) -/

/-- The link on which a flit sent on torus link `dir` arrives, and the core it arrives at (R354). -/
def torusNeighbour (core : CoreIx) (dir : BitVec 8) : CoreIx × BitVec 8 :=
  let (x, y) := coreXY core
  let c := if dir = 0 then coreAt ((x + 1) % 16) y
    else if dir = 1 then coreAt ((x + 15) % 16) y
    else if dir = 2 then coreAt x ((y + 1) % 32)
    else coreAt x ((y + 31) % 32)
  (c, dir ^^^ 1)

/-- Place 32 bytes on a link in a cycle of the phase (R355). -/
def State.placeFlit (s : State) (p : Phase) (core : CoreIx) (dir : BitVec 8) (cycle : Nat) (v : W256) :
    Phase × State :=
  if dir.toNat < 4 then
    let (c, l) := torusNeighbour core dir
    ({ p with flits := p.flits ++ [⟨c, l, cycle + 2, v⟩] }, s)
  else
    let lat := ((s.ports.toList[dir.toNat - 4]?).map fun q => q.lat.toNat).getD 0
    (p, s.send (.flit (.ofNat 4 (dir.toNat - 4)) (.ofNat 64 (cycle + lat)) v))

/-- RNE(old + arriving), element by element, and the events (R354, R356). -/
def xAdd (ty : ElemType) (x y : W256) : W256 × List Ev :=
  let w := ty.bits
  let rs := (List.range (256 / w)).map fun i =>
    let a := bitsOf x.toNat (w * i) w
    let b := bitsOf y.toNat (w * i) w
    match ty.fmt with
    | some f => atomFadd f a b
    | none => ((a + b) % 2 ^ w, 0)
  (.ofNat 256 (rs.zipIdx.foldl (fun v (r, i) => v + r.1 * 2 ^ (w * i)) 0), rs.map (·.2))

/-- Change a member of a phase. -/
def Phase.updMember (p : Phase) (i : Nat) (f : XMember → XMember) : Phase :=
  match p.members[i]? with
  | none => p
  | some m => { p with members := p.members.set i (f m) }

/-- Sum of two lists of eight counts. -/
def addLists (a b : List Nat) : List Nat := (List.range 8).map fun i => a.getD i 0 + b.getD i 0

/-- A SEND's flit: 32 bytes are read and go on the link (R354). -/
def State.xSend (s : State) (p : Phase) (m : XMember) (x : XItem) : Phase × State :=
  s.placeFlit p m.core x.dir x.cycle (.ofNat 256 (s.nat x.key 32))

/-- A receive's flit: the flit of the cycle before is taken, added where the entry has a format, written, and forwarded
by RECVADDSEND; a flit that does not come is counted (R354, R356; log entry 37). -/
def State.xRecv (s : State) (p : Phase) (m : XMember) (x : XItem) : Phase × State :=
  let mine (f : Flit) : Bool := f.core == m.core && f.dir == x.dir && f.cycle + 1 == x.cycle
  match p.flits.find? mine with
  | none => (p.updMember x.member fun m => { m with miss := m.miss + 1 }, s)
  | some f =>
    let p := { p with flits := p.flits.eraseP mine }
    let (v, ev) := match xFormat x.fmt with
      | some ty => xAdd ty (.ofNat 256 (s.nat x.key 32)) f.data
      | none => (f.data, [])
    let s := s.homeWrite x.key (toBytes v.toNat 32)
    let p := p.updMember x.member fun m => { m with counts := addLists m.counts (evCounts ev) }
    if x.kind = 4 then s.placeFlit p m.core (x.fwd.setWidth 8) (x.cycle + 1) v else (p, s)

/-- The next item of the phase, where it is of this kind and its cycle has come; a member that has been killed sends
and receives nothing (R359). -/
def State.xItem (s : State) (kind : BitVec 8) : State :=
  match s.phase with
  | none => s
  | some p =>
    match p.items with
    | [] => s
    | x :: rest =>
      if x.kind != kind || s.cycle.toNat < p.t0.toNat + x.cycle then s
      else
        let p := { p with items := rest }
        match p.members[x.member]? with
        | none => { s with phase := some p }
        | some m =>
          if (s.getCtx m.ctx).isNone then { s with phase := some p }
          else
            let (p, s) := if kind = 1 then s.xSend p m x else s.xRecv p m x
            { s with phase := some p }

/-- SEND (R354). -/
def execSend (s : State) : Out := .next (s.xItem 1)
/-- RECV (R354). -/
def execRecv (s : State) : Out := .next (s.xItem 2)
/-- RECVADD (R354). -/
def execRecvadd (s : State) : Out := .next (s.xItem 3)
/-- RECVADDSEND (R354). -/
def execRecvaddsend (s : State) : Out := .next (s.xItem 4)

/-- A member's status word when its phase ends (R361): ABORTED where another member has been killed. -/
def State.xFinal (s : State) (p : Phase) (m : XMember) : W256 :=
  let killed := p.members.any fun k => (s.getCtx k.ctx).isNone
  let code := if m.code = 0 && killed then 4 else m.code
  let drop := (p.flits.filter fun f => f.core == m.core).length
  xStatus code m.entry drop m.miss p.t0 p.dp

/-- XGO_RETURN (R359): 8 cycles after T0 + Dp, each member's XGO returns, and the next phase may be granted. -/
def execXgoReturn (s : State) : Out :=
  .next (match s.phase with
    | none => s
    | some p =>
      if !p.items.isEmpty || s.cycle.toNat < p.t0.toNat + p.dp + 8 then s
      else p.members.foldl (fun s m => s.xgoEnd m (s.xFinal p m)) { s with phase := none })

end Sys2Proof.Machine
end

