-- ==== Sys2Proof/Machine/Launch.lean ====
section
/-!
DEFINITION. Sys2Proof/Machine/Launch.lean: objects (R60 to R62), the loader (R52 to R55, R62, R184, R185, R308, R333,
R390, R425), placement and tiles (R53, R143, R313), LAUNCH (R448), retirement (R450, R455), RECORD and REPLAY (R451).
-/
namespace Sys2Proof.Machine

/-! ### The object (R60, R61) -/

/-- `n` bytes of an image from `at_`, as a number. -/
def imageNat (bs : List Byte) (at_ n : Nat) : Nat := ofBytes ((bs.drop at_).take n)

/-- The header of an object (R60). -/
structure ObjHead where
  magic : Nat
  version : Nat
  prio : Nat
  textSz : Nat
  dataSz : Nat
  spadSz : Nat
  spad : Nat
  stack : Nat
  args : Nat
  argSz : Nat
  nTask : Nat
  nBind : Nat
  nRel : Nat
  nSym : Nat
  strSz : Nat
  name : Nat
  reserved : Nat
deriving DecidableEq, Repr

/-- The header's fields (R60). -/
def ObjHead.ofBytes (bs : List Byte) : ObjHead where
  magic := imageNat bs 0 4
  version := imageNat bs 4 2
  prio := imageNat bs 6 1
  textSz := imageNat bs 8 4
  dataSz := imageNat bs 12 4
  spadSz := imageNat bs 16 4
  spad := imageNat bs 20 4
  stack := imageNat bs 24 4
  args := imageNat bs 28 4
  argSz := imageNat bs 32 4
  nTask := imageNat bs 36 2
  nBind := imageNat bs 38 2
  nRel := imageNat bs 40 4
  nSym := imageNat bs 44 4
  strSz := imageNat bs 48 4
  name := imageNat bs 52 4
  reserved := imageNat bs 7 1 + imageNat bs 56 8

/-- The first multiple of 32 from `n` on. -/
def up32 (n : Nat) : Nat := (n + 31) / 32 * 32

/-- Where the parts begin: text, data, spad, tasks, binds, relocations, symbols, strings (R60). -/
def ObjHead.offsets (h : ObjHead) : List Nat :=
  [h.textSz, h.dataSz, h.spadSz, 32 * h.nTask, 16 * h.nBind, 8 * h.nRel, 16 * h.nSym].foldl
    (fun os n => os ++ [up32 (os.getLastD 64 + n)]) [64]
/-- Bytes of the object. -/
def ObjHead.size (h : ObjHead) : Nat := h.offsets.getD 7 0 + h.strSz

/-- An object taken apart: header, images, raw table entries and the string area. -/
structure Obj where
  head : ObjHead
  text : List Byte
  data : List Byte
  spad : List Byte
  tasks : List (List Byte)
  binds : List (List Byte)
  rels : List Nat
  strs : List Byte
deriving DecidableEq, Repr

/-- Take an object apart. -/
def Obj.ofBytes (bs : List Byte) : Obj :=
  let h := ObjHead.ofBytes bs
  let part (i n : Nat) : List Byte := (bs.drop (h.offsets.getD i 0)).take n
  { head := h, text := part 0 h.textSz, data := part 1 h.dataSz, spad := part 2 h.spadSz
    tasks := (List.range h.nTask).map fun i => ((part 3 (32 * h.nTask)).drop (32 * i)).take 32
    binds := (List.range h.nBind).map fun i => ((part 4 (16 * h.nBind)).drop (16 * i)).take 16
    rels := (List.range h.nRel).map fun i => imageNat (part 5 (8 * h.nRel)) (8 * i) 8
    strs := part 7 h.strSz }

/-- The zero-terminated string at an offset of the string area (R61). -/
def Obj.str (o : Obj) (off : Nat) : Option (List Byte) :=
  let rest := o.strs.drop off
  if off < o.strs.length && rest.contains 0 then some (rest.takeWhile (· != 0)) else none

/-- A task entry (R61). -/
def Obj.task (o : Obj) (bs : List Byte) : TaskEnt where
  entry := imageNat bs 0 4
  x := .ofNat 16 (imageNat bs 4 2)
  y := .ofNat 16 (imageNat bs 6 2)
  z := .ofNat 16 (imageNat bs 8 2)
  gang := imageNat bs 10 1
  flags := .ofNat 8 (imageNat bs 11 1)
  key := .ofNat 8 (imageNat bs 12 1)
  quantum := .ofNat 32 (imageNat bs 16 4)
  img := if imageNat bs 20 4 = 0xFFFFFFFF then none else o.str (imageNat bs 20 4)

/-- A bind entry (R61). -/
def Obj.bind (o : Obj) (bs : List Byte) : BindEnt where
  slot := imageNat bs 0 2
  perm := .ofNat 12 (imageNat bs 2 2)
  path := (o.str (imageNat bs 4 4)).getD []

/-- Members of a gang of an object, in their order. -/
def gangMembers (ts : List TaskEnt) (g : Nat) : List TaskEnt := ts.filter fun t => t.gang == g

/-- No element stands twice. -/
def noRepeats {α : Type} [BEq α] (xs : List α) : Bool :=
  match xs with
  | [] => true
  | x :: rest => !rest.contains x && noRepeats rest

/-- The task table is legal (R54, R62, R425). -/
def Obj.tasksOk (o : Obj) : Bool :=
  let h := o.head
  let ts := o.tasks.map o.task
  h.nTask != 0
    && o.tasks.all (fun b =>
      let t := o.task b
      imageNat b 13 3 == 0 && imageNat b 28 4 == 0 && t.flags.toNat < 8 && t.gang ≤ 63
        && t.entry % 4 == 0 && t.entry < h.textSz
        && (!t.flags.getLsbD 2 || t.flags.getLsbD 0)
        && (t.flags.getLsbD 1 || t.key == 0) && (!t.flags.getLsbD 1 || t.img.isSome)
        && (imageNat b 20 4 == 0xFFFFFFFF || t.img.isSome) && (o.str (imageNat b 24 4)).isSome)
    && (List.range 64).all fun g =>
      let ms := gangMembers ts g
      ms.length ≤ 64 && noRepeats (ms.map fun t => (t.x, t.y, t.z))
        && (ms.isEmpty || h.spad + (ms.length + 7) / 8 * h.stack ≤ 3 * 2 ^ 20)

/-- The bind table is legal (R62). -/
def Obj.bindsOk (o : Obj) : Bool :=
  o.binds.all (fun b => 32 * imageNat b 0 2 + 32 ≤ o.head.argSz && imageNat b 2 2 < 2 ^ 12 && imageNat b 8 8 == 0
    && (o.str (imageNat b 4 4)).isSome)
    && noRepeats (o.binds.map fun b => imageNat b 0 2)

/-- A relocation entry: offset, whether it is in the spad image, width in bytes (R61). -/
def relFields (r : Nat) : Nat × Bool × Nat := (bitsOf r 0 32, bitsOf r 32 1 == 1, 2 ^ bitsOf r 33 2)

/-- The relocations are legal (R62). -/
def Obj.relsOk (o : Obj) : Bool :=
  o.rels.all fun r =>
    let (off, sp, w) := relFields r
    let img := if sp then o.spad else o.data
    r < 2 ^ 35 && off + w ≤ img.length && imageNat img off w ≤ o.head.dataSz

/-- The checks of R62; BADOBJ where one fails. -/
def Obj.ok (o : Obj) : Bool :=
  let h := o.head
  h.magic == 0x424F5747 && h.version == 1 && h.reserved == 0 && h.prio ≤ 3
    && h.textSz % 4 == 0 && h.args + h.argSz ≤ h.dataSz && h.spadSz ≤ h.spad
    && h.spad % 32 == 0 && h.stack % 32 == 0 && 256 ≤ h.stack && h.stack ≤ 65536 && h.spad + h.stack ≤ 3 * 2 ^ 20
    && h.argSz % 32 == 0 && 32 ≤ h.argSz && h.argSz ≤ 4096
    && (o.str h.name).isSome && o.tasksOk && o.bindsOk && o.relsOk

/-- Put a number's bytes into an image. -/
def patchImage (bs : List Byte) (off w v : Nat) : List Byte := bs.take off ++ toBytes v w ++ bs.drop (off + w)

/-- Apply the relocations to the data and spad images; none where a value does not fit (R62, R308). -/
def relocate (va : Nat) : List Nat → List Byte × List Byte → Option (List Byte × List Byte)
  | [], im => some im
  | r :: rs, (d, p) =>
    let (off, sp, w) := relFields r
    let v := imageNat (if sp then p else d) off w + va
    if 2 ^ (8 * w) ≤ v then none
    else relocate va rs (if sp then (d, patchImage p off w v) else (patchImage d off w v, p))

/-! ### Fields of the packet (R448) -/

/-- `OBJ`. -/
def Launch.objAddr (l : Launch) : Word := .ofNat 64 (l.part 0 8)
/-- `TILES`. -/
def Launch.tileReq (l : Launch) : Nat := l.part 26 1
/-- RECORD. -/
def Launch.records (l : Launch) : Bool := l.part 27 1 % 2 == 1
/-- REPLAY. -/
def Launch.replays (l : Launch) : Bool := l.part 27 1 / 2 % 2 == 1
/-- `LOG`. -/
def Launch.logAddr (l : Launch) : Word := .ofNat 64 (l.part 64 8)
/-- The nonzero `DEP` words: cluster, key. -/
def packetDeps (bs : List Byte) : List (ClusterIx × BitVec 32) :=
  ((List.range 4).map fun i => packetField bs (32 + 8 * i) 8).filterMap fun d =>
    if d = 0 then none else some (.ofNat 6 d, .ofNat 32 (d / 2 ^ 32))

/-! ### The end of a launch (R448, R450, R455) -/

/-- Close handles of an ASID; a proxy's remote handle is closed at its peer too. -/
def State.closeAll (s : State) (a : Asid) (hs : List (BitVec 24)) : State :=
  hs.foldl (fun s h =>
    let remote := ((s.space a).handles.find? fun k => k.ix == h).bind Handle.remote
    let s := match remote with
      | some (chip, rh, rg) =>
        State.send { s with label := s.label + 1 } (.step chip (.nclose s.pkg.chip s.label rh rg))
      | none => s
    s.closeHandle a h) s

/-- The completion word is written, a release at the packet's scope, and the packet is complete (R445, R448). A word that
cannot be written freezes the function (R446). -/
def State.writeCompletion (s : State) (l : Launch) (status detail : BitVec 8) (exit : BitVec 32) : State :=
  let w := status.toNat + detail.toNat * 2 ^ 8 + exit.toNat * 2 ^ 32
  let s := s.clampFn l.fn l.fscope.toNat
  let s := match kettleWrite l.asid .write 9 l.doneAddr (toBytes w 8) s with
    | .ok s => s.tell (.completion l.doneAddr (.ofNat 64 w))
    | .error _ => s.freezeFn l.fn
  State.closePacket { s with launches := s.launches.filter fun x => x.id != l.id } l.queue l.id

/-- Barista frees the tiles of a launch and releases its allotments (R313, R455). -/
def State.releaseLaunch (s : State) (l : Launch) : State :=
  let s := l.tiles.foldl (fun s (cl, ts) => ts.foldl (fun s t => s.writeOwner cl t 0) s) s
  { s with allotments := s.allotments.filter fun x => x.launch != l.id
           gangs := s.gangs.filter fun g => g.launch != l.id
           spans := s.spans.filter fun x => s.gangs.any fun g => g.span == x.id && g.launch != l.id }

/-- A context that a failing launch has made goes: its descriptor returns to the pool. -/
def State.unmakeCtx (s : State) (id : BitVec 32) : State :=
  match s.getCtx id with
  | none => s
  | some c =>
    let s := s.closeAll c.asid [(Cap.ofBits (c.reg 2).val).handle, c.ctxHandle]
    let s := (s.dropCtxNode c).dropCtx id
    State.freeIfUnused { s with pool := s.pool ++ [⟨c.asid, c.id, c.cdva, c.stkOvf⟩] } c.asid c.root

/-- A launch fails: it binds no task, gives back what it holds and writes its word at once (R62, R448). -/
def State.failLaunch (s : State) (l : Launch) (status detail : BitVec 8) : State :=
  let caps := l.caps.map fun c => (Cap.ofBits c.2.val).handle
  let imgs := (l.ctxs.filterMap s.getCtx).filterMap fun c =>
    if c.imgRegion.tag then some (Cap.ofBits c.imgRegion.val).handle else none
  let s := s.closeAll l.asid (caps ++ imgs)
  let s := l.ctxs.foldl State.unmakeCtx s
  let own := if l.textCap = 0 then [] else [(Cap.ofBits l.textCap).handle, l.memHandle.1]
  ((s.closeAll l.asid own).releaseLaunch l).writeCompletion l status detail 0

/-- Every task of a launch has retired or been killed (R141). -/
def State.launchOver (s : State) (l : Launch) : Bool :=
  (s.gangs.filter fun g => g.launch == l.id).all fun g => g.members.all g.gone.contains

/-- No job of a launch is left on its matrix engines and copy units, and none of its ASID on its tiles (R348, R455). -/
def State.launchIdle (s : State) (l : Launch) : Bool :=
  s.engines.all fun (e, g) =>
    let mine := if e < 64 then (l.tiles.lookup (.ofNat 6 e)).getD [] else []
    128 ≤ e || (g.jobs.all (fun j => j.launch != l.id && !(j.asid == l.asid && mine.contains j.acc))
      && g.xfers.all fun x => x.launch != l.id)

/-- Each matrix engine writes out the counter sets of a launch (R450). -/
def State.writeSets (s : State) (l : Launch) : State :=
  (List.range 64).foldl (fun s i =>
    let cl : ClusterIx := .ofNat 6 i
    let sets := (s.cluster cl).counters.filter fun c => c.launch == l.id
    if sets.isEmpty then s
    else
      let s := sets.reverse.foldl (fun s c => s.writeOut cl c) s
      s.updCluster cl fun k => { k with counters := k.counters.filter fun c => c.launch != l.id }) s

/-- The record's header: entries written, entries dropped (R450). -/
def Launch.header (l : Launch) : List Byte := toBytes l.nrecUsed 8 ++ toBytes l.nrecLost 8

/-- The log that RECORD writes (R451; log entry 32). -/
def State.launchLog (s : State) (l : Launch) : LaunchLog where
  packet := l.words
  clusters := (l.gangs.filterMap fun id => s.gangs.find? fun g => g.id == id).filterMap Gang.cluster
  slots := l.slots
  tiles := l.tiles
  digests := l.digests

/-- RECORD: the packet goes to `LOG`, and the log is kept; an address that cannot be mapped freezes the function (R446,
R451; log entry 32). -/
def State.writeLog (s : State) (l : Launch) : State :=
  match kettleWrite l.asid .write 3 l.logAddr l.words s with
  | .ok s => { s with logs := ((l.asid, l.logAddr), s.launchLog l) :: s.logs }
  | .error _ => s.freezeFn l.fn

/-- A launch whose tasks are over ends, as far as it can: its record is completed, its tiles and allotments are released,
and its completion word is written (R449, R450, R455). -/
def State.endLaunch (s : State) (id : Nat) : State :=
  match s.launchOf id with
  | none => s
  | some l =>
    if !s.launchIdle l then s
    else
      let s := s.writeSets l
      let s := flushRecord id 2048 s
      match s.launchOf id with
      | none => s
      | some l =>
        if !l.nrecPend.isEmpty then s
        else if l.nrec ≠ 0 && !l.headed then
          flushRecord id 4 (s.updLaunch id fun l => { l with headed := true, nrecPend := [(0, l.header, 0)] })
        else
          let s := if l.records then s.writeLog l else s
          let s := s.releaseLaunch l
          match l.killCause with
          | some c => s.writeCompletion l 6 c (l.firstExit.setWidth 32)
          | none => s.writeCompletion l 0 0 (l.firstExit.setWidth 32)

/-! ### Placement, allotments and tiles (R53, R143, R144, R313) -/

/-- The cores that hold a task of a gang of `n` members placed on a cluster (R144). -/
def gangCores (cl : ClusterIx) (n : Nat) : List CoreIx := (List.range (Nat.min n 8)).map (memberCore cl)

/-- The tasks of the `i`-th gang of a launch. -/
def Launch.gangTasks (l : Launch) (i : Nat) : List TaskEnt :=
  let nums := (List.range 64).filter fun g => l.tasks.any fun t => t.gang == g
  gangMembers l.tasks (nums.getD i 64)

/-- The cores on which tasks of a launch are placed so far. -/
def State.launchCores (s : State) (l : Launch) : List CoreIx :=
  (l.gangs.zipIdx.flatMap fun (id, i) =>
    match (s.gangs.find? fun g => g.id == id).bind Gang.cluster with
    | some cl => gangCores cl (l.gangTasks i).length
    | none => []).eraseDups

/-- Reserve an allotment on a core: zeros over all of it, then the spad image; no arrival record of what lay there before
is left (R43, R53, R103, R455). -/
def State.allot (s : State) (l : Launch) (core : CoreIx) (base : Nat) : State :=
  let key := (Place.spad core base).key
  let s := (s.write key (List.replicate l.spad 0)).write key l.spadImage
  { s with
    allotments := s.allotments ++ [⟨l.id, core, base, l.spad⟩]
    arrivals := s.arrivals.filter fun x => x.1.1 < key || key + l.spad ≤ x.1.1 }

/-- A stretch of a core's scratchpad is free. -/
def State.spadFree (s : State) (core : CoreIx) (base n : Nat) : Bool :=
  base % 32 = 0 && base + n ≤ 3 * 2 ^ 20
    && (s.heldSpad core).all fun x => x.2 == 0 || n == 0 || !stretchesMeet base n x.1 x.2

/-- Reserve what allotments of a launch fit, at the bases asked for where these are free, else at the lowest place
(R53; log entry 15). -/
def State.reserve (s : State) (l : Launch) (bases : List (CoreIx × Nat)) : State :=
  (s.launchCores l).foldl (fun s core =>
    if (s.allotment l.id core).isSome then s
    else
      match (bases.lookup core).filter (fun b => s.spadFree core b l.spad) <|> s.spadFit core l.spad with
      | some b => s.allot l core b
      | none => s) s

/-- Free tiles of a cluster, from tile 0 upward (R313). -/
def State.freeTiles (s : State) (cl : ClusterIx) : List (BitVec 4) :=
  (List.range 16).filterMap fun i =>
    let n : BitVec 4 := .ofNat 4 i
    if ((s.cluster cl).own[n.toNat]'n.isLt).getLsbD 9 then none else some n

/-- Barista allots a launch's tiles on each cluster where a gang of it is placed, once enough are free (R313, R451). -/
def State.allotTiles (s : State) (l : Launch) : State :=
  let cls := (l.gangs.filterMap fun id => (s.gangs.find? fun g => g.id == id).bind Gang.cluster).eraseDups
  cls.foldl (fun s cl =>
    match s.launchOf l.id with
    | none => s
    | some l =>
      if l.tiles.any fun t => t.1 == cl then s
      else
        let free := s.freeTiles cl
        let n := if l.tileReq = 0 then 16 else l.tileReq
        let want := match l.replay.bind fun r => r.tiles.lookup cl with
          | some ts => if ts.all free.contains then some ts else none
          | none => if n ≤ free.length then some (free.take n) else none
        match want with
        | none => s
        | some ts =>
          let s := ts.foldl (fun s t => s.writeOwner cl t (0x200 ||| l.asid.setWidth 64)) s
          s.updLaunch l.id fun l => { l with tiles := l.tiles ++ [(cl, ts)] }) s

/-- Every core reads the same from its sensors (R143). -/
def State.sensorsEqual (s : State) : Bool :=
  let c0 := s.core 0
  (List.range 512).all fun i => let c := s.core (.ofNat 9 i); c.temp == c0.temp && c.droop == c0.droop

/-- The cluster may take one more gang: over any 64 placements no cluster gets more than two above its share (R143). -/
def State.placeable (s : State) (cl : ClusterIx) : Bool := s.placements.count cl + 1 ≤ 3

/-- The next cluster in round-robin order (R143). -/
def State.nextPlace (s : State) : ClusterIx :=
  (((List.range 64).map fun i => s.placePtr + .ofNat 6 i).find? s.placeable).getD s.placePtr

/-- The gang of a launch could be bound on a cluster now: slots, scratchpad and tiles are free there (R53, R144, R313). -/
def State.gangRoom (s : State) (l : Launch) (i : Nat) (cl : ClusterIx) : Bool :=
  let n := (l.gangTasks i).length
  (gangCores cl n).zipIdx.all (fun (core, k) =>
      let members := (n - k + 7) / 8
      members ≤ ((List.range 8).countP fun sl => (s.boundAt ⟨core, .ofNat 3 sl⟩).isNone)
        && (s.spadFit core (l.spad + members * l.stack)).isSome)
    && (if l.tileReq = 0 then 16 else l.tileReq) ≤ (s.freeTiles cl).length

/-- The gangs of a span that are not placed yet could all be bound at once: the first on the cluster, each other on one that
follows it in the order (R143). -/
def State.spanRoom (s : State) (g : Gang) (cl : ClusterIx) : Bool :=
  match s.launchOf g.launch with
  | none => false
  | some l =>
    let rest := (s.gangs.filter fun x => x.span == g.span && x.cluster.isNone && x.id != g.id).map (·.id)
    let others := (List.range 63).map fun i => cl + 1 + .ofNat 6 i
    let room (id : BitVec 32) (c : ClusterIx) : Bool := s.gangRoom l ((l.gangs.findIdx? fun x => x == id).getD 0) c
    room g.id cl && (rest.foldl (fun (free : Option (List ClusterIx)) id =>
      free.bind fun cs => (cs.find? (room id)).map cs.erase) (some others)).isSome

/-- Kettle may place a gang on a cluster: a replay as recorded; with equal sensors in round-robin order; else within two
of it over any 64 placements; a span only while all its gangs can be bound at once (R143, R451). -/
def State.placementOk (s : State) (g : Gang) (cl : ClusterIx) : Bool :=
  (g.span == 0 || s.spanRoom g cl)
    && match (s.launchOf g.launch).bind fun l => l.replay.bind fun r =>
        (l.gangs.findIdx? fun id => id == g.id).bind fun i => r.clusters[i]? with
      | some c => c == cl
      | none => if s.sensorsEqual then cl == s.nextPlace else s.placeable cl

/-! ### The tree (R184, R185, R333, R390) -/

/-- Make leaf nodes: their bindings. -/
def mkLeaves (a : Asid) : List (Name × NodeBody × Nat × BitVec 12) → State → Option (List Binding × State)
  | [], s => some ([], s)
  | (name, body, ext, mask) :: rest, s =>
    (s.makeNode a body ext).bind fun (ix, s) =>
      (mkLeaves a rest s).map fun (bs, s) => (⟨name, ix, mask⟩ :: bs, s)

/-- Make a directory of bindings, bound with the full mask. -/
def mkDir (a : Asid) (name : Name) (bs : List Binding) (s : State) : Option (Binding × State) :=
  (s.makeNode a (.dir bs) 0).map fun (ix, s) => (⟨name, ix, 0xFFF⟩, s)

/-- Make a directory for each entry: its name and its leaves. -/
def mkDirs (a : Asid) : List (Name × List (Name × NodeBody × Nat × BitVec 12)) → State → Option (List Binding × State)
  | [], s => some ([], s)
  | (name, leaves) :: rest, s =>
    (mkLeaves a leaves s).bind fun (bs, s) => (mkDir a name bs s).bind fun (b, s) =>
      (mkDirs a rest s).map fun (ds, s) => (b :: ds, s)

/-- Leaves of /spad/<core> (R185). -/
def spadLeaves (x : Allotment) : List (Name × NodeBody × Nat × BitVec 12) :=
  [(ascii "raw", .raw x.core x.base, x.size, permR ||| permW ||| permA ||| permG),
   (ascii "cx8", .cx8 x.core x.base, x.size / 32 * 32, permR ||| permW ||| permG),
   (ascii "stash", .stash x.core x.base, x.size, permR ||| permW ||| permG)]

/-- The directories /spad/<core>, each of which also holds every plane window of its allotment (R185, R186). -/
def mkSpads (a : Asid) : List Allotment → State → Option (List Binding × State)
  | [], s => some ([], s)
  | x :: rest, s =>
    (mkLeaves a (spadLeaves x) s).bind fun (bs, s) => (mkDir a (decimalName x.core.toNat) bs s).bind fun (b, s) =>
      let s := s.updNode a b.node fun n => { n with spad := some (x.core, x.base, x.size) }
      (mkSpads a rest s).map fun (ds, s) => (b :: ds, s)

/-- Leaves of /acc/<cluster> (R185, R333). -/
def accLeaves (cl : ClusterIx) : List (Name × NodeBody × Nat × BitVec 12) :=
  ((List.range 16).map fun n => (decimalName n, .acc cl (.ofNat 4 n), 32768, permR ||| permG))
    ++ (List.range 16).map fun n => (ascii "wit." ++ decimalName n, .wit cl (.ofNat 4 n), 131104, permR ||| permG)

/-- An engine's leaf (R185). -/
def engineLeaf (name : Name) (e : Nat) (port : Bool) : Name × NodeBody × Nat × BitVec 12 :=
  (name, .engine (.ofNat 8 e), 32, permE ||| permG ||| (if port then permP else 0))

/-- Directories of /eng (R185). -/
def engDirs : List (Name × List (Name × NodeBody × Nat × BitVec 12)) :=
  ((List.range 64).map fun c =>
      (decimalName c, [engineLeaf (ascii "mx") c false, engineLeaf (ascii "cp") (64 + c) false]))
    ++ [(ascii "bulk", (List.range 16).map fun n => engineLeaf (decimalName n) (128 + n) false),
        (ascii "port", (List.range 12).map fun n => engineLeaf (decimalName n) (144 + n) true)]

/-- The standard nodes that every task's root binds beside /ctx: /mem, /spad, /acc, /eng, /heap, /host, /peer (R185). One
set of nodes and of directories below the roots serves all tasks of a launch (DESIGN CHOICE, log entry 21). -/
def State.standardNodes (s : State) (l : Launch) (mem : BitVec 23) : Option (List Binding × State) :=
  let a := l.asid
  let mine := s.allotments.filter fun x => x.launch == l.id
  let cls := (mine.map fun x => clusterOf x.core).eraseDups
  let hosts := s.hostRegions.filter fun r => r.1 == a
  (mkSpads a mine s).bind fun (spads, s) =>
  (mkDirs a (cls.map fun c => (decimalName c.toNat, accLeaves c)) s).bind fun (accs, s) =>
  (mkDirs a engDirs s).bind fun (engs, s) =>
  (mkLeaves a [engineLeaf (ascii "siphon") 156 false] s).bind fun (siph, s) =>
  (mkLeaves a ((List.range 64).map fun c => (decimalName c, .heap (.ofNat 6 c), 32, permR ||| permW ||| permG)) s).bind
    fun (heaps, s) =>
  (mkLeaves a (hosts.map fun (_, n, addr, size, mask) => (n, .host addr, size, mask)) s).bind fun (hs, s) =>
  (mkLeaves a (s.chips.map fun (n, c) => (n, .peerRoot c, 0, permR ||| permP ||| permG)) s).bind fun (ps, s) =>
  (mkDir a (ascii "spad") spads s).bind fun (d1, s) =>
  (mkDir a (ascii "acc") accs s).bind fun (d2, s) =>
  (mkDir a (ascii "eng") (engs ++ siph) s).bind fun (d3, s) =>
  (mkDir a (ascii "heap") heaps s).bind fun (d4, s) =>
  (mkDir a (ascii "host") hs s).bind fun (d5, s) =>
  (mkDir a (ascii "peer") ps s).map fun (d6, s) =>
    ([⟨ascii "mem", mem, permR ||| permW ||| permX ||| permA ||| permG⟩, d1, d2, d3, d4, d5, d6], s)

/-- /dev, for the privileged contexts of the physical function (R390). -/
def State.devNode (s : State) (l : Launch) : Option (List Binding × State) :=
  if l.fn ≠ 0 || !l.tasks.any fun t => t.flags.getLsbD 0 then some ([], s)
  else
    (mkLeaves l.asid [(ascii "pkg", .pkg, 16384, permR ||| permW)] s).bind fun (bs, s) =>
      (mkDir l.asid (ascii "dev") bs s).map fun (b, s) => ([b], s)

/-! ### Contexts (R62, R144, R425) -/

/-- What the context of member `m` of a gang is to be. -/
def State.newTask (s : State) (l : Launch) (m count : Nat) (t : TaskEnt) (g : Gang) : Option NewCtx :=
  (s.pool.find? fun p => p.asid == l.asid && p.id != 0).bind fun desc => g.cluster.map fun cl =>
    let sp := s.spans.find? fun x => x.id == g.span && g.span != 0
    { desc := desc, launch := l.id, fn := l.fn
      pcCap := { Cap.ofBits l.textCap with offset := .ofNat 64 t.entry }.toBits
      x := t.x, y := t.y, z := t.z, prio := l.prio, gang := g.id, member := .ofNat 8 m, count := .ofNat 8 count
      span := g.span, gangIdx := .ofNat 8 ((sp.bind fun x => x.gangs.findIdx? fun k => k == g.id).getD 0)
      gangs := .ofNat 8 ((sp.map fun x => x.gangs.length).getD 0), core := memberCore cl m, stack := l.stack
      arg := {} }

/-- Create the context of a task and its root (R184, R185, R425). -/
def State.makeTask (s : State) (l : Launch) (std dev : List Binding) (n : NewCtx) (t : TaskEnt) : Option (BitVec 32 × State) :=
  (s.newContext n).bind fun (c, s) =>
    let self := ((s.space l.asid).handles.find? fun h => h.ix == c.ctxHandle).bind Handle.node
    self.bind fun ix => (mkDir l.asid (ascii "ctx") [⟨ascii "self", ix, permR ||| permW⟩] s).map fun (cd, s) =>
      let s := s.updNode l.asid c.root fun r =>
        { r with body := .dir (std ++ [cd] ++ if t.flags.getLsbD 0 then dev else []) }
      let s := s.updCtx c.id fun c =>
        { c with priv := t.flags.getLsbD 0, handler := t.flags.getLsbD 2, protected_ := t.flags.getLsbD 1, keySlot := t.key }
      (c.id, s.updGang n.gang fun g => { g with members := g.members ++ [c.id] })

/-- Create the contexts of the tasks that remain, in the order of the task table. -/
def State.makeTasks (l : Launch) (std dev : List Binding) : Nat → List TaskEnt → State → Option (List (BitVec 32) × State)
  | _, [], s => some ([], s)
  | k, t :: ts, s =>
    let i := ((List.range 64).filter fun g => l.tasks.any fun x => x.gang == g).findIdx fun g => g == t.gang
    let m := (l.tasks.take k).countP fun x => x.gang == t.gang
    ((l.gangs[i]?).bind fun id => s.gangs.find? fun g => g.id == id).bind fun g =>
      (s.newTask l m (gangMembers l.tasks t.gang).length t g).bind fun n => (s.makeTask l std dev n t).bind fun (id, s) =>
        (State.makeTasks l std dev (k + 1) ts s).map fun (ids, s) => (id :: ids, s)

/-- A node below /mem with a handle on it: the loader's text and argument block (R52, R157). -/
def State.loaderNode (s : State) (a : Asid) (h g : BitVec 24) (va : Word) (size : Nat) (perm : BitVec 12) :
    Option (Cap × State) :=
  let body := NodeBody.sub h g va.toNat
  (s.makeNode a body size).bind fun (ix, s) => (s.openHandle a (some ix) none).map fun (h, g, s) =>
    (openCap { ix := ix, body := body, extent := size } h g perm, s)

/-- Step 4 of the loader, with the contexts of step 5 made dormant: trees and tasks; none while descriptors, nodes or
handles are wanting (R62, R145). -/
def State.buildTasks (s : State) (l : Launch) : Option State :=
  (s.makeNode l.asid .mem (2 ^ 48)).bind fun (mem, s) => (s.openHandle l.asid (some mem) none).bind fun (mh, mg, s) =>
  (s.loaderNode l.asid mh mg l.choice.textVa (imageNat l.image 8 4) permX).bind fun (text, s) =>
  (s.standardNodes l mem).bind fun (std, s) => (s.devNode l).bind fun (dev, s) =>
  let l := { l with memHandle := (mh, mg), textCap := text.toBits }
  (State.makeTasks l std dev 0 l.tasks s).map fun (ids, s) =>
    s.updLaunch l.id fun _ =>
      { l with ctxs := ids, stage := .binds, bindsLeft := l.binds.length + l.tasks.length }

/-! ### Binds (R55, R425) -/

/-- The bind that comes next: path, mask, and the task whose `img` it is. -/
def Launch.nextBind (l : Launch) : Option (List Byte × BitVec 12 × Option Nat) :=
  let k := l.binds.length + l.tasks.length - l.bindsLeft
  if k < l.binds.length then (l.binds[k]?).map fun b => (b.path, b.perm, none)
  else
    let i := k - l.binds.length
    ((l.tasks[i]?).bind TaskEnt.img).map fun p => (p, permR ||| permW, some i)

/-- A bind has given a capability (R55, R425). -/
def State.bindGot (s : State) (l : Launch) (img : Option Nat) (v : RegVal) : State :=
  let k := l.binds.length + l.tasks.length - l.bindsLeft
  let s := match img with
    | some i => match l.ctxs[i]? with
      | some id => s.updCtx id fun c => { c with imgRegion := v }
      | none => s
    | none => s.updLaunch l.id fun l => { l with caps := l.caps ++ [((l.binds[k]?.map BindEnt.slot).getD 0, v)] }
  s.updLaunch l.id fun l => { l with bindsLeft := l.bindsLeft - 1, asking := false }

/-- A transaction of Kettle's loader. -/
def State.loaderTxn (s : State) (l : Launch) (h : BitVec 24) (chip : ChipIx) (kind : TxnKind) : Nat × State :=
  let t : Txn := { label := s.label, ctx := 0, asid := l.asid, handle := h, off := 0, chip := chip, sent := s.cycle,
                   port := s.portTo 0 chip, kind := kind }
  (s.label, State.updLaunch { s with label := s.label + 1, txns := t :: s.txns } l.id fun l => { l with asking := true })

/-- Open a walked node for a bind: BADFMT, NOHANDLE, or an `img` node of the wrong kind or too small (R55, R202, R425). -/
def State.bindOpen (s : State) (l : Launch) (img : Option Nat) (n : Node) (perm : BitVec 12) : State :=
  if n.body.badFormat then s.failLaunch l 2 NameCode.badfmt.code
  else if img.isSome && (n.body.kind != 0 || n.extent < 128) then s.failLaunch l 2 NameCode.badarg.code
  else
    match s.openHandle l.asid (some n.ix) none with
    | none => s.failLaunch l 2 NameCode.nohandle.code
    | some (h, g, s) =>
      match n.body.remoteNode with
      | some (chip, rn, rg) =>
        let (txn, s) := s.loaderTxn l h chip (.bindOpen l.id n.ix h perm)
        s.send (.step chip (.nopen s.pkg.chip txn rn rg perm))
      | none => s.bindGot l img ⟨(openCap n h g perm).toBits, true⟩

/-- Carry out the next bind (R55). The launch's tree from which a `.bind` path is walked is the first task's root, where the
launch has several (DESIGN CHOICE, log entry 21); an `img` path is walked from its own task's root. -/
def State.bindNext (s : State) (l : Launch) : State :=
  match l.nextBind with
  | none => s.updLaunch l.id fun l => { l with bindsLeft := l.bindsLeft - 1 }
  | some (path, perm, img) =>
    let root := ((l.ctxs[img.getD 0]?).bind s.getCtx).bind fun c => s.nodeAt l.asid c.root
    if 512 < path.length then s.failLaunch l 2 NameCode.toolong.code
    else
      match parsePath path, root with
      | .error (c, _), _ => s.failLaunch l 2 c.code
      | .ok _, none => s.failLaunch l 2 NameCode.stale.code
      | .ok cs, some r =>
        match State.resolve 0 l.asid cs 0 r 0xFFF s with
        | (.fail c _ _, s) => s.failLaunch l 2 c.code
        | (.node n mask, s) => s.bindOpen l img n (mask &&& perm)
        | (.peer chip rest used, s) =>
          let (txn, s) := s.loaderTxn l 0 chip (.bindWalk l.id used)
          s.send (.step chip (.nwalk s.pkg.chip txn (s.asidPart l.asid) rest used))

/-- Digests of the /host regions that the binds name (R451). -/
def State.hostDigests (s : State) (l : Launch) : List (BitVec 384) :=
  l.caps.filterMap fun (_, v) =>
    let k := Cap.ofBits v.val
    match s.openNode l.asid k.handle k.gen with
    | some n => match n.body with
      | .host addr => some (sha384Bits (s.bytes (Place.host addr).key n.extent))
      | _ => none
    | none => none

/-- The argument block: the image with the binds' capabilities in their slots (R52, R55). -/
def argChunks (l : Launch) (data : List Byte) : List (Nat × List Byte × Bool) :=
  (List.range (l.argSize / 32)).map fun i =>
    match l.caps.lookup i with
    | some v => (32 * i, toBytes v.val.toNat 32, v.tag)
    | none => (32 * i, (data.drop (l.argOff + 32 * i)).take 32, false)

/-- Write the argument block's granules with their tags; none while its region is not mapped, or cannot hold a tag that it
needs (R55, R216). -/
def writeArgs (a : Asid) (va : Word) : List (Nat × List Byte × Bool) → State → Option State
  | [], s => some s
  | (off, bs, tag) :: rest, s =>
    match s.addrKey 0 a ((va + .ofNat 64 off) ||| (1#64 <<< 63)) .read with
    | .error _ => none
    | .ok (key, s) =>
      if tag && !inDram key then none
      else
        let s := s.homeWrite key bs
        writeArgs a va rest (if tag then { s with tags := setTag (key / 32) true s.tags } else s)

/-- Step 5 of the loader: the argument block, c3, and the contexts ready to be bound (R52, R62). -/
def State.startTasks (s : State) (l : Launch) : State :=
  let o := Obj.ofBytes l.image
  let data := ((relocate l.choice.dataVa.toNat o.rels (o.data, o.spad)).map (·.1)).getD o.data
  let digests := [sha384Bits l.image, sha384Bits o.data] ++ s.hostDigests l
  if l.replays && l.replay.map LaunchLog.digests != some digests then s.failLaunch l 7 0
  else
    match writeArgs l.asid l.choice.argVa (argChunks l data) s with
    | none => s
    | some s1 =>
      match s1.loaderNode l.asid l.memHandle.1 l.memHandle.2 l.choice.argVa l.argSize permR with
      | none => s
      | some (arg, s) =>
        let s := l.ctxs.foldl (fun s id => s.updCtx id fun c =>
          { c.setReg 3 ⟨arg.toBits, true⟩ with qdirty := 0 }) s
        let s := l.gangs.foldl (fun s id => s.updGang id fun g => { g with readySince := s.cycle }) s
        s.updLaunch l.id fun l => { l with stage := .running, digests := digests }

/-! ### Loading (R62) -/

/-- A leaf maps a page of /mem to where the loader may put this segment: text executable and read-only, data writable
(R62). -/
def State.pageFor (s : State) (a : Asid) (va : Nat) (text : Bool) : Bool :=
  match s.walk a va with
  | .error _ => false
  | .ok leaf =>
    (s.leafCheck a leaf.pte (if text then .fetch else .write)).isNone && (!text || bitsOf leaf.pte 1 1 == 0)
      && match s.leafAddr leaf.pte leaf.shift va with
        | .ok (.dram _) | .ok (.host _) => true
        | _ => false

/-- A segment's pages are there, from a 64 KiB-aligned address (R62). -/
def State.segmentOk (s : State) (a : Asid) (va : Word) (n : Nat) (text : Bool) : Bool :=
  va.toNat % 2 ^ 16 = 0 && va.toNat + n ≤ 2 ^ 48
    && (List.range ((n + 2 ^ 16 - 1) / 2 ^ 16)).all fun i => s.pageFor a (va.toNat + 2 ^ 16 * i) text

/-- Put a segment in memory (R62); none where a page of it is not there. -/
def State.putSegment (s : State) (a : Asid) (va : Word) (bs : List Byte) (text : Bool) : Option State :=
  match kettleWrite a (if text then .read else .write) (bs.length / 4096 + 2) (va ||| (1#64 <<< 63)) bs s with
  | .ok s => some s
  | .error _ => none

/-- The regions of /mem that a loaded launch holds: text, data, argument block (R52, R62). -/
def Launch.regions (l : Launch) (h : ObjHead) : List (Nat × Nat) :=
  [(l.choice.textVa.toNat, h.textSz), (l.choice.dataVa.toNat, h.dataSz), (l.choice.argVa.toNat, h.argSz)]

/-- Of a list of regions no two share a byte. -/
def apart : List (Nat × Nat) → Bool
  | [] => true
  | r :: rs => (rs.all fun q => !stretchesMeet r.1 r.2 q.1 q.2) && apart rs

/-- The regions chosen for a launch are new: they share no byte with one another or with a launch of the ASID (R52, R62). -/
def State.regionsNew (s : State) (l : Launch) (h : ObjHead) : Bool :=
  let mine := l.regions h
  let held := (s.launches.filter fun x => x.asid == l.asid && x.id != l.id && !x.image.isEmpty).flatMap fun x =>
    x.regions (ObjHead.ofBytes x.image)
  apart mine && mine.all fun r => held.all fun q => !stretchesMeet r.1 r.2 q.1 q.2

/-- Make the gangs of a launch, to be placed (R54, R62). -/
def State.makeGangs (s : State) (l : Launch) : State :=
  let nums := (List.range 64).filter fun g => l.tasks.any fun t => t.gang == g
  let ids := (List.range nums.length).map fun i => s.nextGang + .ofNat 32 i
  let gs := ids.map fun id => ({ id := id, launch := l.id, asid := l.asid, members := [], level := l.prio, home := l.prio } : Gang)
  State.updLaunch { s with nextGang := s.nextGang + .ofNat 32 nums.length, gangs := s.gangs ++ gs } l.id
    fun l => { l with gangs := ids, stage := .place }

/-- The object is checked, placed and relocated; its gangs go to Kettle (R62, R448). While the chosen addresses are not
mapped, or are in use, the launch waits (log entry 62). -/
def State.loadObject (s : State) (l : Launch) : State :=
  let lost (s : State) : State :=
    State.freezeFn (State.closePacket { s with launches := s.launches.filter fun x => x.id != l.id } l.queue l.id) l.fn
  match kettleRead l.asid 3 l.objAddr 64 s with
  | .error _ => lost s
  | .ok (hd, s) =>
    let h := ObjHead.ofBytes hd
    if h.magic ≠ 0x424F5747 || h.version ≠ 1 then s.failLaunch l 1 0
    else
      match kettleRead l.asid (h.size / 4096 + 2) l.objAddr h.size s with
      | .error _ => lost s
      | .ok (image, s) =>
        let o := Obj.ofBytes image
        let tasks := o.tasks.map o.task
        if !o.ok then s.failLaunch l 1 0
        else if l.fn ≠ 0 && tasks.any (fun t => t.flags.getLsbD 0) then s.failLaunch l 4 0
        else if !(s.segmentOk l.asid l.choice.textVa h.textSz true && s.segmentOk l.asid l.choice.dataVa h.dataSz false
            && l.choice.argVa.toNat % 32 = 0 && l.choice.argVa.toNat + h.argSz ≤ 2 ^ 48 && s.regionsNew l h) then s
        else
          let images := relocate l.choice.dataVa.toNat o.rels (o.data, o.spad)
          match (s.putSegment l.asid l.choice.textVa o.text true).bind fun s =>
              s.putSegment l.asid l.choice.dataVa ((images.map (·.1)).getD o.data) false, images with
          | none, _ => s
          | some s, none => s.failLaunch l 3 0
          | some s, some (_, spad) =>
            let log := if l.replays then s.logs.lookup (l.asid, l.logAddr) else none
            if l.replays && log.map (fun r => r.digests.take 2) != some [sha384Bits image, sha384Bits o.data] then
              s.failLaunch l 7 0
            else
              let l := { l with
                image := image, prio := .ofNat 2 h.prio, stack := h.stack, spad := h.spad, spadImage := spad
                argOff := h.args, argSize := h.argSz, tasks := tasks, binds := o.binds.map o.bind, replay := log }
              (s.updLaunch l.id fun _ => l).makeGangs l

/-- Barista consumes an event record for each `DEP` that is left (R286, R448). -/
def consumeDeps (a : Asid) : List (ClusterIx × BitVec 32) → State → List (ClusterIx × BitVec 32) × State
  | [], s => ([], s)
  | (cl, key) :: rest, s =>
    match (s.unclaimed cl).find? (recordMatches · (a, key)) with
    | some r => consumeDeps a rest (s.takeEvent cl r)
    | none =>
      let (left, s) := consumeDeps a rest s
      ((cl, key) :: left, s)

/-- Every gang of a launch is placed, with its allotments. -/
def State.placed (s : State) (l : Launch) : Bool :=
  l.gangs.all (fun id => ((s.gangs.find? fun g => g.id == id).bind Gang.cluster).isSome)
    && (s.launchCores l).all fun c => (s.allotment l.id c).isSome

/-- One stage of a launch goes on as far as it can (log entry 33). -/
def State.launchStage (s : State) (l : Launch) : State :=
  match l.stage with
  | .deps =>
    let (left, s) := consumeDeps l.asid l.deps s
    s.updLaunch l.id fun l => { l with deps := left, stage := if left.isEmpty then .load else .deps }
  | .load => s.loadObject l
  | .place =>
    let s := (s.reserve l []).allotTiles l
    if s.placed l then
      match s.launchOf l.id with
      | some l => (s.buildTasks l).getD s
      | none => s
    else s
  | .binds => if l.asking then s else if l.bindsLeft = 0 then s.startTasks l else s.bindNext l
  | .running =>
    let s := s.allotTiles l
    if s.launchOver l then s.updLaunch l.id fun l => { l with stage := .retired } else s
  | .retired => s.endLaunch l.id

/-- A launch goes on as far as it can. -/
def advanceLaunch (id : Nat) : Nat → State → State
  | 0, s => s
  | fuel + 1, s =>
    match s.launchOf id with
    | none => s
    | some l =>
      let s := s.launchStage l
      match s.launchOf id with
      | none => s
      | some l2 =>
        if l2.stage = l.stage && l2.bindsLeft = l.bindsLeft && l2.headed = l.headed then s
        else advanceLaunch id fuel s

/-- Steps that a launch can take in one step of the machine. -/
def launchFuel : Nat := 8192

/-- LAUNCH (R448): the packet at the head of a queue. NOASID and NOTILE end it at once; the rest of the loader's work
follows the consumption of its `DEP` records. -/
def execLaunch (q : BitVec 5) (ch : LoaderChoice) (s : State) : Out :=
  s.startPacket q 1 fun bs s =>
    let k := s.kq q
    let (n, s) := s.openPacket q none
    let l : Launch :=
      { id := n, queue := q, words := bs, asid := k.asid, fn := k.fn, deps := packetDeps bs, choice := ch
        fscope := packetScope bs }
    let s := { s with launches := s.launches ++ [l] }
    if !s.asidLive k.asid then s.failLaunch l 8 0
    else if 16 < l.tileReq then s.failLaunch l 5 0
    else advanceLaunch n launchFuel s

/-- GANG_PLACEMENT (R53, R143): Kettle places a gang on a cluster; the allotments that fit are reserved. -/
def execGangPlacement (gang : BitVec 32) (cluster : ClusterIx) (bases : List (CoreIx × Nat)) (s : State) : Out :=
  match s.gangs.find? (fun g => g.id == gang) with
  | none => .next s
  | some g =>
    if g.cluster.isSome || !s.placementOk g cluster then .next s
    else
      let s := s.updGang gang fun g => { g with cluster := some cluster }
      let s := { s with placePtr := cluster + 1, placements := (cluster :: s.placements).take 63 }
      let s := match s.launchOf g.launch with
        | some l => s.reserve l bases
        | none => s
      .next (advanceLaunch g.launch launchFuel s)

end Sys2Proof.Machine
end

