-- ==== Sys2Proof/Machine/Queues.lean ====
section
/-!
DEFINITION. Sys2Proof/Machine/Queues.lean: the QUEUE class (R195, R211 to R214, R440, R441).
-/
namespace Sys2Proof.Machine

/-- A queue can serve a push or a pop. -/
def Queue.ready (q : Queue) (push : Bool) : Bool := if push then !q.full else !q.empty

/-- Write the predicate bit of an nb form (R213). -/
def State.nbResult (s : State) (nb : Option (Reg × BitVec 6)) (ok : Bool) : State :=
  match nb with
  | some (r, bit) => s.setBit r bit.toNat ok
  | none => s

/-- The context joins the queue's waiters and waits (R213). -/
def State.queueWait (s : State) (node : BitVec 23) (q : Queue) (push : Bool) (data a : Reg)
    (nb : Option (Reg × BitVec 6)) : State :=
  let ws := q.waiters.filter fun w => s.stillWaits w && w != .ctx s.cx.id push
  let here := if (q.waiters.contains (.ctx s.cx.id push)) && s.stillWaits (.ctx s.cx.id push) then q.waiters
    else ws ++ [.ctx s.cx.id push]
  (s.setQueue s.cx.asid node { q with waiters := here }).block (.queue push data a nb)

/-- The ring's access faulted: the form waits for a page to be serviced, and traps where that cannot be (R214). -/
def State.ringFault (s : State) (b : Bad) (push : Bool) (data a : Reg) (nb : Option (Reg × BitVec 6)) : State :=
  if b.1 = .pageFault then
    (s.raiseRing s.cxCluster s.cx.asid s.cx.id b.2 push (.queue s.cx.id)).block (.queue push data a nb)
  else s.takeTrap (if b.1 = .capStale then .capStale else .queueFault) (a.setWidth 64)

/-- A local push or pop that the queue can serve (R195, R213). -/
def State.queueServe (s : State) (node : BitVec 23) (q : Queue) (push : Bool) (data a : Reg)
    (nb : Option (Reg × BitVec 6)) : State :=
  let scope := s.nearScope (clusterOf q.home)
  let q := { q with waiters := q.waiters.filter fun w => w != .ctx s.cx.id push }
  if push then
    let v := s.reg data
    match s.qAppend s.cx.asid node q ⟨v.val, v.tag && (s.cap a).has permG⟩ with
    | .error b => s.ringFault b push data a nb
    | .ok s => ((s.clampScope scope).nbResult nb true).finishWait
  else
    match s.qTake s.cx.asid node q with
    | .error b => s.ringFault b push data a nb
    | .ok (e, s) => (((s.clampScope scope).setReg data e).nbResult nb true).finishWait

/-- A push or pop at a peer's queue: NQOP (R196, R441). -/
def State.queueForward (s : State) (h : BitVec 24) (push : Bool) (data a : Reg) (nb : Option (Reg × BitVec 6)) :
    State :=
  match s.nextSeq s.cx.asid h with
  | none => s.takeTrap .capStale (a.setWidth 64)
  | some (chip, rh, rg, n, s) =>
    let s := if push then s.clampScope .ten else s
    let (txn, s) := s.newTxn h (s.cap a).offset chip (if push then .push nb else .pop data nb)
    let s := (s.send (.step chip (.nqop s.pkg.chip txn rh rg n push (if push then s.bits data else 0)))).block (.txn txn)
    -- an nb form is no blocking instruction: `RUN` stays 0 (R82, R146)
    if nb.isSome then s.updCx fun c => { c with run := .ready } else s

/-- A queue form from its checks on (R212, R213). -/
def State.queueForm (s : State) (push : Bool) (data a : Reg) (nb : Option (Reg × BitVec 6)) : State :=
  let v : Word := a.setWidth 64
  let k := s.cap a
  match s.handleCheck s.cx.asid (s.reg a) (if push then permW else permR) [1, 6] with
  | some c =>
    -- KIND 6 without P is refused before the generation is looked at
    if c = .capStale && k.kind = 6 && !k.has permP then s.takeTrap .capPerm v else s.takeTrap c v
  | none =>
    match s.openNode s.cx.asid k.handle k.gen with
    | none => s.takeTrap .capStale v
    | some n =>
      match n.body with
      | .queue q =>
        -- the node is stale with the storage that it was made over (R206, R209)
        if (s.openNode s.cx.asid q.handle q.gen).isNone then s.takeTrap .capStale v
        else
        let mine := s.line q push
        let first := mine.isEmpty || mine.head? == some (.ctx s.cx.id push)
        if q.ready push && first then s.queueServe n.ix q push data a nb
        else if nb.isSome then (s.nbResult nb false).finishWait
        else s.queueWait n.ix q push data a nb
      | .peerNode _ _ _ kind =>
        if kind != 1 || !k.has permP then s.takeTrap .capPerm v else s.queueForward k.handle push data a nb
      | _ => s.takeTrap .capPerm v

/-- QPUSH (R213). -/
def execQpush (data a : Reg) (s : State) : Out := .next (s.queueForm true data a none)
/-- QPOP (R213). -/
def execQpop (data a : Reg) (s : State) : Out := .next (s.queueForm false data a none)
/-- QPUSH.nb (R213). -/
def execQpushNb (data a preg : Reg) (bit : BitVec 6) (s : State) : Out :=
  .next (s.queueForm true data a (some (preg, bit)))
/-- QPOP.nb (R213). -/
def execQpopNb (data a preg : Reg) (bit : BitVec 6) (s : State) : Out :=
  .next (s.queueForm false data a (some (preg, bit)))

/-- QUEUE_WAIT_COMPLETE (R213): the waiting form of the slot's context runs; where it can still not complete it goes on
waiting. -/
def execQueueWaitComplete (sl : SlotId) (s : State) : Out :=
  .next (s.withSlot sl fun s =>
    match s.cx.wait with
    | .queue push data a nb => if s.ringPending (.queue s.cx.id) then s else s.queueForm push data a nb
    | _ => s)

/-- The answer to the operation that a remote handle was held for, which it remembers for a repeated request (R197). -/
def State.answerHeld (s : State) (chip : ChipIx) (txn : Nat) (handle : BitVec 24) (r : AccessReply) : State :=
  State.send { s with remotes := s.remotes.map fun x =>
      if x.chip = chip ∧ x.ix = handle then { x with busy := false, answered := (x.next - 1, r) :: x.answered } else x }
    (.accessReply chip txn r)

/-- The operation of a peer's transaction among a queue's waiters, with its remote handle. -/
def QWaiter.of (chip : ChipIx) (txn : Nat) : QWaiter → Option (BitVec 24)
  | .peer c t h .. => if c = chip ∧ t = txn then some h else none
  | .ctx .. | .store .. => none

/-- An operation that a queue holds for a peer ends without taking an entry, with an answer (R214, R440). -/
def State.endHeld (s : State) (chip : ChipIx) (txn : Nat) (r : AccessReply) : State :=
  let held (n : Node) : List (BitVec 24) := match n.body with
    | .queue q => q.waiters.filterMap (QWaiter.of chip txn)
    | _ => []
  match (s.spaces.flatMap fun sp => sp.2.nodes.flatMap held).head? with
  | none => s
  | some h =>
    let drop (n : Node) : Node := match n.body with
      | .queue q => { n with body := .queue { q with waiters := q.waiters.filter fun w => (w.of chip txn).isNone } }
      | _ => n
    State.answerHeld { s with spaces := s.spaces.map fun (a, sp) => (a, { sp with nodes := sp.nodes.map drop }) } chip txn h r

/-- Take a peer's push or pop at a queue that can serve it: its answer, or the fault of the ring's access (R195, R211). -/
def State.peerTake (s : State) (a : Asid) (node : BitVec 23) (q : Queue) (push : Bool) (entry : W256) :
    Except Bad (AccessReply × State) :=
  if push then (s.qAppend a node q ⟨entry, false⟩).map fun s => (.ack, s)
  else (s.qTake a node q).map fun (e, s) => (.data e.val, s)

/-- A peer's held operation completes (R440): the queue's first waiter, if it is a peer's, is served and answered; the page
fault of its ring goes to the fault queue (R214). -/
def State.servePeer (s : State) (a : Asid) (node : BitVec 23) : State :=
  match s.queueAt a node with
  | none => s
  | some q =>
    let serve (w : QWaiter) : Option State :=
      match w with
      | .peer chip txn h push entry =>
        if s.ringPending (.remote chip txn) then none
        else
          match s.peerTake a node { q with waiters := q.waiters.filter fun x => x != w } push entry with
          | .ok (r, s) => some (s.answerHeld chip txn h r)
          | .error (.pageFault, va) => some (s.raiseRing (clusterOf q.home) a 0 va push (.remote chip txn))
          | .error _ => some (s.endHeld chip txn (.refused Cause.queueFault.code))
      | .ctx .. | .store .. => none
    let try_ (push : Bool) : Option State := if q.ready push then (s.line q push).head?.bind serve else none
    ((try_ true) <|> (try_ false)).getD s

end Sys2Proof.Machine
end

