-- ==== Sys2Proof/Machine/Peer.lean ====
section
/-!
DEFINITION. Sys2Proof/Machine/Peer.lean: transactions between chips: the exporter's side (R196, R197, R253, R440), the
holder's side (R197, R202, R203, R208, R253, R254, R365, R440, R441), fabric pages (R364, R365), revocations (R192) and
the ports (R362, R411).
-/
namespace Sys2Proof.Machine

/-- Every trap cause (R381). -/
def allCauses : List Cause :=
  [.illegal, .priv, .lookahead, .capTag, .capBounds, .capPerm, .capStale, .capSealed, .align, .pageFault, .pageProt,
   .rdupWrite, .ctxFault, .nameUnbound, .nameFault, .queueFault, .enqInvalid, .syscall, .bkpt, .watchdog, .memError,
   .fabric, .violation]
/-- The cause of a code that a peer reports; a code that names none is taken as FABRIC. -/
def Cause.ofCode (c : BitVec 8) : Cause := (allCauses.find? fun x => x.code == c).getD .fabric

/-! ### The exporter: walks and opens (R196, R202, R253) -/

/-- The exporter resolves the components that an NWALK carries in the export directory of the partition (R196, R253,
R254), at the name unit of cluster 0. A path that goes on through another chip is refused as NOTDIR (DESIGN CHOICE, log
entry 22). -/
def State.exportWalk (s : State) (part : BitVec 8) (comps : List Name) (used : Nat) : WalkReply × State :=
  match comps with
  | [] => (.fail NameCode.unbound.code (.ofNat 8 used) 7, s)
  | c :: cs =>
    match s.exports.find? (fun e => e.part == part && e.name == c) with
    | none => (.fail NameCode.unbound.code (.ofNat 8 used) 7, s)
    | some e =>
      match s.nodeAt e.asid e.node with
      | none => (.fail NameCode.unbound.code (.ofNat 8 used) 7, s)
      | some n =>
        match State.resolve 0 e.asid cs (used + 1) n e.mask s with
        | (.node m mask, s) => (.ok m.ix m.gen m.body.kind mask (.ofNat 64 m.extent), s)
        | (.fail code comp kind, s) => (.fail code.code (.ofNat 8 comp) kind, s)
        | (.peer _ _ k, s) => (.fail NameCode.notdir.code (.ofNat 8 k) 6, s)

/-- NWALK (R196). -/
def execNwalk (chip : ChipIx) (txn : Nat) (part : BitVec 8) (comps : List Name) (used : Nat) (s : State) : Out :=
  let (r, s) := s.exportWalk part comps used
  .next (s.send (.walkReply chip txn r))

/-- The export through which a peer may open a node: that of the node itself, or of a directory of the same ASID
(DEDUCED, log entry 22). -/
def State.exportFor (s : State) (node : BitVec 23) (gen : BitVec 24) : Option Export :=
  let live := s.exports.filter fun e => (s.nodeAt e.asid node).any fun n => n.gen == gen
  (live.find? fun e => e.node == node) <|>
    live.find? fun e => (s.nodeAt e.asid e.node).any fun n => n.body.kind == 7

/-- The lowest free remote handle. -/
def State.freeRemote (s : State) : Nat :=
  ((List.range (s.remotes.length + 1)).find? fun i => !s.remotes.any fun r => r.ix.toNat == i).getD s.remotes.length

/-- NOPEN (R196): a remote handle on an exported node, which rests on the export's handle. -/
def execNopen (chip : ChipIx) (txn : Nat) (node : BitVec 23) (gen : BitVec 24) (mask : BitVec 12) (s : State) : Out :=
  match s.exportFor node gen with
  | none => .next (s.send (.openReply chip txn (.fail NameCode.stale.code)))
  | some e =>
    let r : RemoteHandle :=
      { ix := .ofNat 24 s.freeRemote, gen := .ofNat 24 s.label, chip := chip, asid := e.asid, local_ := e.handle
        localGen := e.gen, node := node, nodeGen := gen, mask := mask &&& e.mask }
    .next (State.send { s with label := s.label + 1, remotes := s.remotes ++ [r] } (.openReply chip txn (.ok r.ix r.gen)))

/-! ### The exporter: accesses in sequence (R197, R440) -/

/-- The node of a remote handle while the export's handle and the node live (R197, R210). -/
def State.remoteNode (s : State) (r : RemoteHandle) : Option Node :=
  if (s.handleAt r.asid r.local_ r.localGen).isNone then none
  else (s.nodeAt r.asid r.node).filter fun n => n.gen == r.nodeGen

/-- An access is refused with a cause. -/
def refuse (c : Cause) : Option AccessReply := some (.refused c.code)

/-- A peer's push or pop at a queue, or its store to one: served in its turn, else held among the queue's waiters (R211,
R440). A ring page that faults is recorded, and the operation is held (R214). -/
def State.peerQueue (s : State) (r : RemoteHandle) (n : Node) (q : Queue) (txn : Nat) (push told : Bool) (entry : W256) :
    Option AccessReply × State :=
  let hold (s : State) : Option AccessReply × State :=
    let s := s.setQueue r.asid n.ix { q with waiters := q.waiters ++ [.peer r.chip txn r.ix push entry] }
    (none, if told then s.send (.accessReply r.chip txn .held) else s)
  if !q.ready push || !(s.line q push).isEmpty then hold s
  else
    match s.peerTake r.asid n.ix q push entry with
    | .ok (a, s) => (some a, s)
    | .error (.pageFault, va) => hold (s.raiseRing (clusterOf q.home) r.asid 0 va push (.remote r.chip txn))
    | .error _ => (refuse .queueFault, s)

/-- The bytes of a peer's access at a node (R197, R215). -/
def State.peerBytes (s : State) (r : RemoteHandle) (n : Node) (off : Word) (size : MemSize) (data : Option W256) :
    Option AccessReply × State :=
  let acc := if data.isSome then Acc.write else .read
  match s.reach { core := 0, asid := r.asid } r.asid off { acc := acc, n := size.bytes, size := size }
      ((s.space r.asid).nodes.length + 1) n.body off.toNat none with
  | .error b => (refuse b.1, s)
  | .ok (t, s) =>
    match data with
    | none =>
      match s.engGet r.asid t size.bytes with
      | .ok (bs, s) =>
        if s.memErr then (refuse .memError, { s with memErr := false }) else (some (.data (.ofNat 256 (ofBytes bs))), s)
      | .error b => (refuse b.1, s)
    | some v =>
      match s.engPut r.asid t (toBytes v.toNat size.bytes) with
      | .ok (s, _) => (some .ack, s)
      | .error b => (refuse b.1, s)

/-- The exporter performs an access of a remote handle: its answer, or none while a queue holds it (R197, R440). -/
def State.peerStep (s : State) (r : RemoteHandle) (txn : Nat) (acc : PeerAccess) : Option AccessReply × State :=
  match s.remoteNode r with
  | none => (refuse .capStale, s)
  | some n =>
    let need : BitVec 12 := match acc with
      | .read .. | .qop false _ => permR
      | .write .. | .qop true _ => permW
    let stale : Bool := match n.body with
      | .queue q => (s.openNode r.asid q.handle q.gen).isNone
      | _ => false
    if r.mask &&& need != need then (refuse .capPerm, s)
    else if stale then (refuse .capStale, s)
    else
      match n.body, acc with
      | .queue q, .qop push e => s.peerQueue r n q txn push true e
      | .queue q, .write off size v =>
        if size = .b256 || size = .cap then (refuse .queueFault, s)
        else
          s.peerQueue r n q txn true false
            (storeEntryBits { target := .pkg 0, n := size.bytes, data := v, size := size } off
              (if r.chip = s.pkg.chip then 0xFF else r.chip))
      | .queue q, .read off size =>
        if size.bytes = 8 && off = 0 then
          (some (.data (.ofNat 256 (q.tail - q.head + 2 ^ q.log2 * 2 ^ 32))), s)
        else (refuse .queueFault, s)
      | _, .qop .. => (refuse .capPerm, s)
      | _, .read off size => s.peerBytes r n off size none
      | _, .write off size v => s.peerBytes r n off size (some v)

/-- Change a remote handle. -/
def State.updRemote (s : State) (ix : BitVec 24) (f : RemoteHandle → RemoteHandle) : State :=
  { s with remotes := s.remotes.map fun r => if r.ix = ix then f r else r }

/-- Perform the access that is next in sequence, and answer it (R197). -/
def State.peerServe (s : State) (r : RemoteHandle) (txn seq : Nat) (acc : PeerAccess) : State :=
  let s := s.updRemote r.ix fun r => { r with next := seq + 1, busy := true }
  match s.peerStep r txn acc with
  | (none, s) => s
  | (some a, s) =>
    (s.updRemote r.ix fun r => { r with busy := false, answered := (seq, a) :: r.answered }).send (.accessReply r.chip txn a)

/-- Accesses that arrived early follow, while none is held (R197). -/
def drainEarly (ix : BitVec 24) : Nat → State → State
  | 0, s => s
  | fuel + 1, s =>
    match s.remotes.find? (fun r => r.ix == ix) with
    | none => s
    | some r =>
      if r.busy then s
      else
        match r.early.find? (fun x => x.1 == r.next) with
        | none => s
        | some (seq, txn, acc) =>
          drainEarly ix fuel ((s.updRemote ix fun r => { r with early := r.early.filter fun x => x.1 != seq }).peerServe r txn seq acc)

/-- Every remote handle goes on with what has arrived early. -/
def State.drainRemotes (s : State) : State :=
  s.remotes.foldl (fun s r => if r.early.isEmpty then s else drainEarly r.ix (r.early.length + 1) s) s

/-- A forwarded access arrives: in sequence it is performed, early it is kept, repeated it is answered as before; a handle
that does not exist is stale (R197). -/
def State.peerArrive (s : State) (chip : ChipIx) (txn : Nat) (handle gen : BitVec 24) (seq : Nat) (acc : PeerAccess) : State :=
  match s.remotes.find? (fun r => r.ix == handle && r.gen == gen && r.chip == chip) with
  | none => s.send (.accessReply chip txn (.refused Cause.capStale.code))
  | some r =>
    if seq < r.next then
      match r.answered.lookup seq with
      | some a => s.send (.accessReply chip txn a)
      | none => s
    else
      let s := if r.early.any fun x => x.1 == seq then s else s.updRemote r.ix fun r => { r with early := r.early ++ [(seq, txn, acc)] }
      drainEarly r.ix (r.early.length + 2) s

/-- NREAD (R197). -/
def execNread (chip : ChipIx) (txn : Nat) (handle gen : BitVec 24) (seq : Nat) (off : Word) (size : MemSize) (s : State) : Out :=
  .next (s.peerArrive chip txn handle gen seq (.read off size))
/-- NWRITE (R197). -/
def execNwrite (chip : ChipIx) (txn : Nat) (handle gen : BitVec 24) (seq : Nat) (off : Word) (size : MemSize) (data : W256)
    (s : State) : Out := .next (s.peerArrive chip txn handle gen seq (.write off size data))
/-- NQOP (R197, R440). -/
def execNqop (chip : ChipIx) (txn : Nat) (handle gen : BitVec 24) (seq : Nat) (push : Bool) (entry : W256) (s : State) : Out :=
  .next (s.peerArrive chip txn handle gen seq (.qop push entry))

/-- NCLOSE (R196): the remote handle ends, with what it held. -/
def execNclose (chip : ChipIx) (txn : Nat) (handle gen : BitVec 24) (s : State) : Out :=
  let gone := s.remotes.filter fun r => r.chip == chip && r.ix == handle && r.gen == gen
  let s := { s with remotes := s.remotes.filter fun r => !(r.chip == chip && r.ix == handle && r.gen == gen) }
  let s := gone.foldl (fun s r => s.updSpace r.asid fun sp => { sp with nodes := sp.nodes.map (Node.dropPeers gone) }) s
  .next (s.send (.accessReply chip txn .ack))

/-- A peer withdraws an operation that a queue holds: no entry is taken (R440). -/
def State.withdrawAt (s : State) (chip : ChipIx) (txn : Nat) : State := s.endHeld chip txn (.refused 0)

/-! ### The holder: pending instructions -/

/-- A transaction by its label. -/
def State.txnOf (s : State) (label : Nat) : Option Txn := s.txns.find? fun t => t.label == label

/-- The pending instruction of a context that waits for a transaction or revocation. -/
def Ctx.pendFor (c : Ctx) (label : Nat) : Option Nat :=
  c.pend.findIdx? fun p => match p.kind with
    | .remote t .. | .name t => t == label
    | .gatherFar ts .. => ts.any fun x => x.1 == label
    | _ => false

/-- A name form ends with a status word, and a result for its register (R199, R200). -/
def State.nameResult (s : State) (ctx : BitVec 32) (label : Nat) (w : Word) (v : RegVal) : State :=
  s.asCtx ctx fun s =>
    match s.cx.pendFor label with
    | some i => (s.setNameStat w).pendAnswer i v
    | none => s

/-- A name form ends with a status word in its register and in name.stat. -/
def State.nameFails (s : State) (ctx : BitVec 32) (label : Nat) (w : Word) : State :=
  s.nameResult ctx label w ⟨w.setWidth 256, false⟩

/-- A pending load or atomic fails at a later unit (R81, R197, R365). -/
def State.loadFails (s : State) (t : Txn) (cause : Cause) : State :=
  s.asCtx t.ctx fun s =>
    match s.cx.pendFor t.label with
    | some i => s.pendFail i cause t.off t.faultHandle
    | none => s

/-- What waits for a store that never performs does not perform either: the releases behind it, a FENCE.rel, and the
stores behind that fence (R234, R249, R437). -/
def withoutStore (txn : Nat) : List StoreEntry → List StoreEntry
  | [] => []
  | e :: q =>
    if e.sent = some txn then (q.takeWhile fun e => !e.marker).filter fun e => !e.rel else e :: withoutStore txn q

/-- A store to another chip fails: it is discarded, and its context traps at a later unit (R197, R365). -/
def State.storeFails (s : State) (t : Txn) (cause : Cause) : State :=
  (s.dropTxn t.label).updCtx t.ctx fun c =>
    { c with storeQ := withoutStore t.label c.storeQ
             late := c.late ++ [⟨cause, t.off, t.faultHandle⟩] }

/-- The queue operation that the context of a transaction waits in. -/
def State.inQop (s : State) (t : Txn) (f : State → State) : State :=
  s.asCtx t.ctx fun s => if s.cx.wait = .txn t.label then f s else s

/-- A forwarded queue operation fails: its unit traps (R197, R440). -/
def State.qopFails (s : State) (t : Txn) (cause : Cause) : State := s.inQop t fun s => s.takeTrap cause t.off

/-- A byte of a name form's string cannot be read: the form traps (R197, R200). -/
def State.byteFails (s : State) (t : Txn) (cause : Cause) : State :=
  s.asCtx t.ctx fun s =>
    match s.cx.wait with
    | .string _ _ txn => if txn = some t.label then s.takeTrap cause t.off else s
    | _ => s

/-- A transaction whose peer has refused it as stale, or cannot be reached any more, ends (R197, R365, R440). -/
def State.txnFails (s : State) (t : Txn) (cause : Cause) : State :=
  State.dropTxn (match t.kind with
    | .load | .atom .. => s.loadFails t cause
    | .store => s.storeFails t cause
    | .push _ | .pop .. => s.qopFails t cause
    | .byte => s.byteFails t cause
    | _ => s) t.label

/-- NSTALE (R196, R440): operations that the peer holds for the local handles on this remote handle fail. A later access
through them goes to the peer, which refuses it as stale (R197; DEDUCED, log entry 22). -/
def execNstale (chip : ChipIx) (handle : BitVec 24) (s : State) : Out :=
  let on (h : Handle) : Bool := match h.remote with
    | some (c, r, _) => c == chip && r == handle
    | none => false
  let hit (t : Txn) : Bool := t.held && ((s.space t.asid).handles.any fun h => h.ix == t.handle && on h)
  .next ((s.txns.filter hit).foldl (fun s t => s.txnFails t .capStale) s)

/-! ### The holder: replies of name forms (R202, R203, R208, R253, R254) -/

/-- A local node that stands for a peer's (R253); none where the node table is full. -/
def State.makePeerNode (s : State) (a : Asid) (chip : ChipIx) (node : BitVec 23) (gen : BitVec 24) (kind : BitVec 3)
    (extent : Word) : Option (BitVec 23 × State) := s.makeNode a (.peerNode chip node gen kind) extent.toNat

/-- Room for one more unopened peer node of a context: of 16 the oldest is first freed (R253). -/
def State.peerRoom (s : State) (ctx : BitVec 32) (a : Asid) : State :=
  match (s.getCtx ctx).bind fun (c : Ctx) => if c.peerNodes.length < 16 then none else c.peerNodes.head? with
  | none => s
  | some old => (s.updCtx ctx fun c => { c with peerNodes := c.peerNodes.drop 1 }).freeIfUnused a old

/-- The walk reference of a peer's node (R253). -/
def State.peerRef (s : State) (a : Asid) (ix : BitVec 23) (mask : BitVec 12) (extent : Word) : RegVal :=
  match s.nodeAt a ix with
  | some n => ⟨(walkRef a n 6 mask extent.toNat).toBits, true⟩
  | none => {}

/-- NWALK_REPLY (R201, R253, R254). -/
def execNwalkReply (txn : Nat) (r : WalkReply) (s : State) : Out :=
  match s.txnOf txn with
  | none => .next s
  | some t =>
    let s := s.dropTxn txn
    match t.kind, r with
    | .walk .., .fail code comp kind => .next (s.nameFails t.ctx txn (statusWord code comp kind true 0))
    | .walk .., .ok node gen kind mask extent =>
      if (s.getCtx t.ctx).isNone then .next s
      else
        match (s.peerRoom t.ctx t.asid).makePeerNode t.asid t.chip node gen kind extent with
        | none => .next ((s.peerRoom t.ctx t.asid).nameFails t.ctx txn (statusWord NameCode.nospace.code 0xFF 6 false 0))
        | some (ix, s) =>
          let s := s.updCtx t.ctx fun c => { c with peerNodes := c.peerNodes ++ [ix] }
          .next (s.nameResult t.ctx txn 0 (s.peerRef t.asid ix mask extent))
    | .bindWalk id _, r =>
      match s.launchOf id with
      | none => .next s
      | some l =>
        let s := s.updLaunch id fun l => { l with asking := false }
        match r, l.nextBind with
        | .fail code _ _, _ => .next (s.failLaunch l 2 code)
        | .ok node gen kind mask extent, some (_, perm, img) =>
          match s.makePeerNode t.asid t.chip node gen kind extent with
          | none => .next (s.failLaunch l 2 NameCode.nospace.code)
          | some (ix, s) =>
            match s.nodeAt t.asid ix with
            | some n => .next (advanceLaunch id launchFuel (s.bindOpen l img n (mask &&& perm)))
            | none => .next s
        | .ok .., none => .next s
    | _, _ => .next s

/-- The remote handle of a local one, from a peer's answer (R197). -/
def State.gotRemote (s : State) (a : Asid) (h : BitVec 24) (chip : ChipIx) (rh rg : BitVec 24) : State :=
  s.updHandle a h fun k => { k with remote := some (chip, rh, rg), seq := 0 }

/-- Generation of a handle slot. -/
def State.handleGen (s : State) (a : Asid) (h : BitVec 24) : BitVec 24 :=
  (((s.space a).handles.find? fun k => k.ix == h).map Handle.gen).getD 0

/-- NOPEN_REPLY (R55, R202, R208): on a refusal the handle is freed. -/
def execNopenReply (txn : Nat) (r : OpenReply) (s : State) : Out :=
  match s.txnOf txn with
  | none => .next s
  | some t =>
    let s := s.dropTxn txn
    let cap (node : BitVec 23) (h : BitVec 24) (mask : BitVec 12) (s : State) : Cap :=
      match s.nodeAt t.asid node with
      | some n => openCap n h (s.handleGen t.asid h) mask
      | none => openCap { ix := node, body := .mem, extent := 0 } h 0 mask
    match t.kind, r with
    | .open_ _ node h mask, .ok rh rg =>
      let s := s.gotRemote t.asid h t.chip rh rg
      .next (s.nameResult t.ctx txn 0 ⟨(cap node h mask s).toBits, true⟩)
    | .open_ _ _ h _, .fail code => .next ((s.closeHandle t.asid h).nameFails t.ctx txn (statusWord code 0xFF 0 true 1))
    | .dup _ a _ h mask, .ok rh rg =>
      let s := s.gotRemote t.asid h t.chip rh rg
      let view := ((s.getCtx t.ctx).map fun (c : Ctx) => Cap.ofBits (c.reg a).val).getD (Cap.ofBits 0)
      let k := { view with handle := h, gen := s.handleGen t.asid h, perm := mask }
      .next (s.nameResult t.ctx txn 0 ⟨k.toBits, true⟩)
    | .dup _ _ _ h _, .fail code => .next ((s.closeHandle t.asid h).nameFails t.ctx txn (statusWord code 0xFF 0 true 7))
    | .bindOpen id node h mask, r =>
      match s.launchOf id with
      | none => .next (s.closeHandle t.asid h)
      | some l =>
        let s := s.updLaunch id fun l => { l with asking := false }
        match r with
        | .fail code => .next ((s.closeHandle t.asid h).failLaunch l 2 code)
        | .ok rh rg =>
          let s := s.gotRemote t.asid h t.chip rh rg
          .next (advanceLaunch id launchFuel
            (s.bindGot l ((l.nextBind.map (·.2.2)).getD none) ⟨(cap node h mask s).toBits, true⟩))
    | _, _ => .next s

/-- A revocation loses one NCLOSE that it waits for. -/
def State.closeAnswered (s : State) (rev txn : Nat) (down : Bool) : State :=
  { s with revocations := s.revocations.map fun r =>
      if r.label = rev then { r with closes := r.closes.filter fun x => x != txn, down := r.down || down } else r }

/-- NCLOSE_REPLY (R203). -/
def execNcloseReply (txn : Nat) (_ : AccessReply) (s : State) : Out :=
  match s.txnOf txn with
  | none => .next s
  | some t =>
    match t.kind with
    | .close rev => .next (((s.dropTxn txn).closeAnswered rev txn false))
    | _ => .next s

/-! ### The holder: replies of accesses (R197, R440) -/

/-- The data that a load, an atomic, a lane of a VGATH or a byte of a string waits for arrives (R197, R200, R364). -/
def State.dataArrives (s : State) (t : Txn) (v : W256) : State :=
  let answer (s : State) : State :=
    match s.cx.pendFor t.label with
    | none => s
    | some i => match (s.cx.pend[i]?).map Pending.kind with
      | some (.remote _ size sign _) => (s.atomEvents t.label v).pendAnswer i (answerValue v size sign)
      | some (.gatherFar ..) => s.laneAnswer i t.label v
      | _ => s
  State.dropTxn (match t.kind with
    | .byte => s.byteArrives t.ctx t.label (v.setWidth 8)
    | _ => s.asCtx t.ctx answer) t.label

/-- NREAD_REPLY (R197, R242). -/
def execNreadReply (txn : Nat) (r : AccessReply) (s : State) : Out :=
  match s.txnOf txn with
  | none => .next s
  | some t =>
    match r with
    | .data v => .next (s.dataArrives t v)
    | .refused c => .next (s.txnFails t (Cause.ofCode c))
    | .ack | .held => .next s

/-- NWRITE_REPLY (R197). -/
def execNwriteReply (txn : Nat) (r : AccessReply) (s : State) : Out :=
  match s.txnOf txn with
  | none => .next s
  | some t =>
    match r with
    | .ack => .next (s.storeAcked t.ctx txn)
    | .refused c => .next (s.txnFails t (Cause.ofCode c))
    | .data _ | .held => .next s

/-- A withdrawn operation has taken no effect: an nb form gives 0, a blocking form leaves for the pre-emption, the FREEZE
or the KILL that it stood in the way of, and runs again from the start (R213, R440). -/
def State.qopWithdrawn (s : State) (t : Txn) (nb : Option (Reg × BitVec 6)) : State :=
  if nb.isSome then s.inQop t fun s => (s.nbResult nb false).finishWait
  else
    let s := s.inQop t State.unblock
    match s.getCtx t.ctx with
    | none => s
    | some c => if c.preempt && c.res == .bound && c.killReq.isNone then s.leave c.id (.save true) else s.tryStop c.id

/-- NQOP_REPLY (R440). -/
def execNqopReply (txn : Nat) (r : AccessReply) (s : State) : Out :=
  match s.txnOf txn with
  | none => .next s
  | some t =>
    let (nb, data) : Option (Reg × BitVec 6) × Option Reg := match t.kind with
      | .push nb => (nb, none)
      | .pop d nb => (nb, some d)
      | _ => (none, none)
    match r with
    | .held =>
      let s := { s with txns := s.txns.map fun x => if x.label = txn then { x with held := true } else x }
      .next (if nb.isSome then s.askWithdraw txn else s)
    | .refused c => .next (if c = 0 then (s.qopWithdrawn t nb).dropTxn txn else s.txnFails t (Cause.ofCode c))
    | .ack => .next ((s.inQop t fun s => (s.nbResult nb true).finishWait).dropTxn txn)
    | .data v =>
      let put (s : State) : State := match data with
        | some d => s.setReg d ⟨v, false⟩
        | none => s
      .next ((s.inQop t fun s => ((put (s.clampScope .ten)).nbResult nb true).finishWait).dropTxn txn)

/-! ### Fabric pages (R364, R365) -/

/-- An access of this chip's fabric window performs, or is refused (R364, R365): its data. -/
def State.fabricStep (s : State) (part : BitVec 8) (page : BitVec 28) (off : BitVec 16) (op : FabricOp) : Option W256 × State :=
  match op with
  | .load n =>
    match s.fabricPage part page off false false with
    | some key => (some (.ofNat 256 (s.nat key n)), s)
    | none => (none, s)
  | .store bs =>
    match s.fabricPage part page off true false with
    | some key => (some 0, s.homeWrite key bs)
    | none => (none, s)
  | .atom fn w32 y =>
    match s.fabricPage part page off true true with
    | none => (none, s)
    | some key =>
      let n := if w32 then 4 else 8
      let old := s.nat key n
      (some (.ofNat 256 old), match ((AtomFn.ofCode fn.toNat).apply (8 * n) old y).1 with
        | some v => s.homeWrite key (toBytes v n)
        | none => s)

/-- A port that reaches a chip. -/
def Port.reaches (p : Port) (chip : ChipIx) : Bool := p.peer == chip

/-- FABRIC_ACCESS (R364, R365, R411): a port freezes for a partition that it does not serve, and a frozen one answers
nothing. The partitions served are this package's and those that a fabric MMU entry names (DEDUCED, log entry 22). -/
def execFabricAccess (chip : ChipIx) (txn : Nat) (part : BitVec 8) (page : BitVec 28) (off : BitVec 16) (op : FabricOp) (s : State) :
    Out :=
  let far := chip != s.pkg.chip
  let served := part == s.pkg.part || s.fabric.any fun e => e.part == part
  if far && !served then
    .next { s with ports := s.ports.map fun p => if p.reaches chip && !p.frozen.contains part then { p with frozen := part :: p.frozen } else p }
  else if far && s.ports.any (fun p => p.reaches chip && p.frozen.contains part) then .next s
  else
    let (r, s) := s.fabricStep part page off op
    .next (s.send (.fabricReply chip txn r))

/-- The answer to an access of a fabric page that this chip holds itself (R364, R365). -/
def State.fabricAnswer (s : State) (txn : Nat) (data : Option W256) : State :=
  match s.txnOf txn with
  | none => s
  | some t =>
    match t.kind, data with
    | .store, some _ => s.storeAcked t.ctx txn
    | _, some v => s.dataArrives t v
    | _, none => s.txnFails t .fabric

/-- FABRIC_REFUSAL (R365): the target refuses a slot's pending load or atomic, or a store that its queue has sent. -/
def execFabricRefusal (sl : SlotId) (store : Bool) (i : Nat) (s : State) : Out :=
  match (s.slotOwner sl).bind s.getCtx with
  | none => .next s
  | some c =>
    let label : Option Nat :=
      if store then (c.storeQ[i]?).bind StoreEntry.sent
      else (c.pend[i]?).bind fun (p : Pending) => match p.kind with
        | .remote t .. => some t
        | .gatherFar ts .. => (ts.head?).map Prod.fst
        | _ => none
    match label.bind s.txnOf with
    | some t => .next (if t.fabric then s.txnFails t .fabric else s)
    | none => .next s

/-! ### Links (R197, R362, R365, R411, R440) -/

/-- LINK_RECOVERY_EXPIRY (R197, R365, R440): an access still unanswered after the period traps with FABRIC, a name form
returns PEERDOWN, a launch fails with it; a held operation does not expire. -/
def execLinkRecoveryExpiry (txn : Nat) (s : State) : Out :=
  match s.txnOf txn with
  | none => .next s
  | some t =>
    if t.held || (s.cycle - t.sent).ult s.pkg.lrp then .next s
    else
      let s := s.dropTxn txn
      let word (form : Nat) : Word := failWord .peerdown form
      match t.kind with
      | .walk .. => .next (s.nameFails t.ctx txn (statusWord NameCode.peerdown.code 0xFF 6 false 0))
      | .open_ _ _ h _ => .next ((s.closeHandle t.asid h).nameFails t.ctx txn (word 1))
      | .dup _ _ _ h _ => .next ((s.closeHandle t.asid h).nameFails t.ctx txn (word 7))
      | .close rev => .next (s.closeAnswered rev txn true)
      | .bindWalk id _ | .bindOpen id .. =>
        let s := match t.kind with
          | .bindOpen _ _ h _ => s.closeHandle t.asid h
          | _ => s
        .next (match s.launchOf id with
          | some l => s.failLaunch l 2 NameCode.peerdown.code
          | none => s)
      | .job .. => .next s
      | .load | .atom .. | .store | .byte | .push _ | .pop .. => .next (s.txnFails t .fabric)

/-- Change a port. -/
def State.updPort (s : State) (port : BitVec 4) (f : Port → Port) : State :=
  if h : port.toNat < 12 then { s with ports := s.ports.set port.toNat (f s.ports[port.toNat]) } else s

/-- PORT_LINK_LOSS (R440): the operations that the port has carried and its peer holds for this chip fail. -/
def execPortLinkLoss (port : BitVec 4) (s : State) : Out :=
  if port.toNat < 12 then
    let s := s.updPort port fun p => { p with up := false }
    .next ((s.txns.filter fun t => t.held && t.port == port).foldl (fun s t => s.txnFails t .fabric) s)
  else .next s

/-- PORT_LINK_RESTORED (R362). -/
def execPortLinkRestored (port : BitVec 4) (lat : BitVec 32) (peer : ChipIx) (exmode : Bool) (s : State) : Out :=
  .next (s.updPort port fun p => { p with lat := lat, valid := true, exMode := exmode, peer := peer, up := true })

/-- PORT_RESET (R411): the port is released for a partition. -/
def execPortReset (port : BitVec 4) (part : BitVec 8) (s : State) : Out :=
  .next (s.updPort port fun p => { p with frozen := p.frozen.filter fun x => x != part })

/-! ### Revocation (R192) -/

/-- Contexts of an ASID that sit on a cluster, or on any. -/
def State.ctxsOf (s : State) (a : Option Asid) (cl : Option ClusterIx) : List (BitVec 32) :=
  (s.allCtxs.filter fun c => a.all (· == c.asid) && cl.all (· == clusterOf c.core)).map (·.id)

/-- The accesses of these contexts that can perform do. -/
def State.settle (s : State) (ids : List (BitVec 32)) : State :=
  ids.foldl (fun s id => (s.asCtx id State.resolveAll).drain id) s

/-- A transaction of an access through one of these handles. -/
def Txn.through (t : Txn) (hs : List (BitVec 24)) : Bool :=
  hs.contains t.handle && match t.kind with
    | .load | .store | .atom .. | .byte | .push _ | .pop .. => true
    | _ => false

/-- An access of a context through one of these handles has not performed: a queued store, a load, an atomic or a lane of a
VGATH that waits for its data, or a queue operation that a peer holds. -/
def State.stillThrough (s : State) (c : Ctx) (hs : List (BitVec 24)) : Bool :=
  (c.storeQ.any fun e => !e.marker && hs.contains e.handle) || s.txns.any fun t => t.ctx == c.id && t.through hs

/-- NAME_INVALIDATION (R192): the name unit of a cluster drops the entries of the old generation, and acknowledges once
every access checked under it has performed or faulted. -/
def execNameInvalidation (rev : Nat) (cluster : ClusterIx) (s : State) : Out :=
  match s.revocations.find? (fun r => r.label == rev) with
  | none => .next s
  | some r =>
    if !r.waiting.contains cluster then .next s
    else
      let s := s.updCluster cluster fun k => { k with names := k.names.filter fun x => !x.ofHandles r.asid r.handles }
      let ids := s.ctxsOf (some r.asid) (some cluster)
      let s := s.settle ids
      if (ids.filterMap s.getCtx).any fun c => s.stillThrough c r.handles then .next s
      else
        .next { s with revocations := s.revocations.map fun x =>
          if x.label = rev then { x with waiting := x.waiting.filter fun k => k != cluster } else x }

/-- REVOCATION_COMPLETE (R192, R203): all 64 acknowledgements, and the answers of the peers, have arrived. -/
def execRevocationComplete (rev : Nat) (s : State) : Out :=
  match s.revocations.find? (fun r => r.label == rev) with
  | none => .next s
  | some r =>
    if !r.waiting.isEmpty || !r.closes.isEmpty then .next s
    else
      let s := { s with revocations := s.revocations.filter fun x => x.label != rev }
      match r.ctx with
      | none => .next s
      | some id =>
        -- an acquire at package scope of the accesses made under the old generation
        .next ((s.asCtx id fun s => s.clampScope .pkg).nameFails id rev (if r.down then failWord .peerdown r.form else 0))

end Sys2Proof.Machine
end

