-- ==== Sys2Proof/Machine/Host.lean ====
section
/-!
DEFINITION. Sys2Proof/Machine/Host.lean: what the host and the driver do to the package: fq.done (R422), tlb.inv (R418),
eng.thaw (R412), page request responses (R423), host accesses of package memory (R221), the power limit (R21).
-/
namespace Sys2Proof.Machine

/-! ### fq.done (R422) -/

/-- SAVE forms that wait for a target's image go on (R399, R405). -/
def State.retrySaves (s : State) (target : BitVec 32) : State :=
  s.allCtxs.foldl (fun s c =>
    match c.wait with
    | .save d a b => s.asCtx c.id fun s =>
        match s.targetCtx a with
        | some t => if t.id = target then s.saveForm d a b t else s
        | none => s.takeTrap .capStale (a.setWidth 64)
    | _ => s) s

/-- SAVE forms that wait for a target whose image is lost end with status 4 (R399, R405). -/
def State.endSaves (s : State) (target : BitVec 32) : State :=
  s.allCtxs.foldl (fun s c =>
    match c.wait with
    | .save d a _ => s.asCtx c.id fun s =>
        if (s.targetCtx a).any fun t => t.id == target then s.sysStatus d 4 else s
    | _ => s) s

/-- The save engine's or a freeze's write-back goes on (R399). -/
def State.saveAnswered (s : State) (id : BitVec 32) (cause : BitVec 8) (ok : Bool) : State :=
  if !ok then (s.endSaves id).saveLost id cause
  else
    let s := s.updCtx id fun c => { c with savePending := false, qpinned := 0 }
    let s : State := match s.getCtx id with
      | some (c : Ctx) => if c.res == Residency.bound || c.leaving then s else s.writeQuads id 6
      | none => s
    s.retrySaves id

/-- An engine's record write has been refused: the entry is dropped, and the later ones move up (R450). -/
def Launch.dropEntry (l : Launch) : Launch :=
  match l.nrecPend with
  | [] => l
  | (off, _, _) :: rest =>
    if off = 0 then { l with nrecPend := rest }
    else { l with nrecPend := rest.map fun (o, bs, cl) => (if o = 0 then 0 else o - 64, bs, cl), nrecLost := l.nrecLost + 1 }

/-- A store whose ring cannot be written makes no entry: QUEUE_FAULT is taken at the first unit that has not issued, with the
store's offset (R211, R214, R381). -/
def State.storeLost (s : State) (id : BitVec 32) (label : Nat) : State :=
  s.updCtx id fun c => { c with
    storeQ := c.storeQ.filter fun e => e.sent != some label
    late := c.late ++ (c.storeQ.filter fun e => e.sent == some label).map fun e =>
      ⟨.queueFault, match e.target with
        | .queue _ _ off => off
        | _ => 0, none⟩ }

/-- The driver's answer to a record reaches who waits for it (R422). -/
def State.faultAnswered (s : State) (r : FaultRec) (ok : Bool) : State :=
  let cause : BitVec 8 := r.bits.extractLsb' 0 8
  match r.waiter with
  | .nobody => s
  | .ctx id pc =>
    match s.getCtx id with
    | none => s
    | some c => if c.run != .frozen then s else if ok then (s.thaw id pc).noteReady s c.gang else s.killCtx id (cause.setWidth 64) none
  | .save id => s.saveAnswered id cause ok
  | .quad id => if ok then s.updCtx id fun c => { c with qpinned := 0 } else s.saveLost id cause
  | .job e id => s.answerJob e id ok cause
  | .export_ id => s.exportAnswer id ok
  | .queue id => s.asCtx id fun s =>
      match s.cx.wait with
      | .queue push data a nb => if ok then s.queueForm push data a nb else s.takeTrap .queueFault (a.setWidth 64)
      | _ => s
  | .ring id label => if ok then s else s.storeLost id label
  | .remote chip txn => if ok then s else s.endHeld chip txn (.refused Cause.queueFault.code)
  | .nrec id => flushRecord id 1024 (if ok then s else s.updLaunch id Launch.dropEntry)

/-- FQ_DONE (R422): the answer goes to the oldest written record with this entry index (log entry 54). -/
def execFqDone (value : Word) (s : State) : Out :=
  s.answering <|
    match s.faults.find? (fun r => r.written && r.index == field value 0 24) with
    | none => .next s
    | some r => .next (State.faultAnswered { s with faults := s.faults.erase r } r (!value.getLsbD 63))

/-! ### tlb.inv (R418) -/

/-- TLB_INV (R418). -/
def execTlbInv (value : Word) (s : State) : Out := s.answering (.next { s with tlbInvs := s.tlbInvs ++ [value] })

/-- An entry matches an invalidation (R418). -/
def TlbEntry.matches (t : TlbEntry) (v : Word) : Bool :=
  let va := (v.extractLsb' 16 32).toNat * 2 ^ 16
  (v.getLsbD 10 || t.asid == field v 0 9) && (v.getLsbD 9 || (t.va ≤ va && va < t.va + 2 ^ t.shift))

/-- An access of a context to /mem has not performed. -/
def State.memAccessLeft (s : State) (c : Ctx) : Bool :=
  (c.storeQ.any fun e => match e.target with
    | .bytes .. | .fabric .. => true
    | _ => false)
    || c.pend.any fun p => match p.kind with
      | .remote _ _ _ (.fabric ..) => true
      | .gatherFar .. => true
      | _ => false

/-- TLB_INV_COMPLETE (R418): every TLB drops the entries that the oldest invalidation names; once every access that used
them has performed or faulted, tlb.done rises (log entry 41). -/
def execTlbInvComplete (s : State) : Out :=
  match s.tlbInvs with
  | [] => .next s
  | v :: rest =>
    let keep (tlb : List TlbEntry) : List TlbEntry := tlb.filter fun t => !t.matches v
    let s : State := { s with clusters := s.clusters.map fun x => (x.1, { x.2 with tlb := keep x.2.tlb })
                              cores := s.cores.map fun x => (x.1, { x.2 with tlb := keep x.2.tlb }) }
    let ids := s.ctxsOf (if v.getLsbD 10 then none else some (field v 0 9)) none
    let s := s.settle ids
    if (ids.filterMap s.getCtx).any s.memAccessLeft then .next s
    else .next { s with tlbInvs := rest, pkg := { s.pkg with tlbDone := s.pkg.tlbDone + 1 } }

/-! ### eng.thaw, page requests, host accesses, power -/

/-- ENG_THAW (R412). -/
def execEngThaw (value : Word) (s : State) : Out :=
  let e : EngineIx := field value 0 8
  let a : Asid := field value 8 9
  s.answering <|
    if 156 < e.toNat || value.extractLsb' 17 47 != 0 then .next s
    else .next (s.updEngine e fun g => { g with frozen := g.frozen.filter fun x => x != a })

/-- PRG_RESPONSE (R423): the group index is free again. -/
def execPrgResponse (fn : FnIx) (prg : BitVec 9) (s : State) : Out :=
  .next { s with prgs := s.prgs.filter fun p => p != (fn, prg) }

/-- HOST_WRITE_TO_PACKAGE (R221): at the home vault; every cached copy is invalidated first. DRAM ends at 2^39 (R14). -/
def execHostWriteToPackage (pa : Nat) (bytes : List Byte) (s : State) : Out :=
  s.answering (if 2 ^ 39 < pa + bytes.length then .fault .noSuchAddress else .next (s.homeWrite pa bytes))

/-- A byte as the vault holds it: a line that an L2 has modified is not written back yet (R221). -/
def State.vaultByte (s : State) (pa : Nat) : Byte :=
  match s.dirty.lookup (pa / 64 * 64) with
  | some bs => bs.getD (pa % 64) 0
  | none => Memory.byte s.mem pa

/-- HOST_READ_OF_PACKAGE (R221): the host receives the vault's bytes. -/
def execHostReadOfPackage (pa n : Nat) (s : State) : Out :=
  s.answering (if 2 ^ 39 < pa + n then .fault .noSuchAddress
    else .next (s.tell (.readData pa ((List.range n).map fun i => s.vaultByte (pa + i)))))

/-- POWER_LIMIT_EXCEEDED (R21): the matrix engines insert idle cycles. -/
def execPowerLimitExceeded (s : State) : Out := .next { s with powerLimited := true }
/-- POWER_UNDER_LIMIT (R21). -/
def execPowerUnderLimit (s : State) : Out := .next { s with powerLimited := false }

end Sys2Proof.Machine
end

