-- ==== Sys2Proof/Machine/Scalar.lean ====
section
/-!
DEFINITION. Sys2Proof/Machine/Scalar.lean: INT, ADDI, IMM, MOVH, ORSH, BITI, CMP, CMPI and MULDIV (R125 to R133).
-/
namespace Sys2Proof.Machine

/-- A scalar result of one computation; the unit is done (R113). -/
def State.scalar (s : State) (d : Reg) (v : Word) : Out := .next (s.setX d v).advance

/-- A result of two scalar sources (R125). -/
def State.int2 (s : State) (d a b : Reg) (f : Word → Word → Word) : Out := s.scalar d (f (s.x a) (s.x b))

/-- sext of the low 32 bits (R125, R131). -/
def sext32 (v : Word) : Word := (v.setWidth 32).signExtend 64

/-- The shift amount n of R125. -/
def shamt (y : Word) : Nat := (y.extractLsb' 0 6).toNat

/-- Number of leading zero bits of 64 (R125). -/
def leadingZeros (x : Word) : Nat := if x = 0 then 64 else 63 - x.toNat.log2

/-- Number of trailing zero bits among the first `n` looked at (R125). -/
def trailingZeros (x : Word) : Nat := ((List.range 64).find? fun i => x.getLsbD i).getD 64

/-- Number of set bits (R125). -/
def popCount {n : Nat} (x : BitVec n) : Nat := (List.range n).countP fun i => x.getLsbD i

/-- The 8 bytes in reverse order (R125). -/
def byteReverse (x : Word) : Word := .ofNat 64 (ofBytes (toBytes x.toNat 8).reverse)

/-- ADD (R125). -/
def execAdd (d a b : Reg) (s : State) : Out := s.int2 d a b (· + ·)
/-- SUB (R125). -/
def execSub (d a b : Reg) (s : State) : Out := s.int2 d a b (· - ·)
/-- AND (R125). -/
def execAnd (d a b : Reg) (s : State) : Out := s.int2 d a b (· &&& ·)
/-- OR (R125). -/
def execOr (d a b : Reg) (s : State) : Out := s.int2 d a b (· ||| ·)
/-- XOR (R125). -/
def execXor (d a b : Reg) (s : State) : Out := s.int2 d a b (· ^^^ ·)
/-- ANDN (R125). -/
def execAndn (d a b : Reg) (s : State) : Out := s.int2 d a b fun x y => x &&& ~~~y
/-- SLL (R125). -/
def execSll (d a b : Reg) (s : State) : Out := s.int2 d a b fun x y => x <<< shamt y
/-- SRL (R125). -/
def execSrl (d a b : Reg) (s : State) : Out := s.int2 d a b fun x y => x >>> shamt y
/-- SRA (R125). -/
def execSra (d a b : Reg) (s : State) : Out := s.int2 d a b fun x y => x.sshiftRight (shamt y)
/-- ROL (R125). -/
def execRol (d a b : Reg) (s : State) : Out := s.int2 d a b fun x y => x.rotateLeft (shamt y)
/-- ROR (R125). -/
def execRor (d a b : Reg) (s : State) : Out := s.int2 d a b fun x y => x.rotateRight (shamt y)
/-- MIN (R125). -/
def execMin (d a b : Reg) (s : State) : Out := s.int2 d a b fun x y => if x.slt y then x else y
/-- MAX (R125). -/
def execMax (d a b : Reg) (s : State) : Out := s.int2 d a b fun x y => if x.slt y then y else x
/-- MINU (R125). -/
def execMinu (d a b : Reg) (s : State) : Out := s.int2 d a b fun x y => if x.ult y then x else y
/-- MAXU (R125). -/
def execMaxu (d a b : Reg) (s : State) : Out := s.int2 d a b fun x y => if x.ult y then y else x
/-- ADDW (R125). -/
def execAddw (d a b : Reg) (s : State) : Out := s.int2 d a b fun x y => sext32 (x + y)
/-- SUBW (R125). -/
def execSubw (d a b : Reg) (s : State) : Out := s.int2 d a b fun x y => sext32 (x - y)
/-- IDX2 (R125). -/
def execIdx2 (d a b : Reg) (s : State) : Out := s.int2 d a b fun x y => (x <<< 1) + y
/-- IDX4 (R125). -/
def execIdx4 (d a b : Reg) (s : State) : Out := s.int2 d a b fun x y => (x <<< 2) + y
/-- IDX8 (R125). -/
def execIdx8 (d a b : Reg) (s : State) : Out := s.int2 d a b fun x y => (x <<< 3) + y
/-- IDX32 (R125). -/
def execIdx32 (d a b : Reg) (s : State) : Out := s.int2 d a b fun x y => (x <<< 5) + y
/-- CLEAD (R125). -/
def execClead (d a : Reg) (s : State) : Out := s.scalar d (.ofNat 64 (leadingZeros (s.x a)))
/-- CTRAIL (R125). -/
def execCtrail (d a : Reg) (s : State) : Out := s.scalar d (.ofNat 64 (trailingZeros (s.x a)))
/-- CONES (R125). -/
def execCones (d a : Reg) (s : State) : Out := s.scalar d (.ofNat 64 (popCount (s.x a)))
/-- BYTEREV (R125). -/
def execByterev (d a : Reg) (s : State) : Out := s.scalar d (byteReverse (s.x a))
/-- EXTS (R125): w = n + 1. -/
def execExts (d a b : Reg) (s : State) : Out :=
  s.int2 d a b fun x y => (x <<< (63 - shamt y)).sshiftRight (63 - shamt y)
/-- EXTZ (R125): w = n + 1. -/
def execExtz (d a b : Reg) (s : State) : Out := s.int2 d a b fun x y => (x <<< (63 - shamt y)) >>> (63 - shamt y)
/-- MOV (R125): all 256 bits and the tag. -/
def execMov (d a : Reg) (s : State) : Out := .next (s.setReg d (s.reg a)).advance

/-- 256 bits with bit `n` set to `b`. -/
def withBit (v : W256) (n : Nat) (b : Bool) : W256 := (v &&& ~~~(1#256 <<< n)) ||| (if b then 1#256 <<< n else 0)

/-- A copy of c[a] with one bit changed; the tag is cleared (R123). -/
def State.copyBit (s : State) (d a : Reg) (n : Nat) (b : Bool) : Out :=
  .next (s.setBits d (withBit (s.bits a) n b)).advance

/-- The bit index y[7:0] (R125). -/
def State.bitIndex (s : State) (b : Reg) : Nat := ((s.x b).extractLsb' 0 8).toNat

/-- BSET (R125). -/
def execBset (d a b : Reg) (s : State) : Out := s.copyBit d a (s.bitIndex b) true
/-- BCLR (R125). -/
def execBclr (d a b : Reg) (s : State) : Out := s.copyBit d a (s.bitIndex b) false
/-- BINV (R125). -/
def execBinv (d a b : Reg) (s : State) : Out := s.copyBit d a (s.bitIndex b) (!(s.bits a).getLsbD (s.bitIndex b))
/-- BEXT (R125). -/
def execBext (d a b : Reg) (s : State) : Out :=
  s.scalar d ((BitVec.ofBool ((s.bits a).getLsbD (s.bitIndex b))).setWidth 64)

/-- ADDI (R126). -/
def execAddi (d a : Reg) (imm : Imm 14) (s : State) : Out := s.scalar d (s.x a + immValue imm)
/-- ANDI (R127). -/
def execAndi (d a : Reg) (imm : Imm 11) (s : State) : Out := s.scalar d (s.x a &&& immValue imm)
/-- ORI (R127). -/
def execOri (d a : Reg) (imm : Imm 11) (s : State) : Out := s.scalar d (s.x a ||| immValue imm)
/-- XORI (R127). -/
def execXori (d a : Reg) (imm : Imm 11) (s : State) : Out := s.scalar d (s.x a ^^^ immValue imm)
/-- SLLI (R127). -/
def execSlli (d a : Reg) (imm : BitVec 11) (s : State) : Out := s.scalar d (s.x a <<< imm.toNat)
/-- SRLI (R127). -/
def execSrli (d a : Reg) (imm : BitVec 11) (s : State) : Out := s.scalar d (s.x a >>> imm.toNat)
/-- SRAI (R127). -/
def execSrai (d a : Reg) (imm : BitVec 11) (s : State) : Out := s.scalar d ((s.x a).sshiftRight imm.toNat)
/-- ADDWI (R127). -/
def execAddwi (d a : Reg) (imm : Imm 11) (s : State) : Out := s.scalar d (sext32 (s.x a + immValue imm))
/-- RORI (R127). -/
def execRori (d a : Reg) (imm : BitVec 11) (s : State) : Out := s.scalar d ((s.x a).rotateRight imm.toNat)

/-- MOVH (R128). -/
def execMovh (d : Reg) (imm : BitVec 20) (s : State) : Out := s.scalar d (imm.signExtend 64 <<< 14)
/-- ORSH (R128). -/
def execOrsh (d : Reg) (imm : BitVec 20) (s : State) : Out := s.scalar d ((s.x d <<< 20) ||| imm.setWidth 64)

/-- BSETI (R129). -/
def execBseti (d a : Reg) (bit : BitVec 8) (s : State) : Out := s.copyBit d a bit.toNat true
/-- BCLRI (R129). -/
def execBclri (d a : Reg) (bit : BitVec 8) (s : State) : Out := s.copyBit d a bit.toNat false
/-- BINVI (R129). -/
def execBinvi (d a : Reg) (bit : BitVec 8) (s : State) : Out :=
  s.copyBit d a bit.toNat (!(s.bits a).getLsbD bit.toNat)
/-- BEXTI (R129). -/
def execBexti (d a : Reg) (bit : BitVec 8) (s : State) : Out :=
  s.scalar d ((BitVec.ofBool ((s.bits a).getLsbD bit.toNat)).setWidth 64)
/-- BDEPI (R129). -/
def execBdepi (d a : Reg) (bit : BitVec 8) (s : State) : Out :=
  s.copyBit d d bit.toNat ((s.bits a).getLsbD 0)
/-- BNDEPI (R129). -/
def execBndepi (d a : Reg) (bit : BitVec 8) (s : State) : Out :=
  s.copyBit d d bit.toNat (!(s.bits a).getLsbD 0)

/-- CMP (R130): one bit of c[d], its other bits kept, its tag cleared. -/
def execCmp (cond : Cond) (d a b : Reg) (bit : BitVec 5) (s : State) : Out :=
  s.copyBit d d bit.toNat (condHolds cond (s.x a) (s.x b))
/-- CMPI (R130). -/
def execCmpi (cond : Cond) (d a : Reg) (bit : BitVec 5) (imm : Imm 6) (s : State) : Out :=
  s.copyBit d d bit.toNat (condHolds cond (s.x a) (immValue imm))

/-- A long-latency scalar form: its result and events, and the window of its la (R79, R133). -/
def State.muldiv (s : State) (i : Instr) (la : BitVec 4) (d : Reg) (v : Word) (ev : Ev) : Out :=
  .next (((s.countOne ev).windowDone i la).setX d v).advance

/-- Bits [127:64] of a product (R131). -/
def productHigh (p : Int) : Word := .ofInt 64 (p / 2 ^ 64)

/-- MUL (R131). -/
def execMul (la : BitVec 4) (d a b : Reg) (s : State) : Out := s.muldiv (.mul la d a b) la d (s.x a * s.x b) 0
/-- MULH (R131). -/
def execMulh (la : BitVec 4) (d a b : Reg) (s : State) : Out :=
  s.muldiv (.mulh la d a b) la d (productHigh ((s.x a).toInt * (s.x b).toInt)) 0
/-- MULHU (R131). -/
def execMulhu (la : BitVec 4) (d a b : Reg) (s : State) : Out :=
  s.muldiv (.mulhu la d a b) la d (productHigh ((s.x a).toNat * (s.x b).toNat)) 0
/-- MULHSN (R131). -/
def execMulhsn (la : BitVec 4) (d a b : Reg) (s : State) : Out :=
  s.muldiv (.mulhsn la d a b) la d (productHigh ((s.x a).toInt * (s.x b).toNat)) 0

/-- Signed division truncating toward zero, with the boundary cases of R132. -/
def divSigned (x y : Word) : Word := if y = 0 then .allOnes 64 else .ofInt 64 (x.toInt.tdiv y.toInt)
/-- Unsigned division (R131, R132). -/
def divUnsigned (x y : Word) : Word := if y = 0 then .allOnes 64 else .ofNat 64 (x.toNat / y.toNat)
/-- Signed remainder, with the sign of the dividend (R131, R132). -/
def remSigned (x y : Word) : Word := if y = 0 then x else .ofInt 64 (x.toInt.tmod y.toInt)
/-- Unsigned remainder (R131, R132). -/
def remUnsigned (x y : Word) : Word := if y = 0 then x else .ofNat 64 (x.toNat % y.toNat)

/-- DIV (R131, R132): a zero divisor counts in nec.7. -/
def execDiv (la : BitVec 4) (d a b : Reg) (s : State) : Out :=
  s.muldiv (.div la d a b) la d (divSigned (s.x a) (s.x b)) (evIf (s.x b == 0) evDivZero)
/-- DIVU (R131, R132). -/
def execDivu (la : BitVec 4) (d a b : Reg) (s : State) : Out :=
  s.muldiv (.divu la d a b) la d (divUnsigned (s.x a) (s.x b)) (evIf (s.x b == 0) evDivZero)
/-- REM (R131, R132). -/
def execRem (la : BitVec 4) (d a b : Reg) (s : State) : Out :=
  s.muldiv (.rem la d a b) la d (remSigned (s.x a) (s.x b)) (evIf (s.x b == 0) evDivZero)
/-- REMU (R131, R132). -/
def execRemu (la : BitVec 4) (d a b : Reg) (s : State) : Out :=
  s.muldiv (.remu la d a b) la d (remUnsigned (s.x a) (s.x b)) (evIf (s.x b == 0) evDivZero)
/-- MULW (R131). -/
def execMulw (la : BitVec 4) (d a b : Reg) (s : State) : Out :=
  s.muldiv (.mulw la d a b) la d (sext32 (s.x a * s.x b)) 0

end Sys2Proof.Machine
end

