-- ==== Sys2Proof/Machine/Vector.lean ====
section
/-!
DEFINITION. Sys2Proof/Machine/Vector.lean: the vector forms on registers, majors 0x20 to 0x29 and 0x2B (R256 to R269,
R273).
-/
namespace Sys2Proof

/-- The element type of a lane type (R256). -/
def LaneType.elem : LaneType → ElemType
  | .s8 => .s8 | .s16 => .s16 | .s32 => .s32 | .s64 => .s64
  | .bf16 => .bf16 | .f16 => .f16 | .f32 => .f32 | .f64 => .f64

/-- The lane type of VDIV and VSQRT (R262). -/
def FloatLane.lane : FloatLane → LaneType
  | .f16 => .f16 | .bf16 => .bf16 | .f32 => .f32 | .f64 => .f64

/-- The lane type of VIDIV and VIREM (R262). -/
def IntLane.lane : IntLane → LaneType
  | .s8 => .s8 | .s16 => .s16 | .s32 => .s32 | .s64 => .s64

/-- w (R256). -/
def LaneType.width (t : LaneType) : Nat := t.elem.bits
/-- L (R256). -/
def LaneType.lanes (t : LaneType) : Nat := 256 / t.width

end Sys2Proof

namespace Sys2Proof.Machine

/-! ### Lanes and masks (R256, R257) -/

/-- Lane `i` of width `w`. -/
def laneOf (v : W256) (w i : Nat) : Nat := bitsOf v.toNat (w * i) w

/-- A register from its lanes. -/
def fromLanes (w : Nat) (xs : List Nat) : W256 :=
  .ofNat 256 (xs.zipIdx.foldl (fun v (x, i) => v + x % 2 ^ w * 2 ^ (w * i)) 0)

/-- en(i) (R257). -/
def State.laneOn (s : State) (mask : BitVec 3) (i : Nat) : Bool :=
  mask == 0 || (s.bits (.ofNat 6 (56 + mask.toNat))).getLsbD i

/-- A lane-wise form: each enabled lane gets its result, the others keep c[d]; the events of the enabled lanes count
(R257, R258). -/
def State.lanewise (s : State) (t : LaneType) (mask : BitVec 3) (d : Reg) (f : Nat → Nat × Ev) : Out :=
  let old := s.bits d
  let rs := (List.range t.lanes).map fun i => if s.laneOn mask i then f i else (laneOf old t.width i, 0)
  .next ((s.countLanes (rs.map (·.2))).setBits d (fromLanes t.width (rs.map (·.1)))).advance

/-- A floating result under fpctl: rounded once, flushed if asked (R91, R92, R258). -/
def State.fpResult (s : State) (f : Fmt) (r : Num × Ev) : Nat × Ev :=
  let (b, e) := f.round s.rm false r.1
  let (b, e') := ftzResult s.ftz f b
  (b, r.2 ||| e ||| e')

/-- A floating operation of two operands under fpctl (R258). -/
def State.fp2 (s : State) (f : Fmt) (op : Num → Num → Num × Ev) (x y : Nat) : Nat × Ev :=
  let (x, e) := dazOperand s.daz f x
  let (y, e') := dazOperand s.daz f y
  let (b, e'') := s.fpResult f (op (f.decode x) (f.decode y))
  (b, e ||| e' ||| e'')

/-- A lane form of two sources: integers by `gi`, floats by `gf` (R261). -/
def State.lane2 (s : State) (t : LaneType) (mask : BitVec 3) (d a b : Reg) (gi : Nat → Nat → Int)
    (gf : Num → Num → Num × Ev) : Out :=
  let w := t.width
  s.lanewise t mask d fun i =>
    let x := laneOf (s.bits a) w i
    let y := laneOf (s.bits b) w i
    match t.elem.fmt with
    | some f => s.fp2 f gf x y
    | none => (wrapNat (gi x y) w, 0)

/-! ### Arithmetic: majors 0x20 to 0x23 (R261) -/

/-- VADD (R261). -/
def execVadd (lane : LaneType) (mask : BitVec 3) (d a b : Reg) (s : State) : Out :=
  s.lane2 lane mask d a b (fun x y => x + y) (Num.add s.rm)
/-- VSUB (R261). -/
def execVsub (lane : LaneType) (mask : BitVec 3) (d a b : Reg) (s : State) : Out :=
  s.lane2 lane mask d a b (fun x y => x - y) fun x y => x.add s.rm y.negate
/-- VMUL (R261). -/
def execVmul (lane : LaneType) (mask : BitVec 3) (d a b : Reg) (s : State) : Out :=
  s.lane2 lane mask d a b (fun x y => x * y) Num.mul
/-- VFMA (R261): c[d] + x * y, rounded once. -/
def execVfma (lane : LaneType) (mask : BitVec 3) (d a b : Reg) (s : State) : Out :=
  let w := lane.width
  s.lanewise lane mask d fun i =>
    let x := laneOf (s.bits a) w i
    let y := laneOf (s.bits b) w i
    let c := laneOf (s.bits d) w i
    match lane.elem.fmt with
    | some f =>
      let (c, e) := dazOperand s.daz f c
      let (r, e') := s.fp2 f (fun x y => Num.fma s.rm (f.decode c) x y) x y
      (r, e ||| e')
    | none => ((c + x * y) % 2 ^ w, 0)

/-- The smaller or larger of two values, with the events of its operands (R261). -/
def extremeOp (g : Num → Num → Num) (x y : Num) : Num × Ev := (g x y, x.sigEv ||| y.sigEv)

/-- A smaller or larger of two floating lanes rounds nothing: it never counts inexact (R261). -/
def State.fpExtreme (s : State) (f : Fmt) (g : Num → Num → Num) (x y : Nat) : Nat × Ev :=
  let (r, e) := s.fp2 f (extremeOp g) x y
  (r, e &&& ~~~evInexact)

/-- VMIN and VMAX (R261). -/
def State.laneExtreme (s : State) (t : LaneType) (mask : BitVec 3) (d a b : Reg) (gi : Int → Int → Bool)
    (g : Num → Num → Num) : Out :=
  let w := t.width
  s.lanewise t mask d fun i =>
    let x := laneOf (s.bits a) w i
    let y := laneOf (s.bits b) w i
    match t.elem.fmt with
    | some f => s.fpExtreme f g x y
    | none => (if gi (sextInt x w) (sextInt y w) then x else y, 0)

/-- VMIN (R261). -/
def execVmin (lane : LaneType) (mask : BitVec 3) (d a b : Reg) (s : State) : Out :=
  s.laneExtreme lane mask d a b (fun x y => x < y) Num.min
/-- VMAX (R261). -/
def execVmax (lane : LaneType) (mask : BitVec 3) (d a b : Reg) (s : State) : Out :=
  s.laneExtreme lane mask d a b (fun x y => y ≤ x) Num.max

/-- VABS and VNEG of a floating lane: only the sign bit changes, and fpctl does not apply (R261). -/
def signOp (f : Fmt) (g : Nat → Nat) (x : Nat) : Nat × Ev :=
  let v := f.decode x
  if v.isNan then (f.nanBits, evNan ||| v.sigEv) else (g x, 0)

/-- VABS (R261). -/
def execVabs (lane : LaneType) (mask : BitVec 3) (d a : Reg) (s : State) : Out :=
  let w := lane.width
  s.lanewise lane mask d fun i =>
    let x := laneOf (s.bits a) w i
    match lane.elem.fmt with
    | some f => signOp f (fun x => x % 2 ^ (w - 1)) x
    | none => ((sextInt x w).natAbs, 0)
/-- VNEG (R261). -/
def execVneg (lane : LaneType) (mask : BitVec 3) (d a : Reg) (s : State) : Out :=
  let w := lane.width
  s.lanewise lane mask d fun i =>
    let x := laneOf (s.bits a) w i
    match lane.elem.fmt with
    | some f => signOp f (fun x => x ^^^ 2 ^ (w - 1)) x
    | none => (wrapNat (-(x : Int)) w, 0)

/-- A logical form: the lane type sets the mask granularity only (R261). -/
def State.laneBits (s : State) (t : LaneType) (mask : BitVec 3) (d a b : Reg) (g : W256 → W256 → W256) : Out :=
  s.lanewise t mask d fun i => (laneOf (g (s.bits a) (s.bits b)) t.width i, 0)
/-- VAND (R261). -/
def execVand (lane : LaneType) (mask : BitVec 3) (d a b : Reg) (s : State) : Out := s.laneBits lane mask d a b (· &&& ·)
/-- VOR (R261). -/
def execVor (lane : LaneType) (mask : BitVec 3) (d a b : Reg) (s : State) : Out := s.laneBits lane mask d a b (· ||| ·)
/-- VXOR (R261). -/
def execVxor (lane : LaneType) (mask : BitVec 3) (d a b : Reg) (s : State) : Out := s.laneBits lane mask d a b (· ^^^ ·)
/-- VANDN (R261). -/
def execVandn (lane : LaneType) (mask : BitVec 3) (d a b : Reg) (s : State) : Out :=
  s.laneBits lane mask d a b fun x y => x &&& ~~~y

/-- An integer-only lane form (R259, R261). -/
def State.laneInt (s : State) (t : LaneType) (mask : BitVec 3) (d a b : Reg) (g : Nat → Nat → Int) : Out :=
  let w := t.width
  s.lanewise t mask d fun i => (wrapNat (g (laneOf (s.bits a) w i) (laneOf (s.bits b) w i)) w, 0)
/-- VSLL (R261): n is the whole lane of c[b]. -/
def execVsll (lane : LaneType) (mask : BitVec 3) (d a b : Reg) (s : State) : Out :=
  s.laneInt lane mask d a b fun x n => if lane.width ≤ n then 0 else ((x * 2 ^ n : Nat) : Int)
/-- VSRL (R261). -/
def execVsrl (lane : LaneType) (mask : BitVec 3) (d a b : Reg) (s : State) : Out :=
  s.laneInt lane mask d a b fun x n => if lane.width ≤ n then 0 else ((x / 2 ^ n : Nat) : Int)
/-- VSRA (R261). -/
def execVsra (lane : LaneType) (mask : BitVec 3) (d a b : Reg) (s : State) : Out :=
  s.laneInt lane mask d a b fun x n => sextInt x lane.width / ((2 ^ (if lane.width ≤ n then lane.width else n) : Nat) : Int)
/-- VMULH (R261). -/
def execVmulh (lane : LaneType) (mask : BitVec 3) (d a b : Reg) (s : State) : Out :=
  let w := lane.width
  s.laneInt lane mask d a b fun x y => sextInt x w * sextInt y w / ((2 ^ w : Nat) : Int)

/-! ### Divide and square root: major 0x24 (R262) -/

/-- A form of the divide unit: every lane, no mask (R262, R263). -/
def State.divideUnit (s : State) (i : Instr) (la : BitVec 4) (t : LaneType) (d : Reg) (f : Nat → Nat × Ev) : Out :=
  let rs := (List.range t.lanes).map f
  .next (((s.countLanes (rs.map (·.2))).setBits d (fromLanes t.width (rs.map (·.1)))).windowDone i la).advance

/-- VDIV (R262). -/
def execVdiv (ty : FloatLane) (la : BitVec 4) (d a b : Reg) (s : State) : Out :=
  let t := ty.lane
  s.divideUnit (.vdiv ty la d a b) la t d fun i =>
    match t.elem.fmt with
    | some f => s.fp2 f Num.div (laneOf (s.bits a) t.width i) (laneOf (s.bits b) t.width i)
    | none => (0, 0)
/-- VSQRT (R262). -/
def execVsqrt (ty : FloatLane) (la : BitVec 4) (d a : Reg) (s : State) : Out :=
  let t := ty.lane
  s.divideUnit (.vsqrt ty la d a) la t d fun i =>
    match t.elem.fmt with
    | some f =>
      let (x, e) := dazOperand s.daz f (laneOf (s.bits a) t.width i)
      let (r, e') := s.fpResult f (f.decode x).sqrt
      (r, e ||| e')
    | none => (0, 0)
/-- VIDIV (R262). -/
def execVidiv (ty : IntLane) (la : BitVec 4) (d a b : Reg) (s : State) : Out :=
  let t := ty.lane
  let w := t.width
  s.divideUnit (.vidiv ty la d a b) la t d fun i =>
    let x := sextInt (laneOf (s.bits a) w i) w
    let y := sextInt (laneOf (s.bits b) w i) w
    if y = 0 then (2 ^ w - 1, evDivZero) else (wrapNat (x.tdiv y) w, 0)
/-- VIREM (R262). -/
def execVirem (ty : IntLane) (la : BitVec 4) (d a b : Reg) (s : State) : Out :=
  let t := ty.lane
  let w := t.width
  s.divideUnit (.virem ty la d a b) la t d fun i =>
    let x := sextInt (laneOf (s.bits a) w i) w
    let y := sextInt (laneOf (s.bits b) w i) w
    if y = 0 then (wrapNat x w, evDivZero) else (wrapNat (x.tmod y) w, 0)

/-! ### Compares: major 0x25 (R264) -/

/-- A compare writes a bit string; c[d] is not read (R264). `quiet`: only a signalling NaN counts as invalid. -/
def State.laneCompare (s : State) (t : LaneType) (mask : BitVec 3) (d a b : Reg) (quiet : Bool) (onNan : Bool)
    (gi : Int → Int → Bool) (gf : Num → Num → Bool) : Out :=
  let w := t.width
  let rs : List (Nat × Ev) := (List.range t.lanes).map fun i =>
    if !s.laneOn mask i then (0, 0)
    else
      let x := laneOf (s.bits a) w i
      let y := laneOf (s.bits b) w i
      match t.elem.fmt with
      | none => ((gi (sextInt x w) (sextInt y w)).toNat, 0)
      | some f =>
        let (x, e) := dazOperand s.daz f x
        let (y, e') := dazOperand s.daz f y
        let p := f.decode x
        let q := f.decode y
        let nan := p.isNan || q.isNan
        let ev := p.sigEv ||| q.sigEv ||| evIf (nan && !quiet) evInvalid
        ((if nan then onNan else gf p q).toNat, e ||| e' ||| ev)
  .next ((s.countLanes (rs.map (·.2))).setBits d (fromLanes 1 (rs.map (·.1)))).advance

/-- VCMPEQ (R264). -/
def execVcmpeq (lane : LaneType) (mask : BitVec 3) (d a b : Reg) (s : State) : Out :=
  s.laneCompare lane mask d a b true false (· == ·) Num.eq
/-- VCMPLT (R264). -/
def execVcmplt (lane : LaneType) (mask : BitVec 3) (d a b : Reg) (s : State) : Out :=
  s.laneCompare lane mask d a b false false (fun x y => x < y) Num.lt
/-- VCMPLE (R264). -/
def execVcmple (lane : LaneType) (mask : BitVec 3) (d a b : Reg) (s : State) : Out :=
  s.laneCompare lane mask d a b false false (fun x y => x ≤ y) fun x y => !y.lt x
/-- VCMPUN (R264). -/
def execVcmpun (lane : LaneType) (mask : BitVec 3) (d a b : Reg) (s : State) : Out :=
  s.laneCompare lane mask d a b true true (fun _ _ => false) fun _ _ => false

/-! ### Conversions: major 0x26 (R265, R266, R456) -/

/-- A conversion (R265): the values of the enabled source lanes, zero for the disabled ones, packed densely. -/
def State.convert (s : State) (t : LaneType) (target : ElemType) (mask : BitVec 3) (d a : Reg) (rm : Rounding)
    (sat : Bool) : Out :=
  let w := t.width
  let n := Nat.min t.lanes (if target = .cx8 then 32 else 256 / target.bits)
  let src : List (Num × Ev) := (List.range n).map fun i =>
    if !s.laneOn mask i then (.fin false 0 0, 0)
    else
      let x := laneOf (s.bits a) w i
      match t.elem.fmt with
      | none => (.ofInt (sextInt x w), 0)
      | some f =>
        let (x, e) := dazOperand s.daz f x
        (f.decode x, e)
  if target = .cx8 then
    let (v, evs) := cxEncode (src.map (·.1) ++ List.replicate (32 - n) (.fin false 0 0))
    let evs := evs.zipIdx.map fun (e, i) => e ||| ((src.map fun (x, e) => e ||| x.sigEv)[i]?).getD 0
    .next ((s.countLanes evs).setBits d (.ofNat 256 v)).advance
  else
    let rs := src.map fun (x, e) =>
      let (v, e') := target.round rm sat x
      match target.fmt with
      | some f =>
        let (v, e'') := ftzResult s.ftz f v
        (v, e ||| e' ||| e'')
      | none => (v, e ||| e')
    .next ((s.countLanes (rs.map (·.2))).setBits d (fromLanes target.bits (rs.map (·.1)))).advance

/-- VCVT (R265). -/
def execVcvt (lane : LaneType) (target : ElemType) (mask : BitVec 3) (d a : Reg) (s : State) : Out :=
  s.convert lane target mask d a s.rm false
/-- VCVTZ (R265). -/
def execVcvtz (lane : LaneType) (target : ElemType) (mask : BitVec 3) (d a : Reg) (s : State) : Out :=
  s.convert lane target mask d a .rz false
/-- VCVTS (R265). -/
def execVcvts (lane : LaneType) (target : ElemType) (mask : BitVec 3) (d a : Reg) (s : State) : Out :=
  s.convert lane target mask d a .rne true
/-- VCVTR (R265). -/
def execVcvtr (lane : LaneType) (target : ElemType) (mask : BitVec 3) (d a : Reg) (s : State) : Out :=
  s.convert lane target mask d a .rne false

/-! ### Permutations: major 0x27 (R267) -/

/-- VSHUF (R267). -/
def execVshuf (lane : LaneType) (mask : BitVec 3) (d a b : Reg) (s : State) : Out :=
  let w := lane.width
  s.lanewise lane mask d fun i => (laneOf (s.bits a) w (laneOf (s.bits b) w i % lane.lanes), 0)
/-- VBCAST (R267). -/
def execVbcast (lane : LaneType) (mask : BitVec 3) (d a b : Reg) (s : State) : Out :=
  s.lanewise lane mask d fun _ => (laneOf (s.bits a) lane.width ((s.bits b).toNat % lane.lanes), 0)
/-- VSLIDE (R267). -/
def execVslide (lane : LaneType) (mask : BitVec 3) (d a b : Reg) (s : State) : Out :=
  s.lanewise lane mask d fun i =>
    let j := (i : Int) + (s.x b).toInt
    (if 0 ≤ j ∧ j < lane.lanes then laneOf (s.bits a) lane.width j.toNat else 0, 0)
/-- VZIP (R267). -/
def execVzip (lane : LaneType) (mask : BitVec 3) (d a b : Reg) (s : State) : Out :=
  s.lanewise lane mask d fun i => (laneOf (s.bits (if i % 2 = 0 then a else b)) lane.width (i / 2), 0)

/-! ### Horizontal reductions: major 0x28 (R107, R268) -/

/-- The enabled lanes of a register, ascending. -/
def State.onLanes (s : State) (t : LaneType) (mask : BitVec 3) : List Nat :=
  (List.range t.lanes).filter fun i => s.laneOn mask i

/-- A floating reduction: it starts from the first value, and each step counts as a lane event (R107, R268; log entry
49). -/
def reduceFp (op : Nat → Nat → Nat × Ev) (empty : Nat) (xs : List Nat) : Nat × List Ev :=
  match xs with
  | [] => (empty, [])
  | x :: rest => rest.foldl (fun (acc, evs) y =>
      let (r, e) := op acc y
      (r, evs ++ [e])) (x, [])

/-- The result of a reduction is scalar-shaped (R268). -/
def State.reduced (s : State) (d : Reg) (v : Nat) (evs : List Ev) : Out :=
  .next ((s.countLanes evs).setBits d (.ofNat 256 v)).advance

/-- VRSUM (R268). -/
def execVrsum (lane : LaneType) (mask : BitVec 3) (d a : Reg) (s : State) : Out :=
  let w := lane.width
  let xs := (s.onLanes lane mask).map fun i => laneOf (s.bits a) w i
  match lane.elem.fmt with
  | some f =>
    let (v, evs) := reduceFp (s.fp2 f (Num.add s.rm)) 0 xs
    s.reduced d v evs
  | none => s.reduced d (wrapNat ((xs.map fun x => sextInt x w).sum) 64) []

/-- VRMAX and VRMIN (R268). -/
def State.reduceExtreme (s : State) (t : LaneType) (mask : BitVec 3) (d a : Reg) (max : Bool) : Out :=
  let w := t.width
  let xs := (s.onLanes t mask).map fun i => laneOf (s.bits a) w i
  match t.elem.fmt with
  | some f =>
    let (v, evs) := reduceFp (s.fpExtreme f (if max then Num.max else Num.min)) (f.infBits max) xs
    s.reduced d v evs
  | none =>
    let best := xs.foldl (fun (m : Int) x =>
      let v := sextInt x w
      if (if max then m < v else v < m) then v else m) (if max then t.elem.lo else t.elem.hi)
    s.reduced d (wrapNat best 64) []
/-- VRMAX (R268). -/
def execVrmax (lane : LaneType) (mask : BitVec 3) (d a : Reg) (s : State) : Out := s.reduceExtreme lane mask d a true
/-- VRMIN (R268). -/
def execVrmin (lane : LaneType) (mask : BitVec 3) (d a : Reg) (s : State) : Out := s.reduceExtreme lane mask d a false

/-- VRDOT (R268): each product and each step is rounded. -/
def execVrdot (lane : LaneType) (mask : BitVec 3) (d a b : Reg) (s : State) : Out :=
  let w := lane.width
  let ps := (s.onLanes lane mask).map fun i => (laneOf (s.bits a) w i, laneOf (s.bits b) w i)
  match lane.elem.fmt with
  | some f =>
    let rs := ps.map fun (x, y) => s.fp2 f Num.mul x y
    let (v, evs) := reduceFp (s.fp2 f (Num.add s.rm)) 0 (rs.map (·.1))
    s.reduced d v (rs.map (·.2) ++ evs)
  | none => s.reduced d (wrapNat ((ps.map fun (x, y) => sextInt x w * sextInt y w).sum) 64) []

/-! ### Lane witnesses: major 0x29 (R269) -/

/-- A form over pairs: input value, running value and witness give the new pair and its events (R269). -/
def State.pairwise (s : State) (t : LaneType) (mask : BitVec 3) (d a : Reg)
    (f : Nat → Nat → Nat → Nat → Nat × Nat × Ev) : Out :=
  let w := t.width
  let old := s.bits d
  let rs : List (Nat × Nat × Ev) := (List.range (t.lanes / 2)).map fun j =>
    let v := laneOf old w (2 * j)
    let q := laneOf old w (2 * j + 1)
    if s.laneOn mask j then f j (laneOf (s.bits a) w j) v q else (v, q, 0)
  .next ((s.countLanes (rs.map (·.2.2))).setBits d (fromLanes w (rs.flatMap fun r => [r.1, r.2.1]))).advance

/-- x < y in a lane type, false where either is a NaN; integers are signed. -/
def laneLt (t : LaneType) (x y : Nat) : Bool := (t.elem.decode x).lt (t.elem.decode y)
/-- The lane holds a NaN. -/
def laneNan (t : LaneType) (x : Nat) : Bool := (t.elem.decode x).isNan
/-- The canonical NaN of a lane type; an integer type has none and its lanes hold none. -/
def laneNanBits (t : LaneType) : Nat := (t.elem.fmt.map Fmt.nanBits).getD 0
/-- A signalling NaN among these lanes counts as invalid. -/
def laneSig (t : LaneType) (xs : List Nat) : Ev := xs.foldl (fun e x => e ||| (t.elem.decode x).sigEv) 0

/-- VMAXW and VMINW (R269). -/
def State.witnessExtreme (s : State) (t : LaneType) (mask : BitVec 3) (d a b : Reg) (max : Bool) : Out :=
  let step := laneOf (s.bits b) t.width 0
  s.pairwise t mask d a fun _ x v q =>
    let better := (laneNan t x && !laneNan t v) || (if max then laneLt t v x else laneLt t x v)
    let ev := laneSig t [x, v]
    if !better then (v, q, ev)
    else if laneNan t x then (laneNanBits t, step, ev ||| evNan) else (x, step, ev)
/-- VMAXW (R269). -/
def execVmaxw (lane : LaneType) (mask : BitVec 3) (d a b : Reg) (s : State) : Out :=
  s.witnessExtreme lane mask d a b true
/-- VMINW (R269). -/
def execVminw (lane : LaneType) (mask : BitVec 3) (d a b : Reg) (s : State) : Out :=
  s.witnessExtreme lane mask d a b false
/-- VCLMPW (R269). -/
def execVclmpw (lane : LaneType) (mask : BitVec 3) (d a b : Reg) (s : State) : Out :=
  let lo := laneOf (s.bits b) lane.width 0
  let hi := laneOf (s.bits b) lane.width 1
  s.pairwise lane mask d a fun _ x _ _ =>
    let ev := laneSig lane [x, lo, hi]
    if laneNan lane x then (laneNanBits lane, 3, ev ||| evNan)
    else if laneLt lane x lo then (lo, 1, ev) else if laneLt lane hi x then (hi, 2, ev) else (x, 0, ev)
/-- VADJB (R269): the gradient is added where the witnesses of the pair agree. -/
def execVadjb (lane : LaneType) (mask : BitVec 3) (d a b : Reg) (s : State) : Out :=
  let w := lane.width
  s.pairwise lane mask d a fun j x v q =>
    if laneOf (s.bits b) w (2 * j + 1) != q then (v, q, 0)
    else match lane.elem.fmt with
      | some f =>
        let (r, e) := s.fp2 f (Num.add s.rm) v x
        (r, q, e)
      | none => ((v + x) % 2 ^ w, q, 0)

/-! ### Select and build: major 0x2B (R273) -/

/-- VSEL (R273). -/
def execVsel (lane : LaneType) (mask : BitVec 3) (d a b : Reg) (s : State) : Out :=
  let w := lane.width
  .next (s.setBits d (fromLanes w ((List.range lane.lanes).map fun i =>
    laneOf (s.bits (if s.laneOn mask i then a else b)) w i))).advance
/-- VIOTA (R273). -/
def execViota (lane : LaneType) (mask : BitVec 3) (d : Reg) (s : State) : Out :=
  s.lanewise lane mask d fun i =>
    let n := (List.range i).countP fun k => s.laneOn mask k
    ((lane.elem.round .rne false (.ofInt n)).1, 0)
/-- VDUP (R273). -/
def execVdup (lane : LaneType) (mask : BitVec 3) (d a : Reg) (s : State) : Out :=
  s.lanewise lane mask d fun _ => (laneOf (s.bits a) lane.width 0, 0)
/-- VEXT (R273). -/
def execVext (lane : LaneType) (d a b : Reg) (s : State) : Out :=
  let w := lane.width
  let v := laneOf (s.bits a) w ((s.bits b).toNat % lane.lanes)
  s.scalar d (.ofNat 64 (if lane.elem.isInt then wrapNat (sextInt v w) 64 else v))

end Sys2Proof.Machine
end

