-- ==== Sys2Proof/Machine/VectorMem.lean ====
section
/-!
DEFINITION. Sys2Proof/Machine/VectorMem.lean: gathers, scatters and strided access, major 0x2A (R270 to R272).
-/
namespace Sys2Proof

/-- s of R270. -/
def ElemSize.bytes : ElemSize → Nat
  | .e8 => 1 | .e16 => 2 | .e32 => 4 | .e64 => 8
/-- The size code of an element's access. -/
def ElemSize.size : ElemSize → MemSize
  | .e8 => .b8 | .e16 => .b16 | .e32 => .b32 | .e64 => .b64

end Sys2Proof

namespace Sys2Proof.Machine

/-- eff[i] of an indexed form: unsigned index lanes (R270). -/
def State.indexedOffsets (s : State) (esz : ElemSize) (a b : Reg) : List Word :=
  let n := esz.bytes
  (List.range (32 / n)).map fun i => (s.cap a).offset + .ofNat 64 (laneOf (s.bits b) (8 * n) i * n)
/-- eff[i] of a strided form: a signed byte stride (R270). -/
def State.stridedOffsets (s : State) (esz : ElemSize) (a b : Reg) : List Word :=
  (List.range (32 / esz.bytes)).map fun i => (s.cap a).offset + .ofNat 64 i * s.x b

/-- The checks of one element; trap.val is its effective offset whatever fails (R270). -/
def State.elementTarget (s : State) (esz : ElemSize) (a : Reg) (acc : Acc) (eff : Word) :
    Except Bad (Target × State) :=
  let need := if acc = .write then permW else permR
  match s.capCheck s.cx.asid (s.reg a) need eff esz.bytes with
  | some c => .error (c, eff)
  | none =>
    if (s.cap a).kind != 0 then .error (.capPerm, eff)
    else
      match s.accessAt s.cx (s.reg a) need eff { acc := acc, n := esz.bytes, size := esz.size } with
      | .ok x => .ok x
      | .error b => .error (b.1, eff)

/-- All checks before any access: the first lane that fails traps (R270). -/
def State.elementTargets (esz : ElemSize) (a : Reg) (acc : Acc) : List Word → State → Except Bad (List Target × State)
  | [], s => .ok ([], s)
  | eff :: rest, s =>
    match s.elementTarget esz a acc eff with
    | .error b => .error b
    | .ok (t, s) =>
      match State.elementTargets esz a acc rest s with
      | .error b => .error b
      | .ok (ts, s) => .ok (t :: ts, s)

/-- An element lies on a fabric page (R364). -/
def Target.onFabric : Target → Bool
  | .fabric .. => true
  | _ => false

/-- The elements' values in lane order (R270). -/
def State.elementValues (s : State) (n : Nat) (ts : List Target) : List Nat :=
  ts.map fun t => ofBytes (s.readTarget s.cx t n).1

/-- The elements, each with its lane, are read; those on fabric pages are asked for, each by its own transaction (R270,
R364): the transactions with their lanes, and the lanes that are here already. -/
def State.askElements (handle : BitVec 24) (n : Nat) : List (Target × Nat) → State → List (Nat × Nat) × Nat × State
  | [], s => ([], 0, s)
  | (t, lane) :: ts, s =>
    match t with
    | .fabric chip page off va =>
      let (txn, s) := s.newTxn handle va chip .load true
      let (left, v, s) := State.askElements handle n ts (s.send (.fabric chip txn s.cx.id page off (.load n)))
      ((txn, lane) :: left, v, s)
    | t =>
      let (left, v, u) := State.askElements handle n ts s
      (left, v + ofBytes (s.readTarget s.cx t n).1 * 2 ^ (8 * n * lane), u)

/-- A load of elements whose checks have passed: those on fabric pages wait for their answers, and a refused one traps
FABRIC at the first unit that has not issued, with c[d] unchanged (R270, R365). -/
def State.gather (s : State) (i : Instr) (la : BitVec 4) (d a : Reg) (esz : ElemSize) (ts : List Target) : State :=
  let n := esz.bytes
  let far := ts.any Target.onFabric
  let s := ts.foldl (fun s t => s.resolveLoads t n false) s
  if la != 0 && !far then (s.window i la (.gather ts n) (some d)).advance
  else if s.memErr then ((State.lateFault { s with memErr := false } .memError s.here none).windowDone i la).advance
  else if far then
    let (left, v, s) := State.askElements (s.cap a).handle n ts.zipIdx s
    (s.window i la (.gatherFar left (.ofNat 256 v) n (ts.filter Target.onFabric)) (some d)).advance
  else ((s.setBits d (fromLanes (8 * n) (s.elementValues n ts))).windowDone i la).advance

/-- VGATH (R270). -/
def execVgath (esz : ElemSize) (la : BitVec 4) (d a b : Reg) (s : State) : Out :=
  s.orTrap (State.elementTargets esz a .read (s.indexedOffsets esz a b) s) fun (ts, s) =>
    s.gather (.vgath esz la d a b) la d a esz ts
/-- VLDS (R270). -/
def execVlds (esz : ElemSize) (la : BitVec 4) (d a b : Reg) (s : State) : Out :=
  s.orTrap (State.elementTargets esz a .read (s.stridedOffsets esz a b) s) fun (ts, s) =>
    s.gather (.vlds esz la d a b) la d a esz ts

/-- One element is stored: a plain store that counts with the others of its instruction (R270, R271). -/
def State.scatterOne (s : State) (label : Nat) (handle : BitVec 24) (esz : ElemSize) (t : Target) (v : Nat) : State :=
  match t with
  | .stash key => (s.resolveFor t esz.bytes).stashPut key (toBytes v esz.bytes)
  | t => s.enqueueStore { s.storeOf t esz.bytes esz.size ⟨.ofNat 256 v, false⟩ handle false with group := some label }

/-- The elements' stores, in ascending lane order (R271). -/
def State.scatter (s : State) (src a : Reg) (esz : ElemSize) (ts : List Target) : State :=
  let label := s.label
  let v := s.bits src
  let s := ts.zipIdx.foldl (fun s (t, i) =>
    s.scatterOne label (s.cap a).handle esz t (laneOf v (8 * esz.bytes) i)) { s with label := label + 1 }
  s.advance

/-- VSCAT (R270). -/
def execVscat (esz : ElemSize) (src a b : Reg) (s : State) : Out :=
  s.orTrap (State.elementTargets esz a .write (s.indexedOffsets esz a b) s) fun (ts, s) => s.scatter src a esz ts
/-- VSTS (R270). -/
def execVsts (esz : ElemSize) (src a b : Reg) (s : State) : Out :=
  s.orTrap (State.elementTargets esz a .write (s.stridedOffsets esz a b) s) fun (ts, s) => s.scatter src a esz ts

end Sys2Proof.Machine
end

