-- ==== Sys2Proof/Machine/Dispatch.lean ====
section
/-!
DEFINITION. Sys2Proof/Machine/Dispatch.lean: one arm per constructor of Instr, each a direct call of its meaning.
-/
namespace Sys2Proof.Machine

/-- The meaning of an instruction or a machine step. -/
def exec (i : Instr) (s : State) : Host.Outcome State Fault Refusal :=
  match i with
  | .add d a b => Sys2Proof.Machine.execAdd d a b s
  | .sub d a b => Sys2Proof.Machine.execSub d a b s
  | .and_ d a b => Sys2Proof.Machine.execAnd d a b s
  | .or_ d a b => Sys2Proof.Machine.execOr d a b s
  | .xor d a b => Sys2Proof.Machine.execXor d a b s
  | .andn d a b => Sys2Proof.Machine.execAndn d a b s
  | .sll d a b => Sys2Proof.Machine.execSll d a b s
  | .srl d a b => Sys2Proof.Machine.execSrl d a b s
  | .sra d a b => Sys2Proof.Machine.execSra d a b s
  | .rol d a b => Sys2Proof.Machine.execRol d a b s
  | .ror d a b => Sys2Proof.Machine.execRor d a b s
  | .min d a b => Sys2Proof.Machine.execMin d a b s
  | .max d a b => Sys2Proof.Machine.execMax d a b s
  | .minu d a b => Sys2Proof.Machine.execMinu d a b s
  | .maxu d a b => Sys2Proof.Machine.execMaxu d a b s
  | .addw d a b => Sys2Proof.Machine.execAddw d a b s
  | .subw d a b => Sys2Proof.Machine.execSubw d a b s
  | .idx2 d a b => Sys2Proof.Machine.execIdx2 d a b s
  | .idx4 d a b => Sys2Proof.Machine.execIdx4 d a b s
  | .idx8 d a b => Sys2Proof.Machine.execIdx8 d a b s
  | .idx32 d a b => Sys2Proof.Machine.execIdx32 d a b s
  | .clead d a => Sys2Proof.Machine.execClead d a s
  | .ctrail d a => Sys2Proof.Machine.execCtrail d a s
  | .cones d a => Sys2Proof.Machine.execCones d a s
  | .byterev d a => Sys2Proof.Machine.execByterev d a s
  | .exts d a b => Sys2Proof.Machine.execExts d a b s
  | .extz d a b => Sys2Proof.Machine.execExtz d a b s
  | .mov d a => Sys2Proof.Machine.execMov d a s
  | .bset d a b => Sys2Proof.Machine.execBset d a b s
  | .bclr d a b => Sys2Proof.Machine.execBclr d a b s
  | .binv d a b => Sys2Proof.Machine.execBinv d a b s
  | .bext d a b => Sys2Proof.Machine.execBext d a b s
  | .addi d a imm => Sys2Proof.Machine.execAddi d a imm s
  | .andi d a imm => Sys2Proof.Machine.execAndi d a imm s
  | .ori d a imm => Sys2Proof.Machine.execOri d a imm s
  | .xori d a imm => Sys2Proof.Machine.execXori d a imm s
  | .slli d a imm => Sys2Proof.Machine.execSlli d a imm s
  | .srli d a imm => Sys2Proof.Machine.execSrli d a imm s
  | .srai d a imm => Sys2Proof.Machine.execSrai d a imm s
  | .addwi d a imm => Sys2Proof.Machine.execAddwi d a imm s
  | .rori d a imm => Sys2Proof.Machine.execRori d a imm s
  | .movh d imm => Sys2Proof.Machine.execMovh d imm s
  | .orsh d imm => Sys2Proof.Machine.execOrsh d imm s
  | .bseti d a bit => Sys2Proof.Machine.execBseti d a bit s
  | .bclri d a bit => Sys2Proof.Machine.execBclri d a bit s
  | .binvi d a bit => Sys2Proof.Machine.execBinvi d a bit s
  | .bexti d a bit => Sys2Proof.Machine.execBexti d a bit s
  | .bdepi d a bit => Sys2Proof.Machine.execBdepi d a bit s
  | .bndepi d a bit => Sys2Proof.Machine.execBndepi d a bit s
  | .cmp cond d a b bit => Sys2Proof.Machine.execCmp cond d a b bit s
  | .cmpi cond d a bit imm => Sys2Proof.Machine.execCmpi cond d a bit imm s
  | .mul la d a b => Sys2Proof.Machine.execMul la d a b s
  | .mulh la d a b => Sys2Proof.Machine.execMulh la d a b s
  | .mulhu la d a b => Sys2Proof.Machine.execMulhu la d a b s
  | .mulhsn la d a b => Sys2Proof.Machine.execMulhsn la d a b s
  | .div la d a b => Sys2Proof.Machine.execDiv la d a b s
  | .divu la d a b => Sys2Proof.Machine.execDivu la d a b s
  | .rem la d a b => Sys2Proof.Machine.execRem la d a b s
  | .remu la d a b => Sys2Proof.Machine.execRemu la d a b s
  | .mulw la d a b => Sys2Proof.Machine.execMulw la d a b s
  | .bcc cond a b imm => Sys2Proof.Machine.execBcc cond a b imm s
  | .bb sense a bit imm => Sys2Proof.Machine.execBb sense a bit imm s
  | .j imm => Sys2Proof.Machine.execJ imm s
  | .jal imm => Sys2Proof.Machine.execJal imm s
  | .jalr d a imm => Sys2Proof.Machine.execJalr d a imm s
  | .dbnz a imm => Sys2Proof.Machine.execDbnz a imm s
  | .cgetoff d a => Sys2Proof.Machine.execCgetoff d a s
  | .cgetbase d a => Sys2Proof.Machine.execCgetbase d a s
  | .cgetlim d a => Sys2Proof.Machine.execCgetlim d a s
  | .cgetperm d a => Sys2Proof.Machine.execCgetperm d a s
  | .cgethnd d a => Sys2Proof.Machine.execCgethnd d a s
  | .cgetgen d a => Sys2Proof.Machine.execCgetgen d a s
  | .cgetkind d a => Sys2Proof.Machine.execCgetkind d a s
  | .ccur d a b => Sys2Proof.Machine.execCcur d a b s
  | .cstep d a b => Sys2Proof.Machine.execCstep d a b s
  | .cnarrow d a b => Sys2Proof.Machine.execCnarrow d a b s
  | .cdrop d a b => Sys2Proof.Machine.execCdrop d a b s
  | .ccover d a b => Sys2Proof.Machine.execCcover d a b s
  | .cuncover d a b => Sys2Proof.Machine.execCuncover d a b s
  | .cplain d a => Sys2Proof.Machine.execCplain d a s
  | .cprobe d a => Sys2Proof.Machine.execCprobe d a s
  | .cdist d a b => Sys2Proof.Machine.execCdist d a b s
  | .cinci d a imm => Sys2Proof.Machine.execCinci d a imm s
  | .walk la d a b => Sys2Proof.Machine.execWalk la d a b s
  | .open_ la d a b => Sys2Proof.Machine.execOpen la d a b s
  | .close la d a => Sys2Proof.Machine.execClose la d a s
  | .bind la d a b => Sys2Proof.Machine.execBind la d a b s
  | .unbind la d a b => Sys2Proof.Machine.execUnbind la d a b s
  | .revoke la d a => Sys2Proof.Machine.execRevoke la d a s
  | .stat la d a => Sys2Proof.Machine.execStat la d a s
  | .dup la d a b => Sys2Proof.Machine.execDup la d a b s
  | .mknode la d a b => Sys2Proof.Machine.execMknode la d a b s
  | .export_ la d a b => Sys2Proof.Machine.execExport la d a b s
  | .qpush data a => Sys2Proof.Machine.execQpush data a s
  | .qpop data a => Sys2Proof.Machine.execQpop data a s
  | .qpushNb data a preg bit => Sys2Proof.Machine.execQpushNb data a preg bit s
  | .qpopNb data a preg bit => Sys2Proof.Machine.execQpopNb data a preg bit s
  | .ld ord size sign la d a imm => Sys2Proof.Machine.execLd ord size sign la d a imm s
  | .st ord size src a imm => Sys2Proof.Machine.execSt ord size src a imm s
  | .ldx ord size sign la d a b => Sys2Proof.Machine.execLdx ord size sign la d a b s
  | .stx ord size src a b => Sys2Proof.Machine.execStx ord size src a b s
  | .aadd ord la d a b => Sys2Proof.Machine.execAadd ord la d a b s
  | .aand ord la d a b => Sys2Proof.Machine.execAand ord la d a b s
  | .aor ord la d a b => Sys2Proof.Machine.execAor ord la d a b s
  | .axor ord la d a b => Sys2Proof.Machine.execAxor ord la d a b s
  | .amin ord la d a b => Sys2Proof.Machine.execAmin ord la d a b s
  | .amax ord la d a b => Sys2Proof.Machine.execAmax ord la d a b s
  | .aminu ord la d a b => Sys2Proof.Machine.execAminu ord la d a b s
  | .amaxu ord la d a b => Sys2Proof.Machine.execAmaxu ord la d a b s
  | .axchg ord la d a b => Sys2Proof.Machine.execAxchg ord la d a b s
  | .acas ord la d a b => Sys2Proof.Machine.execAcas ord la d a b s
  | .afadd ord la d a b => Sys2Proof.Machine.execAfadd ord la d a b s
  | .aincs ord la d a b => Sys2Proof.Machine.execAincs ord la d a b s
  | .fence scope kind => Sys2Proof.Machine.execFence scope kind s
  | .hfence a => Sys2Proof.Machine.execHfence a s
  | .lda size la d a scope => Sys2Proof.Machine.execLda size la d a scope s
  | .stl size src a scope => Sys2Proof.Machine.execStl size src a scope s
  | .pref a => Sys2Proof.Machine.execPref a s
  | .clwb a => Sys2Proof.Machine.execClwb a s
  | .clinv a => Sys2Proof.Machine.execClinv a s
  | .clzero a => Sys2Proof.Machine.execClzero a s
  | .stashfl a => Sys2Proof.Machine.execStashfl a s
  | .stashinv a => Sys2Proof.Machine.execStashinv a s
  | .barinit a b => Sys2Proof.Machine.execBarinit a b s
  | .bararv d a => Sys2Proof.Machine.execBararv d a s
  | .barexp a b => Sys2Proof.Machine.execBarexp a b s
  | .barwait d a b => Sys2Proof.Machine.execBarwait d a b s
  | .bartest d a b => Sys2Proof.Machine.execBartest d a b s
  | .barpois a => Sys2Proof.Machine.execBarpois a s
  | .gangbar d => Sys2Proof.Machine.execGangbar d s
  | .spanbar d => Sys2Proof.Machine.execSpanbar d s
  | .barrd d a => Sys2Proof.Machine.execBarrd d a s
  | .spawn d a b => Sys2Proof.Machine.execSpawn d a b s
  | .retire a => Sys2Proof.Machine.execRetire a s
  | .yield => Sys2Proof.Machine.execYield s
  | .sleep d a => Sys2Proof.Machine.execSleep d a s
  | .wake d a => Sys2Proof.Machine.execWake d a s
  | .self d => Sys2Proof.Machine.execSelf d s
  | .hpush a b => Sys2Proof.Machine.execHpush a b s
  | .hpop d a => Sys2Proof.Machine.execHpop d a s
  | .evpost d a b => Sys2Proof.Machine.execEvpost d a b s
  | .evwait d a => Sys2Proof.Machine.execEvwait d a s
  | .signal d a b => Sys2Proof.Machine.execSignal d a b s
  | .htry d a => Sys2Proof.Machine.execHtry d a s
  | .enq la d a b => Sys2Proof.Machine.execEnq la d a b s
  | .jwait d a b => Sys2Proof.Machine.execJwait d a b s
  | .jtest la d a b => Sys2Proof.Machine.execJtest la d a b s
  | .jstat la d a => Sys2Proof.Machine.execJstat la d a s
  | .aswap la d a b => Sys2Proof.Machine.execAswap la d a b s
  | .jcancel la d a b => Sys2Proof.Machine.execJcancel la d a b s
  | .vadd lane mask d a b => Sys2Proof.Machine.execVadd lane mask d a b s
  | .vsub lane mask d a b => Sys2Proof.Machine.execVsub lane mask d a b s
  | .vmul lane mask d a b => Sys2Proof.Machine.execVmul lane mask d a b s
  | .vfma lane mask d a b => Sys2Proof.Machine.execVfma lane mask d a b s
  | .vmin lane mask d a b => Sys2Proof.Machine.execVmin lane mask d a b s
  | .vmax lane mask d a b => Sys2Proof.Machine.execVmax lane mask d a b s
  | .vabs lane mask d a => Sys2Proof.Machine.execVabs lane mask d a s
  | .vneg lane mask d a => Sys2Proof.Machine.execVneg lane mask d a s
  | .vand lane mask d a b => Sys2Proof.Machine.execVand lane mask d a b s
  | .vor lane mask d a b => Sys2Proof.Machine.execVor lane mask d a b s
  | .vxor lane mask d a b => Sys2Proof.Machine.execVxor lane mask d a b s
  | .vandn lane mask d a b => Sys2Proof.Machine.execVandn lane mask d a b s
  | .vsll lane mask d a b => Sys2Proof.Machine.execVsll lane mask d a b s
  | .vsrl lane mask d a b => Sys2Proof.Machine.execVsrl lane mask d a b s
  | .vsra lane mask d a b => Sys2Proof.Machine.execVsra lane mask d a b s
  | .vmulh lane mask d a b => Sys2Proof.Machine.execVmulh lane mask d a b s
  | .vdiv ty la d a b => Sys2Proof.Machine.execVdiv ty la d a b s
  | .vsqrt ty la d a => Sys2Proof.Machine.execVsqrt ty la d a s
  | .vidiv ty la d a b => Sys2Proof.Machine.execVidiv ty la d a b s
  | .virem ty la d a b => Sys2Proof.Machine.execVirem ty la d a b s
  | .vcmpeq lane mask d a b => Sys2Proof.Machine.execVcmpeq lane mask d a b s
  | .vcmplt lane mask d a b => Sys2Proof.Machine.execVcmplt lane mask d a b s
  | .vcmple lane mask d a b => Sys2Proof.Machine.execVcmple lane mask d a b s
  | .vcmpun lane mask d a b => Sys2Proof.Machine.execVcmpun lane mask d a b s
  | .vcvt lane target mask d a => Sys2Proof.Machine.execVcvt lane target mask d a s
  | .vcvtz lane target mask d a => Sys2Proof.Machine.execVcvtz lane target mask d a s
  | .vcvts lane target mask d a => Sys2Proof.Machine.execVcvts lane target mask d a s
  | .vcvtr lane target mask d a => Sys2Proof.Machine.execVcvtr lane target mask d a s
  | .vshuf lane mask d a b => Sys2Proof.Machine.execVshuf lane mask d a b s
  | .vbcast lane mask d a b => Sys2Proof.Machine.execVbcast lane mask d a b s
  | .vslide lane mask d a b => Sys2Proof.Machine.execVslide lane mask d a b s
  | .vzip lane mask d a b => Sys2Proof.Machine.execVzip lane mask d a b s
  | .vrsum lane mask d a => Sys2Proof.Machine.execVrsum lane mask d a s
  | .vrmax lane mask d a => Sys2Proof.Machine.execVrmax lane mask d a s
  | .vrmin lane mask d a => Sys2Proof.Machine.execVrmin lane mask d a s
  | .vrdot lane mask d a b => Sys2Proof.Machine.execVrdot lane mask d a b s
  | .vmaxw lane mask d a b => Sys2Proof.Machine.execVmaxw lane mask d a b s
  | .vminw lane mask d a b => Sys2Proof.Machine.execVminw lane mask d a b s
  | .vclmpw lane mask d a b => Sys2Proof.Machine.execVclmpw lane mask d a b s
  | .vadjb lane mask d a b => Sys2Proof.Machine.execVadjb lane mask d a b s
  | .vgath esz la d a b => Sys2Proof.Machine.execVgath esz la d a b s
  | .vscat esz src a b => Sys2Proof.Machine.execVscat esz src a b s
  | .vlds esz la d a b => Sys2Proof.Machine.execVlds esz la d a b s
  | .vsts esz src a b => Sys2Proof.Machine.execVsts esz src a b s
  | .vsel lane mask d a b => Sys2Proof.Machine.execVsel lane mask d a b s
  | .viota lane mask d => Sys2Proof.Machine.execViota lane mask d s
  | .vdup lane mask d a => Sys2Proof.Machine.execVdup lane mask d a s
  | .vext lane d a b => Sys2Proof.Machine.execVext lane d a b s
  | .ctlr d num => Sys2Proof.Machine.execCtlr d num s
  | .ctlw src num => Sys2Proof.Machine.execCtlw src num s
  | .ctls src num => Sys2Proof.Machine.execCtls src num s
  | .ctlc src num => Sys2Proof.Machine.execCtlc src num s
  | .trap imm => Sys2Proof.Machine.execTrap imm s
  | .eret => Sys2Proof.Machine.execEret s
  | .phint a b => Sys2Proof.Machine.execPhint a b s
  | .save d a b => Sys2Proof.Machine.execSave d a b s
  | .resume d a b => Sys2Proof.Machine.execResume d a b s
  | .freeze d a => Sys2Proof.Machine.execFreeze d a s
  | .thaw d a b => Sys2Proof.Machine.execThaw d a b s
  | .waitev d a => Sys2Proof.Machine.execWaitev d a s
  | .bkpt => Sys2Proof.Machine.execBkpt s
  | .kill d a b => Sys2Proof.Machine.execKill d a b s
  | .xgo d a b => Sys2Proof.Machine.execXgo d a b s
  | .xstat d a => Sys2Proof.Machine.execXstat d a s
  | .sumcol d a b => Sys2Proof.Machine.execSumcol d a b s
  | .nwalk chip txn part comps used => Sys2Proof.Machine.execNwalk chip txn part comps used s
  | .nopen chip txn node gen mask => Sys2Proof.Machine.execNopen chip txn node gen mask s
  | .nread chip txn handle gen seq off size => Sys2Proof.Machine.execNread chip txn handle gen seq off size s
  | .nwrite chip txn handle gen seq off size data => Sys2Proof.Machine.execNwrite chip txn handle gen seq off size data s
  | .nqop chip txn handle gen seq push entry => Sys2Proof.Machine.execNqop chip txn handle gen seq push entry s
  | .nclose chip txn handle gen => Sys2Proof.Machine.execNclose chip txn handle gen s
  | .nstale chip handle => Sys2Proof.Machine.execNstale chip handle s
  | .fqDone value => Sys2Proof.Machine.execFqDone value s
  | .tlbInv value => Sys2Proof.Machine.execTlbInv value s
  | .engThaw value => Sys2Proof.Machine.execEngThaw value s
  | .kqTailWrite fn q value => Sys2Proof.Machine.execKqTailWrite fn q value s
  | .kqEnable q value => Sys2Proof.Machine.execKqEnable q value s
  | .registerWrite num value => Sys2Proof.Machine.execRegisterWrite num value s
  | .loadDataReturn sl ix r => Sys2Proof.Machine.execLoadDataReturn sl ix r s
  | .storePerform sl ix => Sys2Proof.Machine.execStorePerform sl ix s
  | .fenceComplete sl => Sys2Proof.Machine.execFenceComplete sl s
  | .quadFill sl q => Sys2Proof.Machine.execQuadFill sl q s
  | .bindRecord sl w0 w1 w2 w3 => Sys2Proof.Machine.execBindRecord sl w0 w1 w2 w3 s
  | .slotBind sl => Sys2Proof.Machine.execSlotBind sl s
  | .trapRecordDelivery core => Sys2Proof.Machine.execTrapRecordDelivery core s
  | .baristaTrapRecord cluster => Sys2Proof.Machine.execBaristaTrapRecord cluster s
  | .jobCompletion e id => Sys2Proof.Machine.execJobCompletion e id s
  | .copySector cluster xid sector => Sys2Proof.Machine.execCopySector cluster xid sector s
  | .transferAccept sl => Sys2Proof.Machine.execTransferAccept sl s
  | .nameInvalidation rev cluster => Sys2Proof.Machine.execNameInvalidation rev cluster s
  | .revocationComplete rev => Sys2Proof.Machine.execRevocationComplete rev s
  | .queueWaitComplete sl => Sys2Proof.Machine.execQueueWaitComplete sl s
  | .launch q ch => Sys2Proof.Machine.execLaunch q ch s
  | .gangPlacement gang cluster bases => Sys2Proof.Machine.execGangPlacement gang cluster bases s
  | .quantumExpiry sl => Sys2Proof.Machine.execQuantumExpiry sl s
  | .agingIntervalExpiry gang => Sys2Proof.Machine.execAgingIntervalExpiry gang s
  | .forcedSave sl => Sys2Proof.Machine.execForcedSave sl s
  | .saveComplete ctx => Sys2Proof.Machine.execSaveComplete ctx s
  | .watchdog sl => Sys2Proof.Machine.execWatchdog sl s
  | .handlerInterrupt core => Sys2Proof.Machine.execHandlerInterrupt core s
  | .tlbInvComplete => Sys2Proof.Machine.execTlbInvComplete s
  | .mxOwnWrite cluster n value => Sys2Proof.Machine.execMxOwnWrite cluster n value s
  | .cluNcinv cluster value => Sys2Proof.Machine.execCluNcinv cluster value s
  | .vfUnfreeze f => Sys2Proof.Machine.execVfUnfreeze f s
  | .measExtend fn k digest => Sys2Proof.Machine.execMeasExtend fn k digest s
  | .cpyGo d => Sys2Proof.Machine.execCpyGo d s
  | .barwaitRelease sl => Sys2Proof.Machine.execBarwaitRelease sl s
  | .gangbarRelease gang => Sys2Proof.Machine.execGangbarRelease gang s
  | .spanbarRelease span => Sys2Proof.Machine.execSpanbarRelease span s
  | .jwaitReturn sl => Sys2Proof.Machine.execJwaitReturn sl s
  | .aswapExchange cluster => Sys2Proof.Machine.execAswapExchange cluster s
  | .hpopReturn sl => Sys2Proof.Machine.execHpopReturn sl s
  | .evwaitConsume sl => Sys2Proof.Machine.execEvwaitConsume sl s
  | .sleepTimeout sl => Sys2Proof.Machine.execSleepTimeout sl s
  | .nwalkReply txn r => Sys2Proof.Machine.execNwalkReply txn r s
  | .nopenReply txn r => Sys2Proof.Machine.execNopenReply txn r s
  | .nreadReply txn r => Sys2Proof.Machine.execNreadReply txn r s
  | .nwriteReply txn r => Sys2Proof.Machine.execNwriteReply txn r s
  | .nqopReply txn r => Sys2Proof.Machine.execNqopReply txn r s
  | .ncloseReply txn r => Sys2Proof.Machine.execNcloseReply txn r s
  | .linkRecoveryExpiry txn => Sys2Proof.Machine.execLinkRecoveryExpiry txn s
  | .portLinkLoss port => Sys2Proof.Machine.execPortLinkLoss port s
  | .fabricRefusal sl store ix => Sys2Proof.Machine.execFabricRefusal sl store ix s
  | .hostWriteToPackage pa bytes => Sys2Proof.Machine.execHostWriteToPackage pa bytes s
  | .hostReadOfPackage pa n => Sys2Proof.Machine.execHostReadOfPackage pa n s
  | .exchangeGrant => Sys2Proof.Machine.execExchangeGrant s
  | .send => Sys2Proof.Machine.execSend s
  | .recv => Sys2Proof.Machine.execRecv s
  | .recvadd => Sys2Proof.Machine.execRecvadd s
  | .recvaddsend => Sys2Proof.Machine.execRecvaddsend s
  | .xgoReturn => Sys2Proof.Machine.execXgoReturn s
  | .nop e => Sys2Proof.Machine.execNop e s
  | .mma e => Sys2Proof.Machine.execMma e s
  | .mmas e => Sys2Proof.Machine.execMmas e s
  | .mzero e => Sys2Proof.Machine.execMzero e s
  | .mlda e => Sys2Proof.Machine.execMlda e s
  | .msta e => Sys2Proof.Machine.execMsta e s
  | .mcvt e => Sys2Proof.Machine.execMcvt e s
  | .red e => Sys2Proof.Machine.execRed e s
  | .adjb e => Sys2Proof.Machine.execAdjb e s
  | .wrel e => Sys2Proof.Machine.execWrel e s
  | .creplay e => Sys2Proof.Machine.execCreplay e s
  | .cabort e => Sys2Proof.Machine.execCabort e s
  | .reshard e => Sys2Proof.Machine.execReshard e s
  | .rsresume e => Sys2Proof.Machine.execRsresume e s
  | .rsquery e => Sys2Proof.Machine.execRsquery e s
  | .boxRowComplete o => Sys2Proof.Machine.execBoxRowComplete o s
  | .bcopy e remote => Sys2Proof.Machine.execBcopy e remote s
  | .bfill e => Sys2Proof.Machine.execBfill e s
  | .trig e => Sys2Proof.Machine.execTrig e s
  | .trigFire e id => Sys2Proof.Machine.execTrigFire e id s
  | .tcount e => Sys2Proof.Machine.execTcount e s
  | .waitPacket q => Sys2Proof.Machine.execWaitPacket q s
  | .waitPacketSatisfied q => Sys2Proof.Machine.execWaitPacketSatisfied q s
  | .signalPacket q => Sys2Proof.Machine.execSignalPacket q s
  | .fencePacket q => Sys2Proof.Machine.execFencePacket q s
  | .nopPacket q => Sys2Proof.Machine.execNopPacket q s
  | .powerLimitExceeded => Sys2Proof.Machine.execPowerLimitExceeded s
  | .packageReset imgs cfg => Sys2Proof.Machine.execPackageReset imgs cfg s
  | .getVersion => Sys2Proof.Machine.execGetVersion s
  | .getCapabilities => Sys2Proof.Machine.execGetCapabilities s
  | .negotiateAlgorithms => Sys2Proof.Machine.execNegotiateAlgorithms s
  | .getDigests => Sys2Proof.Machine.execGetDigests s
  | .getCertificate off len => Sys2Proof.Machine.execGetCertificate off len s
  | .challenge nonce => Sys2Proof.Machine.execChallenge nonce s
  | .getMeasurements nonce => Sys2Proof.Machine.execGetMeasurements nonce s
  | .longLatencyCompletion sl ix => Sys2Proof.Machine.execLongLatencyCompletion sl ix s
  | .fabricAccess chip txn part page off op => Sys2Proof.Machine.execFabricAccess chip txn part page off op s
  | .keyedAccess chip txn key off op => Sys2Proof.Machine.execKeyedAccess chip txn key off op s
  | .prgResponse fn prg => Sys2Proof.Machine.execPrgResponse fn prg s
  | .portReset port part => Sys2Proof.Machine.execPortReset port part s
  | .portLinkRestored port lat peer exmode => Sys2Proof.Machine.execPortLinkRestored port lat peer exmode s
  | .powerUnderLimit => Sys2Proof.Machine.execPowerUnderLimit s

end Sys2Proof.Machine
end

