-- ==== Sys2Proof/Machine/Issue.lean ====
section
/-!
DEFINITION. Sys2Proof/Machine/Issue.lean: how the slot of the current context issues its next unit: lookahead windows and
conflicts (R79 to R82), register quads (R150), the guard (R75), and what makes a unit wait before it issues (R194, R220, R234).
-/
namespace Sys2Proof.Machine

/-! ### What a unit names -/

/-- The register whose capability a form accesses through. -/
def instrBase : Instr → Option Reg
  | .ld _ _ _ _ _ a _ | .ldx _ _ _ _ _ a _ | .lda _ _ _ a _ | .st _ _ _ a _ | .stx _ _ _ a _ | .stl _ _ a _ => some a
  | .aadd _ _ _ a _ | .aand _ _ _ a _ | .aor _ _ _ a _ | .axor _ _ _ a _ | .amin _ _ _ a _ | .amax _ _ _ a _
  | .aminu _ _ _ a _ | .amaxu _ _ _ a _ | .axchg _ _ _ a _ | .acas _ _ _ a _ | .afadd _ _ _ a _
  | .aincs _ _ _ a _ => some a
  | .hfence a | .clwb a | .clinv a | .clzero a | .stashfl a | .stashinv a => some a
  | .qpush _ a | .qpop _ a | .qpushNb _ a _ _ | .qpopNb _ a _ _ => some a
  | .enq _ _ a _ | .jwait _ a _ | .jtest _ _ a _ | .jstat _ _ a | .aswap _ _ a _ | .jcancel _ _ a _ => some a
  | .wake _ a | .signal _ a _ | .hpush a _ | .hpop _ a | .htry _ a => some a
  | .close _ _ a | .vgath _ _ _ a _ | .vscat _ _ a _ | .vlds _ _ _ a _ | .vsts _ _ a _ => some a
  | .barinit a _ | .bararv _ a | .barexp a _ | .barpois a | .barwait _ a _ | .bartest _ a _ | .barrd _ a => some a
  | .save _ a _ | .resume _ a _ | .freeze _ a | .thaw _ a _ | .kill _ a _ => some a
  | _ => none

/-! ### Windows (R79 to R82) -/

/-- A window that the unit stands in and conflicts with: of several, the oldest is reported (R80; DESIGN CHOICE, log
entry 9). c0 never conflicts. -/
def State.conflict (s : State) (u : IUnit) : Option Pending :=
  let (src, dst) := instrRegs u.instr
  s.cx.pend.find? fun p =>
    ((guardRegs u.guard ++ src).any fun r => r != 0 && p.dst.contains r) || dst.any fun r => r != 0 && p.src.contains r

/-- Windows that are over close: what they wait for completes, oldest first. False where one waits for something outside
the context (R79). -/
def closeFrom : Nat → Nat → State → Bool × State
  | 0, _, s => (true, s)
  | n + 1, i, s =>
    match s.cx.pend[i]? with
    | none => (true, s)
    | some p =>
      if p.left != 0 then closeFrom n (i + 1) s
      else if p.outside then (false, s)
      else closeFrom n i (s.completePend i)

/-- Windows that are over close (R79). -/
def State.closeWindows (s : State) : Bool × State := closeFrom s.cx.pend.length 0 s

/-- Loads whose register the unit writes have their value first, so that the later write stands (log entry 9). -/
def State.settleWrites (s : State) (dst : List Nat) : State :=
  (List.range s.cx.pend.length).foldl (fun s i =>
    match s.cx.pend[i]? with
    | some p => if p.wr.any fun r => dst.contains r.toNat then s.resolvePend i else s
    | none => s) s

/-- The unit issues: one more unit of every open window (R79); the watchdog counts from here (R388), and the core's round goes
on after this slot (R10). -/
def State.countUnit (s : State) : State :=
  (s.updCx fun c => { c with pend := c.pend.map fun p => { p with left := p.left - 1 }, retireCyc := s.cycle }).updCore
    s.cur.core fun k => { k with last := s.cur.slot }

/-! ### What a unit waits for before it issues -/

/-- The instruction's accesses acquire or release at an order of QUAL's or its own (R234). -/
def instrOrder : Instr → Order
  | .ld o _ _ _ _ _ _ | .st o _ _ _ _ | .ldx o _ _ _ _ _ _ | .stx o _ _ _ _ => o.order
  | .aadd o _ _ _ _ | .aand o _ _ _ _ | .aor o _ _ _ _ | .axor o _ _ _ _ | .amin o _ _ _ _ | .amax o _ _ _ _
  | .aminu o _ _ _ _ | .amaxu o _ _ _ _ | .axchg o _ _ _ _ | .acas o _ _ _ _ | .afadd o _ _ _ _
  | .aincs o _ _ _ _ => o.order
  | .stl .. | .barinit .. | .barexp .. | .barpois .. => .rel
  | _ => .rlx

/-- Forms that put stores into the store queue (R220, R295). -/
def instrQueues : Instr → Bool
  | .st .. | .stx .. | .stl .. | .vscat .. | .vsts .. | .clzero .. | .barinit .. | .barexp .. | .barpois .. => true
  | _ => false

/-- Entries of a store queue: a FENCE.rel's marker is none, and the elements of one VSCAT or VSTS count once (R220, R271). -/
def queueLength (q : List StoreEntry) : Nat :=
  (q.filter fun e => e.group.isNone && !e.marker).length + (q.filterMap (·.group)).eraseDups.length

/-- What a checked access reaches. -/
def State.peek (s : State) (a : Reg) (need : BitVec 12) (eff : Word) (q : Access) : Option (Target × Nat) :=
  match s.accessAt s.cx (s.reg a) need eff q with
  | .ok (t, _) => some (t, q.n)
  | .error _ => none

/-- Where an access of the unit goes whose order behind queued stores its target decides. -/
def State.instrTarget (s : State) (i : Instr) : Option (Target × Nat) :=
  let plain (a : Reg) (acc : Acc) (eff : Word) (size : MemSize) (strong : Bool) :=
    s.peek a (if acc = .read then permR else permW) eff { acc := acc, n := size.bytes, size := size, strong := strong }
  match i with
  | .ld o size _ _ _ a imm => plain a .read (s.effOffset a (immValue imm) size) size (strongOf o)
  | .ldx o size _ _ _ a b => plain a .read (s.effOffset a (s.x b) size) size (strongOf o)
  | .lda size _ _ a _ => plain a .read (s.cap a).offset size true
  | .st o size _ a imm => plain a .write (s.effOffset a (immValue imm) size) size (strongOf o)
  | .stx o size _ a b => plain a .write (s.effOffset a (s.x b) size) size (strongOf o)
  | .stl size _ a _ => plain a .write (s.cap a).offset size true
  | .aadd o _ _ a _ | .aand o _ _ a _ | .aor o _ _ a _ | .axor o _ _ a _ | .amin o _ _ a _ | .amax o _ _ a _
  | .aminu o _ _ a _ | .amaxu o _ _ a _ | .axchg o _ _ a _ | .acas o _ _ a _ | .afadd o _ _ a _ | .aincs o _ _ a _ =>
    s.peek a permA (s.cap a).offset
      { acc := .write, n := if o.w32 then 4 else 8, size := if o.w32 then .b32 else .b64, strong := true, atom := true }
  | .clwb a => (s.peek a permR (s.cap a).offset (cacheAccess .read 1)).map line
  | .clinv a => (s.peek a permW (s.cap a).offset { acc := .write, n := 1, size := .b8 }).map line
  | _ => none
where
  /-- The 64-byte line that a CACHE form acts on (R252). -/
  line (x : Target × Nat) : Target × Nat :=
    match x.1 with
    | .bytes key tags => (.bytes (key / 64 * 64) tags, 64)
    | t => (t, x.2)

/-- A queued store touches what an access reaches. -/
def StoreEntry.touches (e : StoreEntry) (t : Target) (n : Nat) : Bool :=
  (e.pieces t).any fun x => t.start ≤ x.1 && x.1 < t.start + n

/-- A target lies in host memory. -/
def Target.onHost : Target → Bool
  | .bytes key _ => 2 ^ 64 ≤ key
  | _ => false

/-- A load of other chips' pages that has no answer yet touches what an access reaches (R83, R232). -/
def Ctx.asksFor (c : Ctx) (t : Target) (n : Nat) : Bool :=
  c.pend.any fun p => match p.kind with
    | .remote _ size _ u => u.meets size.bytes t n
    | .gatherFar _ _ m ts => ts.any fun u => u.meets m t n
    | _ => false

/-- A target is a package register (R390). -/
def Target.onPkg : Target → Bool
  | .pkg _ => true
  | _ => false

/-- A load waits for queued stores: of a page homed elsewhere or of package registers, those it touches; of host memory, all to
host memory; and for a queued update of a barrier that it touches (R220, R221, R232, R295, R390). -/
def State.loadWaits (s : State) (t : Target) (n : Nat) : Bool :=
  (s.cx.storeQ.any fun e => (t.onFabric || t.onPkg || e.bar.isSome) && e.touches t n)
    || (t.onPkg && !s.pkgWrites.isEmpty) || (t.onHost && s.cx.storeQ.any StoreEntry.toHost)
    || s.cx.asksFor t n

/-- The unit has to wait for a queued store that its access touches: an atomic or CLWB or CLINV, which acts on memory at
once; a load of another chip's page or of host memory; a store through a stash window. CLWB counts as a store for a FENCE.rel
(R220, R221, R225, R232, R246, R249, R252). -/
def State.touchWait (s : State) (i : Instr) : Bool :=
  let cleans := match i with
    | .clwb _ | .clinv _ => true
    | _ => false
  match s.instrTarget i with
  | none => false
  | some (t, n) =>
    let now := i.isAtom || cleans || match t with
      | .stash _ => instrStores i
      | _ => false
    (now && s.cx.storeQ.any fun e => e.touches t n || (e.marker && (instrStores i || cleans)))
      || (if instrQueues i then s.cx.asksFor t n else s.loadWaits t n)

/-- A gather waits for the queued stores that its elements wait for, a scatter for the loads that touch its elements (R221,
R232, R271). -/
def State.gatherWait (s : State) (i : Instr) : Bool :=
  let elements (esz : ElemSize) (a : Reg) (acc : Acc) (effs : List Word) (f : Target → Bool) : Bool :=
    match State.elementTargets esz a acc effs s with
    | .ok (ts, _) => ts.any f
    | .error _ => false
  let waits (esz : ElemSize) (a : Reg) (effs : List Word) : Bool := elements esz a .read effs fun t => s.loadWaits t esz.bytes
  let stores (esz : ElemSize) (a : Reg) (effs : List Word) : Bool :=
    !s.cx.pend.isEmpty && elements esz a .write effs fun t => s.cx.asksFor t esz.bytes
  match i with
  | .vgath esz _ _ a b => waits esz a (s.indexedOffsets esz a b)
  | .vlds esz _ _ a b => waits esz a (s.stridedOffsets esz a b)
  | .vscat esz _ a b => stores esz a (s.indexedOffsets esz a b)
  | .vsts esz _ a b => stores esz a (s.stridedOffsets esz a b)
  | _ => false

/-- The base of a vector form lies in a stash window: its elements' bytes bypass the store queue (R225). -/
def State.stashBase (s : State) (i : Instr) : Bool :=
  match i with
  | .vscat _ _ a _ | .vsts _ _ a _ =>
    match s.handleBase s.cx.asid (s.cap a) with
    | some (.stash ..) => true
    | _ => false
  | _ => false

/-- The unit reaches one core's scratchpad through a plane window while a store to it through another window is queued, or
the reverse: accesses to the same bytes keep their order (R224, R232). A load through a plane window also waits for the
queued stores through it, and reads what they have packed (R103, R220; log entry 57). -/
def State.aliasWait (s : State) (i : Instr) : Bool :=
  let pad (k : Nat) : Nat := k / 2 ^ 22
  match (instrBase i).bind fun a => s.handleBase s.cx.asid (s.cap a) with
  | some (.plane core base ty p) =>
    let key := (Place.spad core base).key
    s.cx.storeQ.any fun e => match e.target with
      | .bytes k _ => pad k == pad key
      | .plane k ty' p' _ => pad k == pad key && !(instrQueues i && k == key && ty == ty' && p == p')
      | .stash _ | .ctx .. | .wit .. | .queue .. | .peer .. | .pkg _ | .fabric .. => false
  | some (.raw core base) | some (.cx8 core base) | some (.stash core base) =>
    s.cx.storeQ.any fun e => match e.target with
      | .plane k .. => pad k == pad (Place.spad core base).key
      | .bytes .. | .stash _ | .ctx .. | .wit .. | .queue .. | .peer .. | .pkg _ | .fabric .. => false
  | _ => false

/-- The unit accesses an ordered node, where the accesses through one handle keep program order (R194). -/
def State.orderedBase (s : State) (i : Instr) : Option (BitVec 24) :=
  (instrBase i).bind fun a =>
    let k := s.cap a
    if k.kind = 1 || k.kind = 2 || k.kind = 3 || k.kind = 4 || k.kind = 6 then some k.handle else none

/-- The unit stores to a queue, which makes an entry and releases (R195). -/
def State.entryStore (s : State) (i : Instr) : Bool :=
  instrQueues i && (instrBase i).any fun a =>
    match s.handleBase s.cx.asid (s.cap a) with
    | some (.queue _) => true
    | some (.peerNode _ _ _ kind) => kind == 1
    | _ => false

/-- A release: the accesses before it have performed when it takes effect (R234). A store that releases waits in its
queue instead. -/
def releasesNow (i : Instr) : Bool := instrReleases i || (Order.releases (instrOrder i) && !instrQueues i)

/-- An answer from outside the context is due to a load or atomic. -/
def Ctx.awaits (c : Ctx) : Bool :=
  c.pend.any fun p => match p.kind with
    | .remote .. | .gatherFar .. => true
    | _ => false

/-- An access through a handle has no answer from its exporter yet (R203). -/
def State.unansweredThrough (s : State) (h : BitVec 24) : Bool :=
  s.txns.any fun t => t.ctx == s.cx.id && t.handle == h && match t.kind with
    | .load | .store | .atom .. | .push _ | .pop .. => true
    | _ => false

/-- The unit reads a barrier that a queued form updates (R295). BARARV waits for every queued store. -/
def State.barWaits (s : State) (i : Instr) : Bool :=
  match i with
  | .barwait _ a _ | .bartest _ a _ | .barrd _ a =>
    (s.peek a permR (s.cap a).offset { acc := .read, n := 16, size := .b128, strong := true }).any fun (t, n) =>
      s.cx.storeQ.any fun e => e.bar.isSome && e.touches t n
  | _ => false

/-- The unit cannot issue yet. -/
def State.instrStalls (s : State) (i : Instr) : Bool :=
  let q := s.cx.storeQ
  (instrQueues i && decide (16 ≤ queueLength q))
    || (releasesNow i && !q.isEmpty)
    || ((releasesNow i || Order.releases (instrOrder i) || s.entryStore i) && s.cx.awaits)
    || ((s.orderedBase i).any fun h => !instrQueues i && s.cx.unperformed h)
    || (match i with
      | .close _ _ a => s.cx.unperformed (s.cap a).handle || s.unansweredThrough (s.cap a).handle
      | _ => false)
    || s.touchWait i
    || s.gatherWait i
    || (s.stashBase i && !q.isEmpty)
    || s.aliasWait i
    || s.barWaits i

/-- The unit gets ready to issue: the forms of R82 wait for every earlier long-latency instruction and close every
window; a release drains the stash and the store queue. False: it waits. -/
def State.prepare (s : State) (i : Instr) : Bool × State :=
  let dst := (instrRegs i).2
  let s := if instrWaits i then s.completeAll else s
  let s := s.settleWrites dst
  let s := if (s.orderedBase i).isSome then s.resolveAll else s
  let s := if releasesNow i then s.resolveAll.drainStash s.cx.id else s
  if (instrWaits i && !s.cx.pend.isEmpty) || s.cx.pend.any fun p => p.wr.any fun r => dst.contains r.toNat then (false, s)
  else if s.instrStalls i then
    let s := s.drain s.cx.id
    (!s.instrStalls i, s)
  else (true, s)

/-! ### Issuing -/

/-- The guard lets the instruction run: its bit, or its complement (R72, R75). -/
def State.guardHolds (s : State) : Option Guard → Bool
  | none => true
  | some g => (s.bits g.reg).getLsbD g.bit.toNat == g.sense

/-- A guarded-off unit: it takes its issue slot, and its window opens (R75). -/
def State.passOver (s : State) (i : Instr) : State := (s.countUnit.windowDone i ((instrLa i).getD 0)).advance

/-- A late fault that this unit takes: those of a handle wait for a unit that accesses the handle, a fence or RETIRE
(R197). -/
def State.takes (s : State) (i : Instr) (f : LateFault) : Bool :=
  match f.handle with
  | none => true
  | some h =>
    match i with
    | .fence .. | .retire _ => true
    | i => (instrBase i).any fun a => (s.cap a).handle == h

/-- A trap is taken only once every earlier unit has completed: where one waits for something beyond its context, the unit that
would trap does not issue yet, and tries again (R80, R381). A trap shows in the count of its core's records. -/
def State.precisely (s : State) (o : Out) : Out :=
  match o with
  | .next t =>
    if s.cx.pend.any Pending.outside && (t.core s.cx.core).seq != (s.core s.cx.core).seq then .next s else .next t
  | o => o

/-- A quad that is not cached, of a list (R150). -/
def State.missingQuad (s : State) (qs : List (BitVec 4)) : Option (BitVec 4) :=
  qs.find? fun q => s.cx.qcached &&& quadBit q == 0

/-- A legal unit issues: conflicts come first (R80), then the guard and its quad (R75), then the quads it names (R150). -/
def State.issueUnit (s : State) (u : IUnit) : Out :=
  match s.conflict u with
  | some p => .next (s.takeTrap .lookahead p.pc)
  | none =>
    match s.missingQuad (guardQuads u.guard) with
    | some q => .next (s.fillQuad q)
    | none =>
      if !s.guardHolds u.guard then .next (((guardQuads u.guard).foldl State.useQuad s).passOver u.instr)
      else
        match s.missingQuad (unitQuads u) with
        | some q => .next (s.fillQuad q)
        | none =>
          let s := (unitQuads u).foldl State.useQuad s
          match s.takeLate (s.takes u.instr) with
          | some s => .next s
          | none =>
            match s.prepare u.instr with
            | (false, s) => .next s
            | (true, s) => exec u.instr s.countUnit

/-- The current context's slot issues its next unit. A FREEZE, a KILL, a pre-emption request 200,000 cycles old, or the
interruption of a handler is served first, at the unit boundary (R386, R393, R407, R409). -/
def State.issue (s : State) : Out :=
  let c := s.cx
  if c.freezeReq || c.killReq.isSome then .next (s.tryStop c.id)
  else if c.preempt && decide (c.preemptCyc.toNat + 200000 ≤ s.cycle.toNat) then execForcedSave s.cur s
  else if c.handler && c.ie && s.interruptDue s.cur then .next (s.interruptSlot s.cur)
  else
    let (n, f, s) := s.fetchUnit
    let s := s.updCx fun c => { c with unit := unitInfo c.pc n f }
    match s.closeWindows with
    | (false, s) => .next s
    | (true, s) =>
      s.precisely <|
        match s.takeLate fun f => f.handle.isNone with
        | some s => .next s
        | none =>
          match f with
          | .fault c addr => .next (s.takeTrap c addr)
          | .illegal w => .next (s.takeTrap .illegal (.ofNat 64 w))
          | .unit u => s.issueUnit u

end Sys2Proof.Machine
end

