-- ==== Sys2Proof/Machine/Run.lean ====
section
/-!
DEFINITION. Sys2Proof/Machine/Run.lean: what one step of the package may be: what the environment brings (log entry 1),
a message of this chip to itself, what runs beside the cores (log entry 27), or a slot that issues its next unit (R10).
-/
namespace Sys2Proof.Machine

/-! ### The turn of a slot (R10, R11) -/

/-- A bound context that waits for nothing: its slot issues when its turn comes (R11). -/
def Ctx.ready (c : Ctx) : Bool := c.res == .bound && c.wait == .none && c.run == .ready

/-- Cores run once the ROM has accepted every image (R452). -/
def State.coresRun (s : State) : Bool := s.booted && !s.recovery

/-- The slot's turn: its context issues its next unit if it is ready. -/
def State.turn (s : State) (sl : SlotId) : Out :=
  match s.boundAt sl with
  | none => .next s
  | some id =>
    let s := s.focus id sl
    if s.coresRun && s.cx.ready then s.issue else .next s

/-- How far a slot is in the round: its core from the one that issued last, and the slot in its core's own round, which begins
after the slot that issued there last (R10). -/
def State.slotGap (s : State) (sl : SlotId) : Nat :=
  (sl.core - s.cur.core - 1).toNat * 8 + (sl.slot - (s.core sl.core).last - 1).toNat

/-- The slot of a list of contexts that comes first in the round (R10). -/
def State.firstSlot (s : State) (cs : List Ctx) : Option SlotId :=
  cs.foldl (fun best c =>
    let sl : SlotId := ⟨c.core, c.slot⟩
    match best with
    | none => some sl
    | some b => if s.slotGap sl < s.slotGap b then some sl else best) none

/-- The next ready slot in the round (R10). -/
def State.nextSlot (s : State) : Option SlotId := if s.coresRun then s.firstSlot (s.allCtxs.filter Ctx.ready) else none

/-- A slot's turn that the environment gives: nothing where another ready slot of its core comes first in the round (R10). -/
def State.turnDue (s : State) (sl : SlotId) : Out :=
  if (s.firstSlot (s.allCtxs.filter fun c => c.ready && c.core == sl.core)).any fun b => b != sl then .next s else s.turn sl

/-! ### What the environment brings (log entry 1) -/

/-- Kettle joins unplaced gangs of one launch into one span, which may have members on other packages (R140, R147, R298; log
entries 17 and 66). -/
def State.joinSpan (s : State) (gs : List (BitVec 32)) (chips : List ChipIx) (far : List Nat) (lead : Option ChipIx) : State :=
  let mine := gs.filterMap fun id => s.gangs.find? fun g => g.id == id
  let launches := (mine.map (·.launch)).eraseDups
  if mine.length ≠ gs.length || launches.length ≠ 1 || 64 < gs.length || !noRepeats gs
      || chips.contains s.pkg.chip || mine.any fun g => g.cluster.isSome || g.span != 0 then s
  else
    let id := s.nextGang
    let join (g : Gang) : Gang := if gs.contains g.id then { g with span := id } else g
    { s with
      nextGang := id + 1
      gangs := s.gangs.map join
      spans := s.spans ++ [{ id := id, gangs := gs, fn := (((launches.head?.bind s.launchOf).map Launch.fn).getD 0)
                             chips := chips, far := far, lead := lead }] }

/-- The pool grows by a descriptor whose identity no context bears, in a page of 8 KiB (R145, R173). -/
def State.growPool (s : State) (d : Descriptor) : State :=
  if d.id = 0 || d.cdva.toNat % 8192 != 0 || (s.getCtx d.id).isSome || s.pool.any fun p => p.id == d.id then s else { s with pool := s.pool ++ [d] }

/-- A host page becomes present or absent (R420). -/
def State.setHostPage (s : State) (page : Nat) (present : Bool) : State :=
  { s with hostAbsent := if present then s.hostAbsent.filter fun p => p != page else insertSorted page s.hostAbsent }

/-- A flit arrives on a port of a core (R355); outside a phase nothing takes it. -/
def State.flitArrives (s : State) (f : Flit) : State :=
  match s.phase with
  | none => s
  | some p => { s with phase := some { p with flits := p.flits ++ [f] } }

/-- A soft error is counted; an uncorrectable one is met by the next load or atomic (R222, R443). -/
def State.softError (s : State) (corrected : Bool) : State :=
  if corrected then { s with pkg := { s.pkg with corr := s.pkg.corr + 1 } }
  else { s with pkg := { s.pkg with unc := s.pkg.unc + 1 }, memErr := true }

/-- The driver registers a host region, or registers it anew (R185). -/
def State.setHostRegion (s : State) (a : Asid) (name : Name) (addr size : Nat) (mask : BitVec 12) : State :=
  { s with hostRegions := (a, name, addr, size, mask) :: s.hostRegions.filter fun r => !(r.1 == a && r.2.1 == name) }

/-- The head of the agenda takes place. -/
def State.runItem (s : State) (x : AgendaItem) : Out :=
  match x with
  | .event i => exec i s
  | .turn sl => s.turnDue sl
  | .poolGrow d => .next (s.growPool d)
  | .tlbEvict cl i => .next (s.updCluster cl fun k => { k with tlb := k.tlb.eraseIdx i })
  | .l1Evict core i => .next (s.updCore core fun k => { k with tlb := k.tlb.eraseIdx i })
  | .writeBack line => .next (s.writeBack line)
  | .hostStore addr bs => .next (s.homeWrite (Place.host addr).key bs)
  | .hostPage page present => .next (s.setHostPage page present)
  | .portFlit core dir cycle data => .next (s.flitArrives ⟨core, dir, cycle, data⟩)
  | .sensor core temp droop => .next (s.updCore core fun k => { k with temp := temp, droop := droop })
  | .fabricEntry e =>
    .next { s with fabric := e :: s.fabric.filter fun x => !(x.part == e.part && x.page == e.page) }
  | .formSpan gs chips far lead => .next (s.joinSpan gs chips far lead)
  | .span id m => .next (s.spanTold id m)
  | .hostRegion a name addr size mask => .next (s.setHostRegion a name addr size mask)
  | .withdraw chip txn => .next (s.withdrawAt chip txn)
  | .ringHome q package => .next (s.updKq q fun k => { k with inPackage := package })
  | .softError corrected => .next (s.softError corrected)
  | .hostRefuse => .next { s with hostRefuse := true }
  | .tableFault on => .next { s with tableFault := on }

/-! ### Messages of this chip to itself (R196, R364) -/

/-- The chip that a message goes to; a flit goes to a link. -/
def NetMsg.dest : NetMsg → Option ChipIx
  | .step c _ | .walkReply c _ _ | .openReply c _ _ | .accessReply c _ _ | .fabric c _ _ _ _ _ | .fabricReply c _ _
  | .keyed c _ _ _ _ _ _ | .keyedReply c _ _ _ | .withdraw c _ | .span c _ _ => some c
  | .flit .. => none

/-- An access reply goes to what its transaction is for (R197). -/
def State.replyArrives (s : State) (txn : Nat) (r : AccessReply) : Out :=
  match (s.txnOf txn).map Txn.kind with
  | some .load | some .byte => execNreadReply txn r s
  | some .store => execNwriteReply txn r s
  | some (.push _) | some (.pop ..) => execNqopReply txn r s
  | some (.close _) => execNcloseReply txn r s
  | _ => .next s

/-- A message arrives. -/
def State.deliver (s : State) (m : NetMsg) : Out :=
  let chip := s.pkg.chip
  match m with
  | .step _ i => exec i s
  | .walkReply _ txn r => execNwalkReply txn r s
  | .openReply _ txn r => execNopenReply txn r s
  | .accessReply _ txn r => s.replyArrives txn r
  | .fabric _ txn ctx page off op =>
    execFabricAccess chip txn (((s.getCtx ctx).map fun (c : Ctx) => s.asidPart c.asid).getD s.pkg.part) page off op s
  | .fabricReply _ txn data => .next (s.fabricAnswer txn data)
  | .keyed _ job key off op _ _ => execKeyedAccess chip job.toNat key off op s
  | .withdraw _ txn => .next (s.withdrawAt chip txn)
  | .span _ id m => .next (s.spanTold id m)
  | .keyedReply .. | .flit .. => .next s

/-! ### What runs beside the cores (log entry 27) -/

/-- Carry on with what a step leaves, where it leaves a state. -/
def State.doing (s : State) (f : State → Out) : State :=
  match f s with
  | .next t => t
  | .fault _ | .refused _ => s

/-- Do something for each item of a list. -/
def State.forEach {α : Type} (xs : List α) (f : α → State → State) (s : State) : State := xs.foldl (fun s x => f x s) s

/-- Every core of the package. -/
def allCores : List CoreIx := (List.range 512).map (.ofNat 9 ·)
/-- Every cluster of the package. -/
def allClusters : List ClusterIx := (List.range 64).map (.ofNat 6 ·)

/-- A waiting form goes on; a trap waits for the units before it (R80, R381). -/
def State.again (f : State → Out) (s : State) : State := s.doing fun t => t.precisely (f t)

/-- A form that waits to be accepted, for the pool, or for its string goes on (R173, R200, R282, R301, R400). -/
def State.acceptAgain (sl : SlotId) (s : State) : State :=
  s.withSlot sl fun s =>
    match s.cx.wait with
    | .enq la d a b kept => State.again (fun s => s.eng a fun e => s.enqueue e la d a b kept) s
    | .cpyGo _ => State.again (execTransferAccept sl) s
    | .record d a => if (s.core sl.core).inbox.isEmpty then s else s.waitev d a
    | .spawn d a b => State.again (execSpawn d a b) s.unblock
    | .string i got none => State.again (exec i) (if got.isEmpty then s.updCx fun c => { c with wait := .none } else s)
    | _ => s

/-- The slots of the bound contexts, in ascending order of core and slot: in one cycle, the lower core's form is accepted first
(R23, R282). -/
def State.slotsInOrder (s : State) : List SlotId :=
  ((s.allCtxs.filter fun c => c.res == .bound && c.wait != .none).foldl
    (fun ns c => insertSorted (c.core.toNat * 8 + c.slot.toNat) ns) []).map fun n => ⟨.ofNat 9 (n / 8), .ofNat 3 n⟩

/-- What goes on for one context: its stores perform, what it waits for ends the wait, requests upon it are served, its
limits expire. -/
def State.tendCtx (id : BitVec 32) (s : State) : State :=
  match s.getCtx id with
  | none => s
  | some c =>
    let sl : SlotId := ⟨c.core, c.slot⟩
    let s := (s.drain id).doing (execSaveComplete id)
    let s := (s.tryStop id).leaveEnd id
    if c.res != .bound then s
    else
      let steps : List (SlotId → State → Out) := [execFenceComplete, execBarwaitRelease, execJwaitReturn,
        execQueueWaitComplete, execHpopReturn, execEvwaitConsume, execSleepTimeout, execQuantumExpiry, execForcedSave]
      (s.forEach steps fun f s => s.withSlot sl (State.again (f sl))).doing (execWatchdog sl)

/-- What an engine does: ended jobs complete, the job at the head runs, triggered operations fire, completion queues take
entries (R291, R292, R369, R372). -/
def State.tendEngine (e : EngineIx) (s : State) : State :=
  let ended := ((s.engine e).jobs.filter fun j => j.stage == .ended).map (·.id)
  let s := s.forEach ended fun id s => s.doing (execJobCompletion e id)
  let cmds : List (EngineIx → State → Out) := [execNop, execMma, execMmas, execMzero, execMlda, execMsta, execMcvt, execRed,
    execAdjb, execWrel, execCreplay, execCabort, execReshard, execRsresume, execRsquery, (fun e => execBcopy e []),
    execBfill, execTcount, execTrig]
  let s := s.forEach cmds fun f s => s.doing (f e)
  let trigs := ((s.engine e).jobs.filter fun j => j.inner.isSome).map (·.id)
  (s.forEach trigs fun id s => s.doing (execTrigFire e id)).flushCq e

/-- What the copy unit of a cluster does: each transfer moves a few sectors (R284). -/
def State.tendCopies (cl : ClusterIx) (s : State) : State :=
  s.forEach (s.engine (copyEngine cl)).xfers fun x s =>
    s.forEach (x.todo.take 16) fun k s => s.doing (execCopySector cl x.id k)

/-- The engines whose state is not that of reset. -/
def State.usedEngines (s : State) : List EngineIx := s.engines.map fun x => .ofNat 8 x.1

/-- What every engine does. -/
def State.tendEngines (s : State) : State :=
  let s := s.forEach s.usedEngines State.tendEngine
  let busy := allClusters.filter fun cl => !(s.engine (copyEngine cl)).xfers.isEmpty
  let s := s.forEach busy State.tendCopies
  let swaps := allClusters.filter fun cl => !(s.engine (cl.setWidth 8)).swaps.isEmpty
  let s := s.forEach swaps fun cl s => s.doing (execAswapExchange cl)
  match s.plan with
  | some p => if s.rowRemote p then s else s.doing (execBoxRowComplete (.moved []))
  | none => s

/-- Queues serve what peers' operations wait for (R440). -/
def State.tendQueues (s : State) : State :=
  let mine := s.spaces.flatMap fun (a, sp) => (sp.nodes.filter fun n => n.live && match n.body with
    | .queue q => q.waiters.any fun w => match w with
      | .peer .. => true
      | .ctx .. | .store .. => false
    | _ => false).map fun n => (a, n.ix)
  (s.forEach mine fun x s => s.servePeer (.ofNat 9 x.1) x.2).drainRemotes

/-- Trap records and bind records go on, and handlers are interrupted (R153, R385, R386). -/
def State.tendCores (s : State) : State :=
  let used := s.cores.map fun x => (.ofNat 9 x.1 : CoreIx)
  s.forEach used fun core s =>
    let s := s.doing (execTrapRecordDelivery core)
    let s := s.doing (execHandlerInterrupt core)
    let waiting := ((List.range 8).map fun i => (⟨core, .ofNat 3 i⟩ : SlotId)).filter fun sl => (s.slotRec sl).valid
    s.forEach waiting fun sl s => s.carryOut sl

/-- Barriers of gangs and spans whose last member has come release (R297, R298). -/
def State.tendRounds (s : State) : State :=
  let s := s.forEach (s.gangs.map (·.id)) fun id s => s.doing (execGangbarRelease id)
  s.forEach (s.spans.map (·.id)) fun id s => s.doing (execSpanbarRelease id)

/-- What Barista does on a cluster (R142, R155, R156, R428, R449). -/
def State.tendBarista (cl : ClusterIx) (s : State) : State :=
  let s := s.forEach (s.cluster cl).barista fun _ s => s.doing (execBaristaTrapRecord cl)
  let mine := s.gangs.filter fun g => g.cluster == some cl
  if mine.isEmpty then s
  else
    let s := s.forEach mine fun g s => if s.gangSplit g then s.preemptGang g else s
    let s := s.forEach mine fun g s => if s.agingDue g then s.doing (execAgingIntervalExpiry g.id) else s
    ((s.baristaBind cl).baristaRejoin cl).baristaPreempt cl

/-- The items of a phase whose cycles have come, in order (R354). -/
def phaseItems : Nat → State → State
  | 0, s => s
  | fuel + 1, s =>
    match s.phase.bind fun p => p.items.head? with
    | none => s
    | some x =>
      let t := s.xItem x.kind
      if t.phase == s.phase then s else phaseItems fuel t

/-- The exchange goes on (R354, R357, R359). -/
def State.tendExchange (s : State) : State :=
  let n := (s.phase.map fun p => p.items.length).getD 0
  ((phaseItems n s).doing execXgoReturn).doing execExchangeGrant

/-- Name invalidations are acknowledged, revocations and TLB invalidations complete, and what no peer has answered in time
ends (R192, R197, R418). -/
def State.tendNames (s : State) : State :=
  let s := s.forEach s.revocations fun r s =>
    (s.forEach r.waiting fun cl s => s.doing (execNameInvalidation r.label cl)).doing (execRevocationComplete r.label)
  let s := s.doing execTlbInvComplete
  s.forEach s.txns fun t s => s.doing (execLinkRecoveryExpiry t.label)

/-- Fault records that have found room are written (R421). -/
def State.tendFaults (s : State) : State :=
  s.forEach ((s.faults.filter fun r => !r.written).map (·.asid)).eraseDups fun a s => s.flushFault a

/-- Launches go on, and gangs that are not placed are placed (R140, R143). -/
def State.tendLaunches (s : State) : State :=
  let s := s.forEach (s.launches.map (·.id)) fun id s => advanceLaunch id launchFuel s
  let unplaced := (s.gangs.filter fun g => g.cluster.isNone).map (·.id)
  s.forEach unplaced fun id s => s.doing (execGangPlacement id s.nextPlace [])

/-- Kettle's threads go on; a LAUNCH waits for what its loader chooses, which the environment brings (R62, R445). -/
def State.tendKettle (s : State) : State :=
  let used := ((List.range 32).map fun q => (.ofNat 5 q : BitVec 5)).filter fun q => (s.kq q).en
  s.forEach used fun q s =>
    let steps : List (BitVec 5 → State → Out) :=
      [execWaitPacketSatisfied, execWaitPacket, execSignalPacket, execFencePacket, execNopPacket]
    s.forEach steps fun f s => s.doing (f q)

/-- Everything that runs beside the cores has its turn, in this order (DESIGN CHOICE, log entry 27). -/
def State.background (s : State) : State :=
  if !s.coresRun then s
  else
    let s := s.forEach (s.allCtxs.map (·.id)) State.tendCtx
    let s := s.forEach s.slotsInOrder State.acceptAgain
    let s := s.tendQueues.tendEngines.tendCores.tendRounds.tendExchange
    let s := s.tendNames.tendFaults.tendLaunches.tendKettle
    s.forEach allClusters State.tendBarista

/-! ### One step -/

/-- Time passes (log entry 2). -/
def State.tick (s : State) : State :=
  match s.pace with
  | [] => { s with cycle := s.cycle + 1 }
  | d :: rest => { s with cycle := s.cycle + d.setWidth 64, pace := rest }

/-- The first message that this chip has sent itself, and the outbox without it. -/
def takeOwn (chip : ChipIx) : List NetMsg → Option (NetMsg × List NetMsg)
  | [] => none
  | m :: ms =>
    if m.dest = some chip then some (m, ms)
    else (takeOwn chip ms).map fun x => (x.1, m :: x.2)

/-- What the package does of itself: a message to itself, what runs beside the cores (in every sixteenth such step, and
where no slot is ready), or the next ready slot's unit. -/
def State.onward (s : State) : Out :=
  match takeOwn s.pkg.chip s.net with
  | some (m, rest) => State.deliver { s with net := rest } m
  | none =>
    match s.nextSlot with
    | some sl => if s.quiet < 15 then State.turn { s with quiet := s.quiet + 1 } sl else .next { s.background with quiet := 0 }
    | none => .next { s.background with quiet := 0 }

/-- The next thing that happens: what a store to a package register brings about, else what the environment brings, else what
the package does of itself. -/
def State.proceed (s : State) : Out :=
  match s.pkgWrites, s.agenda with
  | i :: rest, _ => exec i { s with pkgWrites := rest }
  | [], x :: rest => State.runItem { s with agenda := rest } x
  | [], [] => s.onward

/-! ### Placing one instruction (log entry 25) -/

/-- The node that holds the placed words: the bottom of core 0's scratchpad (R224). -/
def fetchNode : Node := { ix := 0, body := .raw 0 0, extent := 4096 }
/-- The handle that the program counter rests on. -/
def fetchHandle : Handle := { ix := 0, node := some 0 }
/-- The PC capability of the placed words (R157). -/
def fetchCap : Cap :=
  { offset := 0, base := 0, limit := 4096, handle := 0, gen := 0, perm := permX, kind := 0, sealed_ := false }

/-- A context bound in slot 0 of core 0, its quads present, about to fetch the placed words. -/
def fetchCtx : Ctx :=
  { id := 1, res := .bound, pcCap := fetchCap.toBits, qvalid := 0xFFFF, qcached := 0xFFFF, count := 1 }

/-- The program that a launch would have brought is one instruction, whose words stand where the next step fetches: a
context is bound for it, with what its fetch needs, and has the next turn. -/
def State.placeWords (s : State) (ws : List Nat) : State :=
  let sl : SlotId := ⟨0, 0⟩
  let s := s.homeWrite (Place.spad 0 0).key (wordBytes ws ++ List.replicate (12 - 4 * ws.length) 0)
  let s := s.updSpace 0 fun sp =>
    { nodes := fetchNode :: sp.nodes.filter fun n => n.ix != 0
      handles := fetchHandle :: sp.handles.filter fun h => h.ix != 0 }
  let s := s.updCore 0 fun k =>
    { k with lines := ((List.range 16).map fun q => ((1 : BitVec 32), (.ofNat 4 q : BitVec 4)))
                        ++ k.lines.filter fun l => l.1 != 1 }
  let s : State := { s with
    ctxs := s.allCtxs.filter fun c => c.id != 1
    cx := fetchCtx, cur := sl, booted := true, recovery := false, agenda := .turn sl :: s.agenda }
  s.setBound sl (some 1)

end Sys2Proof.Machine
end

