-- ==== Sys2Proof/Machine/Step.lean ====
section
/-!
DEFINITION. Sys2Proof/Machine/Step.lean: the step of the machine, and the placing of one instruction where the next step
fetches (log entry 25).
-/
namespace Sys2Proof.Machine

/-- One step of the package: time passes, then the next thing happens. -/
def step (s : State) : Host.Outcome State Fault Refusal := s.tick.proceed

/-- The state with an instruction's words placed where the next step fetches. -/
def State.withFetchWord (s : State) (nbits w : Nat) : State :=
  s.placeWords (if nbits ≤ 32 then [w % 2 ^ 32] else [w % 2 ^ 32, w / 2 ^ 32 % 2 ^ 32])

end Sys2Proof.Machine
end

