-- ==== Sys2Proof/Safety.lean ====
section
/-!
DEFINITION. Sys2Proof/Safety.lean: what a safe step and a safe run are, in the terms the statements use: the machine
answers a next state (a trap is one), and memory keeps its canonical form; and what the statements about single
instructions say: which register is written, and that nothing else changes.
-/
namespace Sys2Proof.Machine

/-- An outcome that is a next state. -/
def Completes (o : Out) : Prop := ∃ t, o = .next t

/-- One step from `s` neither faults nor is refused. -/
def StepsOn (s : State) : Prop := Completes (step s)

/-- `n` steps from `s` neither fault nor are refused. -/
def RunsOn : Nat → State → Prop
  | 0, _ => True
  | n + 1, s => ∃ t, step s = .next t ∧ RunsOn n t

/-- Memory is in its canonical form, and the set tags are listed once each, rising. -/
def State.MemoryOk (s : State) : Prop := s.mem.wf = true ∧ s.tags.Pairwise (· < ·)

/-- The machine has reached `t` from `s`, and only the current context changed: of it, only what `k` says and its
program counter. -/
def OnlyPc (s t : State) (k : Ctx) (pc : Word) : Prop :=
  t.cx.pc = pc ∧ t.cx.pcCap >>> 64 = s.cx.pcCap >>> 64 ∧ t = { s with cx := { k with pcCap := t.cx.pcCap } }

/-- Register `d` of the current context holds `v` (a write to c0 is discarded, R113), every other register is as
before, and the program counter is `pc`; of the rest of the machine only the current context changed, and of it only
what `k` says and the cache state of the written quad. -/
def RegWritten (s t : State) (k : Ctx) (d : Reg) (v : RegVal) (pc : Word) : Prop :=
  t.reg d = (if d = 0 then {} else v) ∧ (∀ r, r ≠ d → t.reg r = s.reg r) ∧
  t.cx.pc = pc ∧ t.cx.pcCap >>> 64 = s.cx.pcCap >>> 64 ∧
  t = { s with cx := { k with regs := t.cx.regs, qdirty := t.cx.qdirty, pcCap := t.cx.pcCap } }

/-- The instruction answers the next state in which it has written `v` to `d` and nothing else, and the next unit is the
one that follows. -/
def Writes (s : State) (i : Instr) (d : Reg) (v : RegVal) : Prop :=
  ∃ t, exec i s = .next t ∧ RegWritten s t s.cx d v (s.here + 4)

/-- The same for a scalar result: bits [255:64] and the tag are cleared (R113). -/
def WritesX (s : State) (i : Instr) (d : Reg) (w : Word) : Prop := Writes s i d ⟨w.setWidth 256, false⟩

/-- The same for 256 bits of plain data. -/
def WritesBits (s : State) (i : Instr) (d : Reg) (v : W256) : Prop := Writes s i d ⟨v, false⟩

/-- The instruction answers the next state that taking an exception gives (R381 to R383). -/
def Traps (s : State) (i : Instr) (cause : Cause) (val : Word) : Prop := exec i s = .next (s.takeTrap cause val)

/-- The context after a NAME form that is done (R79, R199): name.stat holds `w`, and the form's window is open where its
lookahead count is not 0. -/
def nameCtx (s : State) (i : Instr) (la : BitVec 4) (w : Word) : Ctx :=
  { s.cx with
    nameStat := w
    pend := if la = 0 then s.cx.pend
      else s.cx.pend ++ [⟨s.here, la.toNat, (instrRegs i).2, s.sources i, none, .done⟩] }

/-- A NAME form is done with status `w`, and `v` in its destination. -/
def NameDone (s t : State) (i : Instr) (la : BitVec 4) (w : Word) (d : Reg) (v : RegVal) : Prop :=
  RegWritten s t (nameCtx s i la w) d v (s.here + 4)

/-- `t` holds `v` in register `d`, every other register as `s` does, the program counter past the unit, and no memory
byte or tag has changed. -/
def Result (s t : State) (d : Reg) (v : RegVal) : Prop :=
  t.reg d = (if d = 0 then {} else v) ∧ (∀ r, r ≠ d → t.reg r = s.reg r) ∧ t.cx.pc = s.here + 4 ∧
  t.mem = s.mem ∧ t.tags = s.tags

/-- The current context of `t` waits: no register, no memory byte and not the program counter has changed. -/
def Waits (s t : State) (w : Wait) : Prop :=
  t.cx.wait = w ∧ t.cx.pcCap = s.cx.pcCap ∧ (∀ r, t.reg r = s.reg r) ∧ t.mem = s.mem

/-- Job `j` is the next of an engine of this kind and may start: nothing else of its kind runs, and it waits for no
barrier (R291, R315). -/
def Runs (s : State) (e : EngineIx) (kind : EngineKind) (j : Job) : Prop :=
  (s.engine e).head = some j ∧ engineKind e = kind ∧ (kind.serial j.cmd && (s.engine e).oneBusy) = false ∧
  s.jobWait e j = .go

/-- The work of a job has ended with this code, cause and values (R292, R293). -/
def JobEnded (s : State) (e : EngineIx) (id : BitVec 16) (code cause : BitVec 8) (v0 v1 : BitVec 32) : Prop :=
  ∃ j, s.jobOf e id = some j ∧ j.stage = .ended ∧ j.code = code ∧ j.cause = cause ∧ j.value0 = v0 ∧ j.value1 = v1

/-- `w` is `v` with bit `n` set to `b`. -/
def BitChanged (v w : W256) (n : Nat) (b : Bool) : Prop :=
  ∀ i, i < 256 → w.getLsbD i = if i = n then b else v.getLsbD i

/-- Lane `i` of register `r` (R256). -/
def State.lane (s : State) (t : LaneType) (r : Reg) (i : Nat) : Nat := laneOf (s.bits r) t.width i

/-- A lane-wise form answers the next state in which each enabled lane of `d` holds what `g` gives, the others keep
c[d], the tag is clear, the events of the enabled lanes are counted, and nothing else changes but the program counter
(R257, R258). -/
def LaneForm (s : State) (i : Instr) (ty : LaneType) (mask : BitVec 3) (d : Reg) (g : Nat → Nat × Ev) : Prop :=
  ∃ t w, exec i s = .next t ∧
    RegWritten s t (s.countLanes ((List.range ty.lanes).map fun k => if s.laneOn mask k then (g k).2 else 0)).cx d
      ⟨w, false⟩ (s.here + 4) ∧
    ∀ k, k < ty.lanes → laneOf w ty.width k = if s.laneOn mask k then (g k).1 % 2 ^ ty.width else s.lane ty d k

/-- A form of the divide unit does the same to every lane, and opens its window where its lookahead count is not 0
(R79, R262). -/
def DivideForm (s : State) (i : Instr) (la : BitVec 4) (ty : LaneType) (d : Reg) (g : Nat → Nat × Ev) : Prop :=
  ∃ t w, exec i s = .next t ∧
    RegWritten s t (nameCtx (s.countLanes ((List.range ty.lanes).map fun k => (g k).2)) i la s.cx.nameStat) d
      ⟨w, false⟩ (s.here + 4) ∧
    ∀ k, k < ty.lanes → laneOf w ty.width k = (g k).1 % 2 ^ ty.width

/-- A form that writes whole bits to `d` and counts these events. -/
def CountedForm (s : State) (i : Instr) (d : Reg) (w : W256) (evs : List Ev) : Prop :=
  ∃ t, exec i s = .next t ∧ RegWritten s t (s.countLanes evs).cx d ⟨w, false⟩ (s.here + 4)

/-- A floating operation of two lanes: subnormal operands are read as zero under DAZ, the result is rounded once under
RM and flushed under FTZ, and the events add up (R91, R92, R258). -/
def State.floatOp (s : State) (f : Fmt) (op : Num → Num → Num × Ev) (x y : Nat) : Nat × Ev :=
  let p := dazOperand s.daz f x
  let q := dazOperand s.daz f y
  let r := op (f.decode p.1) (f.decode q.1)
  let b := f.round s.rm false r.1
  let z := ftzResult s.ftz f b.1
  (z.1, p.2 ||| q.2 ||| (r.2 ||| b.2 ||| z.2))

end Sys2Proof.Machine
end

