-- ==== Sys2Proof/Certificates/Slice0/Obligations.lean ====
section
/-!
DEFINITION. Sys2Proof/Certificates/Slice0/Obligations.lean: the statements for the provers. Each says in its docstring
which rule of the manual it formalises; where one rests on a choice of the model, the docstring names the log entry.
-/
open Sys2Proof Sys2Proof.Machine

/-- R125: every INT form writes the result of the table and changes nothing else. -/
def Obligations.IntResults : Prop := ∀ (s : State) (d a b : Reg),
  let x := s.x a
  let y := s.x b
  let n := (y.extractLsb' 0 6).toNat
  let k := (y.extractLsb' 0 8).toNat
  WritesX s (.add d a b) d (x + y) ∧ WritesX s (.sub d a b) d (x - y) ∧
  WritesX s (.and_ d a b) d (x &&& y) ∧ WritesX s (.or_ d a b) d (x ||| y) ∧
  WritesX s (.xor d a b) d (x ^^^ y) ∧ WritesX s (.andn d a b) d (x &&& ~~~y) ∧
  WritesX s (.sll d a b) d (x <<< n) ∧ WritesX s (.srl d a b) d (x >>> n) ∧
  WritesX s (.sra d a b) d (x.sshiftRight n) ∧
  WritesX s (.rol d a b) d (x.rotateLeft n) ∧ WritesX s (.ror d a b) d (x.rotateRight n) ∧
  WritesX s (.min d a b) d (if x.toInt ≤ y.toInt then x else y) ∧
  WritesX s (.max d a b) d (if x.toInt ≤ y.toInt then y else x) ∧
  WritesX s (.minu d a b) d (if x.toNat ≤ y.toNat then x else y) ∧
  WritesX s (.maxu d a b) d (if x.toNat ≤ y.toNat then y else x) ∧
  WritesX s (.addw d a b) d ((x.setWidth 32 + y.setWidth 32).signExtend 64) ∧
  WritesX s (.subw d a b) d ((x.setWidth 32 - y.setWidth 32).signExtend 64) ∧
  WritesX s (.idx2 d a b) d ((x <<< 1) + y) ∧ WritesX s (.idx4 d a b) d ((x <<< 2) + y) ∧
  WritesX s (.idx8 d a b) d ((x <<< 3) + y) ∧ WritesX s (.idx32 d a b) d ((x <<< 5) + y) ∧
  (∃ m ≤ 64, WritesX s (.clead d a) d (.ofNat 64 m) ∧ (∀ i < m, x.getLsbD (63 - i) = false) ∧
    (m < 64 → x.getLsbD (63 - m) = true)) ∧
  (∃ m ≤ 64, WritesX s (.ctrail d a) d (.ofNat 64 m) ∧ (∀ i < m, x.getLsbD i = false) ∧
    (m < 64 → x.getLsbD m = true)) ∧
  WritesX s (.cones d a) d (.ofNat 64 (((List.range 64).filter fun i => x.getLsbD i).length)) ∧
  (∃ w, WritesX s (.byterev d a) d w ∧ ∀ i < 8, w.extractLsb' (8 * i) 8 = x.extractLsb' (8 * (7 - i)) 8) ∧
  (∃ w, WritesX s (.exts d a b) d w ∧ ∀ i < 64, w.getLsbD i = x.getLsbD (Nat.min i n)) ∧
  (∃ w, WritesX s (.extz d a b) d w ∧ ∀ i < 64, w.getLsbD i = (decide (i ≤ n) && x.getLsbD i)) ∧
  Writes s (.mov d a) d (s.reg a) ∧
  (∃ w, WritesBits s (.bset d a b) d w ∧ BitChanged (s.bits a) w k true) ∧
  (∃ w, WritesBits s (.bclr d a b) d w ∧ BitChanged (s.bits a) w k false) ∧
  (∃ w, WritesBits s (.binv d a b) d w ∧ BitChanged (s.bits a) w k (!(s.bits a).getLsbD k)) ∧
  WritesX s (.bext d a b) d (if (s.bits a).getLsbD k then 1 else 0)

/-- R70, R71, R126 to R128: the immediate forms write their scalar results and change nothing else. -/
def Obligations.ImmediateResults : Prop := ∀ (s : State) (d a : Reg) (h : BitVec 26) (i14 : BitVec 14)
    (i11 : BitVec 11) (i20 : BitVec 20),
  let x := s.x a
  WritesX s (.addi d a ⟨none, i14⟩) d (x + i14.signExtend 64) ∧
  WritesX s (.addi d a ⟨some h, i14⟩) d (x + (h ++ i14).signExtend 64) ∧
  WritesX s (.andi d a ⟨none, i11⟩) d (x &&& i11.signExtend 64) ∧
  WritesX s (.andi d a ⟨some h, i11⟩) d (x &&& (h ++ i11).signExtend 64) ∧
  WritesX s (.ori d a ⟨none, i11⟩) d (x ||| i11.signExtend 64) ∧
  WritesX s (.ori d a ⟨some h, i11⟩) d (x ||| (h ++ i11).signExtend 64) ∧
  WritesX s (.xori d a ⟨none, i11⟩) d (x ^^^ i11.signExtend 64) ∧
  WritesX s (.xori d a ⟨some h, i11⟩) d (x ^^^ (h ++ i11).signExtend 64) ∧
  WritesX s (.addwi d a ⟨none, i11⟩) d ((x.setWidth 32 + i11.signExtend 32).signExtend 64) ∧
  WritesX s (.addwi d a ⟨some h, i11⟩) d ((x.setWidth 32 + (h ++ i11).setWidth 32).signExtend 64) ∧
  WritesX s (.slli d a i11) d (x <<< i11.toNat) ∧ WritesX s (.srli d a i11) d (x >>> i11.toNat) ∧
  WritesX s (.srai d a i11) d (x.sshiftRight i11.toNat) ∧
  WritesX s (.rori d a i11) d (x.rotateRight i11.toNat) ∧
  WritesX s (.movh d i20) d (i20.signExtend 64 <<< 14) ∧
  WritesX s (.orsh d i20) d ((s.x d <<< 20) ||| i20.setWidth 64)

/-- R123, R129, R130: the forms that write one bit of a register. -/
def Obligations.BitResults : Prop := ∀ (s : State) (d a b : Reg) (bit : BitVec 8) (p : BitVec 5) (h : BitVec 26)
    (i6 : BitVec 6),
  let v := s.bits a
  let o := s.bits d
  let n := bit.toNat
  let holds (c : Cond) (x y : Word) : Bool := match c with
    | .eq => x == y | .ne => x != y
    | .lt => decide (x.toInt < y.toInt) | .ge => decide (y.toInt ≤ x.toInt)
    | .ltu => decide (x.toNat < y.toNat) | .geu => decide (y.toNat ≤ x.toNat)
    | .tst => (x &&& y) != 0 | .ntst => (x &&& y) == 0
  (∃ w, WritesBits s (.bseti d a bit) d w ∧ BitChanged v w n true) ∧
  (∃ w, WritesBits s (.bclri d a bit) d w ∧ BitChanged v w n false) ∧
  (∃ w, WritesBits s (.binvi d a bit) d w ∧ BitChanged v w n (!v.getLsbD n)) ∧
  WritesX s (.bexti d a bit) d (if v.getLsbD n then 1 else 0) ∧
  (∃ w, WritesBits s (.bdepi d a bit) d w ∧ BitChanged o w n (v.getLsbD 0)) ∧
  (∃ w, WritesBits s (.bndepi d a bit) d w ∧ BitChanged o w n (!v.getLsbD 0)) ∧
  (∀ c : Cond, ∃ w, WritesBits s (.cmp c d a b p) d w ∧ BitChanged o w p.toNat (holds c (s.x a) (s.x b))) ∧
  (∀ c : Cond, ∃ w, WritesBits s (.cmpi c d a p ⟨none, i6⟩) d w ∧
    BitChanged o w p.toNat (holds c (s.x a) (i6.signExtend 64))) ∧
  (∀ c : Cond, ∃ w, WritesBits s (.cmpi c d a p ⟨some h, i6⟩) d w ∧
    BitChanged o w p.toNat (holds c (s.x a) ((h ++ i6).signExtend 64)))

/-- R79, R131, R132: MULDIV writes its result at once, opens its window where la is not 0, and counts a zero divisor in
nec.7 (R108). -/
def Obligations.MulDivResults : Prop := ∀ (s : State) (la : BitVec 4) (d a b : Reg),
  let x := s.x a
  let y := s.x b
  let opened : Pending := { pc := s.here, left := la.toNat, dst := [d.toNat], src := s.cx.unit.guard ++ [a.toNat, b.toNat], wr := none,
                            kind := .done }
  let k (c : Ctx) : Ctx := if la = 0 then c else { c with pend := c.pend ++ [opened] }
  let zero : Ctx := if y = 0 then
      { s.cx with nec := s.cx.nec.set 7 (.ofNat 32 (Nat.min (s.cx.nec[7].toNat + 1) 0xFFFFFFFF)) (by decide), necFlags := s.cx.necFlags ||| 0x80 }
    else s.cx
  let gives (i : Instr) (c : Ctx) (w : Word) : Prop :=
    ∃ t, exec i s = .next t ∧ RegWritten s t (k c) d ⟨w.setWidth 256, false⟩ (s.here + 4)
  gives (.mul la d a b) s.cx (x * y) ∧
  gives (.mulh la d a b) s.cx ((x.signExtend 128 * y.signExtend 128).extractLsb' 64 64) ∧
  gives (.mulhu la d a b) s.cx ((x.setWidth 128 * y.setWidth 128).extractLsb' 64 64) ∧
  gives (.mulhsn la d a b) s.cx ((x.signExtend 128 * y.setWidth 128).extractLsb' 64 64) ∧
  gives (.mulw la d a b) s.cx ((x.setWidth 32 * y.setWidth 32).signExtend 64) ∧
  gives (.div la d a b) zero (if y = 0 then -1 else .ofInt 64 (x.toInt.tdiv y.toInt)) ∧
  gives (.divu la d a b) zero (if y = 0 then -1 else .ofNat 64 (x.toNat / y.toNat)) ∧
  gives (.rem la d a b) zero (if y = 0 then x else .ofInt 64 (x.toInt.tmod y.toInt)) ∧
  gives (.remu la d a b) zero (if y = 0 then x else .ofNat 64 (x.toNat % y.toNat))

/-- R159 to R164: targets count from the address A of the branch's own instruction word. -/
def Obligations.BranchResults : Prop := ∀ (s : State) (d a b : Reg) (bit : BitVec 8) (sense : Bool)
    (d11 : Imm 11) (d20 : Imm 20) (d26 : BitVec 26) (i14 : Imm 14),
  let x := s.x a
  let far (v : Word) : Word := s.here + 4 * v
  (∀ w (v : BitVec w) (h : BitVec 26), immValue (⟨none, v⟩ : Imm w) = v.signExtend 64 ∧
    immValue (⟨some h, v⟩ : Imm w) = (h ++ v).signExtend 64) ∧
  (∀ c : Cond, ∃ t, exec (.bcc c a b d11) s = .next t ∧
    OnlyPc s t s.cx (if condHolds c x (s.x b) then far (immValue d11) else s.here + 4)) ∧
  (∃ t, exec (.bb sense a bit d11) s = .next t ∧
    OnlyPc s t s.cx (if (s.bits a).getLsbD bit.toNat = sense then far (immValue d11) else s.here + 4)) ∧
  (∃ t, exec (.j d26) s = .next t ∧ OnlyPc s t s.cx (far (d26.signExtend 64))) ∧
  (∃ t, exec (.jal d26) s = .next t ∧
    RegWritten s t s.cx 1 ⟨(s.here + 4).setWidth 256, false⟩ (far (d26.signExtend 64))) ∧
  ((x + immValue i14).toNat % 4 = 0 → ∃ t, exec (.jalr d a i14) s = .next t ∧
    RegWritten s t s.cx d ⟨(s.here + 4).setWidth 256, false⟩ (x + immValue i14)) ∧
  ((x + immValue i14).toNat % 4 ≠ 0 → Traps s (.jalr d a i14) .align (x + immValue i14)) ∧
  (∃ t, exec (.dbnz a d20) s = .next t ∧
    RegWritten s t s.cx a ⟨(x - 1).setWidth 256, false⟩ (if x - 1 ≠ 0 then far (immValue d20) else s.here + 4))

/-- R134, R137: fields at the places of R115. -/
def Obligations.CapabilityReads : Prop := ∀ (s : State) (d a b : Reg),
  let v := s.bits a
  let u := s.bits b
  let inside : Bool := decide ((v.extractLsb' 64 64).toNat ≤ (v.extractLsb' 0 64).toNat ∧
    (v.extractLsb' 0 64).toNat < (v.extractLsb' 128 64).toNat)
  WritesX s (.cgetoff d a) d (v.extractLsb' 0 64) ∧ WritesX s (.cgetbase d a) d (v.extractLsb' 64 64) ∧
  WritesX s (.cgetlim d a) d (v.extractLsb' 128 64) ∧
  WritesX s (.cgetperm d a) d ((v.extractLsb' 240 12).setWidth 64) ∧
  WritesX s (.cgethnd d a) d ((v.extractLsb' 192 24).setWidth 64) ∧
  WritesX s (.cgetgen d a) d ((v.extractLsb' 216 24).setWidth 64) ∧
  WritesX s (.cgetkind d a) d ((v.extractLsb' 252 4).setWidth 64) ∧
  WritesBits s (.cplain d a) d v ∧
  (∃ w, WritesX s (.cprobe d a) d w ∧ w.getLsbD 0 = (s.reg a).tag ∧ w.getLsbD 1 = inside ∧
    w.getLsbD 2 = v.getLsbD 255 ∧ w.getLsbD 3 = v.getLsbD 215 ∧ ∀ i, 4 ≤ i → w.getLsbD i = false) ∧
  ((s.reg a).tag = true → (s.reg b).tag = true → v.extractLsb' 192 48 = u.extractLsb' 192 48 →
    WritesX s (.cdist d a b) d (v.extractLsb' 0 64 - u.extractLsb' 0 64)) ∧
  ((s.reg a).tag = false → Traps s (.cdist d a b) .capTag (a.setWidth 64)) ∧
  ((s.reg a).tag = true → (s.reg b).tag = false → Traps s (.cdist d a b) .capTag (b.setWidth 64)) ∧
  ((s.reg a).tag = true → (s.reg b).tag = true → v.extractLsb' 192 48 ≠ u.extractLsb' 192 48 →
    Traps s (.cdist d a b) .capPerm (b.setWidth 64))

/-- R135, R138: the views that the derivation forms write. -/
def Obligations.CapabilityDerivations : Prop := ∀ (s : State) (d a b : Reg) (i14 : Imm 14),
  let v := s.bits a
  let y := s.x b
  let off : Word := v.extractLsb' 0 64
  let base : Word := v.extractLsb' 64 64
  let limit : Word := v.extractLsb' 128 64
  /- the view `w` differs from `v` at most in the bits [lo + n - 1 : lo], which hold `p` -/
  let part (w : W256) (lo n : Nat) (p : BitVec n) : Prop :=
    w.extractLsb' lo n = p ∧ ∀ i, i < lo ∨ lo + n ≤ i → w.getLsbD i = v.getLsbD i
  let forms : List Instr := [.ccur d a b, .cstep d a b, .cnarrow d a b, .cdrop d a b, .cinci d a i14]
  ((s.reg a).tag = false → ∀ i ∈ forms, Traps s i .capTag (a.setWidth 64)) ∧
  ((s.reg a).tag = true → v.getLsbD 255 = true → ∀ i ∈ forms, Traps s i .capSealed (a.setWidth 64)) ∧
  ((s.reg a).tag = true → v.getLsbD 255 = false →
    (∃ w, Writes s (.ccur d a b) d ⟨w, true⟩ ∧ part w 0 64 y) ∧
    (∃ w, Writes s (.cstep d a b) d ⟨w, true⟩ ∧ part w 0 64 (off + y)) ∧
    (∃ w, Writes s (.cinci d a i14) d ⟨w, true⟩ ∧ part w 0 64 (off + immValue i14)) ∧
    (∃ w, Writes s (.cdrop d a b) d ⟨w, true⟩ ∧ part w 240 12 (v.extractLsb' 240 12 &&& ~~~(y.setWidth 12))) ∧
    (base.toNat ≤ off.toNat → off.toNat ≤ y.toNat → y.toNat ≤ limit.toNat →
      ∃ w, Writes s (.cnarrow d a b) d ⟨w, true⟩ ∧ part w 64 128 (y ++ off)) ∧
    (¬ (base.toNat ≤ off.toNat ∧ off.toNat ≤ y.toNat ∧ y.toNat ≤ limit.toNat) →
      Traps s (.cnarrow d a b) .capBounds (b.setWidth 64)))

/-- R136: covering and uncovering a view, and the order of its checks. -/
def Obligations.CoverResults : Prop := ∀ (s : State) (d a b : Reg),
  let k := s.bits a
  let u := s.bits b
  let av : Word := a.setWidth 64
  let bv : Word := b.setWidth 64
  let both (c : Cause) (v : Word) : Prop := Traps s (.ccover d a b) c v ∧ Traps s (.cuncover d a b) c v
  if (s.reg a).tag = false then both .capTag av
  else if (s.reg b).tag = false then both .capTag bv
  else if u.getLsbD 255 = true then both .capSealed bv
  else if u.getLsbD 246 = false then both .capPerm bv
  else if u.extractLsb' 192 48 ≠ k.extractLsb' 192 48 then both .capPerm bv
  else
    (∃ w, Writes s (.cuncover d a b) d ⟨w, true⟩ ∧ BitChanged k w 255 false) ∧
    (if k.getLsbD 255 = true then Traps s (.ccover d a b) .capSealed av
     else ∃ w, Writes s (.ccover d a b) d ⟨w, true⟩ ∧ BitChanged k w 255 true)

/-- R402. -/
def Obligations.TrapForms : Prop := ∀ (s : State) (imm : BitVec 12),
  Traps s (.trap imm) .syscall (imm.setWidth 64) ∧ Traps s .bkpt .bkpt 0

/-- R381 to R385, where nothing of earlier units is still outstanding. -/
def Obligations.ExceptionEntry : Prop := ∀ (s : State) (cause : Cause) (val : Word),
  s.cx.id ≠ 0 → s.cx.pend = [] → s.cx.storeQ = [] → s.cx.stash = [] → s.cx.qdirty = 0 →
  s.boundAt ⟨s.cx.core, s.cx.slot⟩ = some s.cx.id →
  let t := s.takeTrap cause val
  t.cx.trap.cause = cause.code ∧ t.cx.trap.pc = s.cx.unit.first ∧ t.cx.trap.val = val ∧
  t.cx.trap.vec = s.cx.trap.vec ∧ t.cx.trap.ctx = s.cx.trap.ctx ∧
  t.cx.run = .frozen ∧ t.cx.res ≠ .bound ∧ t.boundAt ⟨s.cx.core, s.cx.slot⟩ = none ∧
  (∀ r, t.reg r = s.reg r) ∧ t.mem = s.mem ∧ t.tags = s.tags ∧ t.ctxs = s.ctxs ∧
  t.cx.pc = s.cx.unit.first ∧
  (∃ r, (t.core s.cx.core).held = (s.core s.cx.core).held ++ [r] ∧ r.cause = cause.code ∧ r.val = val ∧
    r.pc = s.cx.unit.first ∧ r.ctxId = s.cx.id ∧ r.slot = s.cx.slot ∧ r.core = s.cx.core ∧ r.asid = s.cx.asid ∧
    r.ulen = .ofNat 2 s.cx.unit.words ∧ r.cycle = s.cycle ∧ r.seq = (s.core s.cx.core).seq) ∧
  (t.core s.cx.core).seq = (s.core s.cx.core).seq + 1

/-- R403, and PRIV (R401). -/
def Obligations.HandlerReturn : Prop := ∀ s : State,
  (s.cx.priv = true → ∃ t, exec .eret s = .next t ∧ OnlyPc s t { s.cx with ie := true } s.cx.trap.pc) ∧
  (s.cx.priv = false → ∃ v, Traps s .eret .priv v)

/-- R401, R407, R409. `u.wait = .xgo` is an instruction that FREEZE and KILL do not stop (R359). -/
def Obligations.ContextControl : Prop := ∀ (s : State) (d a b : Reg) (t : Ctx),
  (s.cx.priv = false → (∃ v, Traps s (.freeze d a) .priv v) ∧ (∃ v, Traps s (.thaw d a b) .priv v) ∧
    ∃ v, Traps s (.kill d a b) .priv v) ∧
  (s.cx.priv = true → s.handleCheck s.cx.asid (s.reg a) permW [3] = none → s.targetCtx a = some t →
    t.id ≠ s.cx.id →
    let status (u : State) (n : Nat) : Prop :=
      u.reg d = (if d = 0 then {} else ⟨.ofNat 256 n, false⟩) ∧ u.cx.pc = s.here + 4
    (t.run = .frozen →
      (∃ u c, exec (.thaw d a b) s = .next u ∧ status u 0 ∧ u.getCtx t.id = some c ∧ c.run = .ready ∧
        c.pc = s.x b ∧ c.trap = t.trap ∧ c.regs = t.regs) ∧
      ∃ u, exec (.freeze d a) s = .next u ∧ status u 1 ∧ u.getCtx t.id = some t) ∧
    (t.run ≠ .frozen → ∃ u, exec (.thaw d a b) s = .next u ∧ status u 1 ∧ u.getCtx t.id = some t) ∧
    (s.cx.id ≠ 0 → t.id ≠ 0 → (t.res ≠ .bound ∨ t.wait = .none) → t.storeQ = [] →
      (t.run ≠ .frozen → t.killReq = none → t.leaving = false → t.pend = [] → t.stash = [] → t.qdirty = 0 →
        ∃ u c, exec (.freeze d a) s = .next u ∧ status u 0 ∧ u.getCtx t.id = some c ∧ c.run = .frozen ∧
          c.res ≠ .bound ∧ c.regs = t.regs ∧ c.trap = t.trap ∧ u.mem = s.mem) ∧
      (t.killReq = none → t.pend = [] →
        ∃ u, exec (.kill d a b) s = .next u ∧ status u 0 ∧ u.getCtx t.id = none ∧
          ∀ g ∈ u.gangs, g.id = t.gang → g.killed = true ∧ t.id ∈ g.gone)) ∧
    (∀ x, t.run ≠ .frozen → t.res = .bound → t.wait = .xgo x →
      ∃ u c, exec (.freeze d a) s = .next u ∧ status u 0 ∧ u.getCtx t.id = some c ∧ c.freezeReq = true ∧
        c.wait = t.wait) ∧
    (t.killReq ≠ none → ∃ u, exec (.kill d a b) s = .next u ∧ status u 1 ∧ u.getCtx t.id = some t) ∧
    (∀ x, t.killReq = none → t.res = .bound → t.wait = .xgo x →
      ∃ u c, exec (.kill d a b) s = .next u ∧ status u 0 ∧ u.getCtx t.id = some c ∧ c.killReq = some (s.x b)))

/-- R22, R120, R121: the fields are at the places of R115. -/
def Obligations.CapabilityChecks : Prop := ∀ (s : State) (asid : Asid) (v : RegVal) (need : BitVec 12) (eff : Word)
    (n : Nat) (kinds : List (BitVec 3)),
  let right : Prop := v.val.extractLsb' 240 12 &&& need = need
  let within : Prop := (v.val.extractLsb' 64 64).toNat ≤ eff.toNat ∧ eff.toNat + n ≤ (v.val.extractLsb' 128 64).toNat
  let live : Prop := s.openNode asid (v.val.extractLsb' 192 24) (v.val.extractLsb' 216 24) ≠ none
  let kindOk : Prop := v.val.extractLsb' 252 3 ∈ kinds
  (s.capCheck asid v need eff n = none ↔ v.tag = true ∧ v.val.getLsbD 255 = false ∧ right ∧ within ∧ live) ∧
  (v.tag = false → s.capCheck asid v need eff n = some .capTag ∧ s.handleCheck asid v need kinds = some .capTag) ∧
  (v.tag = true → v.val.getLsbD 255 = true →
    s.capCheck asid v need eff n = some .capSealed ∧ s.handleCheck asid v need kinds = some .capSealed) ∧
  (v.tag = true → v.val.getLsbD 255 = false → ¬ right → s.capCheck asid v need eff n = some .capPerm) ∧
  (v.tag = true → v.val.getLsbD 255 = false → right → ¬ within → s.capCheck asid v need eff n = some .capBounds) ∧
  (v.tag = true → v.val.getLsbD 255 = false → right → within → ¬ live →
    s.capCheck asid v need eff n = some .capStale) ∧
  (s.handleCheck asid v need kinds = none ↔ v.tag = true ∧ v.val.getLsbD 255 = false ∧ right ∧ kindOk ∧ live) ∧
  (v.tag = true → v.val.getLsbD 255 = false → ¬ (right ∧ kindOk) → s.handleCheck asid v need kinds = some .capPerm) ∧
  (v.tag = true → v.val.getLsbD 255 = false → right → kindOk → ¬ live →
    s.handleCheck asid v need kinds = some .capStale)

/-- R241, R242, R244: the loads after what their order asks (R234), applied to the state that the checks and the
translation of the address leave; loads still pending of the same bytes have their values first where either is strong
(R230, R232). -/
def Obligations.LoadResults : Prop := ∀ (s : State) (ord : MemOrder) (size : MemSize) (sign : Bool) (la : BitVec 4)
    (d a b : Reg) (imm : Imm 6) (scope : Scope),
  let load (i : Instr) (sign strong : Bool) (eff : Word) (o : MemOrder) : Prop :=
    let try_ := s.accessAt s.cx (s.reg a) permR eff { acc := .read, n := size.bytes, size := size, strong := strong }
    (∀ c v, try_ = .error (c, v) → Traps s i c v) ∧
    ∀ t u, try_ = .ok (t, u) →
      let w0 := u.orderAccess o.order o.scope
      let w := if o.order = .rel ∨ o.order = .ar then w0.drain w0.cx.id else w0
      let window (k : PendKind) : Pending := ⟨w.here, la.toNat, (instrRegs i).2, w.sources i, some d, k⟩
      let opened (k : PendKind) : Ctx := { w.cx with pend := w.cx.pend ++ [window k] }
      match t with
      | .peer .. => True
      | .fabric chip page off va =>
        ∃ v, exec i s = .next v ∧ v.mem = w.mem ∧ (∀ r, v.reg r = w.reg r) ∧
          v.net = w.net ++ [.fabric chip w.label w.cx.id page off (.load size.bytes)] ∧
          v.cx.pend = (opened (.remote w.label size sign (.fabric chip page off va))).pend ∧ v.cx.pc = w.here + 4
      | t =>
        let w := w.resolveLoads t size.bytes strong
        let opened : Ctx := { w.cx with
          pend := w.cx.pend ++ [⟨w.here, la.toNat, (instrRegs i).2, w.sources i, some d, .load t size.bytes size sign strong⟩] }
        (la ≠ 0 → ∃ v, exec i s = .next v ∧ OnlyPc w v opened (w.here + 4)) ∧
        (la = 0 → w.memErr = false → ∃ v, exec i s = .next v ∧
          let bs := (w.readTarget w.cx t size.bytes).1
          let tag := (w.readTarget w.cx t size.bytes).2
          RegWritten w v w.cx d (loadValue bs size sign tag) (w.here + 4)) ∧
        (la = 0 → w.memErr = true → ∃ v, exec i s = .next v ∧ v.mem = w.mem ∧ (∀ r, v.reg r = w.reg r) ∧
          v.cx.late = w.cx.late ++ [⟨.memError, w.here, none⟩] ∧ v.cx.pc = w.here + 4)
  load (.ld ord size sign la d a imm) sign (ord.order != .rlx || ord.scope != .core)
    ((s.cap a).offset + immValue imm * BitVec.ofNat 64 size.bytes) ord ∧
  load (.ldx ord size sign la d a b) sign (ord.order != .rlx || ord.scope != .core)
    ((s.cap a).offset + s.x b * BitVec.ofNat 64 size.bytes) ord ∧
  load (.lda size la d a scope) false true (s.cap a).offset ⟨.acq, scope⟩

/-- R220, R243, R244: the stores, applied to the state that the checks and what the order asks leave; loads still pending
that overlap the store have their values first (R232). -/
def Obligations.StoreResults : Prop := ∀ (s : State) (ord : MemOrder) (size : MemSize) (src a b : Reg) (imm : Imm 10)
    (scope : Scope),
  let store (i : Instr) (strong : Bool) (eff : Word) (o : MemOrder) : Prop :=
    let try_ := s.accessAt s.cx (s.reg a) permW eff { acc := .write, n := size.bytes, size := size, strong := strong }
    (∀ c v, try_ = .error (c, v) → Traps s i c v) ∧
    ∀ t u, try_ = .ok (t, u) →
      let w0 := u.orderAccess o.order o.scope
      -- a store to a queue makes an entry: a push, and so a release (R195)
      let w1 := match w0.entryScope t with
        | some x => (w0.clampScope x).resolveAll.drainStash w0.cx.id
        | none => w0
      let released : Bool := (o.order == .rel || o.order == .ar) || (w0.entryScope t).isSome
      let queued (t : Target) : Prop :=
        let w := w1.resolveFor t size.bytes
        let entry : StoreEntry :=
          { target := t, n := size.bytes, data := (u.reg src).val, size := size, tag := (u.reg src).tag && t.holdsTag
            rel := released, handle := (u.cap a).handle, pc := w1.here }
        (o.order = .rlx ∨ o.order = .rel → ∃ v, exec i s = .next v ∧ v.mem = w.mem ∧ v.tags = w.tags ∧
          OnlyPc w v { w.cx with storeQ := w.cx.storeQ ++ [entry] } (w.here + 4)) ∧
        (o.order = .acq ∨ o.order = .ar → exec i s = .next (State.awaitStores
          (w.updCx fun c => { c with storeQ := c.storeQ ++ [entry] })))
      match t with
      | .stash key =>
        (o.order = .rlx → exec i s = .next
          ((w1.resolveFor t size.bytes).stashPut key (toBytes (u.reg src).val.toNat size.bytes)).advance) ∧
        (o.order ≠ .rlx → queued (.bytes key false))
      | _ => queued t
  store (.st ord size src a imm) (ord.order != .rlx || ord.scope != .core)
    ((s.cap a).offset + immValue imm * BitVec.ofNat 64 size.bytes) ord ∧
  store (.stx ord size src a b) (ord.order != .rlx || ord.scope != .core)
    ((s.cap a).offset + s.x b * BitVec.ofNat 64 size.bytes) ord ∧
  store (.stl size src a scope) true (s.cap a).offset ⟨.rel, scope⟩

/-- R220 over a raw window (R224): the store is still queued when the load reads. -/
def Obligations.StoreThenLoad : Prop := ∀ (s : State) (src d a : Reg) (n : Node) (core : CoreIx) (base : Nat),
  let k := s.cap a
  s.capCheck s.cx.asid (s.reg a) (permR ||| permW) k.offset 8 = none →
  s.openNode s.cx.asid k.handle k.gen = some n → n.body = .raw core base → k.offset.toNat % 8 = 0 → s.memErr = false →
  s.cx.pend = [] → s.cx.stash = [] →
  ∃ t v, exec (.st {} .b64 src a ⟨none, 0⟩) s = .next t ∧ exec (.ld {} .b64 false 0 d a ⟨none, 0⟩) t = .next v ∧
    v.reg d = (if d = 0 then {} else ⟨(s.x src).setWidth 256, false⟩) ∧ v.mem = s.mem

/-- R216, R219. The entry's bytes are the low bytes of its data (R2). -/
def Obligations.StorePerforms : Prop := ∀ (s : State) (sl : SlotId) (id : BitVec 32) (c : Ctx) (i : Nat) (e : StoreEntry)
    (key : Nat) (tags : Bool),
  s.slotOwner sl = some id → s.getCtx id = some c → c.storeQ[i]? = some e → e.marker = false → e.bar = none →
  e.target = .bytes key tags → 0 < e.n → id ≠ 0 → (e.size = .cap → e.n = 32 ∧ key % 32 = 0) →
  mayPerform c.storeQ i = true →
  ∃ t, exec (.storePerform sl i) s = .next t ∧
    (∀ x, key ≤ x → x < key + e.n → Memory.byte t.mem x = e.data.extractLsb' (8 * (x - key)) 8) ∧
    (∀ x, x < key ∨ key + e.n ≤ x → Memory.byte t.mem x = Memory.byte s.mem x) ∧
    (∀ x, key ≤ x → x < key + e.n → t.tagAt x = (e.size == .cap && e.tag && tags)) ∧
    (∀ x, x / 32 < key / 32 ∨ (key + e.n - 1) / 32 < x / 32 → t.tagAt x = s.tagAt x) ∧
    (t.getCtx id).map Ctx.storeQ = some (c.storeQ.eraseIdx i)

/-- R246 to R248. `m` is 2 to the width; the functions take the old word and the low word of c[b] as numbers. -/
def Obligations.AtomicResults : Prop := ∀ (s : State) (ord : AtomOrder) (la : BitVec 4) (d a b : Reg),
  let k := s.cap a
  let n := if ord.w32 then 4 else 8
  let w := 8 * n
  let m := 2 ^ w
  let q : Access := { acc := .write, n := n, size := if ord.w32 then .b32 else .b64, strong := true, atom := true }
  let low (y : W256) : Nat := y.toNat % m
  let atomic (i : Instr) (f : Nat → W256 → Option Nat) : Prop :=
    (∀ c, s.capCheck s.cx.asid (s.reg a) permA k.offset n = some c → Traps s i c k.offset) ∧
    (s.capCheck s.cx.asid (s.reg a) permA k.offset n = none → k.kind ≠ 0 → Traps s i .capPerm k.offset) ∧
    (∀ c v, s.capCheck s.cx.asid (s.reg a) permA k.offset n = none → k.kind = 0 →
      s.accessAt s.cx (s.reg a) permA k.offset q = .error (c, v) → Traps s i c v) ∧
    (∀ t u, s.capCheck s.cx.asid (s.reg a) permA k.offset n = none → k.kind = 0 →
      s.accessAt s.cx (s.reg a) permA k.offset q = .ok (t, u) → k.offset.toNat % n ≠ 0 → Traps s i .align k.offset) ∧
    (∀ key tags u, s.capCheck s.cx.asid (s.reg a) permA k.offset n = none → k.kind = 0 →
      s.accessAt s.cx (s.reg a) permA k.offset q = .ok (.bytes key tags, u) → key < 2 ^ 64 → k.offset.toNat % n = 0 →
      let v0 := (u.orderAccess ord.order ord.scope).resolveFor (.bytes key tags) n
      let v := v0.drain v0.cx.id
      let old := v.nat key n
      v.memErr = false → ∃ t, exec i s = .next t ∧
        t.reg d = (if d = 0 then {} else ⟨.ofNat 256 old, false⟩) ∧ (∀ r, r ≠ d → t.reg r = v.reg r) ∧
        (∀ new, f old (v.bits b) = some new → t.nat key n = new) ∧
        (f old (v.bits b) = none → t.mem = v.mem) ∧
        (∀ x, x < key ∨ key + n ≤ x → Memory.byte t.mem x = Memory.byte v.mem x) ∧
        t = { v with cx := t.cx, mem := t.mem, tags := t.tags, dirty := t.dirty } ∧ t.cx.pc = v.here + 4)
  let signed (x : Nat) : Int := if 2 * x < m then x else (x : Int) - m
  atomic (.aadd ord la d a b) (fun x y => some ((x + low y) % m)) ∧
  atomic (.aand ord la d a b) (fun x y => some (Nat.land x (low y))) ∧
  atomic (.aor ord la d a b) (fun x y => some (Nat.lor x (low y))) ∧
  atomic (.axor ord la d a b) (fun x y => some (Nat.xor x (low y))) ∧
  atomic (.amin ord la d a b) (fun x y => some (if signed x ≤ signed (low y) then x else low y)) ∧
  atomic (.amax ord la d a b) (fun x y => some (if signed x ≤ signed (low y) then low y else x)) ∧
  atomic (.aminu ord la d a b) (fun x y => some (Nat.min x (low y))) ∧
  atomic (.amaxu ord la d a b) (fun x y => some (Nat.max x (low y))) ∧
  atomic (.axchg ord la d a b) (fun _ y => some (low y)) ∧
  atomic (.acas ord la d a b) (fun x y => if x = low y then some (low (y >>> 64)) else none) ∧
  atomic (.aincs ord la d a b) (fun x y => some (Nat.min (x + low y) (m - 1))) ∧
  atomic (.afadd ord la d a b) (fun x y =>
    some (atomFadd (if ord.w32 then ⟨8, 23, 127, .ieee⟩ else ⟨11, 52, 1023, .ieee⟩) x (low y)).1)

/-- R249 to R251; a clamp is counted (R238). -/
def Obligations.FenceResults : Prop := ∀ (s : State) (scope : Scope) (a : Reg) (sl : SlotId) (id : BitVec 32) (c : Ctx),
  (let w := s.clampScope scope
   let u := w.drainStash w.cx.id
   let marker : StoreEntry :=
     { target := .bytes 0 false, n := 0, data := 0, size := .b8, marker := true, pc := u.here }
   (∃ t, exec (.fence scope .acq) s = .next t ∧ OnlyPc w t w.cx (w.here + 4)) ∧
   (∃ t, exec (.fence scope .rel) s = .next t ∧ OnlyPc u t
     (if u.cx.storeQ = [] then u.cx else { u.cx with storeQ := u.cx.storeQ ++ [marker] }) (u.here + 4)) ∧
   (let v := u.drain u.cx.id
    (v.cx.storeQ = [] → ∃ t, exec (.fence scope .full) s = .next t ∧ OnlyPc v t v.cx (v.here + 4)) ∧
    (v.cx.storeQ ≠ [] → exec (.fence scope .full) s = .next (v.block .fence)))) ∧
  ((s.reg a).tag = false → Traps s (.hfence a) .capTag (a.setWidth 64)) ∧
  ((s.reg a).tag = true → (s.bits a).getLsbD 215 = true →
    ∃ t, exec (.hfence a) s = .next t ∧ OnlyPc s t s.cx (s.here + 4)) ∧
  ((s.reg a).tag = true → (s.bits a).getLsbD 215 = false →
    let h := (s.bits a).extractLsb' 192 24
    let v := s.drain s.cx.id
    ((∀ e ∈ v.cx.storeQ, e.handle = h → e.marker = true) →
      ∃ t, exec (.hfence a) s = .next t ∧ OnlyPc v t v.cx (v.here + 4)) ∧
    ((∃ e ∈ v.cx.storeQ, e.handle = h ∧ e.marker = false) → exec (.hfence a) s = .next (v.block (.hfence h)))) ∧
  (id ≠ 0 → s.slotOwner sl = some id → s.boundAt sl = some id → s.getCtx id = some c → c.wait = .fence → c.late = [] →
    c.storeQ = [] → ∃ t, exec (.fenceComplete sl) s = .next t ∧
      t.getCtx id = some { c.setPc (c.unit.addr + 4) with wait := .none, run := .ready, retireCyc := s.cycle } ∧
      t.mem = s.mem)

/-- R252. -/
def Obligations.CacheResults : Prop := ∀ (s : State) (a : Reg),
  let at_ (need : BitVec 12) (eff : Word) (acc : Acc) (n : Nat) :=
    s.accessAt s.cx (s.reg a) need eff { acc := acc, n := n, size := .b256, free := true }
  let off := (s.cap a).offset
  let line := off &&& ~~~63#64
  let inv := s.accessAt s.cx (s.reg a) permW off { acc := .write, n := 1, size := .b8 }
  (∀ t u, at_ permR off .read 1 = .ok (t, u) → ∃ v, exec (.pref a) s = .next v ∧ OnlyPc u v u.cx (u.here + 4)) ∧
  (∀ b, at_ permR off .read 1 = .error b → ∃ v, exec (.pref a) s = .next v ∧ OnlyPc s v s.cx (s.here + 4)) ∧
  (∀ c v, at_ permR off .read 1 = .error (c, v) → Traps s (.clwb a) c v) ∧
  (∀ c v, inv = .error (c, v) → Traps s (.clinv a) c v) ∧
  (let check := s.capCheck s.cx.asid (s.reg a) (if (s.cap a).kind = 6 then permW ||| permP else permW) off 1
   (∀ c, check = some c → Traps s (.stashfl a) c off ∧ Traps s (.stashinv a) c off) ∧
   (∀ body, check = none → s.handleBase s.cx.asid (s.cap a) = some body → (∀ core base, body ≠ .stash core base) →
     Traps s (.stashfl a) .capPerm off ∧ Traps s (.stashinv a) .capPerm off)) ∧
  (∀ key tags u, at_ permR off .read 1 = .ok (.bytes key tags, u) → key < 2 ^ 39 →
    let w := u.drain u.cx.id
    ∃ v, exec (.clwb a) s = .next v ∧ (∀ x ∈ v.dirty, x.1 ≠ key / 64 * 64) ∧ v.mem = w.mem ∧
      OnlyPc { w with dirty := v.dirty } v w.cx (w.here + 4)) ∧
  (∀ key tags u, inv = .ok (.bytes key tags, u) → key < 2 ^ 39 →
    let w := u.drain u.cx.id
    ∃ v, exec (.clinv a) s = .next v ∧ (∀ x ∈ v.dirty, x.1 ≠ key / 64 * 64) ∧ v.mem = w.mem ∧
      OnlyPc { w with dirty := v.dirty } v w.cx (w.here + 4)) ∧
  (∀ c v, at_ permW line .write 64 = .error (c, v) → Traps s (.clzero a) c v) ∧
  (∀ key tags u, at_ permW line .write 64 = .ok (.bytes key tags, u) → key % 64 = 0 ∨ inSpad key = true →
    let w := u.resolveFor (.bytes key tags) 64
    let e : StoreEntry := { target := .bytes key tags, n := 64, data := 0, size := .b256, handle := (u.cap a).handle,
                            pc := u.here }
    ∃ v, exec (.clzero a) s = .next v ∧ v.mem = w.mem ∧
      OnlyPc w v { w.cx with storeQ := w.cx.storeQ ++ [e] } (w.here + 4)) ∧
  (∀ key tags u, at_ permW line .write 64 = .ok (.bytes key tags, u) → key % 64 ≠ 0 → inSpad key = false →
    Traps s (.clzero a) .align line) ∧
  (∀ key u, at_ permW off .write 1 = .ok (.stash key, u) →
    (let w := u.resolveFor (.stash (key / 32 * 32)) 32
     ∃ v, exec (.stashinv a) s = .next v ∧ v.mem = w.mem ∧
      OnlyPc w v { w.cx with stash := w.cx.stash.filter fun x => x.key != key / 32 * 32 } (w.here + 4)) ∧
    (∀ x, u.cx.stash.find? (fun x => x.key == key / 32 * 32) = some x → ∃ v, exec (.stashfl a) s = .next v ∧
      v.cx.stash = u.cx.stash.filter (fun x => x.key != key / 32 * 32) ∧
      v.bytes x.key 32 = overlay (u.bytes x.key 32) 0 x.bytes ∧
      ∀ y, y < x.key ∨ x.key + 32 ≤ y → Memory.byte v.mem y = Memory.byte u.mem y))

/-- R287, R288, R295, R296. A barrier: phase [3:0], poison [4], arrivals pending [39:16] and expected [63:40], sectors
[95:64], faulted [111:96]. -/
def Obligations.BarrierResults : Prop := ∀ (s : State) (d a b : Reg),
  let off := (s.cap a).offset
  /- the completion step on (phase, poison, pending, expected, sectors, faulted) -/
  let step (p : BitVec 4) (q : Bool) (n x : BitVec 24) (k : BitVec 32) (f : BitVec 16) : Bar :=
    if q = false ∧ n = 0 ∧ k = 0 then ⟨p + 1, q, x, x, k, 0⟩ else ⟨p, q, n, x, k, f⟩
  let update (w v : State) (key : Nat) (f : Bar → Bar) (out : Bar → Option W256) : Prop :=
    let o := w.barAt key
    v.barAt key = f o ∧ (∀ x, x < key ∨ key + 16 ≤ x → Memory.byte v.mem x = Memory.byte w.mem x) ∧
      (∀ r, (out o).isNone ∨ r ≠ d → v.reg r = w.reg r) ∧
      (∀ r, out o = some r → v.reg d = if d = 0 then {} else ⟨r, false⟩) ∧
      v = { w with cx := v.cx, mem := v.mem, tags := v.tags, dirty := v.dirty } ∧ v.cx.pc = w.here + 4
  /- a form that performs as STL does: at once where no store is queued, else behind the stores that are -/
  let stores (i : Instr) (op : BarOp) (f : Bar → Bar) : Prop :=
    (∀ c v, s.barTarget s.cx (s.reg a) .write = .error (c, v) → Traps s i c off) ∧
    ∀ key u, s.barTarget s.cx (s.reg a) .write = .ok (key, u) →
      let w := (u.clampScope (barScope key)).resolveAll.drainStash u.cx.id
      (∀ o, op.apply o = f o) ∧
      (w.cx.storeQ = [] → ∃ v, exec i s = .next v ∧ update w v key f fun _ => none) ∧
      (w.cx.storeQ ≠ [] →
        let q := w.resolveFor (.bytes key true) 16
        let e : StoreEntry := { target := .bytes key true, n := 16, data := 0, size := .b128, rel := true,
                                handle := (w.cap a).handle, pc := w.here, bar := some op }
        ∃ v, exec i s = .next v ∧ OnlyPc q v { q.cx with storeQ := q.cx.storeQ ++ [e] } (q.here + 4))
  let look (i : Instr) (out : BitVec 128 → W256) (released : BitVec 128 → Bool) : Prop :=
    (∀ c v, s.barTarget s.cx (s.reg a) .read = .error (c, v) → Traps s i c off) ∧
    ∀ key u, s.barTarget s.cx (s.reg a) .read = .ok (key, u) →
      let w := if released (u.barBytes key) then u.clampScope (barScope key) else u
      ∃ v, exec i s = .next v ∧ RegWritten w v w.cx d ⟨out (u.barBytes key), false⟩ (w.here + 4)
  let gone (x : BitVec 128) : Bool := x.extractLsb' 0 4 != (s.bits b).extractLsb' 0 4 || x.getLsbD 4
  let n24 : BitVec 24 := (s.bits b).extractLsb' 0 24
  ((∀ c v, s.barTarget s.cx (s.reg a) .write = .error (c, v) → Traps s (.bararv d a) c off) ∧
   ∀ key u, s.barTarget s.cx (s.reg a) .write = .ok (key, u) →
     let w := (u.clampScope (barScope key)).resolveFor (.bytes key true) 16
     ∃ v, exec (.bararv d a) s = .next v ∧ update w v key
       (fun o => if o.pending = 0 then o else step o.phase o.poison (o.pending - 1) o.expected o.sectors o.faulted)
       (fun o => some (.ofNat 256 (o.phase.toNat + if o.pending = 0 then 16 else 0)))) ∧
  stores (.barinit a b) (.init n24) (fun _ => ⟨0, false, n24, n24, 0, 0⟩) ∧
  stores (.barexp a b) (.expect ((s.bits b).extractLsb' 0 32))
    (fun o => step o.phase o.poison o.pending o.expected (o.sectors + (s.bits b).extractLsb' 0 32) o.faulted) ∧
  stores (.barpois a) .poison (fun o => { o with poison := true }) ∧
  look (.barrd d a) (fun x => x.setWidth 256) (fun _ => false) ∧
  look (.bartest d a b) (fun x => (BitVec.ofBool (gone x) ++ x).setWidth 256) gone ∧
  ((∀ c v, s.barTarget s.cx (s.reg a) .read = .error (c, v) → Traps s (.barwait d a b) c off) ∧
   ∀ key u, s.barTarget s.cx (s.reg a) .read = .ok (key, u) →
     (gone (u.barBytes key) = true → ∃ v, exec (.barwait d a b) s = .next v ∧
       v.reg d = (if d = 0 then {} else ⟨(u.barBytes key).setWidth 256, false⟩) ∧ v.cx.wait = .none ∧
       v.cx.run = .ready ∧ v.cx.pc = u.here + 4 ∧ v.mem = u.mem) ∧
     (gone (u.barBytes key) = false → ∃ v, exec (.barwait d a b) s = .next v ∧ v.cx.wait = .bar d a b ∧
       v.cx.run = .waiting ∧ v.cx.pcCap = u.cx.pcCap ∧ (∀ r, v.reg r = u.reg r) ∧ v.mem = u.mem)) ∧
  (∀ sl id c, id ≠ 0 → s.boundAt sl = some id → s.getCtx id = some c → c.wait = .bar d a b →
    let f := s.focus id ⟨c.core, c.slot⟩
    ∀ key u, f.barTarget f.cx (f.reg a) .read = .ok (key, u) →
      ((u.barBytes key).extractLsb' 0 4 != (f.bits b).extractLsb' 0 4 || (u.barBytes key).getLsbD 4) = true →
      ∃ v k, exec (.barwaitRelease sl) s = .next v ∧ v.getCtx id = some k ∧ k.wait = .none ∧ k.run = .ready ∧
        k.pc = c.unit.addr + 4 ∧ k.reg d = if d = 0 then {} else ⟨(u.barBytes key).setWidth 256, false⟩)

/-- R297, R298, R363. -/
def Obligations.GroupBarriers : Prop := ∀ (s : State),
  (∀ (d b : Reg) (g : Group), (∃ x, s.groupGangs g = x ∧ x ≠ []) →
    s.hasArrived g = false → (s.round g).owed = [] → s.cx.count ≠ 1 →
    let arrives (i : Instr) (w : Wait) (k : Option (List Nat)) (clear : Bool) : Prop :=
      ∃ t, exec i s = .next t ∧ t.cx.wait = w ∧ t.cx.run = .waiting ∧ t.cx.pcCap = s.cx.pcCap ∧
        (∀ r, t.reg r = s.reg r) ∧ t.mem = s.mem ∧
        t.cx.nec = (if clear then Vector.replicate 8 0 else s.cx.nec) ∧
        ((g = .gang s.cx.gang ∨ ∃ x ∈ s.spans, g = .span x.id) →
          (t.round g).arrived = (s.round g).arrived ++ [⟨s.cx.id, k⟩])
    (g = .gang s.cx.gang → arrives (.gangbar d) (.gang d) none false) ∧
    (g = s.cx.group → arrives (.spanbar d) (.span d) none false) ∧
    (g = s.cx.group → arrives (.sumcol d 0 b) (.sumcol d 0 ((s.bits b).getLsbD 0))
      (some (s.cx.nec.toList.map BitVec.toNat)) ((s.bits b).getLsbD 0))) ∧
  (∀ (i : Instr) (g : Group), (∃ x, i = .gangbarRelease x ∧ g = .gang x) ∨ (∃ x, i = .spanbarRelease x ∧ g = .span x) →
    (s.roundComplete g = false → exec i s = .next s) ∧
    (s.roundComplete g = true → ((s.round g).arrived.map (·.ctx)).Nodup → (s.roundResult g).arrived < 2 ^ 16 →
      (∀ x ∈ (s.round g).arrived, x.ctx ≠ 0 ∧
        ∃ c d, s.getCtx x.ctx = some c ∧ (c.wait = .gang d ∨ c.wait = .span d)) →
      ∃ t, exec i s = .next t ∧ t.mem = s.mem ∧
        (t.round g).arrived = [] ∧
        ∀ x ∈ (s.round g).arrived, ∀ c d, s.getCtx x.ctx = some c → (c.wait = .gang d ∨ c.wait = .span d) →
          ∃ k, t.getCtx x.ctx = some k ∧ k.wait = .none ∧ k.run = .ready ∧ k.pc = c.unit.addr + 4 ∧
            k.reg d = if d = 0 then {} else
              ⟨.ofNat 256 ((s.round g).arrived.length + (s.round g).farNow.length + if s.groupKilled g then 65536 else 0), false⟩))

/-- R190, R199 to R201. `State.resolve` is the loop over the components. -/
def Obligations.WalkResults : Prop := ∀ (s : State) (la : BitVec 4) (d a b : Reg),
  let i : Instr := .walk la d a b
  let asid := s.cx.asid
  let word (code comp kind : Nat) : Word := .ofNat 64 (code + comp * 2 ^ 8 + kind * 2 ^ 16)
  (∀ c v, a ≠ 0 → s.nameOperand a permR [7, 6] true = some (c, v) → Traps s i c v) ∧
  (∀ c v, (a ≠ 0 → s.nameOperand a permR [7, 6] true = none) → s.stringOperand b = some (c, v) → Traps s i c v) ∧
  ((a ≠ 0 → s.nameOperand a permR [7, 6] true = none) → s.stringOperand b = none →
    (∀ c v, s.string b = .error (c, v) → Traps s i c v) ∧
    (∀ chip page off va got u, s.string b = .ok (.far got (.fabric chip page off va), u) → u.cx.storeQ = [] →
      ∃ t n, exec i s = .next t ∧ t.net = u.net ++ [.fabric chip n u.cx.id page off (.load 1)] ∧
        Waits u t (.string i got (some n))) ∧
    ∀ p u, s.string b = .ok (.text p, u) →
      (∀ c v, u.tables a = some (c, v) → Traps s i c v) ∧
      (u.tables a = none →
      let start := if a = 0 then u.nodeAt asid u.cx.root else u.operandNode asid (u.cap a)
      let kind := (start.map fun n => n.body.kind.toNat).getD 0
      let fails (w : Word) : Prop := ∃ t, exec i s = .next t ∧ NameDone u t i la w d ⟨w.setWidth 256, false⟩
      match p with
      | none => fails (word 0x04 0xFF kind)
      | some path =>
        if absolute path = true ∧ a ≠ 0 then fails (word 0x03 0xFF kind)
        else
          match parsePath path with
          | .error (c, comp) => fails (word c.code.toNat comp.toNat kind)
          | .ok cs =>
            match start with
            | none => fails (word 0x06 0xFF 0)
            | some n =>
              let rooted : Bool := n.body.kind != 7 || (u.space asid).binds n.ix != 0
                || u.allCtxs.any fun c => c.asid == asid && c.root == n.ix
              if a ≠ 0 ∧ rooted = false then Traps s i .nameUnbound (a.setWidth 64)
              else
                match State.resolve u.cxCluster asid cs 0 n (if a = 0 then 0xFFF else (u.cap a).perm) u with
                | (.fail c comp k, w) =>
                  let v := statusWord c.code (.ofNat 8 comp) k false 0
                  ∃ t, exec i s = .next t ∧ NameDone w t i la v d ⟨v.setWidth 256, false⟩
                | (.node m mask, w) =>
                  ∃ t v, exec i s = .next t ∧ NameDone w t i la 0 d ⟨v, true⟩ ∧
                    Cap.ofBits v = ⟨asid.setWidth 64, 0, .ofNat 64 m.extent, 0x800000#24 ||| m.ix.setWidth 24, m.gen,
                      mask, m.body.kind, true⟩
                | (.peer chip rest used, w) =>
                  ∃ t, exec i s = .next t ∧
                    t.net = w.net ++ [.step chip (.nwalk w.pkg.chip w.label (w.asidPart asid) rest used)] ∧
                    t.cx.pend = w.cx.pend ++ [⟨w.here, la.toNat, (instrRegs i).2, w.sources i, some d, .name w.label⟩] ∧
                    (∀ r, t.reg r = w.reg r) ∧ t.mem = w.mem ∧ t.cx.pc = w.here + 4))

/-- R202, R208; the lowest free slot is R188's. -/
def Obligations.OpenResults : Prop := ∀ (s : State) (la : BitVec 4) (d a b : Reg),
  let asid := s.cx.asid
  let k := s.cap a
  let word (code form : Nat) : Word := .ofNat 64 (code + 0xFF * 2 ^ 8 + form * 2 ^ 20)
  let rights : BitVec 12 := k.perm &&& (s.bits b).extractLsb' 0 12
  let fails (i : Instr) (w : Word) : Prop := ∃ t, exec i s = .next t ∧ NameDone s t i la w d ⟨w.setWidth 256, false⟩
  let opens (i : Instr) (form : Nat) (n : Node) (off base limit : Word) (kind : BitVec 3) : Prop :=
    let h := (s.space asid).freeHandle
    (0x7FFFFF < h → fails i (word 0x07 form)) ∧
    (h ≤ 0x7FFFFF → ∃ t v g, exec i s = .next t ∧ t.reg d = (if d = 0 then {} else ⟨v, true⟩) ∧
      Cap.ofBits v = ⟨off, base, limit, .ofNat 24 h, g, rights, kind, false⟩ ∧
      ((s.nodeAt asid n.ix).isSome → (t.openNode asid (.ofNat 24 h) g).map (·.ix) = some n.ix) ∧
      t.cx.nameStat = 0 ∧ (∀ r, r ≠ d → t.reg r = s.reg r) ∧ t.mem = s.mem ∧ t.cx.pc = s.here + 4)
  (∀ c v, s.nameOperand a 0 [] true = some (c, v) → Traps s (.open_ la d a b) c v) ∧
  (∀ c v, s.nameOperand a 0 [] true = none → k.sealed_ = true → k.isWalkRef = true → s.tables a = some (c, v) →
    Traps s (.open_ la d a b) c v) ∧
  (s.nameOperand a 0 [] true = none → k.sealed_ = true → k.isWalkRef = true → s.tables a = none →
    (k.offset.setWidth 9 ≠ asid ∨ s.operandNode asid k = none → fails (.open_ la d a b) (word 0x06 1)) ∧
    ∀ n, k.offset.setWidth 9 = asid → s.operandNode asid k = some n → n.body.badFormat = false →
      n.body.remoteNode = none → opens (.open_ la d a b) 1 n 0 0 (.ofNat 64 n.extent) n.body.kind) ∧
  (∀ c v, s.nameOperand a permG [] false = some (c, v) → Traps s (.dup la d a b) c v) ∧
  (∀ c v, s.nameOperand a permG [] false = none → s.tables a = some (c, v) → Traps s (.dup la d a b) c v) ∧
  (s.nameOperand a permG [] false = none → s.tables a = none →
    (s.openNode asid k.handle k.gen = none → fails (.dup la d a b) (word 0x06 7)) ∧
    ∀ n, s.openNode asid k.handle k.gen = some n → n.body.remoteNode = none → k.sealed_ = false →
      opens (.dup la d a b) 7 n k.offset k.base k.limit k.kind)

/-- R192, R203, R206: the revocation of handles. -/
def Obligations.RevocationResults : Prop := ∀ (s : State) (la : BitVec 4) (d a : Reg) (cl : ClusterIx) (rv : Revocation),
  let asid := s.cx.asid
  let k := s.cap a
  let word (form : Nat) : Word := .ofNat 64 (0x06 + 0xFF * 2 ^ 8 + form * 2 ^ 20)
  let fails (i : Instr) (w : Word) : Prop := ∃ t, exec i s = .next t ∧ NameDone s t i la w d ⟨w.setWidth 256, false⟩
  let revoked (i : Instr) (hs : List (BitVec 24)) : Prop :=
    ∃ t r, exec i s = .next t ∧ r ∈ t.revocations ∧ r.handles = hs ∧ r.asid = asid ∧
      r.waiting = (List.range 64).map (.ofNat 6 ·) ∧ r.ctx = some s.cx.id ∧
      (∀ h ∈ hs, ∀ g, t.openNode asid h g = none) ∧ (∀ x, t.reg x = s.reg x) ∧ t.mem = s.mem ∧
      t.cx.pend = s.cx.pend ++ [⟨s.here, la.toNat, (instrRegs i).2, s.sources i, some d, .name r.label⟩] ∧
      t.cx.pc = s.here + 4
  (∀ c v, s.nameOperand a permC [] false = some (c, v) → Traps s (.close la d a) c v) ∧
  (∀ c v, s.nameOperand a (permC ||| permG) [] false = some (c, v) → Traps s (.revoke la d a) c v) ∧
  (∀ c v, s.nameOperand a permC [] false = none → s.tables a = some (c, v) → Traps s (.close la d a) c v) ∧
  (∀ c v, s.nameOperand a (permC ||| permG) [] false = none → s.tables a = some (c, v) → Traps s (.revoke la d a) c v) ∧
  (s.nameOperand a permC [] false = none → s.tables a = none →
    (s.handleAt asid k.handle k.gen = none → fails (.close la d a) (word 2)) ∧
    (∀ h, s.handleAt asid k.handle k.gen = some h → revoked (.close la d a) [k.handle])) ∧
  (s.nameOperand a (permC ||| permG) [] false = none → s.tables a = none →
    (s.handleAt asid k.handle k.gen = none → fails (.revoke la d a) (word 5)) ∧
    (∀ h ix, s.handleAt asid k.handle k.gen = some h → h.node = some ix →
      revoked (.revoke la d a) (((s.space asid).handles.filter fun x => x.node == some ix).map (·.ix)))) ∧
  (s.revocations.find? (fun x => x.label == rv.label) = some rv → cl ∈ rv.waiting →
    s.ctxsOf (some rv.asid) (some cl) = [] → ∃ t, exec (.nameInvalidation rv.label cl) s = .next t ∧
      t.revocations = s.revocations.map (fun x =>
        if x.label = rv.label then { x with waiting := x.waiting.filter fun y => y != cl } else x) ∧
      (∀ x ∈ (t.cluster cl).names, x.ofHandles rv.asid rv.handles = false) ∧ t.mem = s.mem ∧ t.cx = s.cx) ∧
  (∀ id c p x, s.revocations.find? (fun y => y.label == rv.label) = some rv → rv.waiting = [] → rv.closes = [] →
    rv.ctx = some id → rv.down = false → id ≠ 0 → s.getCtx id = some c → c.pend = [p] → p.kind = .name rv.label →
    p.wr = some x → ∃ t k, exec (.revocationComplete rv.label) s = .next t ∧ t.getCtx id = some k ∧ k.nameStat = 0 ∧
      k.reg x = {} ∧ (∀ y ∈ k.pend, y.kind = .done) ∧ t.mem = s.mem ∧
      ∀ y ∈ t.revocations, y.label ≠ rv.label)

/-- R193, R204, R205, R207, R209, R210. -/
def Obligations.DirectoryResults : Prop := ∀ (s : State) (la : BitVec 4) (d a b : Reg) (name : Name),
  let asid := s.cx.asid
  let kd := s.cap d
  let ka := s.cap a
  let kb := s.cap b
  let word (code form : Nat) : Word := .ofNat 64 (code + 0xFF * 2 ^ 8 + form * 2 ^ 20)
  let stat (u t : State) (w : Word) : Prop := t.cx.nameStat = w ∧ t.mem = u.mem ∧ t.cx.pc = u.here + 4
  (s.nameOperand d permM [7] false = none → s.stringOperand a = none → s.nameOperand b permG [] false = none →
    nameOk name = true → ∀ u dir es ix h, s.string a = .ok (.text (some name), u) → u.tables d = none →
    u.openNode asid kd.handle kd.gen = some dir → u.nodeAt asid dir.ix = some dir → dir.body = .dir es →
    u.handleAt asid kb.handle kb.gen = some h → h.node = some ix →
    ((∀ e ∈ es, e.name ≠ name) → ∃ t, exec (.bind la d a b) s = .next t ∧ stat u t 0 ∧
      (t.nodeAt asid dir.ix).map Node.body = some (.dir (es ++ [⟨name, ix, kb.perm⟩])) ∧
      ∀ r, t.reg r = u.reg r) ∧
    ((∃ e ∈ es, e.name = name) → ∃ t, exec (.bind la d a b) s = .next t ∧ stat u t (word 0x08 3) ∧
      t.spaces = u.spaces ∧ ∀ r, t.reg r = u.reg r)) ∧
  (s.nameOperand a permM [7] false = none → s.stringOperand b = none → nameOk name = true →
    ∀ u dir es, s.string b = .ok (.text (some name), u) → u.tables a = none → u.openNode asid ka.handle ka.gen = some dir →
    u.nodeAt asid dir.ix = some dir → dir.body = .dir es →
    ((∀ e ∈ es, e.name ≠ name) → ∃ t, exec (.unbind la d a b) s = .next t ∧
      NameDone u t (.unbind la d a b) la (word 0x01 4) d ⟨(word 0x01 4).setWidth 256, false⟩) ∧
    ((∃ e ∈ es, e.name = name) → ∃ t, exec (.unbind la d a b) s = .next t ∧ stat u t 0 ∧
      t.reg d = {} ∧ (∀ n x, t.nodeAt asid dir.ix = some n → n.body = .dir x → ∀ e ∈ x, e.name ≠ name) ∧
      ∀ k c n m, (k, c) ∈ t.clusters → NameEntry.binding asid dir.ix name n m ∉ c.names)) ∧
  (s.nameOperand a 0 [] true = none → s.tables a = none →
    (∀ n, s.operandNode asid ka = some n → ∃ t v, exec (.stat la d a) s = .next t ∧
      NameDone s t (.stat la d a) la 0 d ⟨v, false⟩ ∧ v.extractLsb' 0 8 = 0 ∧ v.extractLsb' 8 3 = n.body.kind ∧
      v.extractLsb' 64 64 = .ofNat 64 n.extent ∧ v.extractLsb' 128 23 = n.ix ∧ v.extractLsb' 152 24 = n.gen)) ∧
  ((s.bits b).extractLsb' 0 4 = 7 → s.bits b >>> 16 = 0 → a = 0 →
    (s.space asid).freeNode < 2 ^ 23 → (s.space asid).freeHandle ≤ 0x7FFFFF →
    ∃ t v g n, exec (.mknode la d a b) s = .next t ∧ stat s t 0 ∧ t.reg d = (if d = 0 then {} else ⟨v, true⟩) ∧
      Cap.ofBits v = ⟨0, 0, 0, .ofNat 24 (s.space asid).freeHandle, g,
        (s.bits b).extractLsb' 4 12, 7, false⟩ ∧
      t.openNode asid (.ofNat 24 (s.space asid).freeHandle) g = some n ∧ n.body = .dir [] ∧
      n.ix.toNat = (s.space asid).freeNode) ∧
  (s.nameOperand d (permG ||| permP) [] false = none → s.stringOperand a = none → nameOk name = true →
    (s.bits b).extractLsb' 16 48 = 0 → kd.has permL = false →
    ∀ u n h ix, s.string a = .ok (.text (some name), u) → u.tables d = none → u.openNode asid kd.handle kd.gen = some n →
    u.handleAt asid kd.handle kd.gen = some h → h.node = some ix → u.bits b = s.bits b → u.cap d = kd →
    u.cx.asid = asid → (∀ e ∈ u.exports, e.part = u.asidPart asid → e.name ≠ name) →
    ∃ t, exec (.export_ la d a b) s = .next t ∧ stat u t 0 ∧ (∀ r, t.reg r = u.reg r) ∧
      t.exports = u.exports ++ [⟨u.asidPart asid, name, asid, kd.handle, kd.gen, ix, kd.perm,
        (s.bits b).extractLsb' 0 16, false⟩])

/-- R195, R212, R213; the ring entry is where `State.ringTarget` puts it. -/
def Obligations.QueueResults : Prop := ∀ (s : State) (data a p : Reg) (bit : BitVec 6) (n : Node) (q : Queue),
  let asid := s.cx.asid
  let k := s.cap a
  let free (push : Bool) : Queue := { q with waiters := q.waiters.filter fun w => w != .ctx s.cx.id push }
  let nb : Option (Reg × BitVec 6) := some (p, bit)
  let forms (push : Bool) : List (Instr × Option (Reg × BitVec 6)) :=
    if push then [(.qpush data a, none), (.qpushNb data a p bit, nb)] else [(.qpop data a, none), (.qpopNb data a p bit, nb)]
  (∀ push c, s.handleCheck asid (s.reg a) (if push then permW else permR) [1, 6] = some c → k.kind = 1 →
    ∀ f ∈ forms push, Traps s f.1 c (a.setWidth 64)) ∧
  (s.openNode asid k.handle k.gen = some n → n.body = .queue q → (s.openNode asid q.handle q.gen).isSome →
    (s.handleCheck asid (s.reg a) permW [1, 6] = none →
      (q.tail - q.head < 2 ^ q.log2 → s.line q true = [] → ∀ key tags u,
        s.ringTarget asid (free true) q.tail .write = .ok (.bytes key tags, u) → u.nodeAt asid n.ix = some n →
        u.cx = s.cx → ∀ f ∈ forms true, ∃ t m, exec f.1 s = .next t ∧
          t.bytes key 32 = toBytes (s.bits data).toNat 32 ∧
          t.tagAt key = ((s.reg data).tag && k.has permG && tags) ∧
          (∀ x, x < key ∨ key + 32 ≤ x → Memory.byte t.mem x = Memory.byte u.mem x) ∧
          t.queueAt asid n.ix = some m ∧ m.tail = q.tail + 1 ∧ m.head = q.head ∧
          (∀ r, f.2 = none ∨ r ≠ p → t.reg r = s.reg r) ∧
          (f.2 = nb → p ≠ 0 → (t.bits p).getLsbD bit.toNat = true) ∧ t.cx.pc = s.here + 4 ∧ t.cx.wait = .none) ∧
      (2 ^ q.log2 ≤ q.tail - q.head →
        (∃ t, exec (.qpush data a) s = .next t ∧ t.cx.wait = .queue true data a none ∧ t.cx.run = .waiting ∧
          t.cx.pcCap = s.cx.pcCap ∧ (∀ r, t.reg r = s.reg r) ∧ t.mem = s.mem) ∧
        (∃ t, exec (.qpushNb data a p bit) s = .next t ∧ (t.bits p).getLsbD bit.toNat = false ∧
          (∀ r, r ≠ p → t.reg r = s.reg r) ∧ t.mem = s.mem ∧ t.cx.pc = s.here + 4))) ∧
    (s.handleCheck asid (s.reg a) permR [1, 6] = none →
      (q.head < q.tail → s.line q false = [] → q.hostRing = false → ∀ key tags u,
        s.ringTarget asid (free false) q.head .read = .ok (.bytes key tags, u) → u.nodeAt asid n.ix = some n →
        u.cx = s.cx → ∀ f ∈ forms false, ∃ t m, exec f.1 s = .next t ∧
          (f.2 = none ∨ p ≠ data →
            t.reg data = if data = 0 then {} else ⟨.ofNat 256 (u.nat key 32), tags && u.tagAt key⟩) ∧
          t.mem = u.mem ∧ t.queueAt asid n.ix = some m ∧ m.tail = q.tail ∧ m.head = q.head + 1 ∧
          (∀ r, r ≠ data → f.2 = none ∨ r ≠ p → t.reg r = s.reg r) ∧
          (f.2 = nb → p ≠ 0 → (t.bits p).getLsbD bit.toNat = true) ∧ t.cx.pc = s.here + 4 ∧ t.cx.wait = .none) ∧
      (q.tail ≤ q.head →
        (∃ t, exec (.qpop data a) s = .next t ∧ t.cx.wait = .queue false data a none ∧ t.cx.run = .waiting ∧
          t.cx.pcCap = s.cx.pcCap ∧ (∀ r, t.reg r = s.reg r) ∧ t.mem = s.mem) ∧
        (∃ t, exec (.qpopNb data a p bit) s = .next t ∧ (t.bits p).getLsbD bit.toNat = false ∧
          (∀ r, r ≠ p → t.reg r = s.reg r) ∧ t.mem = s.mem ∧ t.cx.pc = s.here + 4)))) ∧
  (∀ sl id c, id ≠ 0 → s.boundAt sl = some id → s.getCtx id = some c → c.wait = .queue true data a none →
    s.ringPending (.queue id) = false →
    exec (.queueWaitComplete sl) s =
      .next (((s.focus id ⟨c.core, c.slot⟩).queueForm true data a none).focus s.cx.id s.cur))

/-- R173 to R175, R179. -/
def Obligations.TaskResults : Prop := ∀ (s : State) (d a b : Reg),
  let c := s.cx
  let w := s.bits b
  let answers (v : W256) : Prop := ∃ t, exec (.spawn d a b) s = .next t ∧
    RegWritten s t { c with wait := .none, run := .ready, retireCyc := s.cycle } d ⟨v, false⟩ (s.here + 4)
  (∃ v, Writes s (.self d) d ⟨v, true⟩ ∧
    Cap.ofBits v = ⟨0, 0, 8192, c.ctxHandle, s.ownGen c, permR ||| permW, 3, false⟩) ∧
  (s.badSpawn w = true → answers 1) ∧
  (s.badSpawn w = false → s.pool.find? (fun p => p.asid == c.asid && p.id != 0) = none →
    (s.poolGrows c.asid = false → answers 2) ∧
    (s.poolGrows c.asid = true → ∃ t, exec (.spawn d a b) s = .next t ∧ Waits s t (.spawn d a b) ∧ t.cx.run = .ready)) ∧
  (∀ p, s.badSpawn w = false → s.pool.find? (fun p => p.asid == c.asid && p.id != 0) = some p → p.id ≠ c.id → c.id ≠ 0 →
    (s.space c.asid).nodes.length + 3 ≤ 2 ^ 23 → (s.space c.asid).handles.length + 2 ≤ 0x7FFFFF →
    ∃ t k v g, exec (.spawn d a b) s = .next t ∧ t.getCtx p.id = some k ∧ k.asid = c.asid ∧ k.launch = c.launch ∧
      k.tileX = w.extractLsb' 32 16 ∧ k.tileY = w.extractLsb' 48 16 ∧ k.tileZ = w.extractLsb' 64 16 ∧
      k.pc = (w.extractLsb' 0 32).setWidth 64 ∧ k.reg 3 = s.reg a ∧ k.run = .ready ∧ k.res = .dormant ∧
      k.cdva = p.cdva ∧ k.gang = s.nextGang ∧ g ∈ t.gangs ∧ g.id = s.nextGang ∧ g.members = [p.id] ∧
      t.reg d = (if d = 0 then {} else ⟨v, true⟩) ∧
      Cap.ofBits v = ⟨0, 0, 8192, k.ctxHandle, k.ctxGen, permR ||| permW ||| permC, 3, false⟩ ∧
      (∀ r, r ≠ d → t.reg r = s.reg r) ∧ t.mem = s.mem ∧ t.cx.pc = s.here + 4) ∧
  (c.id ≠ 0 → (∀ k ∈ s.ctxs, k.id ≠ c.id) → s.boundAt ⟨c.core, c.slot⟩ = some c.id → c.storeQ = [] → c.stash = [] →
    ∃ t, exec (.retire a) s = .next t ∧ t.getCtx c.id = none ∧ t.boundAt ⟨c.core, c.slot⟩ = none ∧ t.mem = s.mem ∧
      ∃ x ∈ t.pool, x.id = c.id ∧ x.asid = c.asid) ∧
  ((∀ g, s.gangOf c = some g → g.members.length = 1 → g.span = 0 → s.advance.betterReady c g.level = false) →
    ∃ t, exec .yield s = .next t ∧ OnlyPc s t s.cx (s.here + 4))

/-- R176 to R178. -/
def Obligations.WakeResults : Prop := ∀ (s : State) (d a b : Reg) (t : Ctx),
  let c := s.cx
  let n := ((s.bits b).extractLsb' 0 6).toNat
  let word (k : Ctx) : W256 :=
    .ofNat 256 (k.woken.toNat + (if k.woken = false ∧ k.sigPend = 0 then 2 else 0) + k.sigPend.toNat * 2 ^ 64)
  let slept (k m : Ctx) (x : Reg) : Prop := m.wait = .none ∧ m.run = .ready ∧ m.woken = false ∧ m.sigPend = 0 ∧
    m.pc = k.unit.addr + 4 ∧ m.reg x = if x = 0 then {} else ⟨word k, false⟩
  (c.woken = true ∨ c.sigPend ≠ 0 ∨ s.x a = 0 → ∃ u, exec (.sleep d a) s = .next u ∧ slept c u.cx d ∧
    (∀ r, r ≠ d → u.reg r = s.reg r) ∧ u.mem = s.mem) ∧
  (c.woken = false → c.sigPend = 0 → s.x a ≠ 0 → ∃ u, exec (.sleep d a) s = .next u ∧
    u.cx.wait = .sleep d (if s.x a = .allOnes 64 then none else some (s.cycle.toNat + (s.x a).toNat)) ∧ u.cx.run = .sleeping ∧
    u.cx.pcCap = c.pcCap ∧ (∀ r, u.reg r = s.reg r) ∧ u.mem = s.mem) ∧
  (∀ sl id k x at_, id ≠ 0 → s.boundAt sl = some id → s.getCtx id = some k → k.wait = .sleep x (some at_) →
    (at_ ≤ s.cycle.toNat → ∃ u m, exec (.sleepTimeout sl) s = .next u ∧ u.getCtx id = some m ∧ slept k m x) ∧
    (s.cycle.toNat < at_ → ∃ u, exec (.sleepTimeout sl) s = .next u ∧ u.getCtx id = some k)) ∧
  (∀ v, s.handleCheck c.asid (s.reg a) permW [3] = some v →
    Traps s (.wake d a) v (a.setWidth 64) ∧ Traps s (.signal d a b) v (a.setWidth 64)) ∧
  (s.handleCheck c.asid (s.reg a) permW [3] = none → s.targetCtx a = some t → t.id ≠ c.id → t.id ≠ 0 → c.id ≠ 0 →
    (t.asleep = false →
      (∃ u k, exec (.wake d a) s = .next u ∧ u.getCtx t.id = some k ∧ k.woken = true ∧ k.wait = t.wait ∧
        u.reg d = (if d = 0 then {} else ⟨1, false⟩) ∧ u.cx.pc = s.here + 4) ∧
      (∃ u k, exec (.signal d a b) s = .next u ∧ u.getCtx t.id = some k ∧ k.sigPend = t.sigPend ||| (1#64 <<< n) ∧
        k.wait = t.wait ∧ u.reg d = (if d = 0 then {} else ⟨if t.sigPend.getLsbD n then 1 else 0, false⟩) ∧
        u.cx.pc = s.here + 4)) ∧
    (∀ x e, t.wait = .sleep x e →
      (∃ u k, exec (.wake d a) s = .next u ∧ u.getCtx t.id = some k ∧ slept { t with woken := true } k x ∧
        u.reg d = {} ∧ u.cx.pc = s.here + 4) ∧
      (∃ u k, exec (.signal d a b) s = .next u ∧ u.getCtx t.id = some k ∧
        slept { t with sigPend := t.sigPend ||| (1#64 <<< n) } k x ∧ u.cx.pc = s.here + 4)))

/-- R165 to R167, R180; how the spill region is laid out is the model's (log entry 64). -/
def Obligations.HeapResults : Prop := ∀ (s : State) (d a b : Reg),
  let asid := s.cx.asid
  let cl := s.targetHeap a
  let es := (s.heap cl asid).2
  let ranked (l : List W256) : Prop := l.Pairwise fun x y => heapKey x ≤ heapKey y
  let took (t : State) : Prop := ∃ e, t.reg d = (if d = 0 then {} else ⟨e, false⟩) ∧ e ∈ es ∧
    ((t.heap cl asid).2).Perm (es.erase e) ∧ (∀ f ∈ es.drop 7, heapKey e ≤ heapKey f) ∧
    (∀ r, r ≠ d → t.reg r = s.reg r) ∧ t.cx.pc = s.here + 4 ∧ t.mem = s.mem
  (∀ c, s.handleCheck asid (s.reg a) permW [4] = some c → Traps s (.hpush a b) c (a.setWidth 64)) ∧
  (∀ c, s.handleCheck asid (s.reg a) permR [4] = some c →
    Traps s (.hpop d a) c (a.setWidth 64) ∧ Traps s (.htry d a) c (a.setWidth 64)) ∧
  (s.handleCheck asid (s.reg a) permW [4] = none →
    let e : W256 := ((s.bits b).setWidth 255).setWidth 256
    let u := s.clampScope (s.nearScope cl)
    (s.sramUsed cl < 4096 → ∃ t, exec (.hpush a b) s = .next t ∧
      ((t.heap cl asid).2).Perm (e :: es) ∧ t.spillOf cl asid = s.spillOf cl asid ∧
      (ranked es → ranked (t.heap cl asid).2) ∧ (∀ r, t.reg r = s.reg r) ∧ t.cx.pc = s.here + 4 ∧ t.mem = s.mem) ∧
    (4096 ≤ s.sramUsed cl → (∀ slot, slot ≤ (s.spillOf cl asid).length → u.spillKey cl asid slot .write = none) →
      Traps s (.hpush a b) .queueFault (a.setWidth 64)) ∧
    (4096 ≤ s.sramUsed cl → (∀ slot, slot ≤ (s.spillOf cl asid).length → u.spillKey cl asid slot .write ≠ none) → ∃ t x slot, exec (.hpush a b) s = .next t ∧
      x ∈ e :: es ∧ ((t.heap cl asid).2).Perm ((e :: es).erase x) ∧
      t.spillOf cl asid = (slot, x) :: s.spillOf cl asid ∧ (ranked es → ∀ y ∈ e :: es, heapKey y ≤ heapKey x) ∧
      (∀ r, t.reg r = s.reg r) ∧ t.cx.pc = s.here + 4)) ∧
  (s.handleCheck asid (s.reg a) permR [4] = none → (s.cluster cl).heapWait = [] → s.spillOf cl asid = [] →
    (es ≠ [] → ranked es →
      (∃ t, exec (.htry d a) s = .next t ∧ took t) ∧ (∃ t, exec (.hpop d a) s = .next t ∧ took t)) ∧
    (es = [] → WritesBits s (.htry d a) d (1#256 <<< 255) ∧
      ∃ t, exec (.hpop d a) s = .next t ∧ t.cx.wait = .heap d a ∧ t.cx.run = .waiting ∧ t.cx.pcCap = s.cx.pcCap ∧
        (t.cluster cl).heapWait = [s.cx.id] ∧ (∀ r, t.reg r = s.reg r))) ∧
  (∀ sl id c, id ≠ 0 → s.boundAt sl = some id → s.getCtx id = some c → c.wait = .heap d a →
    let f := s.focus id ⟨c.core, c.slot⟩
    f.handleCheck f.cx.asid (f.reg a) permR [4] = none →
    exec (.hpopReturn sl) s = .next ((f.hpop d a).focus s.cx.id s.cur))

/-- R169, R170, R181, R182. -/
def Obligations.EventResults : Prop := ∀ (s : State) (d a b : Reg),
  let cl := s.cxCluster
  let q := (s.cluster cl).evq
  let mine (r : W256) : Bool := r.extractLsb' 160 9 == s.cx.asid && r.extractLsb' 32 32 == (s.bits a).extractLsb' 0 32
  (s.cluster cl).evWait = [] →
  (q.length < 1024 → ∃ t r, exec (.evpost d a b) s = .next t ∧ (t.cluster cl).evq = q ++ [r] ∧
    r.extractLsb' 0 32 = 0 ∧ r.extractLsb' 32 32 = ((s.bits a).extractLsb' 0 24).setWidth 32 ∧
    r.extractLsb' 64 64 = s.x b ∧ r.extractLsb' 128 32 = s.cx.id ∧ r.extractLsb' 160 9 = s.cx.asid ∧
    t.reg d = {} ∧ (∀ x, x ≠ d → t.reg x = s.reg x) ∧ t.mem = s.mem ∧ t.cx.pc = s.here + 4) ∧
  (1024 ≤ q.length → ∃ t, exec (.evpost d a b) s = .next t ∧ (t.cluster cl).evq = q ∧
    t.reg d = (if d = 0 then {} else ⟨1, false⟩) ∧ t.mem = s.mem ∧ t.cx.pc = s.here + 4) ∧
  (∀ r, q.find? mine = some r → (s.cluster cl).evHeld = [] → ∃ t, exec (.evwait d a) s = .next t ∧
    (t.cluster cl).evq = q.erase r ∧ t.reg d = (if d = 0 then {} else ⟨r, false⟩) ∧
    (∀ x, x ≠ d → t.reg x = s.reg x) ∧ t.mem = s.mem ∧ t.cx.pc = s.here + 4) ∧
  (q.find? mine = none → (s.cluster cl).evHeld = [] → ∃ t, exec (.evwait d a) s = .next t ∧ t.cx.wait = .event d a ∧ t.cx.run = .waiting ∧
    (t.cluster cl).evq = q ∧ (t.cluster cl).evWait = [s.cx.id] ∧ t.cx.pcCap = s.cx.pcCap ∧
    ∀ x, t.reg x = s.reg x) ∧
  (∀ (u : State) sl r, s.cx.id ≠ 0 → u = s.updCluster cl (fun c => { c with evWait := [s.cx.id] }) → s.cx.wait = .event d a →
    u.boundAt sl = some s.cx.id → q.find? mine = some r → (s.cluster cl).evHeld = [] →
    ∃ t k, exec (.evwaitConsume sl) u = .next t ∧ t.getCtx s.cx.id = some k ∧ (t.cluster cl).evq = q.erase r ∧
      (t.cluster cl).evWait = [] ∧ k.wait = .none ∧ k.run = .ready ∧ k.pc = s.here + 4 ∧
      k.reg d = if d = 0 then {} else ⟨r, false⟩)

/-- R389, R391, R392. Each pair is a number and the value that CTLR writes. -/
def Obligations.ControlReads : Prop := ∀ (s : State) (d : Reg) (num : BitVec 12),
  let c := s.cx
  let k := s.core c.core
  let m := s.cluster s.cxCluster
  let open_ : List (BitVec 12 × Word) :=
    [(0x000, c.id.setWidth 64), (0x001, (c.tileZ ++ c.tileY ++ c.tileX).setWidth 64),
     (0x002, (c.count ++ c.member ++ c.gang).setWidth 64), (0x003, (c.gangs ++ c.gangIdx ++ c.span).setWidth 64),
     (0x004, s.cycle), (0x008, c.necFlags.setWidth 64), (0x00C, c.nameStat), (0x010, c.nec[0].setWidth 64),
     (0x017, c.nec[7].setWidth 64), (0x020, c.fpctl.setWidth 64), (0x030, c.stkOvf.setWidth 64),
     (0x042, c.copy.shape), (0x043, c.copy.sstride), (0x044, c.copy.dstride), (0x045, c.copy.clip),
     (0x047, c.copy.mode)]
  let closed : List (BitVec 12 × Word) :=
    [(0x100, c.trap.cause.setWidth 64), (0x101, c.trap.pc), (0x102, c.trap.val), (0x103, c.trap.ctx),
     (0x104, c.trap.vec), (0x109, c.prio.setWidth 64), (0x10A, c.asid.setWidth 64), (0x10C, c.saveCnt),
     (0x10D, c.keySlot.setWidth 64), (0x200, k.records[0].w0), (0x21F, k.records[7].w3),
     (0x220, k.buddy.setWidth 64), (0x221, k.temp.setWidth 64), (0x222, k.droop.setWidth 64),
     (0x223, k.wdog.setWidth 64), (0x310, m.heapSpill.setWidth 64), (0x318, m.aging.setWidth 64),
     (0x340, m.own[0].setWidth 64), (0x34F, m.own[15].setWidth 64)]
  (∀ x ∈ open_, WritesX s (.ctlr d x.1) d x.2) ∧
  (c.priv = true → ∀ x ∈ closed, WritesX s (.ctlr d x.1) d x.2) ∧
  (c.priv = true → ∃ v, WritesX s (.ctlr d 0x108) d v ∧ v.getLsbD 0 = true ∧ v.getLsbD 1 = c.ie ∧
    v.getLsbD 2 = c.handler ∧ ∀ i, 3 ≤ i → v.getLsbD i = false) ∧
  WritesBits s (.ctlr d 0x040) d c.copy.src.val ∧ WritesBits s (.ctlr d 0x041) d c.copy.dst.val ∧
  WritesBits s (.ctlr d 0x046) d c.copy.bar.val ∧
  (c.priv = false → 0x100 ≤ num.toNat → (∃ v, Traps s (.ctlr d num) .priv v) ∧ (∃ v, Traps s (.ctlw d num) .priv v) ∧
    (∃ v, Traps s (.ctls d num) .priv v) ∧ ∃ v, Traps s (.ctlc d num) .priv v)

/-- R391; the numbers and the masks of their RW fields are those of R389 and the layouts it names. -/
def Obligations.ControlWrites : Prop := ∀ (s : State) (r : Reg),
  let y := s.x r
  let may (n : BitVec 12) : Prop := s.cx.priv = true ∨ n.toNat < 0x100
  let rw : List (BitVec 12 × Word) :=
    [(0x010, 0xFFFFFFFF), (0x017, 0xFFFFFFFF), (0x020, 0xF), (0x042, copyMask 0x042), (0x043, copyMask 0x043),
     (0x044, copyMask 0x044), (0x045, copyMask 0x045), (0x047, copyMask 0x047), (0x104, .allOnes 64), (0x108, 2),
     (0x109, 3), (0x10D, 0xFF), (0x220, 0x1FFF), (0x223, 0xFFFFFFFF), (0x310, 0xFFFFFFFFFFFF), (0x318, 0xFFFFFFFF)]
  let ro : List (BitVec 12) := [0x000, 0x001, 0x002, 0x003, 0x004, 0x00C, 0x030, 0x100, 0x101, 0x102, 0x103, 0x10A, 0x10C,
    0x221, 0x222, 0x224, 0x300, 0x350, 0x35F]
  let wrote (i : Instr) (n : BitVec 12) (mask v : Word) : Prop :=
    ∃ t, exec i s = .next t ∧ (s.ctlRead n.toNat).and (~~~mask) ||| (v &&& mask) = t.ctlRead n.toNat ∧
      (∀ x, t.reg x = s.reg x) ∧ t.mem = s.mem ∧ t.cx.pc = s.here + 4 ∧ t.ctxs = s.ctxs ∧ t.cx.priv = s.cx.priv ∧
      t.cx.trap.cause = s.cx.trap.cause ∧ t.cx.trap.pc = s.cx.trap.pc
  (∀ x ∈ rw, may x.1 → (x.1 ≠ 0x042 ∧ x.1 ≠ 0x043 ∧ x.1 ≠ 0x044 ∧ x.1 ≠ 0x045 ∧ x.1 ≠ 0x047 ∨
      (s.ctlRead x.1.toNat).and (~~~x.2) = 0) →
    wrote (.ctlw r x.1) x.1 x.2 y ∧ wrote (.ctls r x.1) x.1 x.2 (s.ctlRead x.1.toNat ||| y) ∧
    wrote (.ctlc r x.1) x.1 x.2 (s.ctlRead x.1.toNat &&& ~~~y)) ∧
  (∀ n ∈ ro, may n → ∀ i ∈ ([.ctlw r n, .ctls r n, .ctlc r n] : List Instr), ∃ t, exec i s = .next t ∧
    OnlyPc s t s.cx (s.here + 4)) ∧
  (∀ i ∈ ([.ctlw r 0x008, .ctls r 0x008] : List Instr), ∃ t, exec i s = .next t ∧
    OnlyPc s t { s.cx with necFlags := s.cx.necFlags &&& ~~~(y.setWidth 8) } (s.here + 4)) ∧
  (∃ t, exec (.ctlc r 0x008) s = .next t ∧ OnlyPc s t s.cx (s.here + 4)) ∧
  (∃ t, exec (.ctlw r 0x040) s = .next t ∧ OnlyPc s t { s.cx with copy := { s.cx.copy with src := s.reg r } } (s.here + 4)) ∧
  (∃ t, exec (.ctlw r 0x041) s = .next t ∧ OnlyPc s t { s.cx with copy := { s.cx.copy with dst := s.reg r } } (s.here + 4)) ∧
  (∃ t, exec (.ctlw r 0x046) s = .next t ∧ OnlyPc s t { s.cx with copy := { s.cx.copy with bar := s.reg r } } (s.here + 4)) ∧
  (may 0x320 → exec (.ctlw r 0x320) s = exec (.cluNcinv s.cxCluster y) s.advance) ∧
  (may 0x340 → y.getLsbD 9 = false → exec (.ctlw r 0x340) s = exec (.mxOwnWrite s.cxCluster 0 y) s.advance)

/-- R393, R397, R404 to R406, R427. -/
def Obligations.SaveResults : Prop := ∀ (s : State) (d a b : Reg) (t : Ctx),
  let k := s.cap b
  let off := k.offset
  let status (u v : State) (n : Nat) : Prop := v.reg d = (if d = 0 then {} else ⟨.ofNat 256 n, false⟩) ∧
    (∀ r, r ≠ d → v.reg r = u.reg r) ∧ v.cx.pc = u.here + 4
  let answers (i : Instr) (n : Nat) : Prop := ∃ v, exec i s = .next v ∧ status s v n ∧ v.mem = s.mem
  (s.cx.preempt = false → ∃ v, exec (.phint a b) s = .next v ∧
    OnlyPc s v { s.cx with save := { s.cx.save with live := s.x a, ranges := s.bits b, hintCyc := s.cycle } } (s.here + 4)) ∧
  (s.cx.priv = false → (∃ v, Traps s (.save d a b) .priv v) ∧ ∃ v, Traps s (.resume d a b) .priv v) ∧
  (s.cx.priv = true → s.handleCheck s.cx.asid (s.reg a) permW [3] = none → s.targetCtx a = some t →
    (t.res = .bound → answers (.save d a b) 1) ∧
    (t.res ≠ .bound → t.leaving = false → t.save.saved = true → answers (.save d a b) 2) ∧
    (t.res ≠ .bound → t.leaving = false → t.save.saved = false → s.saveCapBad t b = true → answers (.save d a b) 3) ∧
    (t.res ≠ .bound → t.leaving = false → t.save.saved = false → s.saveCapBad t b = false →
      ∀ u x, s.writeImage s.cxCluster s.cx.asid (s.reg b) t.id true = (.ok, u) → u.getCtx t.id = some x → t.id ≠ u.cx.id →
        ∃ v m, exec (.save d a b) s = .next v ∧ status u v 0 ∧ v.mem = u.mem ∧ v.getCtx t.id = some m ∧
          m.save.saved = true ∧ m.saveCnt = x.saveCnt + 1 ∧ m.regs = x.regs) ∧
    (s.capCheck s.cx.asid (s.reg b) permR off 64 = none → k.kind = 0 →
      (t.savePending = true → answers (.resume d a b) 2) ∧
      (t.savePending = false → t.incomplete = true → answers (.resume d a b) 4) ∧
      (t.savePending = false → t.incomplete = false → t.save.saved = false → answers (.resume d a b) 1) ∧
      (t.savePending = false → t.incomplete = false → t.save.saved = true → ∀ head u,
        engRead s.cxCluster s.cx.asid k 65 off.toNat 64 (s.clampScope .sys) = .ok (head, u) →
        let h := ImageHead.ofBits (.ofNat 512 (ofBytes head))
        (u.headOk t h = false → ∃ v, exec (.resume d a b) s = .next v ∧ status u v 3 ∧ v.mem = u.mem) ∧
        (u.headOk t h = true → h.cnt ≠ t.saveCnt → ∃ v, exec (.resume d a b) s = .next v ∧ status u v 0x18 ∧ v.mem = u.mem) ∧
        (u.headOk t h = true → h.cnt = t.saveCnt → h.prot = false → (∀ x ∈ imageRanges h.ranges, x.2 = 0) →
          u.capCheck u.cx.asid ⟨k.toBits, true⟩ permR off h.size = none → ∀ bs w,
          engRead u.cxCluster u.cx.asid k (h.size + 1) (off.toNat + 64) (h.size - 64) u = .ok (bs, w) →
          w.getCtx t.id = some t → t.id ≠ w.cx.id → t.id ≠ 0 →
          ∃ v m, exec (.resume d a b) s = .next v ∧ v.reg d = {} ∧ v.cx.pc = w.here + 4 ∧ v.getCtx t.id = some m ∧
            m.save.saved = false ∧ m.run = .ready ∧
            (∀ r : Reg, h.live.getLsbD r.toNat = false → m.reg r = {}) ∧
            ∀ (i : Nat) (r : Reg), (liveRegs h.live)[i]? = some r → r ≠ 0 →
              (m.reg r).val = .ofNat 256 (ofBytes ((bs.drop (32 * i)).take 32)))))) ∧
  (∀ c u, s.getCtx t.id = some c → c.leaving = true → c.savePending = false → c.storeQ = [] →
    s.writeImage (clusterOf c.core) c.asid c.save.imgCap t.id c.fullSave = (.ok, u) →
    exec (.saveComplete t.id) s = .next (u.setSaved t.id))

/-- R385, R386, R388, R408, R428, R449. -/
def Obligations.HandlerResults : Prop := ∀ (s : State) (d a : Reg) (core : CoreIx) (cl : ClusterIx) (r : TrapRec)
    (rest : List TrapRec) (sl : SlotId) (id : BitVec 32) (c : Ctx),
  let k := s.core core
  (s.cx.priv = false ∨ s.cx.handler = false → ∃ v, Traps s (.waitev d a) .priv v) ∧
  (s.cx.priv = true → s.cx.handler = true → core = s.cx.core → k.inbox = [] →
    ∃ t, exec (.waitev d 0) s = .next t ∧ t.cx.wait = .record d 0 ∧ t.cx.run = .waiting ∧ t.cx.pcCap = s.cx.pcCap ∧
      ∀ x, t.reg x = s.reg x) ∧
  (s.cx.priv = true → s.cx.handler = true → core = s.cx.core → k.inbox = r :: rest → r.asid ≠ s.cx.asid →
    (s.getCtx r.ctxId).isSome → r.ctxId ≠ 0 → (s.space s.cx.asid).freeHandle ≤ 0x7FFFFF →
    ∃ t v h g n, exec (.waitev d 0) s = .next t ∧ (t.core core).inbox = rest ∧
      t.reg d = (if d = 0 then {} else ⟨v, true⟩) ∧
      Cap.ofBits v = ⟨0, 0, 8192, h, g, permR ||| permW ||| permC, 3, false⟩ ∧
      t.openNode s.cx.asid h g = some n ∧ n.body = .ctx r.ctxId ∧
      t.cx.trap.ctx = .ofNat 64 (r.ctxId.toNat + r.asid.toNat * 2 ^ 32) ∧
      (∀ x, x ≠ d → t.reg x = s.reg x) ∧ t.cx.pc = s.here + 4 ∧ t.cx.wait = .none) ∧
  (k.held = r :: rest → s.recordReady r = true →
    (k.buddy.getLsbD 12 = false → ∃ t, exec (.trapRecordDelivery core) s = .next t ∧ (t.core core).held = rest ∧
      (t.cluster (clusterOf core)).barista = (s.cluster (clusterOf core)).barista ++ [r]) ∧
    (k.buddy.getLsbD 12 = true → (s.core (k.buddy.extractLsb' 0 9)).inbox.length < 64 →
      s.boundAt ⟨k.buddy.extractLsb' 0 9, k.buddy.extractLsb' 9 3⟩ = none →
      ∃ t, exec (.trapRecordDelivery core) s = .next t ∧ (t.core core).held = rest ∧
        (t.core (k.buddy.extractLsb' 0 9)).inbox = (s.core (k.buddy.extractLsb' 0 9)).inbox ++ [r])) ∧
  (k.held = r :: rest → s.recordReady r = false ∨
      (k.buddy.getLsbD 12 = true ∧ 64 ≤ (s.core (k.buddy.extractLsb' 0 9)).inbox.length) →
    exec (.trapRecordDelivery core) s = .next s) ∧
  (id ≠ 0 → k.ints = 1#8 <<< sl.slot.toNat → sl.core = core → s.boundAt sl = some id → s.getCtx id = some c →
    c.handler = true → c.ie = true → c.wait = .none → c.pend = [] →
    ∃ t m, exec (.handlerInterrupt core) s = .next t ∧ t.getCtx id = some m ∧ m.pc = c.trap.vec ∧ m.trap.pc = c.pc ∧
      m.trap.cause = 0 ∧ m.trap.val = 0 ∧ m.trap.vec = c.trap.vec ∧ m.ie = false ∧ m.regs = c.regs ∧
      (t.core core).ints = 0 ∧ t.mem = s.mem) ∧
  ((s.cluster cl).barista = r :: rest → s.getCtx r.ctxId = some c → c.run = .frozen →
    let u := s.updCluster cl fun x => { x with barista := rest }
    (r.cause ≠ 0x0A → r.cause ≠ 0x0B → r.cause ≠ 0x0C →
      exec (.baristaTrapRecord cl) s = .next (u.killCtx r.ctxId (r.cause.setWidth 64) (some r.cause))) ∧
    (∀ x ∈ ([(0x0A, .pageFault), (0x0B, .pageProt), (0x0C, .rdupWrite)] : List (BitVec 8 × Cause)), r.cause = x.1 →
      exec (.baristaTrapRecord cl) s = .next (u.baristaFault r x.2))) ∧
  (id ≠ 0 → s.boundAt sl = some id → s.getCtx id = some c →
    let limit := (s.core sl.core).wdog.toNat
    let n := s.cycle - c.retireCyc
    let f := s.focus id ⟨c.core, c.slot⟩
    let g := if c.wait = .none then f.updCx fun c => { c with unit := { first := c.pc, addr := c.pc } } else f
    (limit ≠ 0 → limit ≤ n.toNat → c.run = .ready → (∀ w, c.wait ≠ .leave w) → c.pend.any Pending.outside = false →
      exec (.watchdog sl) s = .next ((g.takeTrap .watchdog n).focus s.cx.id s.cur)) ∧
    (limit = 0 ∨ n.toNat < limit ∨ c.run ≠ .ready → ∃ t, exec (.watchdog sl) s = .next t ∧ t.getCtx id = some c))

/-- R150, R152, R153, R155, R393, R400. -/
def Obligations.SchedulingResults : Prop := ∀ (s : State) (sl : SlotId) (w0 w1 w2 w3 : Word) (id : BitVec 32) (c : Ctx)
    (q : BitVec 4) (g : Gang),
  let r := s.slotRec sl
  (exec (.bindRecord sl w0 w1 w2 w3) s = exec (.slotBind sl)
    (s.setSlotRec sl ⟨w0 &&& 0x3FFFFFFFFFFFFFFF, w1, w2 &&& 7, 0⟩)) ∧
  (r.w2.getLsbD 0 = false → exec (.slotBind sl) s = .next s) ∧
  (r.w2.getLsbD 0 = true → s.recordCtx sl r = none → ∃ t, exec (.slotBind sl) s = .next t ∧
    t.slotRec sl = { r with w2 := r.w2 &&& ~~~1#64 } ∧ t.boundAt sl = s.boundAt sl ∧ t.cx = s.cx ∧ t.ctxs = s.ctxs) ∧
  (r.w2.getLsbD 0 = true → s.recordCtx sl r = some c → s.getCtx c.id = some c → c.id ≠ 0 → s.slotFree sl = true →
    c.stackHeld = true → c.qcached = 0 → ∃ t m, exec (.slotBind sl) s = .next t ∧ t.boundAt sl = some c.id ∧
      t.slotRec sl = { r with w2 := r.w2 &&& ~~~1#64 } ∧ t.getCtx c.id = some m ∧ m.res = .bound ∧ m.core = sl.core ∧
      m.slot = sl.slot ∧ m.quantum = r.w1.extractLsb' 0 32 ∧ m.bindCyc = s.cycle ∧ m.regs = c.regs ∧ m.pcCap = c.pcCap) ∧
  (id ≠ 0 → s.boundAt sl = some id → s.getCtx id = some c → c.id = id → c.quantum ≠ 0 → c.preempt = false →
    (s.cycle.toNat < c.bindCyc.toNat + c.quantum.toNat → exec (.quantumExpiry sl) s = .next s) ∧
    (let asked : Ctx := { c with save := { c.save with imgCap := c.nextImage } }
     let u := s.updCtx id fun _ => asked
     c.bindCyc.toNat + c.quantum.toNat ≤ s.cycle.toNat → u.imageCapOk asked = true → u.keyMissing asked = false →
       ∃ t m, exec (.quantumExpiry sl) s = .next t ∧ t.getCtx id = some m ∧ m.preempt = true ∧ m.preemptCyc = s.cycle ∧
         m.res = c.res ∧ m.save.imgCap = c.nextImage)) ∧
  (s.gangs.find? (fun x => x.id == g.id) = some g →
    (s.agingDue g = false → exec (.agingIntervalExpiry g.id) s = .next s) ∧
    (s.agingDue g = true → exec (.agingIntervalExpiry g.id) s =
      .next { s with gangs := s.gangs.map fun x => if x.id = g.id then { x with level := x.level - 1 } else x })) ∧
  (id ≠ 0 → s.boundAt sl = some id → s.getCtx id = some c → sl = ⟨c.core, c.slot⟩ → c.preempt = true → c.wait.stops = true →
    c.pend = [] → c.storeQ = [] → c.stash = [] → ∃ t m, exec (.forcedSave sl) s = .next t ∧ t.boundAt sl = none ∧
      t.getCtx id = some m ∧ m.res ≠ .bound ∧ m.fullSave = true ∧ m.preempt = true ∧ m.wait = .none ∧ m.run = .ready ∧
      m.pcCap = c.pcCap ∧ m.regs = c.regs ∧ t.mem = s.mem) ∧
  (id ≠ 0 → s.boundAt sl = some id → s.getCtx id = some c → c.qcached &&& quadBit q = 0 → c.qvalid &&& quadBit q = 0 →
    (s.core c.core).lines.length < 16 → c.wait = .none →
    (s.focus id ⟨c.core, c.slot⟩).namesQuad q = true → ∃ t m, exec (.quadFill sl q) s = .next t ∧ t.getCtx id = some m ∧
      m.qcached = c.qcached ||| quadBit q ∧ m.regs = c.regs ∧ (t.core c.core).lines = (c.id, q) :: (s.core c.core).lines)

/-- R79, R242, R313, R332, R389. -/
def Obligations.CompletionResults : Prop := ∀ (s : State) (sl : SlotId) (id : BitVec 32) (c : Ctx) (i : Nat) (p : Pending)
    (r : Reg) (t : Target) (n : Nat) (size : MemSize) (sign strong : Bool) (cl : ClusterIx) (tile : BitVec 4) (v : Word),
  (id ≠ 0 → s.slotOwner sl = some id → s.getCtx id = some c → c.pend[i]? = some p → p.kind = .load t n size sign strong →
    p.wr = some r → s.memErr = false →
    let f := s.focus id ⟨c.core, c.slot⟩
    let x := loadValue (f.readTarget c t n).1 size sign (f.readTarget c t n).2
    (∃ u m, exec (.loadDataReturn sl i .local_) s = .next u ∧ u.getCtx id = some m ∧
      m.reg r = (if r = 0 then {} else x) ∧ (∀ y, y ≠ r → m.reg y = c.reg y) ∧
      m.pend = c.pend.set i { p with kind := .done, wr := none } ∧ m.pcCap = c.pcCap ∧ u.mem = s.mem) ∧
    (∃ u m, exec (.longLatencyCompletion sl i) s = .next u ∧ u.getCtx id = some m ∧
      m.reg r = (if r = 0 then {} else x) ∧ (∀ y, y ≠ r → m.reg y = c.reg y) ∧ m.pend = c.pend.eraseIdx i ∧
      m.pcCap = c.pcCap ∧ u.mem = s.mem)) ∧
  (let w := (s.cluster cl).wit[tile.toNat]'tile.isLt
   (v.getLsbD 9 = false → ∃ u, exec (.mxOwnWrite cl tile v) s = .next u ∧
     (u.cluster cl).own[tile.toNat]'tile.isLt = v.setWidth 10 ∧
     (u.cluster cl).wit[tile.toNat]'tile.isLt = { w with gen := w.gen + 1, valid := false } ∧ u.mem = s.mem) ∧
   (v.getLsbD 9 = true → ∃ u, exec (.mxOwnWrite cl tile v) s = .next u ∧
     (u.cluster cl).own[tile.toNat]'tile.isLt = v.setWidth 10 ∧
     (u.cluster cl).wit[tile.toNat]'tile.isLt = { w with gen := w.gen + 1, valid := false } ∧
     ∀ bank x, x < 32768 → Memory.byte u.mem ((Place.acc cl tile bank 0).key + x) = 0)) ∧
  (∃ u, exec (.cluNcinv cl v) s = .next u ∧
    (u.cluster cl).names = (s.cluster cl).names.filter (fun x => x.asid != v.extractLsb' 0 9) ∧ u.mem = s.mem ∧ u.cx = s.cx)

/-- R23, R111, R290, R292, R293, R300 to R303, R305. -/
def Obligations.JobResults : Prop := ∀ (s : State) (la : BitVec 4) (d a b : Reg),
  let asid := s.cx.asid
  let e := s.targetEngine a
  let g := s.engine e
  let depth := (engineKind e).depth
  let w := s.bits b
  let n := (extras w).length
  let caps := (List.range n).map fun i => s.reg (.ofNat 6 (b.toNat + 1 + i))
  let id : BitVec 16 := (s.bits b).setWidth 16
  let st := g.statusOf asid id
  let bad := s.commandBad asid (engineKind e) w caps fun i => (Cap.ofBits (caps.getD i {}).val).offset
  (∀ c, s.handleCheck asid (s.reg a) permE [2] = some c →
    ∀ i ∈ ([.enq la d a b, .jwait d a b, .jtest la d a b, .jstat la d a, .jcancel la d a b] : List Instr),
      Traps s i c (a.setWidth 64)) ∧
  (s.handleCheck asid (s.reg a) permE [2] = none →
    (64 ≤ b.toNat + n → Traps s (.enq la d a b) .enqInvalid 0x06) ∧
    (b.toNat + n < 64 → ∀ x, bad = some x → Traps s (.enq la d a b) x.1 x.2) ∧
    (b.toNat + n < 64 → bad = none → wf w 0 8 ≠ 0x52 →
      (g.jobs.length < depth → g.turnTaken s.cycle s.cx.core = false → ∃ t j, exec (.enq la d a b) s = .next t ∧ Result s t d ⟨g.next.setWidth 256, false⟩ ∧
        (t.engine e).jobs = g.jobs ++ [j] ∧ j.id = g.next ∧ j.word = w ∧ j.caps = caps ∧ j.asid = asid ∧
        j.ctx = s.cx.id ∧ j.launch = s.cx.launch ∧ j.stage = .queued ∧ j.inner = none ∧
        (t.engine e).next = if g.next = 0xFFFF then 1 else g.next + 1) ∧
      (depth ≤ g.jobs.length ∨ g.turnTaken s.cycle s.cx.core = true → ∃ t, exec (.enq la d a b) s = .next t ∧
        Waits s t (.enq la d a b none) ∧ t.cx.run = .ready ∧
        t.engines = s.engines)) ∧
    (∃ t, exec (.jtest la d a b) s = .next t ∧ Result s t d ⟨st, false⟩ ∧ t.engines = s.engines) ∧
    (statusCode st ≠ 1 → statusCode st ≠ 2 → ∃ t, exec (.jwait d a b) s = .next t ∧ Result s t d ⟨st, false⟩ ∧
      t.cx.wait = .none ∧ t.engines = s.engines) ∧
    (statusCode st = 1 ∨ statusCode st = 2 → ∃ t, exec (.jwait d a b) s = .next t ∧ Waits s t (.job d a b) ∧
      t.cx.run = .waiting ∧ t.engines = s.engines) ∧
    (∃ t v, exec (.jstat la d a) s = .next t ∧ Result s t d ⟨v, false⟩ ∧ t.engines = s.engines ∧
      (let mine := g.jobs.countP fun j => j.asid == asid
       v.extractLsb' 0 16 = (g.last.lookup asid).getD 0 ∧ (mine < 256 → v.extractLsb' 16 8 = .ofNat 8 mine) ∧
       (depth - g.jobs.length < 256 → v.extractLsb' 24 8 = .ofNat 8 (depth - g.jobs.length)) ∧ v >>> 32 = 0)) ∧
    (∀ j, s.jobOf e id = some j → j.asid = asid → j.stage ≠ .queued →
      ∃ t, exec (.jcancel la d a b) s = .next t ∧ Result s t d ⟨st, false⟩ ∧ t.engines = s.engines) ∧
    (∀ j, s.jobOf e id = some j → j.asid = asid → j.stage = .queued → j.ev = false → j.arrives = false → j.cq = none →
      (∀ x ∈ g.xfers, x.id ≠ id) →
      ∃ t, exec (.jcancel la d a b) s = .next t ∧ Result s t d ⟨{ j with code := 6 }.final, false⟩ ∧
        (t.engine e).jobs = g.jobs.filter fun x => x.id != id)) ∧
  (∀ (e : EngineIx) (id : BitVec 16) (j : Job), s.jobOf e id = some j →
    (j.stage ≠ .ended → exec (.jobCompletion e id) s = .next s) ∧
    (j.stage = .ended → j.ev = false → j.cq = none → (∀ x ∈ (s.engine e).xfers, x.id ≠ id) →
      (engineKind e = .matrix → j.code = 0 → (s.cluster (engineCluster e)).counters.length < 256) →
      ∃ t, exec (.jobCompletion e id) s = .next t ∧
        (t.engine e).jobs = ((s.engine e).jobs.filter fun x => x.id != id) ∧ (t.engine e).statusOf j.asid id = j.final ∧
        t.cx = s.cx ∧ t.ctxs = s.ctxs ∧ (j.arrives = false → t.mem = s.mem) ∧
        (engineKind e = .matrix → j.code = 0 → ∃ c ∈ (t.cluster (engineCluster e)).counters,
          c.launch = j.launch ∧ c.tid = j.tid) ∧
        ∀ key, j.arrives = true → (engineKind e = .matrix → j.cmd ≠ 0x30 ∧ j.cmd ≠ 0x31) → s.completionBar e j = some key → t.barAt key =
          if j.code = 0 then (s.barAt key).arrive else (s.barAt key).poisoned)) ∧
  (∀ sl id c, id ≠ 0 → s.boundAt sl = some id → s.getCtx id = some c → c.wait = .job d a b →
    s.handleCheck c.asid (c.reg a) permE [2] = none → ∀ nd e, s.openNode c.asid (Cap.ofBits (c.reg a).val).handle
      (Cap.ofBits (c.reg a).val).gen = some nd → nd.body = .engine e →
    let st := (s.engine e).statusOf c.asid ((c.reg b).val.setWidth 16)
    (statusCode st = 1 ∨ statusCode st = 2 → ∃ t m, exec (.jwaitReturn sl) s = .next t ∧ t.getCtx id = some m ∧
      m.wait = .job d a b ∧ m.pcCap = c.pcCap ∧ m.regs = c.regs) ∧
    (statusCode st ≠ 1 → statusCode st ≠ 2 → ∃ t m, exec (.jwaitReturn sl) s = .next t ∧ t.getCtx id = some m ∧
      m.wait = .none ∧ m.run = .ready ∧ m.pc = c.unit.addr + 4 ∧ m.reg d = (if d = 0 then {} else ⟨st, false⟩) ∧
      ∀ r, r ≠ d → m.reg r = c.reg r))

/-- R304, R313. -/
def Obligations.SwapResults : Prop := ∀ (s : State) (la : BitVec 4) (d a b : Reg),
  let e := s.targetEngine a
  let cl := engineCluster e
  let g := s.engine e
  let tile : BitVec 4 := (s.bits b).setWidth 4
  let flip (t : State) : Prop := (t.cluster cl).visible = (s.cluster cl).visible ^^^ (1#16 <<< tile.toNat)
  let quiet : Prop := ∀ k ∈ s.allCtxs, ∀ p ∈ k.pend, p.reads = []
  let free := g.jobs.all (fun j => !j.usesTile tile) && g.swaps.all fun w => w.tile != tile
  (∀ c, s.handleCheck s.cx.asid (s.reg a) permE [2] = some c → Traps s (.aswap la d a b) c (a.setWidth 64)) ∧
  (s.handleCheck s.cx.asid (s.reg a) permE [2] = none →
    (engineKind e ≠ .matrix → Traps s (.aswap la d a b) .capPerm (a.setWidth 64)) ∧
    (engineKind e = .matrix → quiet →
      (free = true → s.ownsTile cl tile.toNat s.cx.asid = true → ∃ t, exec (.aswap la d a b) s = .next t ∧
        Result s t d ⟨0, false⟩ ∧ flip t ∧ t.cx.wait = .none) ∧
      (free = true → s.ownsTile cl tile.toNat s.cx.asid = false → ∃ t, exec (.aswap la d a b) s = .next t ∧
        Result s t d ⟨0x0604, false⟩ ∧ (t.cluster cl).visible = (s.cluster cl).visible ∧ t.cx.wait = .none) ∧
      (free = false → ∃ t w, exec (.aswap la d a b) s = .next t ∧ Waits s t (.aswap la d a b) ∧
        t.clusters = s.clusters ∧ (t.engine e).swaps = g.swaps ++ [w] ∧ w.ctx = s.cx.id ∧ w.tile = tile ∧
        w.waits = ((g.jobs.filter fun j => j.usesTile tile).map (·.id)) ∧ w.last = w.waits.getLastD 0))) ∧
  (∀ (cl : ClusterIx) (w : Swap) (c : Ctx), (s.engine (cl.setWidth 8)).swaps = [w] → w.ctx ≠ 0 → quiet →
    s.getCtx w.ctx = some c → c.wait = .aswap la d a b →
    ((∃ id ∈ w.waits, (s.jobOf (cl.setWidth 8) id).isSome) → ∃ t, exec (.aswapExchange cl) s = .next t ∧
      t.getCtx w.ctx = some c ∧ t.clusters = s.clusters) ∧
    ((∀ id ∈ w.waits, s.jobOf (cl.setWidth 8) id = none) → s.ownsTile cl w.tile.toNat w.asid = true →
      ∃ t m, exec (.aswapExchange cl) s = .next t ∧ t.getCtx w.ctx = some m ∧ m.wait = .none ∧ m.run = .ready ∧
        m.pc = c.unit.addr + 4 ∧ m.reg d = (if d = 0 then {} else ⟨w.last.setWidth 256 <<< 16, false⟩) ∧
        (∀ r, r ≠ d → m.reg r = c.reg r) ∧ (t.engine (cl.setWidth 8)).swaps = [] ∧ t.mem = s.mem ∧
        (t.cluster cl).visible = (s.cluster cl).visible ^^^ (1#16 <<< w.tile.toNat)))

/-- R279, R281 to R284, R293, R306, R307. -/
def Obligations.CopyResults : Prop := ∀ (s : State) (d : Reg),
  let c := s.cx
  let r := c.copy
  let e := copyEngine s.cxCluster
  let g := s.engine e
  let forms : List Instr := [.ctlr d 0x04F, .cpyGo d]
  (∀ v, s.handleCheck c.asid r.src permR [0] = some v → ∀ i ∈ forms, Traps s i v 0x040) ∧
  (∀ v, s.handleCheck c.asid r.src permR [0] = none → s.handleCheck c.asid r.dst permW [0] = some v →
    ∀ i ∈ forms, Traps s i v 0x041) ∧
  (s.handleCheck c.asid r.src permR [0] = none → s.handleCheck c.asid r.dst permW [0] = none →
    r.mode.getLsbD 32 = false → ∀ n, r.outOfBounds = some n → ∀ i ∈ forms, Traps s i .capBounds n) ∧
  (∀ u, s.copyCheck = .ok u → u.cx = c → u.engines = s.engines → u.mem = s.mem → u.tags = s.tags →
    (g.xfers.length < 32 → g.turnTaken u.cycle c.core = false → (∀ x ∈ g.xfers, x.id ≠ g.next) → r.sectors ≠ [] → ∀ i ∈ forms,
      ∃ t x, exec i s = .next t ∧ Result s t d ⟨g.next.setWidth 256, false⟩ ∧ (t.engine e).xfers = g.xfers ++ [x] ∧
        x.id = g.next ∧ x.regs = r ∧ x.todo = r.sectors ∧ x.written = 0 ∧ x.parked = [] ∧ x.asid = c.asid ∧ x.ctx = c.id) ∧
    (32 ≤ g.xfers.length ∨ g.turnTaken u.cycle c.core = true → ∀ i ∈ forms, ∃ t, exec i s = .next t ∧ Waits s t (.cpyGo d) ∧ t.engines = s.engines)) ∧
  (∀ sl id k, id ≠ 0 → s.boundAt sl = some id → s.getCtx id = some k → k.wait = .cpyGo d →
    let e := copyEngine (clusterOf k.core)
    let g := s.engine e
    g.xfers.length < 32 → g.turnTaken s.cycle k.core = false → (∀ x ∈ g.xfers, x.id ≠ g.next) → k.copy.sectors ≠ [] →
    ∃ t m x, exec (.transferAccept sl) s = .next t ∧ t.getCtx id = some m ∧ m.wait = .none ∧ m.run = .ready ∧
      m.pc = k.unit.addr + 4 ∧ m.reg d = (if d = 0 then {} else ⟨g.next.setWidth 256, false⟩) ∧
      (∀ r, r ≠ d → m.reg r = k.reg r) ∧ (t.engine e).xfers = g.xfers ++ [x] ∧ x.id = g.next ∧ x.todo = k.copy.sectors) ∧
  (∀ cl xid k x, let e := copyEngine cl
    s.xferOf e xid = some x →
    ((x.todo.contains k = false ∨ (s.engine e).xferReady x = false) → exec (.copySector cl xid k) s = .next s) ∧
    (x.todo.contains k = true → (s.engine e).xferReady x = true →
      let y : Xfer := { x with todo := x.todo.filter (· != k), code := if x.code = 2 then 1 else x.code, started := true }
      ∀ u, (s.updXfer e xid fun _ => y).moveSector (engineCluster e) y k = .ok (u, []) →
        u.engines = (s.updXfer e xid fun _ => y).engines → x.id = xid → x.regs.bar.tag = false → y.todo ≠ [] →
        ∃ t, exec (.copySector cl xid k) s = .next t ∧ t.xferOf e xid = some { y with written := x.written + 1 } ∧
          t.mem = u.mem ∧ t.tags = u.tags)) ∧
  (∀ (e : EngineIx) (j : Job),
    let forms : List (Instr × BitVec 8) := [(.creplay e, 0x30), (.cabort e, 0x31)]
    Runs s e .copy j →
      (s.jobXfer e j = none → ∀ f ∈ forms, j.cmd = f.2 → ∃ t, exec f.1 s = .next t ∧ JobEnded t e j.id 0 0 0 0 ∧
        t.mem = s.mem ∧ (t.engine e).xfers = (s.engine e).xfers) ∧
      (∀ x, s.jobXfer e j = some x →
        (j.cmd = 0x30 → x.parked = [] → ∃ t, exec (.creplay e) s = .next t ∧ JobEnded t e j.id 0 0 0 0 ∧
          t.mem = s.mem ∧ (t.engine e).xfers = (s.engine e).xfers) ∧
        (j.cmd = 0x31 → x.regs.bar.tag = false → (∀ k ∈ (s.engine e).jobs, k.id ≠ x.id) →
          x.regs.mode.getLsbD 33 = false → ∃ t, exec (.cabort e) s = .next t ∧
          JobEnded t e j.id 0 0 (.ofNat 32 x.written) 0 ∧ t.xferOf e x.id = none ∧
          statusCode ((t.engine e).statusOf j.asid x.id) = 6 ∧ t.mem = s.mem) ∧
        (j.cmd = 0x30 → x.regs.bar.tag = false → x.regs.mode.getLsbD 33 = false → ∀ k, x.parked = [k] → x.todo = [] →
          let y : Xfer := { x with parked := [], faultPages := [], code := if x.code = 2 then 1 else x.code, started := true }
          let s1 := ((s.updJob e j.id fun j => { j with xbar := x.regs.bar }).updXfer e x.id fun z =>
            { z with parked := [], faultPages := [] }).updXfer e x.id fun _ => y
          ∀ u, s1.moveSector (engineCluster e) y k = .ok (u, []) → u.engines = s1.engines →
            ∃ t, exec (.creplay e) s = .next t ∧ JobEnded t e j.id 0 0 1 0 ∧ t.mem = u.mem ∧
              t.xferOf e x.id = none)))

/-- R291, R315, R316, R318, R367. Each form is a step, the kind of its engine, its command code, and whether it reports
a fault place. -/
def Obligations.JobStarts : Prop := ∀ (s : State) (e : EngineIx) (j : Job) (bytes : List Byte),
  let k := engineKind e
  let forms : List (Instr × EngineKind × BitVec 8 × Bool) :=
    [(.nop e, k, 0x00, false), (.mma e, .matrix, 0x10, true), (.mmas e, .matrix, 0x11, true),
     (.mzero e, .matrix, 0x12, true), (.mlda e, .matrix, 0x13, true), (.msta e, .matrix, 0x14, true),
     (.mcvt e, .matrix, 0x15, true), (.red e, .matrix, 0x20, true), (.adjb e, .matrix, 0x21, true),
     (.wrel e, .matrix, 0x22, true), (.creplay e, .copy, 0x30, false), (.cabort e, .copy, 0x31, false),
     (.reshard e, .siphon, 0x40, false), (.rsresume e, .siphon, 0x41, false), (.rsquery e, .siphon, 0x42, false),
     (.bcopy e bytes, k, 0x50, false), (.bfill e, k, 0x51, false), (.tcount e, k, 0x53, false)]
  let moves : List (BitVec 8) := [0x14, 0x15, 0x50, 0x51, 0x53]
  let few := (s.engine e).jobs.countP (fun j => j.stage != .queued) < 8
  (s.engine e).head = some j → ∀ f ∈ forms, (f.2.2.1 ∈ moves → (s.engine e).paused f.2.2.1 = none) →
    (k ≠ f.2.1 ∨ j.cmd ≠ f.2.2.1 ∨ (f.2.1.serial f.2.2.1 && (s.engine e).oneBusy) = true → exec f.1 s = .next s) ∧
    (k = f.2.1 → j.cmd = f.2.2.1 → (f.2.1.serial f.2.2.1 && (s.engine e).oneBusy) = false →
      (f.2.2.1.toNat < 0x50 ∨ few) →
      (s.jobWait e j = .wait → exec f.1 s = .next s) ∧
      (s.jobWait e j = .skip → ∃ t v, exec f.1 s = .next t ∧ JobEnded t e j.id 3 0 v 0 ∧ t.mem = s.mem ∧ t.cx = s.cx) ∧
      (s.jobWait e j = .fault → ∃ t v, exec f.1 s = .next t ∧
        JobEnded t e j.id 4 0x05 v (if f.2.2.2 then 10 else 0) ∧ t.mem = s.mem ∧ t.cx = s.cx))

/-- R86, R105, R310 to R312, R315, R316, R319, R323 to R326; cycles without a power limit in force. -/
def Obligations.MatrixResults : Prop := ∀ (s : State) (e : EngineIx) (j : Job),
  let w := j.word
  let m := MmaSpec.ofWord w
  let n := 8 * 2 ^ wf w 152 2
  let la := w.extractLsb' 64 20
  let lb := w.extractLsb' 84 20
  let lx := w.extractLsb' 132 20
  let dense : List Locator := [⟨1, la, operandBytes m.ta m.pa⟩, ⟨2, lb, operandBytes m.tb m.pb⟩]
  let sparse : List Locator :=
    [⟨1, la, operandBytes m.ta m.pa⟩, ⟨2, lb, 128 / n * operandBytes m.tb m.pb⟩, ⟨3, lx, 16384⟩]
  let bank := s.bankKey e j false
  let outside (t : State) : Prop := ∀ x, x < bank ∨ bank + 32768 ≤ x → Memory.byte t.mem x = Memory.byte s.mem x
  let ra := (s.operandRows (s.locAt e j la) m.ta m.pa 1).1
  let rb (k : Nat) := (s.operandRows (s.locAt e j lb) m.tb m.pb k).1
  let ix (r : Nat) : List Byte := s.bytes (s.locAt e j lx + 256 * r) 256
  let ks (r : Nat) : List Nat := (ix r).zipIdx.map fun (b, i) => 128 * (i / n) + b.toNat
  let outputs (t : State) (k : Nat) (meets : Nat → List Meeting) : Prop := ∀ r c, r < 64 → c < 64 →
    t.bankElem e j false (64 * r + c) =
      (m.output (meets r) (ra.getD r []) ((rb k).getD c []) (s.bankElem e j false (64 * r + c))).1 % 2 ^ 64
  (Runs s e (engineKind e) j → j.cmd = 0x00 → ∃ t, exec (.nop e) s = .next t ∧ JobEnded t e j.id 0 0 0 0 ∧
    t.mem = s.mem ∧ t.clusters = s.clusters ∧ t.cx = s.cx) ∧
  (Runs s e .matrix j →
    (∀ x ∈ ([(.mma e, 0x10, dense), (.mmas e, 0x11, sparse), (.mzero e, 0x12, [])] : List (Instr × BitVec 8 × List Locator)),
      ∀ c o, j.cmd = x.2.1 → s.startBad e j x.2.2 [] = some (c, o) →
      ∃ t v, exec x.1 s = .next t ∧ JobEnded t e j.id 4 c v (faultPlace o 0) ∧ t.mem = s.mem) ∧
    (s.powerLimited = false → s.memErr = false →
      (j.cmd = 0x12 → s.startBad e j [] [] = none → ∃ t, exec (.mzero e) s = .next t ∧ JobEnded t e j.id 0 0 88 0 ∧
        (∀ i, i < 32768 → Memory.byte t.mem (bank + i) = 0) ∧
        (w.getLsbD 64 = false → outside t) ∧
        (w.getLsbD 64 = true → ∀ i, i < 32768 → Memory.byte t.mem (s.bankKey e j true + i) = 0)) ∧
      (j.cmd = 0x10 → s.startBad e j dense [] = none → ∃ t, exec (.mma e) s = .next t ∧
        JobEnded t e j.id 0 0 (.ofNat 32 (Nat.min (24 + mmaTime m dense) 0xFFFFFFFF)) 0 ∧
        outputs t 1 (fun _ => denseMeetings) ∧ outside t) ∧
      (j.cmd = 0x11 → s.startBad e j sparse [] = none →
        (∀ r, (List.range 64).find? (fun r => !indexRowOk n (ix r)) = some r →
          ∃ t, exec (.mmas e) s = .next t ∧ t.mem = s.mem ∧
            JobEnded t e j.id 7 0 (.ofNat 32 (Nat.min (24 + mmaTime m sparse) 0xFFFFFFFF)) (faultPlace 3 r)) ∧
        ((∀ r, r < 64 → indexRowOk n (ix r) = true) → ∃ t, exec (.mmas e) s = .next t ∧
          JobEnded t e j.id 0 0 (.ofNat 32 (Nat.min (24 + mmaTime m sparse) 0xFFFFFFFF)) 0 ∧
          outputs t (128 / n) (fun r => sparseMeetings (ks r)) ∧ outside t))))

/-- R312, R315 to R319, R328 to R330. The accesses are those of `readSectors` and `State.storeSector`; the open order of
the sectors, and where a run pauses, are `State.runPieces` (log entries 10, 67). -/
def Obligations.BankMoves : Prop := ∀ (s : State) (e : EngineIx) (j : Job),
  let cl := engineCluster e
  let w := j.word
  let k := j.extraCap 0
  let off := k.offset.toNat
  let t := (elemOfCode (wf w 64 5)).getD .s32
  let src := accType (wf w 69 2)
  let rb := mcvtRow t
  let pitch := if wf w 80 16 = 0 then rb else wf w 80 16
  let rows := (List.range 64).map fun m => (cvtRow t (w.getLsbD 71) ((List.range 64).map fun n =>
    src.decode (s.bankElem e j (w.getLsbD 72) (64 * m + n) % 2 ^ src.bits))).1
  let msta (p : Piece) (u : State) : Except (Bad × Nat) (List Piece × List Ev × State) :=
    match p with
    | .move i => u.storeSector e j (32 * i) (u.bytes (u.bankKey e j (w.getLsbD 64) + 32 * i) 32)
    | .put .. => .ok ([], [], u)
  let mcvt (p : Piece) (u : State) : Except (Bad × Nat) (List Piece × List Ev × State) :=
    match p with
    | .move i =>
      let m := i / (rb / 32)
      let c := i % (rb / 32)
      u.storeSector e j (m * pitch + 32 * c) (((rows.getD m []).drop (32 * c)).take 32)
    | .put .. => .ok ([], [], u)
  let moves (i : Instr) (total : Nat) (go : Piece → State → Except (Bad × Nat) (List Piece × List Ev × State))
      (todo : List Piece) : Prop :=
    ∀ m, s.runPieces go todo.length todo = m → m.state.engines = s.engines → ∃ t, exec i s = .next t ∧
      (m.bad = none → m.left = [] → JobEnded t e j.id 0 0 (.ofNat 32 total) 0 ∧ t.mem = m.state.mem ∧ t.tags = m.state.tags) ∧
      (m.bad = none → m.left ≠ [] → t.mem = m.state.mem ∧ t.tags = m.state.tags ∧
        ∃ x, t.jobOf e j.id = some x ∧ x.stage = .running ∧ x.todo = some m.left) ∧
      ∀ b pos, m.bad = some (b, pos) → JobEnded t e j.id 4 b.1.code (.ofNat 32 (total - m.left.length))
        (faultPlace (if b.1 = .memError then 6 else 4) pos)
  let fresh (cmd : BitVec 8) : Prop := (s.engine e).paused cmd = none
  (Runs s e .matrix j →
    (∀ x ∈ ([(.mlda e, 0x13), (.msta e, 0x14), (.mcvt e, 0x15)] : List (Instr × BitVec 8)),
      ∀ c o, j.cmd = x.2 → (x.2 ≠ 0x13 → fresh x.2) → s.startBad e j [] [4] = some (c, o) →
      ∃ t v, exec x.1 s = .next t ∧ JobEnded t e j.id 4 c v (faultPlace o 0) ∧ t.mem = s.mem) ∧
    (s.startBad e j [] [4] = none → s.powerLimited = false →
      (j.cmd = 0x13 → s.capNear e j 0 = true →
        (∀ bs u, readSectors cl j.asid k 1024 off 0 s = .ok (bs, u) → u.engines = s.engines →
          ∃ t, exec (.mlda e) s = .next t ∧ JobEnded t e j.id 0 0 88 0 ∧ t.bytes (u.bankKey e j false) bs.length = bs ∧
            ∀ x, x < u.bankKey e j false ∨ u.bankKey e j false + bs.length ≤ x →
              Memory.byte t.mem x = Memory.byte u.mem x) ∧
        (∀ b pos, readSectors cl j.asid k 1024 off 0 s = .error (b, pos) → ∃ t, exec (.mlda e) s = .next t ∧
          JobEnded t e j.id 4 b.1.code 88 (faultPlace 4 pos))) ∧
      (j.cmd = 0x14 → fresh 0x14 → moves (.msta e) 1024 msta ((List.range 1024).map .move)) ∧
      (j.cmd = 0x15 → fresh 0x15 →
        moves (.mcvt e) (64 * (rb / 32)) mcvt ((List.range (64 * (rb / 32))).map .move)))) ∧
  (∀ todo, j.todo = some todo →
    ((s.engine e).paused 0x14 = some j → moves (.msta e) 1024 msta todo) ∧
    ((s.engine e).paused 0x15 = some j → moves (.mcvt e) (64 * (rb / 32)) mcvt todo))

/-- R332, R335, R336, R343, R345, R346. -/
def Obligations.WitnessResults : Prop := ∀ (s : State) (e : EngineIx) (j : Job),
  let cl := engineCluster e
  let w := j.word
  let slot := s.witSlot cl j.acc
  let h := redShape w
  let tile : Locator := ⟨8, w.extractLsb' 144 20, witTileBytes h.bodyBytes⟩
  let gen := if slot.valid then slot.gen + 1 else slot.gen
  let hd := s.nat (Place.spad (memberCore cl slot.core.toNat) slot.base).key 32
  let a := adjShape w (bitsOf hd 4 2)
  let wgen := w.extractLsb' 64 24
  Runs s e .matrix j →
    (∀ x ∈ ([(.red e, 0x20, [tile], [4, 7]), (.adjb e, 0x21, [], [4, 7]), (.wrel e, 0x22, [], [])] :
        List (Instr × BitVec 8 × List Locator × List Nat)),
      ∀ c o, j.cmd = x.2.1 → s.startBad e j x.2.2.1 x.2.2.2 = some (c, o) →
      ∃ t v, exec x.1 s = .next t ∧ JobEnded t e j.id 4 c v (faultPlace o 0) ∧ t.mem = s.mem) ∧
    (j.cmd = 0x22 → s.startBad e j [] [] = none → ∃ t, exec (.wrel e) s = .next t ∧
      JobEnded t e j.id 0 0 ((slot.gen + 1).setWidth 32) 0 ∧ t.mem = s.mem ∧
      t.witSlot cl j.acc = { slot with gen := slot.gen + 1, valid := false }) ∧
    (s.powerLimited = false → j.cmd = 0x20 → s.startBad e j [tile] [4, 7] = none →
      let es := (operandType w 72).bits / 8
      let src := j.extraCap 0
      let out := j.extraCap 1
      let stride := if wf w 104 8 = 0 then es else wf w 104 8
      let pitch := if wf w 112 16 = 0 then h.cols * stride else wf w 112 16
      let opitch := if wf w 128 16 = 0 then h.ocols * es else wf w 128 16
      let s1 := s.updWit cl j.acc fun x => if x.valid then x.release else x
      let offs := tileOffsets src.offset.toNat h.rows h.cols pitch stride
      let bounds := (j.extra 2).val.toNat
      ∀ secs u, readSectorList cl j.asid src (sectorsOf offs) s1 = .ok (secs, u) →
        let rs := (List.range h.outputs).map fun o =>
          redOutput (operandType w 72) h (bitsOf bounds 0 (8 * es)) (bitsOf bounds 64 (8 * es))
            ((h.group o).map fun (i, c) => elemAt secs (src.offset.toNat + i * pitch + c * stride) es)
        let ooffs := tileOffsets out.offset.toNat h.orows h.ocols opitch es
        let bytes := toBytes (witHeader h (wf w 72 5) j gen) 32 ++ witBody h rs
        ∀ n v, writeSectorList cl j.asid out (ooffs.zip (rs.map fun r => toBytes r.v es)) (sectorsOf ooffs) 0 u
            = (n, none, v) → v.engines = s.engines → v.locAt e j (w.extractLsb' 144 20) = s.locAt e j (w.extractLsb' 144 20) →
          ∃ t, exec (.red e) s = .next t ∧ JobEnded t e j.id 0 0 (gen.setWidth 32) 0 ∧
            t.bytes (s.locAt e j (w.extractLsb' 144 20)) bytes.length = bytes ∧
            (t.witSlot cl j.acc).valid = true ∧ (t.witSlot cl j.acc).core = w.extractLsb' 161 3 ∧
            (t.witSlot cl j.acc).off = w.extractLsb' 144 17 ∧
            ∀ x, x < s.locAt e j (w.extractLsb' 144 20) ∨
              s.locAt e j (w.extractLsb' 144 20) + Nat.max bytes.length (witTileBytes h.bodyBytes) ≤ x →
              Memory.byte t.mem x = Memory.byte v.mem x) ∧
    (s.powerLimited = false → s.memErr = false → j.cmd = 0x21 → s.startBad e j [] [4, 7] = none →
      (slot.valid = false ∨ wgen ≠ slot.gen ∨ bitsOf hd 64 24 ≠ wgen.toNat ∨ bitsOf hd 0 4 ≠ wf w 128 4 →
        ∃ t, exec (.adjb e) s = .next t ∧ JobEnded t e j.id 5 0 0 0 ∧ t.mem = s.mem) ∧
      (slot.valid = true → wgen = slot.gen → bitsOf hd 64 24 = wgen.toNat → bitsOf hd 0 4 = a.op → bitsOf hd 6 1 = a.axis →
        bitsOf hd 8 8 = a.g - 1 → bitsOf hd 16 8 = a.rows - 1 → bitsOf hd 24 8 = a.cols - 1 →
        (headerOk hd a = false → ∃ t, exec (.adjb e) s = .next t ∧ JobEnded t e j.id 7 0 0 8 ∧ t.mem = s.mem) ∧
        (headerOk hd a = true → ∀ f, (operandType w 136).fmt = some f →
          let es := (operandType w 136).bits / 8
          let grad := j.extraCap 0
          let dest := j.extraCap 1
          let gpitch := if wf w 168 16 = 0 then a.ocols * es else wf w 168 16
          let dpitch := if wf w 184 16 = 0 then a.cols * es else wf w 184 16
          let goff (o : Nat) : Nat := grad.offset.toNat + o / a.ocols * gpitch + o % a.ocols * es
          let doff (i c : Nat) : Nat := dest.offset.toNat + i * dpitch + c * es
          let body := s.bytes ((Place.spad (memberCore cl slot.core.toNat) slot.base).key + 32) a.bodyBytes
          ∀ gs u ds v, readSectorList cl j.asid grad (sectorsOf ((List.range a.outputs).map goff)) s = .ok (gs, u) →
            readSectorList cl j.asid dest (sectorsOf (tileOffsets dest.offset.toNat a.rows a.cols dpitch es)) u
              = .ok (ds, v) →
            (∀ o, (List.range a.outputs).find? (fun o => (adjRoute a body o).isNone) = some o → v.engines = s.engines →
              ∃ t, exec (.adjb e) s = .next t ∧ JobEnded t e j.id 7 0 0 (faultPlace 8 o) ∧ t.mem = v.mem) ∧
            ((∀ o, o < a.outputs → (adjRoute a body o).isSome) →
              let cells := (List.range a.outputs).flatMap fun o => ((adjRoute a body o).getD []).map fun (tt, k) =>
                let (i, c) := (a.group o).getD tt (0, 0)
                (doff i c, toBytes (adjAdd f (elemAt ds (doff i c) es) (elemAt gs (goff o) es) k).1 es)
              ∀ n z, writeSectorList cl j.asid dest cells (sectorsOf (cells.map (·.1))) 0 v = (n, none, z) →
                z.engines = s.engines → ∃ t, exec (.adjb e) s = .next t ∧
                  JobEnded t e j.id 0 0 (.ofNat 32 n) 0 ∧ t.mem = z.mem ∧ t.tags = z.tags))))

/-- R352, R354 to R357, R359, R361, R362. -/
def Obligations.ExchangeResults : Prop := ∀ (s : State) (d a b : Reg),
  let v := (s.bits b).toNat
  let n := bitsOf v 0 16
  let dl := bitsOf v 32 32
  (s.x a = 0 → WritesBits s (.xstat d a) d s.cx.xstat) ∧
  (∀ i : Fin 12, s.x a = .ofNat 64 (i.val + 1) → WritesBits s (.xstat d a) d (.ofNat 256 (s.ports[i].lat.toNat +
    s.ports[i].valid.toNat * 2 ^ 32 + s.ports[i].exMode.toNat * 2 ^ 33 + s.ports[i].peer.toNat * 2 ^ 40))) ∧
  (12 < (s.x a).toNat → WritesBits s (.xstat d a) d 0) ∧
  (∀ x, s.xgoTable a n = .error x → Traps s (.xgo d a b) x.1 x.2) ∧
  (∀ es u, s.xgoTable a n = .ok (es, u) → u.cx = s.cx → u.xarrived = [] → u.cx.id ≠ 0 →
    let m := u.xMember es dl
    let r : XRequest := { group := s.cx.group, fn := s.cx.fn, members := [m] }
    (u.xComplete r = false → ∃ t, exec (.xgo d a b) s = .next t ∧ Waits u t (.xgo d) ∧ t.cx.run = .waiting ∧
      t.xarrived = [r] ∧ t.xqueue = u.xqueue) ∧
    (u.xComplete r = true → u.farLed s.cx.group = false → u.xWeight s.cx.fn ≠ 0 → ∃ t, exec (.xgo d a b) s = .next t ∧ Waits u t (.xgo d) ∧
      t.xarrived = [] ∧ t.xqueue = u.xqueue ++ [r]) ∧
    (u.xComplete r = true → u.farLed s.cx.group = true → ∃ t, exec (.xgo d a b) s = .next t ∧ Waits u t (.xgo d) ∧
      t.xarrived = [r] ∧ t.xqueue = u.xqueue) ∧
    (u.xComplete r = true → u.farLed s.cx.group = false → u.xWeight s.cx.fn = 0 → ∃ t, exec (.xgo d a b) s = .next t ∧ Result u t d ⟨3, false⟩ ∧
      t.cx.wait = .none ∧ t.cx.xstat = 3 ∧ t.xarrived = [] ∧ t.xqueue = u.xqueue)) ∧
  (s.xarrived = [] →
    let have_ := tget s.deficits s.xvisit.toNat 0
    ((s.phase.isSome = true ∨ s.xqueue = []) → exec .exchangeGrant s = .next s) ∧
    (s.phase = none → ∀ r, s.xHead s.xvisit = some r → s.xWeight s.xvisit ≠ 0 →
      (r.length ≤ have_ → ∃ t p, exec .exchangeGrant s = .next t ∧ t.phase = some p ∧ p.group = r.group ∧
        p.dp = r.length ∧ p.members.length = r.members.length ∧ p.flits = [] ∧
        t.xqueue = s.xqueue.eraseP (fun x => x.fn == s.xvisit) ∧ t.cx = s.cx ∧ t.mem = s.mem) ∧
      (s.xqueue = [r] → s.xvisit.toNat < 65 → have_ + s.xWeight s.xvisit * 1024 < r.length →
        ∃ t, exec .exchangeGrant s = .next t ∧ t.phase = none ∧ t.xqueue = [r] ∧ t.xvisit = s.xvisit ∧
          tget t.deficits s.xvisit.toNat 0 = have_ + s.xWeight s.xvisit * 1024))) ∧
  (∀ p, s.phase = some p →
    (∀ k ∈ ([(.send, 1), (.recv, 2), (.recvadd, 3), (.recvaddsend, 4)] : List (Instr × BitVec 8)),
      p.items = [] ∨ (∃ x rest, p.items = x :: rest ∧ (x.kind ≠ k.2 ∨ s.cycle.toNat < p.t0.toNat + x.cycle)) →
      exec k.1 s = .next s) ∧
    (∀ x rest m, p.items = x :: rest → p.t0.toNat + x.cycle ≤ s.cycle.toNat → p.members[x.member]? = some m →
      (s.getCtx m.ctx).isSome →
      let mine (f : Flit) : Bool := f.core == m.core && f.dir == x.dir && f.cycle + 1 == x.cycle
      (x.kind = 1 → x.dir.toNat < 4 → exec .send s = .next { s with phase := some { p with
        items := rest, flits := p.flits ++ [⟨(torusNeighbour m.core x.dir).1, (torusNeighbour m.core x.dir).2, x.cycle + 2,
          .ofNat 256 (s.nat x.key 32)⟩] } }) ∧
      (x.kind = 1 → ∀ i : Fin 12, x.dir.toNat = i.val + 4 → ∃ t, exec .send s = .next t ∧ t.mem = s.mem ∧
        t.phase = some { p with items := rest } ∧
        t.net = s.net ++ [.flit (.ofNat 4 i.val) (.ofNat 64 (x.cycle + s.ports[i].lat.toNat)) (.ofNat 256 (s.nat x.key 32))]) ∧
      (∀ k ∈ ([(.recv, 2), (.recvadd, 3), (.recvaddsend, 4)] : List (Instr × BitVec 8)), x.kind = k.2 →
        (p.flits.find? mine = none → ∃ t q, exec k.1 s = .next t ∧ t.mem = s.mem ∧ t.phase = some q ∧ q.items = rest ∧
          q.flits = p.flits ∧ q.members = p.members.set x.member { m with miss := m.miss + 1 }) ∧
        (∀ f, p.flits.find? mine = some f → (k.2 = 4 → x.fwd.toNat < 4) →
          let sum : W256 := match xFormat x.fmt with
            | some ty => (xAdd ty (.ofNat 256 (s.nat x.key 32)) f.data).1
            | none => f.data
          ∃ t q, exec k.1 s = .next t ∧ t.bytes x.key 32 = toBytes sum.toNat 32 ∧
            (∀ y, y < x.key ∨ x.key + 32 ≤ y → Memory.byte t.mem y = Memory.byte s.mem y) ∧
            t.phase = some q ∧ q.items = rest ∧ q.flits = p.flits.eraseP mine ++ (if k.2 = 4 then
              let nbr := torusNeighbour m.core (x.fwd.setWidth 8)
              [⟨nbr.1, nbr.2, x.cycle + 1 + 2, sum⟩] else []))))) ∧
  (∀ p, s.phase = some p →
    (p.items ≠ [] ∨ s.cycle.toNat < p.t0.toNat + p.dp + 8 → exec .xgoReturn s = .next s) ∧
    (∀ m c, p.items = [] → p.t0.toNat + p.dp + 8 ≤ s.cycle.toNat → p.members = [m] → m.ctx ≠ 0 →
      s.getCtx m.ctx = some c → c.wait = .xgo d → ∃ t k, exec .xgoReturn s = .next t ∧ t.phase = none ∧
        t.getCtx m.ctx = some k ∧ k.wait = .none ∧ k.run = .ready ∧ k.pc = c.unit.addr + 4 ∧
        k.reg d = (if d = 0 then {} else ⟨s.xFinal p m, false⟩) ∧ (∀ r, r ≠ d → k.reg r = c.reg r) ∧
        k.xstat = s.xFinal p m ∧ k.nec = (c.addCounts m.counts).nec ∧ t.mem = s.mem))

/-- R366 to R368, R370 to R373. The open order of the pieces is `pieceLoop` (log entry 10), and where a run pauses is
`State.slice` (log entry 67). -/
def Obligations.BulkResults : Prop := ∀ (s : State) (e : EngineIx) (j : Job) (bytes : List Byte),
  let here := s.jobOf e j.id = some j ∧ j.inner = none
  let starts (cmd : BitVec 8) : Prop := Runs s e (engineKind e) j ∧ j.cmd = cmd ∧ (s.engine e).paused cmd = none ∧
    (s.engine e).jobs.countP (fun j => j.stage != .queued) < 8
  let w := j.word
  let xl := xlateCluster e
  (here →
    (∀ f ∈ ([(.bcopy e bytes, 0x50, bytes), (.bfill e, 0x51, [])] : List (Instr × BitVec 8 × List Byte)),
      starts f.2.1 ∨ (s.engine e).paused f.2.1 = some j →
      let r := BulkRun.of e j w j.caps f.2.2
      let todo := j.todo.getD r.pieces
      let all := 9 * todo.length
      (r.src.map (·.remote s)).getD false = false → r.dst.remote s = false →
      ∀ m, pieceLoop (bulkPiece r) (Nat.min (s.slice all).1 all) todo [] (s.slice all).2 = m → m.state.engines = s.engines →
      let u := m.state.countFor j.ctx m.evs
      (m.bad = none → m.left = [] →
        (w.getLsbD 98 = false → ∃ t, exec f.1 s = .next t ∧
          JobEnded t e j.id 0 0 (.ofNat 32 (Nat.min r.len 0xFFFFFFFF)) 0 ∧ t.mem = u.mem ∧ t.tags = u.tags) ∧
        (∀ v, u.bulkCounter r = (none, v) → v.engines = s.engines → ∃ t, exec f.1 s = .next t ∧
          JobEnded t e j.id 0 0 (.ofNat 32 (Nat.min r.len 0xFFFFFFFF)) 0 ∧ t.mem = v.mem ∧ t.tags = v.tags)) ∧
      (m.bad = none → m.left ≠ [] → ∃ t k, exec f.1 s = .next t ∧ t.jobOf e j.id = some k ∧ k.stage = .running ∧
        k.todo = some m.left ∧ k.parked = j.parked ∧ t.mem = u.mem ∧ t.tags = u.tags) ∧
      (∀ x, m.bad = some x →
        let n : BitVec 32 := .ofNat 32 (r.written m.left)
        let base := if x.opnd = 4 then (r.src.map (·.start)).getD 0 else r.dst.start
        let place := faultPlace x.opnd ((base + x.at_) / 32 - base / 32)
        (x.local_ = true → x.bad.1 = .pageFault ∨ x.bad.1 = .rdupWrite → ∃ t k, exec f.1 s = .next t ∧
          t.jobOf e j.id = some k ∧ k.stage = .running ∧ k.value0 = n ∧ k.value1 = place ∧ k.todo = some m.left ∧
          k.parked = true) ∧
        (x.local_ = false ∨ (x.bad.1 ≠ .pageFault ∧ x.bad.1 ≠ .rdupWrite) → ∃ t, exec f.1 s = .next t ∧
          JobEnded t e j.id 4 x.bad.1.code n place))) ∧
    (starts 0x53 → w.getLsbD 128 = false →
      let k := j.extraCap 0
      (∀ key tag u, s.engReach xl j.asid k .write k.offset.toNat 8 = .ok (.bytes key tag, u) → key < 2 ^ 64 →
        u.engines = s.engines → ∃ t, exec (.tcount e) s = .next t ∧ JobEnded t e j.id 0 0 8 0 ∧
          t.nat key 8 = (u.nat key 8 + (w.extractLsb' 64 64).toNat) % 2 ^ 64 ∧
          ∀ x, x < key ∨ key + 8 ≤ x → Memory.byte t.mem x = Memory.byte u.mem x) ∧
      (∀ b, s.engReach xl j.asid k .write k.offset.toNat 8 = .error b → b.1 ≠ .pageFault → b.1 ≠ .rdupWrite →
        ∃ t, exec (.tcount e) s = .next t ∧ JobEnded t e j.id 4 b.1.code 0 (faultPlace 9 0)))) ∧
  (∀ k, (s.engine e).jobs.find? (fun j => j.inner.isSome && !j.seen) = some k →
    let s1 := s.updJob e k.id fun j => { j with seen := true }
    let k1 := { k with seen := true }
    (s1.trigNext e k1 = false → exec (.trig e) s = .next s1) ∧
    (s1.trigNext e k1 = true → exec (.trig e) s = .next (s1.fireTrig e k1))) ∧
  (∀ id k i, s.jobOf e id = some k → k.inner = some i →
    (s.trigNext e k = false → k.fired = false → exec (.trigFire e id) s = .next s) ∧
    (k.fired = true → (s.engine e).paused k.cmd = some k → exec (.trigFire e id) s = .next (s.runBulk e k [])) ∧
    (s.trigNext e k = true →
      let k1 : Job := { k with fired := true, stage := .running }
      let s1 := s.updJob e id fun j => { j with fired := true, stage := .running }
      (∀ v0 u, s1.bulkWork e k1 i.1 i.2 [] = (.done v0, u) → u.engines = s1.engines → ∃ t,
        exec (.trigFire e id) s = .next t ∧ JobEnded t e id 0 0 v0 0 ∧ t.mem = (u.subtractThresh e k1).mem) ∧
      (∀ c v0 v1 u, s1.bulkWork e k1 i.1 i.2 [] = (.fail c v0 v1, u) → u.engines = s1.engines → ∃ t,
        exec (.trigFire e id) s = .next t ∧ JobEnded t e id 4 c v0 v1 ∧ t.mem = u.mem))) ∧
  (∀ (chip : ChipIx) (txn : Nat) (key : W256) (off : Word) (v : Word) (n : Nat),
    let k := Key.ofBits key
    (∀ x ∈ ([(.read n, permR, n), (.write bytes, permW, bytes.length), (.add v, permA, 8)] : List (KeyedOp × BitVec 12 × Nat)),
      ∀ c, s.keyedExport k x.2.1 off.toNat x.2.2 = .error c →
      exec (.keyedAccess chip txn key off x.1) s = .next (s.send (.keyedReply chip txn c.code []))) ∧
    (∀ x bs u, s.keyedExport k permR off.toNat n = .ok x → engRead 0 x.asid x.cap (n + 1) off.toNat n s = .ok (bs, u) →
      exec (.keyedAccess chip txn key off (.read n)) s = .next (u.send (.keyedReply chip txn 0 bs))))

/-- R374, R376 to R378, R380. -/
def Obligations.SiphonResults : Prop := ∀ (s : State) (e : EngineIx) (j : Job),
  let forms : List (Instr × BitVec 8) := [(.reshard e, 0x40), (.rsresume e, 0x41)]
  let plan (src dst : List Byte) (keys : List (BitVec 128)) : Plan :=
    { job := j.id, first := j.id, asid := j.asid, caps := j.caps, src := src, dst := dst, keys := keys
      dcur := 0, scur := 0, row := 0, secs := 0, mine := 0 }
  let running (u : State) : State := u.updJob e j.id fun j => { j with stage := .running }
  let goes (i : Instr) (p : Plan) (u : State) : Prop := ∀ q v, u.planNext p = some q → u.writeRecord q 1 0 = .ok v →
    v.engines = u.engines → ∃ t, exec i s = .next t ∧ t.plan = some q ∧ t.mem = v.mem ∧
      (∃ k, t.jobOf e j.id = some k ∧ k.stage = .running)
  (Runs s e .siphon j →
    (∀ b o pos, s.planOperands j = .error (b, o, pos) → ∀ f ∈ forms, j.cmd = f.2 → ∃ t, exec f.1 s = .next t ∧
      JobEnded t e j.id 4 b.1.code 0 (faultPlace o pos) ∧ t.plan = none) ∧
    (∀ src dst keys u, s.planOperands j = .ok ((src, dst, keys), u) → u.engines = s.engines →
      (∀ o pos, planBad src dst (wf j.word 64 8) = some (o, pos) → ∀ f ∈ forms, j.cmd = f.2 → ∃ t, exec f.1 s = .next t ∧
        JobEnded t e j.id 7 0 0 (faultPlace o pos) ∧ t.mem = u.mem) ∧
      (planBad src dst (wf j.word 64 8) = none →
        (j.cmd = 0x40 → ∀ v, (running u).writeRecord (plan src dst keys) 1 0 = .ok v → v.engines = (running u).engines →
          (∀ q, v.planNext (plan src dst keys) = some q → ∃ t, exec (.reshard e) s = .next t ∧ t.plan = some q ∧
            t.mem = v.mem ∧ ∃ k, t.jobOf e j.id = some k ∧ k.stage = .running) ∧
          (v.planNext (plan src dst keys) = none → exec (.reshard e) s = .next (v.planDone e (plan src dst keys)))) ∧
        (j.cmd = 0x41 → ∀ r v, readSectors 0 j.asid (j.extraCap 2) 2 (j.extraCap 2).offset.toNat 0 u = .ok (r, v) →
          v.engines = s.engines →
          (numAt r 0 4 ≠ (crc32 (src ++ dst)).toNat → ∃ t, exec (.rsresume e) s = .next t ∧ JobEnded t e j.id 7 0 0 8) ∧
          (numAt r 0 4 = (crc32 (src ++ dst)).toNat →
            (numAt r 24 1 = 4 → ∃ t, exec (.rsresume e) s = .next t ∧ JobEnded t e j.id 0 0 0 0) ∧
            (numAt r 24 1 ≠ 4 → goes (.rsresume e) { plan src dst keys with
              first := .ofNat 16 (numAt r 4 2), dcur := numAt r 8 1, scur := numAt r 9 1, row := numAt r 10 4,
              secs := numAt r 16 8 } (running v)))))) ∧
    (j.cmd = 0x42 →
      (∀ b, s.progress j = .error b → ∃ t, exec (.rsquery e) s = .next t ∧ JobEnded t e j.id 4 b.1.code 0 4) ∧
      (∀ r u, s.progress j = .ok (r, u) → u.engines = s.engines → ∃ t, exec (.rsquery e) s = .next t ∧ t.mem = u.mem ∧
        JobEnded t e j.id 0 0 (.ofNat 32 (numAt r 16 4)) (.ofNat 32 (numAt r 8 2 + numAt r 24 2 * 2 ^ 16))))) ∧
  (s.plan = none → ∀ o, exec (.boxRowComplete o) s = .next s) ∧
  (∀ p, s.plan = some p → (s.jobOf siphonEngine p.job).isSome = true → s.slices = [] →
    p.ahead = [] →
    let src := Tlr.ofBytes p.src
    let dst := Tlr.ofBytes p.dst
    let es := p.rowElems src dst p.dcur p.scur p.row
    let moved := (sectorsOf (es.flatMap fun x => [x.2, x.2 + src.elemBytes - 1])).length
    (s.rowRemote p = true → (∀ v, s.writeRecord p 3 0x16 = .ok v → v.engines = s.engines) → ∃ t o, exec (.boxRowComplete .linkLost) s = .next t ∧ t.plan = none ∧
      JobEnded t siphonEngine p.job 4 0x16 (.ofNat 32 p.mine) (faultPlace o p.row)) ∧
    (∀ remote c o u, rowLoop p.asid p.job src.elemBytes (p.shard src p.scur).1 (p.shard dst p.dcur).1 es remote s = (some (c, o), u) →
      u.engines = s.engines → (∀ v, u.writeRecord p 2 c.code.toNat = .ok v → v.engines = u.engines) →
      ∃ t, exec (.boxRowComplete (.moved remote)) s = .next t ∧ t.plan = none ∧
        JobEnded t siphonEngine p.job 4 c.code (.ofNat 32 p.mine) (faultPlace o p.row)) ∧
    (∀ remote u, rowLoop p.asid p.job src.elemBytes (p.shard src p.scur).1 (p.shard dst p.dcur).1 es remote s = (none, u) →
      let p1 := { p with row := p.row + 1, secs := p.secs + moved, mine := p.mine + moved }
      ∀ q v, u.planNext p1 = some q → u.writeRecord q 1 0 = .ok v →
        ∃ t, exec (.boxRowComplete (.moved remote)) s = .next t ∧ t.plan = some q ∧ t.mem = v.mem))

/-- R196, R197, R210, R364, R365, R411, R440. -/
def Obligations.PeerServes : Prop := ∀ (s : State) (chip : ChipIx) (txn : Nat) (part : BitVec 8),
  let answered (i : Instr) (m : NetMsg) : Prop := exec i s = .next (s.send m)
  let kept (t : State) : Prop := t.cx = s.cx ∧ t.ctxs = s.ctxs
  (∀ used, answered (.nwalk chip txn part [] used) (.walkReply chip txn (.fail NameCode.unbound.code (.ofNat 8 used) 7))) ∧
  (∀ name rest used, s.exports.find? (fun e => e.part == part && e.name == name) = none →
    answered (.nwalk chip txn part (name :: rest) used)
      (.walkReply chip txn (.fail NameCode.unbound.code (.ofNat 8 used) 7))) ∧
  (∀ name used e n, s.exports.find? (fun e => e.part == part && e.name == name) = some e → s.nodeAt e.asid e.node = some n →
    answered (.nwalk chip txn part [name] used)
      (.walkReply chip txn (.ok n.ix n.gen n.body.kind e.mask (.ofNat 64 n.extent)))) ∧
  (∀ node gen mask, s.exportFor node gen = none →
    answered (.nopen chip txn node gen mask) (.openReply chip txn (.fail NameCode.stale.code))) ∧
  (∀ node gen mask e, s.exportFor node gen = some e → ∃ t r, exec (.nopen chip txn node gen mask) s = .next t ∧
    t.remotes = s.remotes ++ [r] ∧ t.net = s.net ++ [.openReply chip txn (.ok r.ix r.gen)] ∧ r.chip = chip ∧
    r.mask = mask &&& e.mask ∧ r.local_ = e.handle ∧ r.localGen = e.gen ∧ r.node = node ∧ r.nodeGen = gen ∧ r.next = 0 ∧
    kept t ∧ t.mem = s.mem) ∧
  (∀ (h g : BitVec 24) (seq : Nat) (acc : PeerAccess), let arrives : Instr := match acc with
      | .read off size => .nread chip txn h g seq off size
      | .write off size v => .nwrite chip txn h g seq off size v
      | .qop push v => .nqop chip txn h g seq push v
    (s.remotes.find? (fun r => r.ix == h && r.gen == g && r.chip == chip) = none →
      answered arrives (.accessReply chip txn (.refused 0x07))) ∧
    (∀ r, s.remotes.find? (fun r => r.ix == h && r.gen == g && r.chip == chip) = some r →
      (∀ a, seq < r.next → r.answered.lookup seq = some a → answered arrives (.accessReply chip txn a)) ∧
      (r.next = seq → r.early = [] → r.busy = false → (∀ x ∈ s.remotes, x.ix = r.ix → x = r) →
        let s1 : State := { s with remotes := s.remotes.map fun x =>
          if x.ix = r.ix then { x with next := seq + 1, busy := true } else x }
        let replied (u : State) (a : AccessReply) : Prop := ∃ t, exec arrives s = .next t ∧
          t.net = u.net ++ [.accessReply chip txn a] ∧ t.mem = u.mem ∧ kept t ∧
          ∃ x ∈ t.remotes, x.ix = r.ix ∧ x.next = seq + 1 ∧ x.busy = false ∧ x.answered = (seq, a) :: r.answered
        (s.remoteNode r = none → replied s (.refused 0x07)) ∧
        (∀ n, s.remoteNode r = some n →
          (∀ need : BitVec 12, (need = match acc with
              | .read .. | .qop false _ => permR
              | .write .. | .qop true _ => permW) → r.mask &&& need ≠ need → replied s (.refused 0x06)) ∧
          (∀ (off : Word) (size : MemSize) (key : Nat) (tag : Bool) (u : State), acc = .read off size → r.mask &&& permR = permR → n.body.kind ≠ 1 →
            s1.reach { core := 0, asid := r.asid } r.asid off { acc := .read, n := size.bytes, size := size }
              ((s.space r.asid).nodes.length + 1) n.body off.toNat none = .ok (.bytes key tag, u) → u.memErr = false →
            u.remotes = s1.remotes → u.cx = s.cx → u.ctxs = s.ctxs →
            replied u (.data (.ofNat 256 (ofBytes (u.bytes key size.bytes))))) ∧
          (∀ (off : Word) (size : MemSize) (v : W256) (key : Nat) (tag : Bool) (u : State), acc = .write off size v → r.mask &&& permW = permW → n.body.kind ≠ 1 →
            s1.reach { core := 0, asid := r.asid } r.asid off { acc := .write, n := size.bytes, size := size }
              ((s.space r.asid).nodes.length + 1) n.body off.toNat none = .ok (.bytes key tag, u) → u.remotes = s1.remotes →
            ∃ t, exec arrives s = .next t ∧ t.bytes key size.bytes = toBytes v.toNat size.bytes ∧
              (∀ x, x < key ∨ key + size.bytes ≤ x → Memory.byte t.mem x = Memory.byte u.mem x) ∧
              t.net = u.net ++ [.accessReply chip txn .ack]) ∧
          (∀ (v : W256) (q : Queue), acc = .qop true v → r.mask &&& permW = permW → n.body = .queue q →
            (s.openNode r.asid q.handle q.gen).isSome = true → q.ready true = false →
            ∃ t, exec arrives s = .next t ∧ t.net = s.net ++ [.accessReply chip txn .held] ∧ t.mem = s.mem ∧ kept t))))) ∧
  (∀ h g, ∃ t, exec (.nclose chip txn h g) s = .next t ∧ t.net = s.net ++ [.accessReply chip txn .ack] ∧ kept t ∧
    t.remotes = (s.remotes.filter fun r => !(r.chip == chip && r.ix == h && r.gen == g)) ∧ t.mem = s.mem) ∧
  (∀ page off,
    let far := chip ≠ s.pkg.chip
    let served := part = s.pkg.part ∨ ∃ e ∈ s.fabric, e.part = part
    let open_ := (¬ far ∨ (served ∧ ∀ p ∈ s.ports.toList, p.peer = chip → part ∉ p.frozen))
    (far → ¬ served → ∀ op, ∃ t, exec (.fabricAccess chip txn part page off op) s = .next t ∧ t.net = s.net ∧
      t.mem = s.mem ∧ ∀ i : Fin 12, s.ports[i].peer = chip → part ∈ t.ports[i].frozen) ∧
    (∀ n key, open_ → s.fabricPage part page off false false = some key → answered (.fabricAccess chip txn part page off (.load n))
      (.fabricReply chip txn (some (.ofNat 256 (s.nat key n))))) ∧
    (∀ bs key, open_ → s.fabricPage part page off true false = some key → ∃ t,
      exec (.fabricAccess chip txn part page off (.store bs)) s = .next t ∧ t.bytes key bs.length = bs ∧
      (∀ x, x < key ∨ key + bs.length ≤ x → Memory.byte t.mem x = Memory.byte s.mem x) ∧
      t.net = s.net ++ [.fabricReply chip txn (some 0)]) ∧
    (∀ op, open_ → s.fabricPage part page off (match op with | .load _ => false | _ => true)
        (match op with | .atom .. => true | _ => false) = none →
      answered (.fabricAccess chip txn part page off op) (.fabricReply chip txn none)))

/-- R197, R202, R203, R208, R253, R362, R365, R411, R440. -/
def Obligations.PeerAnswers : Prop := ∀ (s : State) (txn : Nat) (w : WalkReply) (o : OpenReply) (a : AccessReply),
  (s.txnOf txn = none → ∀ i ∈ ([.nwalkReply txn w, .nopenReply txn o, .nreadReply txn a, .nwriteReply txn a, .nqopReply txn a,
    .ncloseReply txn a, .linkRecoveryExpiry txn] : List Instr), exec i s = .next s) ∧
  (∀ x c i p, s.txnOf txn = some x → x.ctx ≠ 0 → s.getCtx x.ctx = some c → c.pendFor txn = some i → c.pend[i]? = some p →
    let gone (t : State) (m : Ctx) : Prop := t.txns = (s.txns.filter fun y => y.label != txn) ∧ m.pcCap = c.pcCap ∧ t.mem = s.mem
    let closed (m : Ctx) : Prop := m.pend = if p.left = 0 ∨ c.run = .frozen then c.pend.eraseIdx i else c.pend.set i { p with kind := .done, wr := none }
    let fails (e : Instr) (cause : Cause) : Prop := ∃ t m, exec e s = .next t ∧ t.getCtx x.ctx = some m ∧ gone t m ∧ closed m ∧
      m.regs = c.regs ∧ m.late = c.late ++ [⟨cause, x.off, if x.fabric then none else some x.handle⟩]
    let word (e : Instr) (v : Word) : Prop := ∃ t m, exec e s = .next t ∧ t.getCtx x.ctx = some m ∧ gone t m ∧ closed m ∧
      m.nameStat = v ∧ ∀ r, p.wr = some r → m.reg r = (if r = 0 then {} else ⟨v.setWidth 256, false⟩)
    (x.kind = .load →
      (∀ v q size sign y r, a = .data v → p.kind = .remote q size sign y → p.wr = some r →
        ∃ t m, exec (.nreadReply txn a) s = .next t ∧ t.getCtx x.ctx = some m ∧ gone t m ∧ closed m ∧
          m.reg r = (if r = 0 then {} else answerValue v size sign) ∧ ∀ z, z ≠ r → m.reg z = c.reg z) ∧
      (∀ k, a = .refused k → fails (.nreadReply txn a) (Cause.ofCode k)) ∧
      (x.held = false → s.pkg.lrp.toNat ≤ (s.cycle - x.sent).toNat → fails (.linkRecoveryExpiry txn) .fabric) ∧
      (∀ sl size sign y, s.slotOwner sl = some x.ctx → x.fabric = true → p.kind = .remote txn size sign y →
        fails (.fabricRefusal sl false i) .fabric)) ∧
    (∀ d used, x.kind = .walk d used →
      (∀ code comp kind, w = .fail code comp kind → word (.nwalkReply txn w) (statusWord code comp kind true 0)) ∧
      (x.held = false → s.pkg.lrp.toNat ≤ (s.cycle - x.sent).toNat →
        word (.linkRecoveryExpiry txn) (.ofNat 64 (0x0C + 0xFF * 2 ^ 8 + 6 * 2 ^ 16))) ∧
      (∀ node gen kind mask extent ix u, w = .ok node gen kind mask extent → p.wr ≠ none →
        ((s.dropTxn txn).peerRoom x.ctx x.asid).makePeerNode x.asid x.chip node gen kind extent = some (ix, u) → ∃ t m,
        exec (.nwalkReply txn w) s = .next t ∧ t.getCtx x.ctx = some m ∧ m.nameStat = 0 ∧ closed m ∧
          m.peerNodes = (if c.peerNodes.length < 16 then c.peerNodes else c.peerNodes.drop 1) ++ [ix] ∧ ∀ r, p.wr = some r → m.reg r = if r = 0 then {} else u.peerRef x.asid ix mask extent)) ∧
    (∀ d node h mask n k, x.kind = .open_ d node h mask → s.nodeAt x.asid node = some n →
      (s.space x.asid).handles.find? (fun y => y.ix == h) = some k → ∀ rh rg, o = .ok rh rg → ∃ t m,
        exec (.nopenReply txn o) s = .next t ∧ t.getCtx x.ctx = some m ∧ gone t m ∧ closed m ∧ m.nameStat = 0 ∧
        (∃ y, (t.space x.asid).handles.find? (fun y => y.ix == h) = some y ∧ y.remote = some (x.chip, rh, rg) ∧ y.seq = 0) ∧
        ∀ r, p.wr = some r → m.reg r = if r = 0 then {} else ⟨(openCap n h k.gen mask).toBits, true⟩)) ∧
  (∀ x c, s.txnOf txn = some x → x.ctx ≠ 0 → s.getCtx x.ctx = some c →
    let dropped (t : State) : Prop := t.txns = s.txns.filter fun y => y.label != txn
    (x.kind = .store →
      (a = .ack → ∃ t m, exec (.nwriteReply txn a) s = .next t ∧ t.getCtx x.ctx = some m ∧ dropped t ∧
        m.storeQ = (c.storeQ.filter fun e => e.sent != some txn) ∧ m.late = c.late) ∧
      (∀ k q1 e q2, a = .refused k → c.storeQ = q1 ++ e :: q2 → (∀ y ∈ q1, y.sent ≠ some txn) → e.sent = some txn →
        ∃ t m, exec (.nwriteReply txn a) s = .next t ∧ t.getCtx x.ctx = some m ∧ dropped t ∧
        m.storeQ = q1 ++ (q2.takeWhile fun y => !y.marker).filter (fun y => !y.rel) ∧
        m.late = c.late ++ [⟨Cause.ofCode k, x.off, if x.fabric then none else some x.handle⟩])) ∧
    (c.wait = .txn txn → x.label = txn →
      let ends (t : State) (m : Ctx) : Prop := t.getCtx x.ctx = some m ∧ m.wait = .none ∧ m.run = .ready ∧
        m.pc = c.unit.addr + 4 ∧ dropped t
      (x.kind = .push none → a = .ack → ∃ t m, exec (.nqopReply txn a) s = .next t ∧ ends t m ∧ m.regs = c.regs) ∧
      (∀ d v, x.kind = .pop d none → a = .data v → ∃ t m, exec (.nqopReply txn a) s = .next t ∧ ends t m ∧
        m.reg d = (if d = 0 then {} else ⟨v, false⟩) ∧ ∀ r, r ≠ d → m.reg r = c.reg r) ∧
      (∀ k nb, x.kind = .push nb → a = .refused k → k ≠ 0 → c.pend = [] → c.storeQ = [] → c.stash = [] → ∃ t m,
        exec (.nqopReply txn a) s = .next t ∧ t.getCtx x.ctx = some m ∧ m.run = .frozen ∧
        m.trap.cause = (Cause.ofCode k).code ∧ m.trap.val = x.off ∧ m.trap.pc = c.unit.first) ∧
      (∀ nb, x.kind = .push nb → a = .held → nb = none → exec (.nqopReply txn a) s =
        .next { s with txns := s.txns.map fun y => if y.label = txn then { y with held := true } else y }))) ∧
  (∀ x rev, s.txnOf txn = some x → x.kind = .close rev → ∃ t, exec (.ncloseReply txn a) s = .next t ∧
    t.txns = (s.txns.filter fun y => y.label != txn) ∧
    t.revocations = (s.revocations.map fun r => if r.label = rev then { r with closes := r.closes.filter fun y => y != txn } else r) ∧
    t.cx = s.cx ∧ t.mem = s.mem) ∧
  (∀ x, s.txnOf txn = some x → x.held = true ∨ (s.cycle - x.sent).toNat < s.pkg.lrp.toNat →
    exec (.linkRecoveryExpiry txn) s = .next s) ∧
  (∀ chip h, (∃ t, exec (.nstale chip h) s = .next t) ∧
    ((∀ t ∈ s.txns, t.held = false) → exec (.nstale chip h) s = .next s) ∧
    ∀ x c k g nb, s.txns = [x] → x.held = true → x.kind = .push nb → k ∈ (s.space x.asid).handles → k.ix = x.handle →
      k.remote = some (chip, h, g) → x.ctx ≠ 0 → s.getCtx x.ctx = some c → c.wait = .txn x.label → c.pend = [] →
      c.storeQ = [] → c.stash = [] → ∃ t m, exec (.nstale chip h) s = .next t ∧ t.txns = [] ∧
        t.getCtx x.ctx = some m ∧ m.run = .frozen ∧ m.regs = c.regs ∧ m.trap.cause = 0x07 ∧ m.trap.val = x.off ∧
        m.trap.pc = c.unit.first) ∧
  (∀ (i : Fin 12) (part : BitVec 8) lat peer mode, let port : BitVec 4 := .ofNat 4 i.val
    ((∀ t ∈ s.txns, t.held = false ∨ t.port ≠ port) → exec (.portLinkLoss port) s =
      .next { s with ports := s.ports.set i.val { s.ports[i] with up := false } i.isLt }) ∧
    exec (.portLinkRestored port lat peer mode) s = .next { s with ports := s.ports.set i.val { s.ports[i] with
      lat := lat, valid := true, exMode := mode, peer := peer, up := true } i.isLt } ∧
    exec (.portReset port part) s = .next { s with ports := s.ports.set i.val { s.ports[i] with
      frozen := s.ports[i].frozen.filter fun x => x != part } i.isLt })

/-- R14, R21, R221, R390, R412, R418, R422, R423, R443, R444, R446, R453. -/
def Obligations.HostSteps : Prop := ∀ (s : State) (v : Word) (fn : FnIx) (q : BitVec 5) (n : Nat) (num : BitVec 12)
    (pa : Nat) (bytes : List Byte) (digest : BitVec 384) (prg : BitVec 9),
  let k := s.kq q
  let setPkg (f : PkgRegs → PkgRegs) : Out := .next { s with pkg := f s.pkg }
  let setKq (i : BitVec 5) (f : KQueue → KQueue) : State := { s with queues := s.queues.set i.toNat (f (s.kq i)) i.isLt }
  (s.recovery = true → ∀ i ∈ ([.fqDone v, .tlbInv v, .engThaw v, .kqTailWrite fn q v, .kqEnable q v, .registerWrite num v,
    .vfUnfreeze fn, .measExtend fn 5 digest, .hostWriteToPackage pa bytes, .hostReadOfPackage pa n] : List Instr),
    exec i s = .next s) ∧
  exec .powerLimitExceeded s = .next { s with powerLimited := true } ∧
  exec .powerUnderLimit s = .next { s with powerLimited := false } ∧
  exec (.prgResponse fn prg) s = .next { s with prgs := s.prgs.filter fun p => p != (fn, prg) } ∧
  (s.recovery = false →
    (2 ^ 39 < pa + bytes.length → exec (.hostWriteToPackage pa bytes) s = .fault .noSuchAddress) ∧
    (pa + bytes.length ≤ 2 ^ 39 → ∃ t, exec (.hostWriteToPackage pa bytes) s = .next t ∧ t.bytes pa bytes.length = bytes ∧
      (∀ x, x < pa ∨ pa + bytes.length ≤ x → Memory.byte t.mem x = Memory.byte s.mem x) ∧ t.cx = s.cx ∧ t.ctxs = s.ctxs) ∧
    (2 ^ 39 < pa + n → exec (.hostReadOfPackage pa n) s = .fault .noSuchAddress) ∧
    (pa + n ≤ 2 ^ 39 → s.dirty = [] → exec (.hostReadOfPackage pa n) s =
      .next { s with host := s.host ++ [.readData pa (s.bytes pa n)] }) ∧
    (∀ m ∈ ([0x800, 0x801, 0x803, 0x812, 0x815, 0x903, 0xA41, 0xFFF] : List (BitVec 12)),
      exec (.registerWrite m v) s = .next s) ∧
    exec (.registerWrite 0x802 v) s = setPkg (fun p =>
      { p with watts := (if p.wattsMax.ult (v.setWidth 16) then p.wattsMax else v.setWidth 16) }) ∧
    exec (.registerWrite 0x804 v) s = setPkg (fun p => { p with corr := p.corr &&& ~~~v }) ∧
    exec (.registerWrite 0x805 v) s = setPkg (fun p => { p with unc := p.unc &&& ~~~v }) ∧
    exec (.registerWrite 0x810 v) s = setPkg (fun p => { p with asidTab := v }) ∧
    exec (.registerWrite 0x840 v) s = setPkg (fun p => { p with lrp := v }) ∧
    exec (.registerWrite 0x8C0 v) s = setPkg (fun p => { p with weights := p.weights.set 64 (v.setWidth 8) }) ∧
    exec (.registerWrite 0x904 v) s = .next (setKq 1 fun k => { k with base := v.setWidth 48, log2n := v.extractLsb' 48 4 }) ∧
    (v.getLsbD 0 = false → exec (.registerWrite 0xA02 v) s = setPkg (fun p =>
      { p with maxScope := p.maxScope.set 2 (if 4 < (v.extractLsb' 1 3).toNat then 4 else v.extractLsb' 1 3) })) ∧
    exec (.tlbInv v) s = .next { s with tlbInvs := s.tlbInvs ++ [v] } ∧
    (let e : EngineIx := v.extractLsb' 0 8
     let a : Asid := v.extractLsb' 8 9
     (156 < e.toNat ∨ v.extractLsb' 17 47 ≠ 0 → exec (.engThaw v) s = .next s) ∧
     (e.toNat ≤ 156 → v.extractLsb' 17 47 = 0 → ∃ t, exec (.engThaw v) s = .next t ∧
       t.engine e = { s.engine e with frozen := (s.engine e).frozen.filter fun x => x != a } ∧ t.mem = s.mem ∧ t.cx = s.cx)) ∧
    (s.faults.find? (fun r => r.written && r.index == v.extractLsb' 0 24) = none → exec (.fqDone v) s = .next s) ∧
    (∀ r id pc c, s.faults.find? (fun r => r.written && r.index == v.extractLsb' 0 24) = some r → r.waiter = .ctx id pc → id ≠ 0 →
      s.getCtx id = some c → c.run = .frozen → v.getLsbD 63 = false → ∃ t m, exec (.fqDone v) s = .next t ∧
      t.faults = s.faults.erase r ∧ t.getCtx id = some m ∧ m.run = .ready ∧ m.pc = pc ∧ m.regs = c.regs ∧ m.trap = c.trap) ∧
    (s.pkg.vfs.toNat < fn.toNat → exec (.kqTailWrite fn q v) s = .next s) ∧
    (fn.toNat ≤ s.pkg.vfs.toNat → fn ≠ 0 → k.fn ≠ fn → fn.toNat < 65 → ∃ t, exec (.kqTailWrite fn q v) s = .next t ∧
      t.fnFrozen fn = true ∧ ∀ i : Fin 32, t.queues[i] =
        if s.queues[i].fn = fn then { s.queues[i] with state := 3 } else s.queues[i]) ∧
    (fn.toNat ≤ s.pkg.vfs.toNat → fn = 0 ∨ k.fn = fn →
      let new : BitVec 32 := v.setWidth 32
      (k.size < (new - k.tail).toNat ∨ k.size < (new - k.head).toNat → exec (.kqTailWrite fn q v) s =
        .next ((setKq q fun k => { k with state := 1 }).tell (.msix k.fn (q.toNat + 1)))) ∧
      ((new - k.tail).toNat ≤ k.size → (new - k.head).toNat ≤ k.size → exec (.kqTailWrite fn q v) s =
        .next (setKq q fun k => { k with tail := new }))) ∧
    exec (.kqEnable q v) s = .next (setKq q fun k =>
      let k := { k with fn := v.extractLsb' 0 7, asid := v.extractLsb' 7 9, en := v.getLsbD 16 }
      if v.getLsbD 16 then
        { k with state := if s.fnFrozen (v.extractLsb' 0 7) then 3 else 0, tail := 0, head := 0, blocked := none, open_ := [] }
      else k) ∧
    (s.fnFrozen fn = false → exec (.vfUnfreeze fn) s = .next s) ∧
    (s.fnFrozen fn = true → ∃ t, exec (.vfUnfreeze fn) s = .next t ∧ t.fnFrozen fn = false ∧ ∀ i : Fin 32, t.queues[i] =
      if s.queues[i].fn = fn ∧ s.queues[i].state = 3 then { s.queues[i] with state := 0 } else s.queues[i]) ∧
    (fn ≠ 0 → ∀ m, exec (.measExtend fn m digest) s = .next s) ∧
    (∀ m : BitVec 3, m.toNat < 5 → exec (.measExtend 0 m digest) s = .next s) ∧
    exec (.measExtend 0 6 digest) s = setPkg (fun p =>
      { p with meas := p.meas.set 6 (sha384Bits (toBytes (p.meas[6]).toNat 48 ++ toBytes digest.toNat 48)) })) ∧
  (s.tlbInvs = [] → exec .tlbInvComplete s = .next s) ∧
  (∀ x rest, s.tlbInvs = x :: rest → (∀ c ∈ s.allCtxs, c.storeQ = [] ∧ c.pend = []) → ∃ t, exec .tlbInvComplete s = .next t ∧
    t.tlbInvs = rest ∧ t.pkg = { s.pkg with tlbDone := s.pkg.tlbDone + 1 } ∧ t.mem = s.mem ∧
    t.clusters = (s.clusters.map fun y => (y.1, { y.2 with tlb := y.2.tlb.filter fun e => !e.matches x })) ∧
    t.cores = s.cores.map fun y => (y.1, { y.2 with tlb := y.2.tlb.filter fun e => !e.matches x }))

/-- R53, R62, R143, R238, R313, R444 to R448. -/
def Obligations.KettleResults : Prop := ∀ (s : State) (q : BitVec 5) (ch : LoaderChoice) (bs : List Byte),
  let k := s.kq q
  let forms : List (Instr × Nat) := [(.launch q ch, 1), (.waitPacket q, 2), (.signalPacket q, 3), (.fencePacket q, 4), (.nopPacket q, 5)]
  let upd (s : State) (f : KQueue → KQueue) : State := s.updKq q f
  let taken := upd s fun k => { k with head := k.head + 1 }
  let addr : Word := .ofNat 64 (packetField bs 0 8)
  let value := packetField bs 8 8
  let opcode := bs.getD 16 0
  let scope := packetScope bs
  (s.packetAt q = none → ∀ f ∈ forms, exec f.1 s = .next s) ∧
  (s.packetAt q = some bs →
    (badTrailer bs = true → ∀ f ∈ forms, exec f.1 s = .next (upd s fun k => { k with state := 2 })) ∧
    (badTrailer bs = false → ∀ f ∈ forms,
      (bs.getD 252 0).toNat ≠ f.2 ∨ ((bs.getD 253 0).toNat % 16 = 0 ∧ k.open_ ≠ []) → exec f.1 s = .next s) ∧
    (badTrailer bs = false → (bs.getD 253 0).toNat % 16 ≠ 0 ∨ k.open_ = [] →
      ((bs.getD 252 0).toNat = 5 → exec (.nopPacket q) s = .next (taken.clampFn k.fn scope.toNat)) ∧
      ((bs.getD 252 0).toNat = 2 → opcode.toNat ≤ 2 → ∀ w u, kettleRead k.asid 9 addr 8 taken = .ok (w, u) →
        u.queues = taken.queues →
        let holds := waitHolds opcode (.ofNat 64 (ofBytes w)) (.ofNat 64 value)
        (holds = true → exec (.waitPacket q) s = .next (u.clampFn k.fn scope.toNat)) ∧
        (holds = false → exec (.waitPacket q) s = .next (upd u fun k =>
          { k with blocked := some (addr, .ofNat 64 value, opcode, scope) }))) ∧
      ((bs.getD 252 0).toNat = 3 → opcode.toNat ≤ 1 → addr.getLsbD 63 = false → addr.toNat % 4096 ≤ 4088 →
        s.hostAbsent.contains (addr.toNat / 4096) = false → ∃ t, exec (.signalPacket q) s = .next t ∧
        t.nat (2 ^ 64 + addr.toNat) 8 = (if opcode = 0 then value else s.nat (2 ^ 64 + addr.toNat) 8 + value) % 2 ^ 64 ∧
        (∀ x, x < 2 ^ 64 + addr.toNat ∨ 2 ^ 64 + addr.toNat + 8 ≤ x → Memory.byte t.mem x = Memory.byte s.mem x) ∧
        t.queues = taken.queues) ∧
      ((bs.getD 252 0).toNat = 4 →
        (k.open_ = [] → ∃ t, exec (.fencePacket q) s = .next t ∧ (t.kq q).open_ = [] ∧ (t.kq q).head = k.head + 1 ∧
          t.mem = s.mem) ∧
        (∀ n rest, k.open_ = (n, none) :: rest → ∃ t, exec (.fencePacket q) s = .next t ∧
          (t.kq q).open_ = k.open_ ++ [(s.nextLaunch, some scope)] ∧ (t.kq q).head = k.head + 1 ∧ t.mem = s.mem)) ∧
      ((bs.getD 252 0).toNat = 1 → (∀ l ∈ s.launches, l.id ≠ s.nextLaunch) → (∀ x ∈ s.allotments, x.launch ≠ s.nextLaunch) →
        (∀ g ∈ s.gangs, g.launch ≠ s.nextLaunch) → k.fn.toNat < 65 →
        let l : Launch := { id := s.nextLaunch, queue := q, words := bs, asid := k.asid, fn := k.fn, deps := packetDeps bs,
                            choice := ch, fscope := scope }
        let done := l.doneAddr
        let obj := 2 ^ 64 + l.objAddr.toNat
        let hostWord := done.getLsbD 63 = false ∧ done.toNat % 4096 ≤ 4088 ∧ s.hostAbsent.contains (done.toNat / 4096) = false
        let ends (status : Nat) : Prop := ∃ t, exec (.launch q ch) s = .next t ∧ t.nat (2 ^ 64 + done.toNat) 8 = status ∧
          t.launches = s.launches ∧ (t.kq q).head = k.head + 1 ∧ (t.kq q).open_ = k.open_
        ((∀ p ∈ k.open_, p.2 = none ∧ p.1 ≠ s.nextLaunch) → hostWord →
          (s.asidLive k.asid = false → ends 8) ∧
          (s.asidLive k.asid = true → 16 < l.tileReq → ends 5) ∧
          (s.asidLive k.asid = true → l.tileReq ≤ 16 → l.deps = [] → s.hostAbsent = [] → l.objAddr.toNat + 64 ≤ 2 ^ 63 →
            (s.nat obj 4 ≠ 0x424F5747 ∨ s.nat (obj + 4) 2 ≠ 1) → ends 1)) ∧
        (s.asidLive k.asid = true → l.tileReq ≤ 16 → l.deps ≠ [] →
          (∀ d ∈ l.deps, ∀ r ∈ s.unclaimed d.1, recordMatches r (k.asid, d.2) = false) →
          ∃ t m, exec (.launch q ch) s = .next t ∧ t.launchOf s.nextLaunch = some m ∧ m.stage = .deps ∧ m.deps = l.deps ∧
            m.words = bs ∧ (t.kq q).head = k.head + 1 ∧ t.mem = s.mem) ∧
        (s.asidLive k.asid = true → l.tileReq ≤ 16 → l.deps = [] → l.replays = false → s.hostAbsent = [] →
          l.objAddr.getLsbD 63 = false → s.nat obj 4 = 0x424F5747 → s.nat (obj + 4) 2 = 1 →
          (∀ g ∈ s.gangs, ∀ i, i < 64 → g.id ≠ s.nextGang + .ofNat 32 i) →
          let h := ObjHead.ofBytes (s.bytes obj 64)
          let image := s.bytes obj h.size
          let o := Obj.ofBytes image
          let tasks := o.tasks.map o.task
          l.objAddr.toNat + h.size + 64 < 2 ^ 63 →
          o.ok = true → (k.fn = 0 ∨ tasks.all (fun t => !t.flags.getLsbD 0) = true) →
          s.segmentOk k.asid ch.textVa h.textSz true = true → s.segmentOk k.asid ch.dataVa h.dataSz false = true →
          ch.argVa.toNat % 32 = 0 → ch.argVa.toNat + h.argSz ≤ 2 ^ 48 →
          s.regionsNew l h = true →
          (∀ images, relocate ch.dataVa.toNat o.rels (o.data, o.spad) = some images →
            ((s.putSegment k.asid ch.textVa o.text true).bind fun u => u.putSegment k.asid ch.dataVa images.1 false).isSome = true) →
          (relocate ch.dataVa.toNat o.rels (o.data, o.spad)).isSome = true →
          ∃ t m, exec (.launch q ch) s = .next t ∧ t.launchOf s.nextLaunch = some m ∧ m.stage = .place ∧ m.image = image ∧
            m.tasks = tasks ∧ m.ctxs = [] ∧ m.gangs.length = ((List.range 64).filter fun g => tasks.any fun t => t.gang == g).length ∧
            ∀ id ∈ m.gangs, ∃ g ∈ t.gangs, g.id = id ∧ g.launch = s.nextLaunch ∧ g.cluster = none ∧ g.members = [])))) ∧
  (∀ a w c sc, k.blocked = some (a, w, c, sc) → k.state = 0 → ∀ x u, kettleRead k.asid 9 a 8 s = .ok (x, u) →
    u.queues = s.queues →
    (waitHolds c (.ofNat 64 (ofBytes x)) w = false → exec (.waitPacketSatisfied q) s = .next u) ∧
    (waitHolds c (.ofNat 64 (ofBytes x)) w = true → exec (.waitPacketSatisfied q) s =
      .next ((upd u fun k => { k with blocked := none }).clampFn k.fn sc.toNat))) ∧
  (k.blocked = none → exec (.waitPacketSatisfied q) s = .next s) ∧
  (∀ (g : Gang) (cl : ClusterIx) (bases : List (CoreIx × Nat)), s.gangs.find? (fun x => x.id == g.id) = some g →
    (g.cluster ≠ none ∨ s.placementOk g cl = false → exec (.gangPlacement g.id cl bases) s = .next s) ∧
    (g.cluster = none → s.placementOk g cl = true → s.launchOf g.launch = none →
      exec (.gangPlacement g.id cl bases) s = .next { s with
        gangs := s.gangs.map fun x => if x.id = g.id then { x with cluster := some cl } else x
        placePtr := cl + 1
        placements := (cl :: s.placements).take 63 }))

/-- R452 to R454; the bodies of SPDM messages are the model's choice (log entry 26). -/
def Obligations.BootResults : Prop := ∀ (s : State) (a b c d : BootImage) (cfg : BootConfig) (nonce : List Byte) (off len : Nat),
  let imgs := [a, b, c, d]
  let good := (imgs.zipIdx.all fun (x, i) => imageAccepted x (s.versions.getD (i + 1) 0)) && configInRange cfg
  let rom := sha384Bits (toBytes 0 48 ++ toBytes Config.romDigest.toNat 48)
  let img (x : BootImage) : BitVec 384 := sha384Bits (toBytes 0 48 ++ sha384 x.body)
  let reply (i : Instr) (m : HostMsg) : Prop := exec i s = .next { s with host := s.host ++ [m] }
  let cert := Config.deviceCert (s.pkg.meas.toList.take 5)
  (∃ t, exec (.packageReset imgs cfg) s = .next t ∧ t.cx = State.reset.cx ∧ t.ctxs = State.reset.ctxs ∧
    t.cores = State.reset.cores ∧ t.clusters = State.reset.clusters ∧ t.spaces = State.reset.spaces ∧
    t.engines = State.reset.engines ∧ t.queues = State.reset.queues ∧ t.tags = [] ∧ t.net = [] ∧
    (∀ x, x < 2 ^ 64 → Memory.byte t.mem x = 0) ∧
    (∀ x, 2 ^ 64 ≤ x → Memory.byte t.mem x = Memory.byte s.mem x) ∧ t.pkg.meas[0] = rom ∧
    t.booted = good ∧ t.recovery = !good ∧
    (if good then t.pkg.chip = cfg.chip ∧ t.pkg.part = cfg.part ∧ t.pkg.watts = cfg.watts ∧ t.pkg.wattsMax = cfg.watts ∧
        t.pkg.vfs = cfg.vfs ∧ t.chips = cfg.chips ∧ t.pkg.meas[1] = img a ∧ t.pkg.meas[2] = img b ∧ t.pkg.meas[3] = img c ∧
        t.pkg.meas[4] = img d
      else t.chips = [] ∧ t.keys = [])) ∧
  (∃ t, exec (.packageReset [] cfg) s = .next t ∧ t.recovery = true ∧ t.booted = false ∧ t.pkg.meas[0] = rom ∧
    t.pkg.meas[1] = 0) ∧
  reply .getVersion (.doe "VERSION" []) ∧ reply .getCapabilities (.doe "CAPABILITIES" []) ∧
  reply .negotiateAlgorithms (.doe "ALGORITHMS" []) ∧ reply .getDigests (.doe "DIGESTS" (sha384 cert)) ∧
  reply (.getCertificate off len) (.doe "CERTIFICATE" ((cert.drop off).take len)) ∧
  reply (.challenge nonce) (.doe "CHALLENGE_AUTH" (Config.deviceSign (s.pkg.meas.toList.take 5) nonce)) ∧
  reply (.getMeasurements nonce) (.measurements nonce s.pkg.meas.toList (Config.deviceSign (s.pkg.meas.toList.take 5)
    (nonce ++ s.pkg.meas.toList.flatMap fun m => toBytes m.toNat 48)))

/-- R257, R258, R261, R267, R273; that a flushed result also counts inexact is the model's reading (log entry 30). -/
def Obligations.LaneResults : Prop := ∀ (s : State) (ty : LaneType) (m : BitVec 3) (d a b : Reg),
  let w := ty.width
  let x := s.lane ty a
  let y := s.lane ty b
  let z := s.lane ty d
  let sx (i : Nat) : Int := sextInt (x i) w
  let sy (i : Nat) : Int := sextInt (y i) w
  let low (v : Int) : Nat := (v % (2 ^ w : Nat)).toNat
  (ty.elem.fmt = none →
    LaneForm s (.vadd ty m d a b) ty m d (fun i => (x i + y i, 0)) ∧
    LaneForm s (.vsub ty m d a b) ty m d (fun i => (low (x i - y i), 0)) ∧
    LaneForm s (.vmul ty m d a b) ty m d (fun i => (x i * y i, 0)) ∧
    LaneForm s (.vfma ty m d a b) ty m d (fun i => (z i + x i * y i, 0)) ∧
    LaneForm s (.vmin ty m d a b) ty m d (fun i => (if sx i ≤ sy i then x i else y i, 0)) ∧
    LaneForm s (.vmax ty m d a b) ty m d (fun i => (if sx i ≤ sy i then y i else x i, 0)) ∧
    LaneForm s (.vabs ty m d a) ty m d (fun i => (low (if sx i < 0 then -sx i else sx i), 0)) ∧
    LaneForm s (.vneg ty m d a) ty m d (fun i => (low (-sx i), 0)) ∧
    LaneForm s (.vsll ty m d a b) ty m d (fun i => (if w ≤ y i then 0 else x i * 2 ^ y i, 0)) ∧
    LaneForm s (.vsrl ty m d a b) ty m d (fun i => (if w ≤ y i then 0 else x i / 2 ^ y i, 0)) ∧
    LaneForm s (.vsra ty m d a b) ty m d (fun i =>
      (if w ≤ y i then (if sx i < 0 then 2 ^ w - 1 else 0) else low (sx i / (2 ^ y i : Nat)), 0)) ∧
    LaneForm s (.vmulh ty m d a b) ty m d (fun i => (low (sx i * sy i / (2 ^ w : Nat)), 0))) ∧
  (∀ f, ty.elem.fmt = some f →
    let nan (v : Nat) : Nat × Ev := (f.nanBits, evNan ||| (f.decode v).sigEv)
    let quiet (r : Nat × Ev) : Nat × Ev := (r.1, r.2 &&& ~~~evInexact)
    let smaller (p q : Sys2Proof.Num) : Sys2Proof.Num × Ev := (p.min q, p.sigEv ||| q.sigEv)
    let larger (p q : Sys2Proof.Num) : Sys2Proof.Num × Ev := (p.max q, p.sigEv ||| q.sigEv)
    LaneForm s (.vadd ty m d a b) ty m d (fun i => s.floatOp f (Sys2Proof.Num.add s.rm) (x i) (y i)) ∧
    LaneForm s (.vsub ty m d a b) ty m d (fun i => s.floatOp f (fun p q => p.add s.rm q.negate) (x i) (y i)) ∧
    LaneForm s (.vmul ty m d a b) ty m d (fun i => s.floatOp f Sys2Proof.Num.mul (x i) (y i)) ∧
    LaneForm s (.vfma ty m d a b) ty m d (fun i =>
      let c := dazOperand s.daz f (z i)
      let r := s.floatOp f (Sys2Proof.Num.fma s.rm (f.decode c.1)) (x i) (y i)
      (r.1, c.2 ||| r.2)) ∧
    LaneForm s (.vmin ty m d a b) ty m d (fun i => quiet (s.floatOp f smaller (x i) (y i))) ∧
    LaneForm s (.vmax ty m d a b) ty m d (fun i => quiet (s.floatOp f larger (x i) (y i))) ∧
    LaneForm s (.vabs ty m d a) ty m d (fun i => if (f.decode (x i)).isNan then nan (x i) else (x i % 2 ^ (w - 1), 0)) ∧
    LaneForm s (.vneg ty m d a) ty m d (fun i => if (f.decode (x i)).isNan then nan (x i)
      else ((x i + 2 ^ (w - 1)) % 2 ^ w, 0))) ∧
  LaneForm s (.vand ty m d a b) ty m d (fun i => (Nat.land (x i) (y i), 0)) ∧
  LaneForm s (.vor ty m d a b) ty m d (fun i => (Nat.lor (x i) (y i), 0)) ∧
  LaneForm s (.vxor ty m d a b) ty m d (fun i => (Nat.xor (x i) (y i), 0)) ∧
  LaneForm s (.vandn ty m d a b) ty m d (fun i => (Nat.land (x i) (2 ^ w - 1 - y i), 0)) ∧
  LaneForm s (.vshuf ty m d a b) ty m d (fun i => (x (y i % ty.lanes), 0)) ∧
  LaneForm s (.vbcast ty m d a b) ty m d (fun _ => (x ((s.x b).toNat % ty.lanes), 0)) ∧
  LaneForm s (.vslide ty m d a b) ty m d (fun i =>
    (if 0 ≤ i + (s.x b).toInt ∧ i + (s.x b).toInt < ty.lanes then x (i + (s.x b).toInt).toNat else 0, 0)) ∧
  LaneForm s (.vzip ty m d a b) ty m d (fun i => (if i % 2 = 0 then x (i / 2) else y (i / 2), 0)) ∧
  LaneForm s (.viota ty m d) ty m d (fun i =>
    ((ty.elem.round .rne false (.ofInt ((List.range i).filter fun k => s.laneOn m k).length)).1, 0)) ∧
  LaneForm s (.vdup ty m d a) ty m d (fun _ => (x 0, 0)) ∧
  (∃ v, WritesBits s (.vsel ty m d a b) d v ∧ ∀ i, i < ty.lanes → laneOf v w i = if s.laneOn m i then x i else y i) ∧
  WritesX s (.vext ty d a b) d (if ty.elem.isInt then .ofInt 64 (sextInt (x ((s.x b).toNat % ty.lanes)) w)
    else .ofNat 64 (x ((s.x b).toNat % ty.lanes)))

/-- R262. -/
def Obligations.DivideResults : Prop := ∀ (s : State) (ft : FloatLane) (it : IntLane) (la : BitVec 4) (d a b : Reg),
  (∀ f, ft.lane.elem.fmt = some f →
    let x := s.lane ft.lane a
    let y := s.lane ft.lane b
    DivideForm s (.vdiv ft la d a b) la ft.lane d (fun i => s.floatOp f Sys2Proof.Num.div (x i) (y i)) ∧
    DivideForm s (.vsqrt ft la d a) la ft.lane d (fun i => s.floatOp f (fun p _ => p.sqrt) (x i) 0)) ∧
  (let w := it.lane.width
   let x (i : Nat) : Int := sextInt (s.lane it.lane a i) w
   let y (i : Nat) : Int := sextInt (s.lane it.lane b i) w
   let low (v : Int) : Nat := (v % (2 ^ w : Nat)).toNat
   DivideForm s (.vidiv it la d a b) la it.lane d (fun i =>
     if y i = 0 then (2 ^ w - 1, evDivZero) else (low ((x i).tdiv (y i)), 0)) ∧
   DivideForm s (.virem it la d a b) la it.lane d (fun i =>
     if y i = 0 then (low (x i), evDivZero) else (low ((x i).tmod (y i)), 0)))

/-- R264 to R269. -/
def Obligations.VectorOther : Prop := ∀ (s : State) (ty : LaneType) (tgt : ElemType) (m : BitVec 3) (d a b : Reg),
  let w := ty.width
  let x := s.lane ty a
  let y := s.lane ty b
  let z := s.lane ty d
  let sx (i : Nat) : Int := sextInt (x i) w
  let sy (i : Nat) : Int := sextInt (y i) w
  let on := (List.range ty.lanes).filter fun i => s.laneOn m i
  let compare (i : Instr) (g : Nat → Bool) (ev : Nat → Ev) : Prop :=
    ∃ v, CountedForm s i d v ((List.range ty.lanes).map fun k => if s.laneOn m k then ev k else 0) ∧
      ∀ k, k < 256 → v.getLsbD k = (decide (k < ty.lanes) && s.laneOn m k && g k)
  let pairs (i : Instr) (g : Nat → Nat → Nat → Nat × Nat × Ev) : Prop :=
    ∃ v, CountedForm s i d v ((List.range (ty.lanes / 2)).map fun j =>
        if s.laneOn m j then (g j (z (2 * j)) (z (2 * j + 1))).2.2 else 0) ∧
      ∀ j, j < ty.lanes / 2 →
        laneOf v w (2 * j) = (if s.laneOn m j then (g j (z (2 * j)) (z (2 * j + 1))).1 % 2 ^ w else z (2 * j)) ∧
        laneOf v w (2 * j + 1) = (if s.laneOn m j then (g j (z (2 * j)) (z (2 * j + 1))).2.1 % 2 ^ w else z (2 * j + 1))
  (ty.elem.fmt = none →
    compare (.vcmpeq ty m d a b) (fun k => x k == y k) (fun _ => 0) ∧
    compare (.vcmplt ty m d a b) (fun k => sx k < sy k) (fun _ => 0) ∧
    compare (.vcmple ty m d a b) (fun k => sx k ≤ sy k) (fun _ => 0) ∧
    compare (.vcmpun ty m d a b) (fun _ => false) (fun _ => 0) ∧
    WritesX s (.vrsum ty m d a) d (.ofInt 64 (on.map sx).sum) ∧
    WritesX s (.vrdot ty m d a b) d (.ofInt 64 (on.map fun i => sx i * sy i).sum) ∧
    (∃ r : Int, WritesX s (.vrmax ty m d a) d (.ofInt 64 r) ∧ (∀ i ∈ on, sx i ≤ r) ∧
      (r = -(2 ^ (w - 1) : Nat) ∨ ∃ i ∈ on, r = sx i)) ∧
    (∃ r : Int, WritesX s (.vrmin ty m d a) d (.ofInt 64 r) ∧ (∀ i ∈ on, r ≤ sx i) ∧
      (r = (2 ^ (w - 1) : Nat) - 1 ∨ ∃ i ∈ on, r = sx i))) ∧
  (∀ f, ty.elem.fmt = some f →
    let p (k : Nat) : Sys2Proof.Num := f.decode (dazOperand s.daz f (x k)).1
    let q (k : Nat) : Sys2Proof.Num := f.decode (dazOperand s.daz f (y k)).1
    let nan (k : Nat) : Bool := (p k).isNan || (q k).isNan
    let flush (k : Nat) : Ev := (dazOperand s.daz f (x k)).2 ||| (dazOperand s.daz f (y k)).2
    let quiet (k : Nat) : Ev := flush k ||| ((p k).sigEv ||| (q k).sigEv)
    let loud (k : Nat) : Ev := quiet k ||| (if nan k then evInvalid else 0)
    let fold (op : Nat → Nat → Nat × Ev) (first : Nat) (xs : List Nat) : Nat × List Ev :=
      xs.foldl (fun r v => ((op r.1 v).1, r.2 ++ [(op r.1 v).2])) (first, [])
    let sum := s.floatOp f (Sys2Proof.Num.add s.rm)
    let still (r : Nat × Ev) : Nat × Ev := (r.1, r.2 &&& ~~~evInexact)
    compare (.vcmpeq ty m d a b) (fun k => !nan k && (p k).eq (q k)) quiet ∧
    compare (.vcmplt ty m d a b) (fun k => !nan k && (p k).lt (q k)) loud ∧
    compare (.vcmple ty m d a b) (fun k => !nan k && !(q k).lt (p k)) loud ∧
    compare (.vcmpun ty m d a b) nan quiet ∧
    (on = [] →
      WritesX s (.vrsum ty m d a) d 0 ∧ WritesX s (.vrdot ty m d a b) d 0 ∧
      WritesX s (.vrmax ty m d a) d (.ofNat 64 (f.infBits true)) ∧
      WritesX s (.vrmin ty m d a) d (.ofNat 64 (f.infBits false))) ∧
    (∀ i rest, on = i :: rest →
      let larger (u v : Nat) : Nat × Ev := still (s.floatOp f (fun p q => (p.max q, p.sigEv ||| q.sigEv)) u v)
      let smaller (u v : Nat) : Nat × Ev := still (s.floatOp f (fun p q => (p.min q, p.sigEv ||| q.sigEv)) u v)
      let product (k : Nat) : Nat × Ev := s.floatOp f Sys2Proof.Num.mul (x k) (y k)
      let all := fold sum (x i) (rest.map x)
      let dot := fold sum (product i).1 (rest.map fun k => (product k).1)
      let big := fold larger (x i) (rest.map x)
      let small := fold smaller (x i) (rest.map x)
      CountedForm s (.vrsum ty m d a) d (.ofNat 256 all.1) all.2 ∧
      CountedForm s (.vrdot ty m d a b) d (.ofNat 256 dot.1) (on.map (fun k => (product k).2) ++ dot.2) ∧
      CountedForm s (.vrmax ty m d a) d (.ofNat 256 big.1) big.2 ∧
      CountedForm s (.vrmin ty m d a) d (.ofNat 256 small.1) small.2)) ∧
  (let value (k : Nat) : Sys2Proof.Num × Ev := match ty.elem.fmt with
     | none => (.ofInt (sx k), 0)
     | some f => (f.decode (dazOperand s.daz f (x k)).1, (dazOperand s.daz f (x k)).2)
   let convert (i : Instr) (rm : Rounding) (sat : Bool) : Prop :=
     if tgt = .cx8 then
       let n := Nat.min ty.lanes 32
       let vs := (List.range 32).map fun k => if k < n ∧ s.laneOn m k = true then (value k).1 else .fin false 0 0
       ∃ evs, CountedForm s i d (.ofNat 256 (cxEncode vs).1) evs
     else
       let n := Nat.min ty.lanes (256 / tgt.bits)
       let result (k : Nat) : Nat × Ev :=
         let r := tgt.round rm sat (value k).1
         match tgt.fmt with
         | none => (r.1, (value k).2 ||| r.2)
         | some f => ((ftzResult s.ftz f r.1).1, (value k).2 ||| r.2 ||| (ftzResult s.ftz f r.1).2)
       ∃ v, CountedForm s i d v ((List.range n).map fun k => if s.laneOn m k then (result k).2 else 0) ∧
         v.toNat < 2 ^ (n * tgt.bits) ∧
         ∀ k, k < n → laneOf v tgt.bits k = if s.laneOn m k then (result k).1 % 2 ^ tgt.bits else 0
   convert (.vcvt ty tgt m d a) s.rm false ∧ convert (.vcvtz ty tgt m d a) .rz false ∧
   convert (.vcvts ty tgt m d a) .rne true ∧ convert (.vcvtr ty tgt m d a) .rne false) ∧
  (let num (v : Nat) : Sys2Proof.Num := ty.elem.decode v
   let nanBits : Nat := (ty.elem.fmt.map Fmt.nanBits).getD 0
   let extreme (lt : Sys2Proof.Num → Sys2Proof.Num → Bool) (j v q : Nat) : Nat × Nat × Ev :=
     let ev := (num (x j)).sigEv ||| (num v).sigEv
     if (num (x j)).isNan then
       if (num v).isNan then (v, q, ev) else (nanBits, y 0, ev ||| evNan)
     else if lt (num v) (num (x j)) then (x j, y 0, ev) else (v, q, ev)
   pairs (.vmaxw ty m d a b) (extreme Sys2Proof.Num.lt) ∧ pairs (.vminw ty m d a b) (extreme fun v x => x.lt v) ∧
   pairs (.vclmpw ty m d a b) (fun j _ _ =>
     let ev := (num (x j)).sigEv ||| (num (y 0)).sigEv ||| (num (y 1)).sigEv
     if (num (x j)).isNan then (nanBits, 3, ev ||| evNan)
     else if (num (x j)).lt (num (y 0)) then (y 0, 1, ev)
     else if (num (y 1)).lt (num (x j)) then (y 1, 2, ev) else (x j, 0, ev)) ∧
   pairs (.vadjb ty m d a b) (fun j v q =>
     if y (2 * j + 1) ≠ q then (v, q, 0)
     else match ty.elem.fmt with
       | none => (v + x j, q, 0)
       | some f => ((s.floatOp f (Sys2Proof.Num.add s.rm) v (x j)).1, q, (s.floatOp f (Sys2Proof.Num.add s.rm) v (x j)).2)))

/-- R270, R271: an offset is `base + index * s` or `base + i * stride`. -/
def Obligations.VectorMemory : Prop := ∀ (s : State) (esz : ElemSize) (la : BitVec 4) (d a b : Reg),
  let n := esz.bytes
  let lanes := 32 / n
  let indexed := (List.range lanes).map fun i => (s.cap a).offset + .ofNat 64 (laneOf (s.bits b) (8 * n) i * n)
  let strided := (List.range lanes).map fun i => (s.cap a).offset + .ofNat 64 i * s.x b
  let form (i : Instr) (acc : Acc) (effs : List Word) (ok : List Target → State → Prop) : Prop :=
    let need := if acc = .write then permW else permR
    let first := effs.headD 0
    let try_ := State.elementTargets esz a acc effs s
    (∀ c, s.capCheck s.cx.asid (s.reg a) need first n = some c → Traps s i c first) ∧
    (s.capCheck s.cx.asid (s.reg a) need first n = none → (s.cap a).kind ≠ 0 → Traps s i .capPerm first) ∧
    (∀ c v, try_ = .error (c, v) → Traps s i c v) ∧
    (∀ ts u, try_ = .ok (ts, u) → ok ts u)
  let gather (i : Instr) (effs : List Word) : Prop := form i .read effs fun ts u =>
    let x := ts.foldl (fun u t => u.resolveLoads t n false) u
    ts.length = lanes ∧ (u.cx.pend = [] → x = u) ∧
    ((∀ t ∈ ts, ∃ key tags, t = .bytes key tags) →
      (la ≠ 0 → ∃ v, exec i s = .next v ∧ OnlyPc x v { x.cx with
        pend := x.cx.pend ++ [⟨x.here, la.toNat, (instrRegs i).2, x.sources i, some d, .gather ts n⟩] } (x.here + 4)) ∧
      (la = 0 → x.memErr = false → ∃ v w, exec i s = .next v ∧ RegWritten x v x.cx d ⟨w, false⟩ (x.here + 4) ∧
        ∀ k, k < lanes → laneOf w (8 * n) k = ofBytes (x.readTarget x.cx (ts.getD k (.bytes 0 false)) n).1) ∧
      (la = 0 → x.memErr = true → ∃ v, exec i s = .next v ∧ (∀ r, v.reg r = x.reg r) ∧ v.mem = x.mem ∧
        v.cx.late = x.cx.late ++ [⟨.memError, x.here, none⟩] ∧ v.cx.pc = x.here + 4))
  let scatter (i : Instr) (effs : List Word) : Prop := form i .write effs fun ts u =>
    ts.length = lanes ∧
    ((∀ t ∈ ts, ∃ key tags, t = .bytes key tags) → u.cx.pend = [] → ∃ v, exec i s = .next v ∧
      OnlyPc { u with label := u.label + 1 } v { u.cx with
        storeQ := u.cx.storeQ ++ ts.zipIdx.map fun (t, k) =>
          ({ target := t, n := n, data := .ofNat 256 (laneOf (u.bits d) (8 * n) k), size := esz.size,
             handle := (u.cap a).handle, pc := u.here, group := some u.label } : StoreEntry) } (u.here + 4))
  gather (.vgath esz la d a b) indexed ∧ gather (.vlds esz la d a b) strided ∧
  scatter (.vscat esz d a b) indexed ∧ scatter (.vsts esz d a b) strided

/-- R76, R77, R157: `f` is the state at the start of the turn, after the step's cycle (log entry 2). -/
def Obligations.StepRunsDecoded : Prop := ∀ (s : State) (sl : SlotId) (rest : List AgendaItem),
  let c := s.cx
  s.agenda = .turn sl :: rest → s.boundAt sl = some c.id → s.booted = true → s.recovery = false →
  c.res = .bound → c.wait = .none → c.run = .ready → c.freezeReq = false → c.killReq = none → c.preempt = false →
  c.pend = [] → c.late = [] → s.pkgWrites = [] →
  let g : State := { s.tick with agenda := rest }
  let f : State := { g with cur := sl }
  g.firstSlot (g.allCtxs.filter fun k => k.ready && k.core == sl.core) = some sl →
  c.handler = false ∨ c.ie = false ∨ f.interruptDue sl = false →
  let pc := c.pc
  let noted (u : State) (n : Nat) (x : Fetched) : State := { u with cx := { u.cx with unit := unitInfo pc n x } }
  let fetch (addr : Word) := f.accessAt c ⟨c.pcCap, c.pcTag⟩ permX addr { acc := .fetch, n := 4, size := .b32, strong := true }
  (∀ cause v, fetch pc = .error (cause, v) → 
    step s = .next ((noted f 1 (.fault cause pc)).takeTrap cause pc)) ∧
  (∀ key tags u, fetch pc = .ok (.bytes key tags, u) → u.cx = c →
    let w := u.nat key 4
    (∀ x, decodeUnit [w] = .illegal x →
      step s = .next ((noted u 1 (.illegal x)).takeTrap .illegal (.ofNat 64 x))) ∧
    (∀ i, decodeUnit [w] = .done i →
      let v := noted u 1 (.unit i)
      let ready := (unitQuads i).foldl State.useQuad v
      (v.guardHolds i.guard = false → (guardQuads i.guard).all (fun q => c.qcached &&& quadBit q != 0) = true →
        step s = .next (((guardQuads i.guard).foldl State.useQuad v).passOver i.instr)) ∧
      (v.guardHolds i.guard = true → (unitQuads i).all (fun q => c.qcached &&& quadBit q != 0) = true →
        ∀ go, ready.prepare i.instr = (true, go) → step s = exec i.instr go.countUnit))) ∧
  (∀ n u i, f.fetchUnit = (n, .unit i, u) → u.cx = c →
    let v := noted u n (.unit i)
    let ready := (unitQuads i).foldl State.useQuad v
    v.here = pc + 4 * (.ofNat 64 (n - 1)) ∧
    (v.guardHolds i.guard = false → (guardQuads i.guard).all (fun q => c.qcached &&& quadBit q != 0) = true →
      step s = .next (((guardQuads i.guard).foldl State.useQuad v).passOver i.instr)) ∧
    (v.guardHolds i.guard = true → (unitQuads i).all (fun q => c.qcached &&& quadBit q != 0) = true →
      ∀ go, ready.prepare i.instr = (true, go) → step s = exec i.instr go.countUnit))

/-- Worked encodings of the manual's chapters 3 to 15. -/
def Obligations.DecodeWords : Prop :=
  decodeUnit [0x1BF, 0x1A804142] = .done ⟨none, .addi 5 4 ⟨some 6, 0x6A0⟩⟩ ∧
  decodeUnit [0x060C9283] = .done ⟨none, .slli 10 9 48⟩ ∧
  decodeUnit [0x1A144247] = .done ⟨none, .cmp .lt 9 4 5 3⟩ ∧
  decodeUnit [0x0030327E, 0x23F, 0x000C3154] =
    .done ⟨some ⟨9, 3, true⟩, .ld {} .b64 false 0 5 3 ⟨some 8, 0⟩⟩ ∧
  decodeUnit [0x04A0033E, 0x001941D8] = .done ⟨some ⟨12, 0, false⟩, .aadd ⟨.rel, .sys, false⟩ 0 7 20 6⟩ ∧
  decodeUnit [0x1524C113] = .done ⟨none, .qpopNb 4 12 9 5⟩ ∧
  decodeUnit [0x30185120] = .done ⟨none, .vadd .f32 0 4 5 6⟩ ∧
  decodeUnit [0xA019] = .done ⟨none, .fence .pkg .full⟩ ∧
  decodeUnit [0x502D] = .done ⟨none, .trap 5⟩ ∧
  decodeUnit [0x0A3C3410] = .done ⟨none, .cnarrow 16 3 15⟩ ∧
  decodeUnit [0x002D51DA] = .done ⟨none, .lda .b64 0 7 21 .clu⟩ ∧
  decodeUnit [0x0A15412A] = .done ⟨none, .vgath .e32 2 4 20 5⟩ ∧
  decodeUnit [0x0102012C] = .done ⟨none, .ctlw 4 0x020⟩ ∧
  decodeUnit [0xFFFFF10F] = .done ⟨none, .dbnz 4 ⟨none, 0xFFFFF⟩⟩ ∧
  decodeUnit [0x0059F69F] = .done ⟨none, .enq 0 26 31 22⟩ ∧
  decodeUnit [0x001C616E] = .done ⟨none, .xgo 5 6 7⟩ ∧
  decodeUnit [0x2F] = .illegal 0x2F ∧ decodeUnit [0x3F] = .more ∧ decodeUnit [0x3F, 0x3F] = .illegal 0x3F

/-- R66, R76: both directions. -/
def Obligations.RoundTrip : Prop :=
  (∀ (u : IUnit) (ws : List Nat), u.wf = true → encodeUnit u = some ws → decodeUnit ws = .done u) ∧
  (∀ (w : Nat) (i : Instr), w < 2 ^ 32 → decodeWord w = some i → i.wf = true ∧ encodeWord i = some w) ∧
  (∀ (ws : List Nat) (u : IUnit), decodeUnit ws = .done u → u.wf = true ∧ ∃ vs, encodeUnit u = some vs)

/-- R216, R221: bytes and tags. What an unlisted byte reads as is the model's choice (log entry 3). -/
def Obligations.MemoryKept : Prop :=
  (State.reset.MemoryOk ∧ State.reset.mem = [] ∧ State.reset.tags = [] ∧ State.reset.booted = false ∧
    State.reset.recovery = false ∧ State.reset.allCtxs = [] ∧ State.reset.cycle = 0 ∧ State.reset.pkg.lrp = 0x100000 ∧
    State.reset.pkg.corr = 0 ∧ State.reset.pkg.unc = 0 ∧ State.reset.pkg.asidTab = 0 ∧
    (∀ q, (State.reset.kq q).en = false) ∧ (∀ f, State.reset.fnFrozen f = false)) ∧
  (∀ s t : State, s.MemoryOk → step s = .next t → t.MemoryOk)
end

