-- ==== Sys2Proof/Laws/State.lean ====
section
/-!
SUPPORT. Sys2Proof/Laws/State.lean: for each update of the state that the meanings share, one lemma per field: what the
update leaves as it was, and what it makes of the field it changes; the same for the updates of a context.
-/
namespace Sys2Proof.Machine
set_option Elab.async false


/-! ### State.updCx -/

@[simp] theorem State.updCx_agenda (s : State) (f : Ctx → Ctx) : (s.updCx f).agenda = s.agenda := rfl
@[simp] theorem State.updCx_pace (s : State) (f : Ctx → Ctx) : (s.updCx f).pace = s.pace := rfl
@[simp] theorem State.updCx_slices (s : State) (f : Ctx → Ctx) : (s.updCx f).slices = s.slices := rfl
@[simp] theorem State.updCx_cycle (s : State) (f : Ctx → Ctx) : (s.updCx f).cycle = s.cycle := rfl
@[simp] theorem State.updCx_free (s : State) (f : Ctx → Ctx) : (s.updCx f).free = s.free := rfl
@[simp] theorem State.updCx_mem (s : State) (f : Ctx → Ctx) : (s.updCx f).mem = s.mem := rfl
@[simp] theorem State.updCx_tags (s : State) (f : Ctx → Ctx) : (s.updCx f).tags = s.tags := rfl
@[simp] theorem State.updCx_dirty (s : State) (f : Ctx → Ctx) : (s.updCx f).dirty = s.dirty := rfl
@[simp] theorem State.updCx_hostAbsent (s : State) (f : Ctx → Ctx) : (s.updCx f).hostAbsent = s.hostAbsent := rfl
@[simp] theorem State.updCx_arrivals (s : State) (f : Ctx → Ctx) : (s.updCx f).arrivals = s.arrivals := rfl
@[simp] theorem State.updCx_cur (s : State) (f : Ctx → Ctx) : (s.updCx f).cur = s.cur := rfl
@[simp] theorem State.updCx_ctxs (s : State) (f : Ctx → Ctx) : (s.updCx f).ctxs = s.ctxs := rfl
@[simp] theorem State.updCx_cores (s : State) (f : Ctx → Ctx) : (s.updCx f).cores = s.cores := rfl
@[simp] theorem State.updCx_clusters (s : State) (f : Ctx → Ctx) : (s.updCx f).clusters = s.clusters := rfl
@[simp] theorem State.updCx_spaces (s : State) (f : Ctx → Ctx) : (s.updCx f).spaces = s.spaces := rfl
@[simp] theorem State.updCx_exports (s : State) (f : Ctx → Ctx) : (s.updCx f).exports = s.exports := rfl
@[simp] theorem State.updCx_remotes (s : State) (f : Ctx → Ctx) : (s.updCx f).remotes = s.remotes := rfl
@[simp] theorem State.updCx_revocations (s : State) (f : Ctx → Ctx) : (s.updCx f).revocations = s.revocations := rfl
@[simp] theorem State.updCx_txns (s : State) (f : Ctx → Ctx) : (s.updCx f).txns = s.txns := rfl
@[simp] theorem State.updCx_quiet (s : State) (f : Ctx → Ctx) : (s.updCx f).quiet = s.quiet := rfl
@[simp] theorem State.updCx_label (s : State) (f : Ctx → Ctx) : (s.updCx f).label = s.label := rfl
@[simp] theorem State.updCx_chips (s : State) (f : Ctx → Ctx) : (s.updCx f).chips = s.chips := rfl
@[simp] theorem State.updCx_hostRegions (s : State) (f : Ctx → Ctx) : (s.updCx f).hostRegions = s.hostRegions := rfl
@[simp] theorem State.updCx_engines (s : State) (f : Ctx → Ctx) : (s.updCx f).engines = s.engines := rfl
@[simp] theorem State.updCx_accepts (s : State) (f : Ctx → Ctx) : (s.updCx f).accepts = s.accepts := rfl
@[simp] theorem State.updCx_plan (s : State) (f : Ctx → Ctx) : (s.updCx f).plan = s.plan := rfl
@[simp] theorem State.updCx_gangs (s : State) (f : Ctx → Ctx) : (s.updCx f).gangs = s.gangs := rfl
@[simp] theorem State.updCx_spans (s : State) (f : Ctx → Ctx) : (s.updCx f).spans = s.spans := rfl
@[simp] theorem State.updCx_launches (s : State) (f : Ctx → Ctx) : (s.updCx f).launches = s.launches := rfl
@[simp] theorem State.updCx_nextLaunch (s : State) (f : Ctx → Ctx) : (s.updCx f).nextLaunch = s.nextLaunch := rfl
@[simp] theorem State.updCx_logs (s : State) (f : Ctx → Ctx) : (s.updCx f).logs = s.logs := rfl
@[simp] theorem State.updCx_allotments (s : State) (f : Ctx → Ctx) : (s.updCx f).allotments = s.allotments := rfl
@[simp] theorem State.updCx_pool (s : State) (f : Ctx → Ctx) : (s.updCx f).pool = s.pool := rfl
@[simp] theorem State.updCx_nextGang (s : State) (f : Ctx → Ctx) : (s.updCx f).nextGang = s.nextGang := rfl
@[simp] theorem State.updCx_placePtr (s : State) (f : Ctx → Ctx) : (s.updCx f).placePtr = s.placePtr := rfl
@[simp] theorem State.updCx_placements (s : State) (f : Ctx → Ctx) : (s.updCx f).placements = s.placements := rfl
@[simp] theorem State.updCx_xarrived (s : State) (f : Ctx → Ctx) : (s.updCx f).xarrived = s.xarrived := rfl
@[simp] theorem State.updCx_xqueue (s : State) (f : Ctx → Ctx) : (s.updCx f).xqueue = s.xqueue := rfl
@[simp] theorem State.updCx_deficits (s : State) (f : Ctx → Ctx) : (s.updCx f).deficits = s.deficits := rfl
@[simp] theorem State.updCx_xvisit (s : State) (f : Ctx → Ctx) : (s.updCx f).xvisit = s.xvisit := rfl
@[simp] theorem State.updCx_phase (s : State) (f : Ctx → Ctx) : (s.updCx f).phase = s.phase := rfl
@[simp] theorem State.updCx_ports (s : State) (f : Ctx → Ctx) : (s.updCx f).ports = s.ports := rfl
@[simp] theorem State.updCx_pkg (s : State) (f : Ctx → Ctx) : (s.updCx f).pkg = s.pkg := rfl
@[simp] theorem State.updCx_queues (s : State) (f : Ctx → Ctx) : (s.updCx f).queues = s.queues := rfl
@[simp] theorem State.updCx_pkgWrites (s : State) (f : Ctx → Ctx) : (s.updCx f).pkgWrites = s.pkgWrites := rfl
@[simp] theorem State.updCx_tlbInvs (s : State) (f : Ctx → Ctx) : (s.updCx f).tlbInvs = s.tlbInvs := rfl
@[simp] theorem State.updCx_faults (s : State) (f : Ctx → Ctx) : (s.updCx f).faults = s.faults := rfl
@[simp] theorem State.updCx_memErr (s : State) (f : Ctx → Ctx) : (s.updCx f).memErr = s.memErr := rfl
@[simp] theorem State.updCx_hostRefuse (s : State) (f : Ctx → Ctx) : (s.updCx f).hostRefuse = s.hostRefuse := rfl
@[simp] theorem State.updCx_tableFault (s : State) (f : Ctx → Ctx) : (s.updCx f).tableFault = s.tableFault := rfl
@[simp] theorem State.updCx_prgs (s : State) (f : Ctx → Ctx) : (s.updCx f).prgs = s.prgs := rfl
@[simp] theorem State.updCx_fabric (s : State) (f : Ctx → Ctx) : (s.updCx f).fabric = s.fabric := rfl
@[simp] theorem State.updCx_keys (s : State) (f : Ctx → Ctx) : (s.updCx f).keys = s.keys := rfl
@[simp] theorem State.updCx_booted (s : State) (f : Ctx → Ctx) : (s.updCx f).booted = s.booted := rfl
@[simp] theorem State.updCx_recovery (s : State) (f : Ctx → Ctx) : (s.updCx f).recovery = s.recovery := rfl
@[simp] theorem State.updCx_versions (s : State) (f : Ctx → Ctx) : (s.updCx f).versions = s.versions := rfl
@[simp] theorem State.updCx_powerLimited (s : State) (f : Ctx → Ctx) : (s.updCx f).powerLimited = s.powerLimited := rfl
@[simp] theorem State.updCx_net (s : State) (f : Ctx → Ctx) : (s.updCx f).net = s.net := rfl
@[simp] theorem State.updCx_host (s : State) (f : Ctx → Ctx) : (s.updCx f).host = s.host := rfl

/-! ### State.setReg -/

@[simp] theorem State.setReg_agenda (s : State) (r : Reg) (v : RegVal) : (s.setReg r v).agenda = s.agenda := rfl
@[simp] theorem State.setReg_pace (s : State) (r : Reg) (v : RegVal) : (s.setReg r v).pace = s.pace := rfl
@[simp] theorem State.setReg_slices (s : State) (r : Reg) (v : RegVal) : (s.setReg r v).slices = s.slices := rfl
@[simp] theorem State.setReg_cycle (s : State) (r : Reg) (v : RegVal) : (s.setReg r v).cycle = s.cycle := rfl
@[simp] theorem State.setReg_free (s : State) (r : Reg) (v : RegVal) : (s.setReg r v).free = s.free := rfl
@[simp] theorem State.setReg_mem (s : State) (r : Reg) (v : RegVal) : (s.setReg r v).mem = s.mem := rfl
@[simp] theorem State.setReg_tags (s : State) (r : Reg) (v : RegVal) : (s.setReg r v).tags = s.tags := rfl
@[simp] theorem State.setReg_dirty (s : State) (r : Reg) (v : RegVal) : (s.setReg r v).dirty = s.dirty := rfl
@[simp] theorem State.setReg_hostAbsent (s : State) (r : Reg) (v : RegVal) : (s.setReg r v).hostAbsent = s.hostAbsent := rfl
@[simp] theorem State.setReg_arrivals (s : State) (r : Reg) (v : RegVal) : (s.setReg r v).arrivals = s.arrivals := rfl
@[simp] theorem State.setReg_cur (s : State) (r : Reg) (v : RegVal) : (s.setReg r v).cur = s.cur := rfl
@[simp] theorem State.setReg_ctxs (s : State) (r : Reg) (v : RegVal) : (s.setReg r v).ctxs = s.ctxs := rfl
@[simp] theorem State.setReg_cores (s : State) (r : Reg) (v : RegVal) : (s.setReg r v).cores = s.cores := rfl
@[simp] theorem State.setReg_clusters (s : State) (r : Reg) (v : RegVal) : (s.setReg r v).clusters = s.clusters := rfl
@[simp] theorem State.setReg_spaces (s : State) (r : Reg) (v : RegVal) : (s.setReg r v).spaces = s.spaces := rfl
@[simp] theorem State.setReg_exports (s : State) (r : Reg) (v : RegVal) : (s.setReg r v).exports = s.exports := rfl
@[simp] theorem State.setReg_remotes (s : State) (r : Reg) (v : RegVal) : (s.setReg r v).remotes = s.remotes := rfl
@[simp] theorem State.setReg_revocations (s : State) (r : Reg) (v : RegVal) : (s.setReg r v).revocations = s.revocations := rfl
@[simp] theorem State.setReg_txns (s : State) (r : Reg) (v : RegVal) : (s.setReg r v).txns = s.txns := rfl
@[simp] theorem State.setReg_quiet (s : State) (r : Reg) (v : RegVal) : (s.setReg r v).quiet = s.quiet := rfl
@[simp] theorem State.setReg_label (s : State) (r : Reg) (v : RegVal) : (s.setReg r v).label = s.label := rfl
@[simp] theorem State.setReg_chips (s : State) (r : Reg) (v : RegVal) : (s.setReg r v).chips = s.chips := rfl
@[simp] theorem State.setReg_hostRegions (s : State) (r : Reg) (v : RegVal) : (s.setReg r v).hostRegions = s.hostRegions := rfl
@[simp] theorem State.setReg_engines (s : State) (r : Reg) (v : RegVal) : (s.setReg r v).engines = s.engines := rfl
@[simp] theorem State.setReg_accepts (s : State) (r : Reg) (v : RegVal) : (s.setReg r v).accepts = s.accepts := rfl
@[simp] theorem State.setReg_plan (s : State) (r : Reg) (v : RegVal) : (s.setReg r v).plan = s.plan := rfl
@[simp] theorem State.setReg_gangs (s : State) (r : Reg) (v : RegVal) : (s.setReg r v).gangs = s.gangs := rfl
@[simp] theorem State.setReg_spans (s : State) (r : Reg) (v : RegVal) : (s.setReg r v).spans = s.spans := rfl
@[simp] theorem State.setReg_launches (s : State) (r : Reg) (v : RegVal) : (s.setReg r v).launches = s.launches := rfl
@[simp] theorem State.setReg_nextLaunch (s : State) (r : Reg) (v : RegVal) : (s.setReg r v).nextLaunch = s.nextLaunch := rfl
@[simp] theorem State.setReg_logs (s : State) (r : Reg) (v : RegVal) : (s.setReg r v).logs = s.logs := rfl
@[simp] theorem State.setReg_allotments (s : State) (r : Reg) (v : RegVal) : (s.setReg r v).allotments = s.allotments := rfl
@[simp] theorem State.setReg_pool (s : State) (r : Reg) (v : RegVal) : (s.setReg r v).pool = s.pool := rfl
@[simp] theorem State.setReg_nextGang (s : State) (r : Reg) (v : RegVal) : (s.setReg r v).nextGang = s.nextGang := rfl
@[simp] theorem State.setReg_placePtr (s : State) (r : Reg) (v : RegVal) : (s.setReg r v).placePtr = s.placePtr := rfl
@[simp] theorem State.setReg_placements (s : State) (r : Reg) (v : RegVal) : (s.setReg r v).placements = s.placements := rfl
@[simp] theorem State.setReg_xarrived (s : State) (r : Reg) (v : RegVal) : (s.setReg r v).xarrived = s.xarrived := rfl
@[simp] theorem State.setReg_xqueue (s : State) (r : Reg) (v : RegVal) : (s.setReg r v).xqueue = s.xqueue := rfl
@[simp] theorem State.setReg_deficits (s : State) (r : Reg) (v : RegVal) : (s.setReg r v).deficits = s.deficits := rfl
@[simp] theorem State.setReg_xvisit (s : State) (r : Reg) (v : RegVal) : (s.setReg r v).xvisit = s.xvisit := rfl
@[simp] theorem State.setReg_phase (s : State) (r : Reg) (v : RegVal) : (s.setReg r v).phase = s.phase := rfl
@[simp] theorem State.setReg_ports (s : State) (r : Reg) (v : RegVal) : (s.setReg r v).ports = s.ports := rfl
@[simp] theorem State.setReg_pkg (s : State) (r : Reg) (v : RegVal) : (s.setReg r v).pkg = s.pkg := rfl
@[simp] theorem State.setReg_queues (s : State) (r : Reg) (v : RegVal) : (s.setReg r v).queues = s.queues := rfl
@[simp] theorem State.setReg_pkgWrites (s : State) (r : Reg) (v : RegVal) : (s.setReg r v).pkgWrites = s.pkgWrites := rfl
@[simp] theorem State.setReg_tlbInvs (s : State) (r : Reg) (v : RegVal) : (s.setReg r v).tlbInvs = s.tlbInvs := rfl
@[simp] theorem State.setReg_faults (s : State) (r : Reg) (v : RegVal) : (s.setReg r v).faults = s.faults := rfl
@[simp] theorem State.setReg_memErr (s : State) (r : Reg) (v : RegVal) : (s.setReg r v).memErr = s.memErr := rfl
@[simp] theorem State.setReg_hostRefuse (s : State) (r : Reg) (v : RegVal) : (s.setReg r v).hostRefuse = s.hostRefuse := rfl
@[simp] theorem State.setReg_tableFault (s : State) (r : Reg) (v : RegVal) : (s.setReg r v).tableFault = s.tableFault := rfl
@[simp] theorem State.setReg_prgs (s : State) (r : Reg) (v : RegVal) : (s.setReg r v).prgs = s.prgs := rfl
@[simp] theorem State.setReg_fabric (s : State) (r : Reg) (v : RegVal) : (s.setReg r v).fabric = s.fabric := rfl
@[simp] theorem State.setReg_keys (s : State) (r : Reg) (v : RegVal) : (s.setReg r v).keys = s.keys := rfl
@[simp] theorem State.setReg_booted (s : State) (r : Reg) (v : RegVal) : (s.setReg r v).booted = s.booted := rfl
@[simp] theorem State.setReg_recovery (s : State) (r : Reg) (v : RegVal) : (s.setReg r v).recovery = s.recovery := rfl
@[simp] theorem State.setReg_versions (s : State) (r : Reg) (v : RegVal) : (s.setReg r v).versions = s.versions := rfl
@[simp] theorem State.setReg_powerLimited (s : State) (r : Reg) (v : RegVal) : (s.setReg r v).powerLimited = s.powerLimited := rfl
@[simp] theorem State.setReg_net (s : State) (r : Reg) (v : RegVal) : (s.setReg r v).net = s.net := rfl
@[simp] theorem State.setReg_host (s : State) (r : Reg) (v : RegVal) : (s.setReg r v).host = s.host := rfl

/-! ### State.setBits -/

@[simp] theorem State.setBits_agenda (s : State) (r : Reg) (v : W256) : (s.setBits r v).agenda = s.agenda := rfl
@[simp] theorem State.setBits_pace (s : State) (r : Reg) (v : W256) : (s.setBits r v).pace = s.pace := rfl
@[simp] theorem State.setBits_slices (s : State) (r : Reg) (v : W256) : (s.setBits r v).slices = s.slices := rfl
@[simp] theorem State.setBits_cycle (s : State) (r : Reg) (v : W256) : (s.setBits r v).cycle = s.cycle := rfl
@[simp] theorem State.setBits_free (s : State) (r : Reg) (v : W256) : (s.setBits r v).free = s.free := rfl
@[simp] theorem State.setBits_mem (s : State) (r : Reg) (v : W256) : (s.setBits r v).mem = s.mem := rfl
@[simp] theorem State.setBits_tags (s : State) (r : Reg) (v : W256) : (s.setBits r v).tags = s.tags := rfl
@[simp] theorem State.setBits_dirty (s : State) (r : Reg) (v : W256) : (s.setBits r v).dirty = s.dirty := rfl
@[simp] theorem State.setBits_hostAbsent (s : State) (r : Reg) (v : W256) : (s.setBits r v).hostAbsent = s.hostAbsent := rfl
@[simp] theorem State.setBits_arrivals (s : State) (r : Reg) (v : W256) : (s.setBits r v).arrivals = s.arrivals := rfl
@[simp] theorem State.setBits_cur (s : State) (r : Reg) (v : W256) : (s.setBits r v).cur = s.cur := rfl
@[simp] theorem State.setBits_ctxs (s : State) (r : Reg) (v : W256) : (s.setBits r v).ctxs = s.ctxs := rfl
@[simp] theorem State.setBits_cores (s : State) (r : Reg) (v : W256) : (s.setBits r v).cores = s.cores := rfl
@[simp] theorem State.setBits_clusters (s : State) (r : Reg) (v : W256) : (s.setBits r v).clusters = s.clusters := rfl
@[simp] theorem State.setBits_spaces (s : State) (r : Reg) (v : W256) : (s.setBits r v).spaces = s.spaces := rfl
@[simp] theorem State.setBits_exports (s : State) (r : Reg) (v : W256) : (s.setBits r v).exports = s.exports := rfl
@[simp] theorem State.setBits_remotes (s : State) (r : Reg) (v : W256) : (s.setBits r v).remotes = s.remotes := rfl
@[simp] theorem State.setBits_revocations (s : State) (r : Reg) (v : W256) : (s.setBits r v).revocations = s.revocations := rfl
@[simp] theorem State.setBits_txns (s : State) (r : Reg) (v : W256) : (s.setBits r v).txns = s.txns := rfl
@[simp] theorem State.setBits_quiet (s : State) (r : Reg) (v : W256) : (s.setBits r v).quiet = s.quiet := rfl
@[simp] theorem State.setBits_label (s : State) (r : Reg) (v : W256) : (s.setBits r v).label = s.label := rfl
@[simp] theorem State.setBits_chips (s : State) (r : Reg) (v : W256) : (s.setBits r v).chips = s.chips := rfl
@[simp] theorem State.setBits_hostRegions (s : State) (r : Reg) (v : W256) : (s.setBits r v).hostRegions = s.hostRegions := rfl
@[simp] theorem State.setBits_engines (s : State) (r : Reg) (v : W256) : (s.setBits r v).engines = s.engines := rfl
@[simp] theorem State.setBits_accepts (s : State) (r : Reg) (v : W256) : (s.setBits r v).accepts = s.accepts := rfl
@[simp] theorem State.setBits_plan (s : State) (r : Reg) (v : W256) : (s.setBits r v).plan = s.plan := rfl
@[simp] theorem State.setBits_gangs (s : State) (r : Reg) (v : W256) : (s.setBits r v).gangs = s.gangs := rfl
@[simp] theorem State.setBits_spans (s : State) (r : Reg) (v : W256) : (s.setBits r v).spans = s.spans := rfl
@[simp] theorem State.setBits_launches (s : State) (r : Reg) (v : W256) : (s.setBits r v).launches = s.launches := rfl
@[simp] theorem State.setBits_nextLaunch (s : State) (r : Reg) (v : W256) : (s.setBits r v).nextLaunch = s.nextLaunch := rfl
@[simp] theorem State.setBits_logs (s : State) (r : Reg) (v : W256) : (s.setBits r v).logs = s.logs := rfl
@[simp] theorem State.setBits_allotments (s : State) (r : Reg) (v : W256) : (s.setBits r v).allotments = s.allotments := rfl
@[simp] theorem State.setBits_pool (s : State) (r : Reg) (v : W256) : (s.setBits r v).pool = s.pool := rfl
@[simp] theorem State.setBits_nextGang (s : State) (r : Reg) (v : W256) : (s.setBits r v).nextGang = s.nextGang := rfl
@[simp] theorem State.setBits_placePtr (s : State) (r : Reg) (v : W256) : (s.setBits r v).placePtr = s.placePtr := rfl
@[simp] theorem State.setBits_placements (s : State) (r : Reg) (v : W256) : (s.setBits r v).placements = s.placements := rfl
@[simp] theorem State.setBits_xarrived (s : State) (r : Reg) (v : W256) : (s.setBits r v).xarrived = s.xarrived := rfl
@[simp] theorem State.setBits_xqueue (s : State) (r : Reg) (v : W256) : (s.setBits r v).xqueue = s.xqueue := rfl
@[simp] theorem State.setBits_deficits (s : State) (r : Reg) (v : W256) : (s.setBits r v).deficits = s.deficits := rfl
@[simp] theorem State.setBits_xvisit (s : State) (r : Reg) (v : W256) : (s.setBits r v).xvisit = s.xvisit := rfl
@[simp] theorem State.setBits_phase (s : State) (r : Reg) (v : W256) : (s.setBits r v).phase = s.phase := rfl
@[simp] theorem State.setBits_ports (s : State) (r : Reg) (v : W256) : (s.setBits r v).ports = s.ports := rfl
@[simp] theorem State.setBits_pkg (s : State) (r : Reg) (v : W256) : (s.setBits r v).pkg = s.pkg := rfl
@[simp] theorem State.setBits_queues (s : State) (r : Reg) (v : W256) : (s.setBits r v).queues = s.queues := rfl
@[simp] theorem State.setBits_pkgWrites (s : State) (r : Reg) (v : W256) : (s.setBits r v).pkgWrites = s.pkgWrites := rfl
@[simp] theorem State.setBits_tlbInvs (s : State) (r : Reg) (v : W256) : (s.setBits r v).tlbInvs = s.tlbInvs := rfl
@[simp] theorem State.setBits_faults (s : State) (r : Reg) (v : W256) : (s.setBits r v).faults = s.faults := rfl
@[simp] theorem State.setBits_memErr (s : State) (r : Reg) (v : W256) : (s.setBits r v).memErr = s.memErr := rfl
@[simp] theorem State.setBits_hostRefuse (s : State) (r : Reg) (v : W256) : (s.setBits r v).hostRefuse = s.hostRefuse := rfl
@[simp] theorem State.setBits_tableFault (s : State) (r : Reg) (v : W256) : (s.setBits r v).tableFault = s.tableFault := rfl
@[simp] theorem State.setBits_prgs (s : State) (r : Reg) (v : W256) : (s.setBits r v).prgs = s.prgs := rfl
@[simp] theorem State.setBits_fabric (s : State) (r : Reg) (v : W256) : (s.setBits r v).fabric = s.fabric := rfl
@[simp] theorem State.setBits_keys (s : State) (r : Reg) (v : W256) : (s.setBits r v).keys = s.keys := rfl
@[simp] theorem State.setBits_booted (s : State) (r : Reg) (v : W256) : (s.setBits r v).booted = s.booted := rfl
@[simp] theorem State.setBits_recovery (s : State) (r : Reg) (v : W256) : (s.setBits r v).recovery = s.recovery := rfl
@[simp] theorem State.setBits_versions (s : State) (r : Reg) (v : W256) : (s.setBits r v).versions = s.versions := rfl
@[simp] theorem State.setBits_powerLimited (s : State) (r : Reg) (v : W256) : (s.setBits r v).powerLimited = s.powerLimited := rfl
@[simp] theorem State.setBits_net (s : State) (r : Reg) (v : W256) : (s.setBits r v).net = s.net := rfl
@[simp] theorem State.setBits_host (s : State) (r : Reg) (v : W256) : (s.setBits r v).host = s.host := rfl

/-! ### State.setX -/

@[simp] theorem State.setX_agenda (s : State) (r : Reg) (v : Word) : (s.setX r v).agenda = s.agenda := rfl
@[simp] theorem State.setX_pace (s : State) (r : Reg) (v : Word) : (s.setX r v).pace = s.pace := rfl
@[simp] theorem State.setX_slices (s : State) (r : Reg) (v : Word) : (s.setX r v).slices = s.slices := rfl
@[simp] theorem State.setX_cycle (s : State) (r : Reg) (v : Word) : (s.setX r v).cycle = s.cycle := rfl
@[simp] theorem State.setX_free (s : State) (r : Reg) (v : Word) : (s.setX r v).free = s.free := rfl
@[simp] theorem State.setX_mem (s : State) (r : Reg) (v : Word) : (s.setX r v).mem = s.mem := rfl
@[simp] theorem State.setX_tags (s : State) (r : Reg) (v : Word) : (s.setX r v).tags = s.tags := rfl
@[simp] theorem State.setX_dirty (s : State) (r : Reg) (v : Word) : (s.setX r v).dirty = s.dirty := rfl
@[simp] theorem State.setX_hostAbsent (s : State) (r : Reg) (v : Word) : (s.setX r v).hostAbsent = s.hostAbsent := rfl
@[simp] theorem State.setX_arrivals (s : State) (r : Reg) (v : Word) : (s.setX r v).arrivals = s.arrivals := rfl
@[simp] theorem State.setX_cur (s : State) (r : Reg) (v : Word) : (s.setX r v).cur = s.cur := rfl
@[simp] theorem State.setX_ctxs (s : State) (r : Reg) (v : Word) : (s.setX r v).ctxs = s.ctxs := rfl
@[simp] theorem State.setX_cores (s : State) (r : Reg) (v : Word) : (s.setX r v).cores = s.cores := rfl
@[simp] theorem State.setX_clusters (s : State) (r : Reg) (v : Word) : (s.setX r v).clusters = s.clusters := rfl
@[simp] theorem State.setX_spaces (s : State) (r : Reg) (v : Word) : (s.setX r v).spaces = s.spaces := rfl
@[simp] theorem State.setX_exports (s : State) (r : Reg) (v : Word) : (s.setX r v).exports = s.exports := rfl
@[simp] theorem State.setX_remotes (s : State) (r : Reg) (v : Word) : (s.setX r v).remotes = s.remotes := rfl
@[simp] theorem State.setX_revocations (s : State) (r : Reg) (v : Word) : (s.setX r v).revocations = s.revocations := rfl
@[simp] theorem State.setX_txns (s : State) (r : Reg) (v : Word) : (s.setX r v).txns = s.txns := rfl
@[simp] theorem State.setX_quiet (s : State) (r : Reg) (v : Word) : (s.setX r v).quiet = s.quiet := rfl
@[simp] theorem State.setX_label (s : State) (r : Reg) (v : Word) : (s.setX r v).label = s.label := rfl
@[simp] theorem State.setX_chips (s : State) (r : Reg) (v : Word) : (s.setX r v).chips = s.chips := rfl
@[simp] theorem State.setX_hostRegions (s : State) (r : Reg) (v : Word) : (s.setX r v).hostRegions = s.hostRegions := rfl
@[simp] theorem State.setX_engines (s : State) (r : Reg) (v : Word) : (s.setX r v).engines = s.engines := rfl
@[simp] theorem State.setX_accepts (s : State) (r : Reg) (v : Word) : (s.setX r v).accepts = s.accepts := rfl
@[simp] theorem State.setX_plan (s : State) (r : Reg) (v : Word) : (s.setX r v).plan = s.plan := rfl
@[simp] theorem State.setX_gangs (s : State) (r : Reg) (v : Word) : (s.setX r v).gangs = s.gangs := rfl
@[simp] theorem State.setX_spans (s : State) (r : Reg) (v : Word) : (s.setX r v).spans = s.spans := rfl
@[simp] theorem State.setX_launches (s : State) (r : Reg) (v : Word) : (s.setX r v).launches = s.launches := rfl
@[simp] theorem State.setX_nextLaunch (s : State) (r : Reg) (v : Word) : (s.setX r v).nextLaunch = s.nextLaunch := rfl
@[simp] theorem State.setX_logs (s : State) (r : Reg) (v : Word) : (s.setX r v).logs = s.logs := rfl
@[simp] theorem State.setX_allotments (s : State) (r : Reg) (v : Word) : (s.setX r v).allotments = s.allotments := rfl
@[simp] theorem State.setX_pool (s : State) (r : Reg) (v : Word) : (s.setX r v).pool = s.pool := rfl
@[simp] theorem State.setX_nextGang (s : State) (r : Reg) (v : Word) : (s.setX r v).nextGang = s.nextGang := rfl
@[simp] theorem State.setX_placePtr (s : State) (r : Reg) (v : Word) : (s.setX r v).placePtr = s.placePtr := rfl
@[simp] theorem State.setX_placements (s : State) (r : Reg) (v : Word) : (s.setX r v).placements = s.placements := rfl
@[simp] theorem State.setX_xarrived (s : State) (r : Reg) (v : Word) : (s.setX r v).xarrived = s.xarrived := rfl
@[simp] theorem State.setX_xqueue (s : State) (r : Reg) (v : Word) : (s.setX r v).xqueue = s.xqueue := rfl
@[simp] theorem State.setX_deficits (s : State) (r : Reg) (v : Word) : (s.setX r v).deficits = s.deficits := rfl
@[simp] theorem State.setX_xvisit (s : State) (r : Reg) (v : Word) : (s.setX r v).xvisit = s.xvisit := rfl
@[simp] theorem State.setX_phase (s : State) (r : Reg) (v : Word) : (s.setX r v).phase = s.phase := rfl
@[simp] theorem State.setX_ports (s : State) (r : Reg) (v : Word) : (s.setX r v).ports = s.ports := rfl
@[simp] theorem State.setX_pkg (s : State) (r : Reg) (v : Word) : (s.setX r v).pkg = s.pkg := rfl
@[simp] theorem State.setX_queues (s : State) (r : Reg) (v : Word) : (s.setX r v).queues = s.queues := rfl
@[simp] theorem State.setX_pkgWrites (s : State) (r : Reg) (v : Word) : (s.setX r v).pkgWrites = s.pkgWrites := rfl
@[simp] theorem State.setX_tlbInvs (s : State) (r : Reg) (v : Word) : (s.setX r v).tlbInvs = s.tlbInvs := rfl
@[simp] theorem State.setX_faults (s : State) (r : Reg) (v : Word) : (s.setX r v).faults = s.faults := rfl
@[simp] theorem State.setX_memErr (s : State) (r : Reg) (v : Word) : (s.setX r v).memErr = s.memErr := rfl
@[simp] theorem State.setX_hostRefuse (s : State) (r : Reg) (v : Word) : (s.setX r v).hostRefuse = s.hostRefuse := rfl
@[simp] theorem State.setX_tableFault (s : State) (r : Reg) (v : Word) : (s.setX r v).tableFault = s.tableFault := rfl
@[simp] theorem State.setX_prgs (s : State) (r : Reg) (v : Word) : (s.setX r v).prgs = s.prgs := rfl
@[simp] theorem State.setX_fabric (s : State) (r : Reg) (v : Word) : (s.setX r v).fabric = s.fabric := rfl
@[simp] theorem State.setX_keys (s : State) (r : Reg) (v : Word) : (s.setX r v).keys = s.keys := rfl
@[simp] theorem State.setX_booted (s : State) (r : Reg) (v : Word) : (s.setX r v).booted = s.booted := rfl
@[simp] theorem State.setX_recovery (s : State) (r : Reg) (v : Word) : (s.setX r v).recovery = s.recovery := rfl
@[simp] theorem State.setX_versions (s : State) (r : Reg) (v : Word) : (s.setX r v).versions = s.versions := rfl
@[simp] theorem State.setX_powerLimited (s : State) (r : Reg) (v : Word) : (s.setX r v).powerLimited = s.powerLimited := rfl
@[simp] theorem State.setX_net (s : State) (r : Reg) (v : Word) : (s.setX r v).net = s.net := rfl
@[simp] theorem State.setX_host (s : State) (r : Reg) (v : Word) : (s.setX r v).host = s.host := rfl

/-! ### State.setPc -/

@[simp] theorem State.setPc_agenda (s : State) (w : Word) : (s.setPc w).agenda = s.agenda := rfl
@[simp] theorem State.setPc_pace (s : State) (w : Word) : (s.setPc w).pace = s.pace := rfl
@[simp] theorem State.setPc_slices (s : State) (w : Word) : (s.setPc w).slices = s.slices := rfl
@[simp] theorem State.setPc_cycle (s : State) (w : Word) : (s.setPc w).cycle = s.cycle := rfl
@[simp] theorem State.setPc_free (s : State) (w : Word) : (s.setPc w).free = s.free := rfl
@[simp] theorem State.setPc_mem (s : State) (w : Word) : (s.setPc w).mem = s.mem := rfl
@[simp] theorem State.setPc_tags (s : State) (w : Word) : (s.setPc w).tags = s.tags := rfl
@[simp] theorem State.setPc_dirty (s : State) (w : Word) : (s.setPc w).dirty = s.dirty := rfl
@[simp] theorem State.setPc_hostAbsent (s : State) (w : Word) : (s.setPc w).hostAbsent = s.hostAbsent := rfl
@[simp] theorem State.setPc_arrivals (s : State) (w : Word) : (s.setPc w).arrivals = s.arrivals := rfl
@[simp] theorem State.setPc_cur (s : State) (w : Word) : (s.setPc w).cur = s.cur := rfl
@[simp] theorem State.setPc_ctxs (s : State) (w : Word) : (s.setPc w).ctxs = s.ctxs := rfl
@[simp] theorem State.setPc_cores (s : State) (w : Word) : (s.setPc w).cores = s.cores := rfl
@[simp] theorem State.setPc_clusters (s : State) (w : Word) : (s.setPc w).clusters = s.clusters := rfl
@[simp] theorem State.setPc_spaces (s : State) (w : Word) : (s.setPc w).spaces = s.spaces := rfl
@[simp] theorem State.setPc_exports (s : State) (w : Word) : (s.setPc w).exports = s.exports := rfl
@[simp] theorem State.setPc_remotes (s : State) (w : Word) : (s.setPc w).remotes = s.remotes := rfl
@[simp] theorem State.setPc_revocations (s : State) (w : Word) : (s.setPc w).revocations = s.revocations := rfl
@[simp] theorem State.setPc_txns (s : State) (w : Word) : (s.setPc w).txns = s.txns := rfl
@[simp] theorem State.setPc_quiet (s : State) (w : Word) : (s.setPc w).quiet = s.quiet := rfl
@[simp] theorem State.setPc_label (s : State) (w : Word) : (s.setPc w).label = s.label := rfl
@[simp] theorem State.setPc_chips (s : State) (w : Word) : (s.setPc w).chips = s.chips := rfl
@[simp] theorem State.setPc_hostRegions (s : State) (w : Word) : (s.setPc w).hostRegions = s.hostRegions := rfl
@[simp] theorem State.setPc_engines (s : State) (w : Word) : (s.setPc w).engines = s.engines := rfl
@[simp] theorem State.setPc_accepts (s : State) (w : Word) : (s.setPc w).accepts = s.accepts := rfl
@[simp] theorem State.setPc_plan (s : State) (w : Word) : (s.setPc w).plan = s.plan := rfl
@[simp] theorem State.setPc_gangs (s : State) (w : Word) : (s.setPc w).gangs = s.gangs := rfl
@[simp] theorem State.setPc_spans (s : State) (w : Word) : (s.setPc w).spans = s.spans := rfl
@[simp] theorem State.setPc_launches (s : State) (w : Word) : (s.setPc w).launches = s.launches := rfl
@[simp] theorem State.setPc_nextLaunch (s : State) (w : Word) : (s.setPc w).nextLaunch = s.nextLaunch := rfl
@[simp] theorem State.setPc_logs (s : State) (w : Word) : (s.setPc w).logs = s.logs := rfl
@[simp] theorem State.setPc_allotments (s : State) (w : Word) : (s.setPc w).allotments = s.allotments := rfl
@[simp] theorem State.setPc_pool (s : State) (w : Word) : (s.setPc w).pool = s.pool := rfl
@[simp] theorem State.setPc_nextGang (s : State) (w : Word) : (s.setPc w).nextGang = s.nextGang := rfl
@[simp] theorem State.setPc_placePtr (s : State) (w : Word) : (s.setPc w).placePtr = s.placePtr := rfl
@[simp] theorem State.setPc_placements (s : State) (w : Word) : (s.setPc w).placements = s.placements := rfl
@[simp] theorem State.setPc_xarrived (s : State) (w : Word) : (s.setPc w).xarrived = s.xarrived := rfl
@[simp] theorem State.setPc_xqueue (s : State) (w : Word) : (s.setPc w).xqueue = s.xqueue := rfl
@[simp] theorem State.setPc_deficits (s : State) (w : Word) : (s.setPc w).deficits = s.deficits := rfl
@[simp] theorem State.setPc_xvisit (s : State) (w : Word) : (s.setPc w).xvisit = s.xvisit := rfl
@[simp] theorem State.setPc_phase (s : State) (w : Word) : (s.setPc w).phase = s.phase := rfl
@[simp] theorem State.setPc_ports (s : State) (w : Word) : (s.setPc w).ports = s.ports := rfl
@[simp] theorem State.setPc_pkg (s : State) (w : Word) : (s.setPc w).pkg = s.pkg := rfl
@[simp] theorem State.setPc_queues (s : State) (w : Word) : (s.setPc w).queues = s.queues := rfl
@[simp] theorem State.setPc_pkgWrites (s : State) (w : Word) : (s.setPc w).pkgWrites = s.pkgWrites := rfl
@[simp] theorem State.setPc_tlbInvs (s : State) (w : Word) : (s.setPc w).tlbInvs = s.tlbInvs := rfl
@[simp] theorem State.setPc_faults (s : State) (w : Word) : (s.setPc w).faults = s.faults := rfl
@[simp] theorem State.setPc_memErr (s : State) (w : Word) : (s.setPc w).memErr = s.memErr := rfl
@[simp] theorem State.setPc_hostRefuse (s : State) (w : Word) : (s.setPc w).hostRefuse = s.hostRefuse := rfl
@[simp] theorem State.setPc_tableFault (s : State) (w : Word) : (s.setPc w).tableFault = s.tableFault := rfl
@[simp] theorem State.setPc_prgs (s : State) (w : Word) : (s.setPc w).prgs = s.prgs := rfl
@[simp] theorem State.setPc_fabric (s : State) (w : Word) : (s.setPc w).fabric = s.fabric := rfl
@[simp] theorem State.setPc_keys (s : State) (w : Word) : (s.setPc w).keys = s.keys := rfl
@[simp] theorem State.setPc_booted (s : State) (w : Word) : (s.setPc w).booted = s.booted := rfl
@[simp] theorem State.setPc_recovery (s : State) (w : Word) : (s.setPc w).recovery = s.recovery := rfl
@[simp] theorem State.setPc_versions (s : State) (w : Word) : (s.setPc w).versions = s.versions := rfl
@[simp] theorem State.setPc_powerLimited (s : State) (w : Word) : (s.setPc w).powerLimited = s.powerLimited := rfl
@[simp] theorem State.setPc_net (s : State) (w : Word) : (s.setPc w).net = s.net := rfl
@[simp] theorem State.setPc_host (s : State) (w : Word) : (s.setPc w).host = s.host := rfl

/-! ### State.advance -/

@[simp] theorem State.advance_agenda (s : State) : (s.advance).agenda = s.agenda := rfl
@[simp] theorem State.advance_pace (s : State) : (s.advance).pace = s.pace := rfl
@[simp] theorem State.advance_slices (s : State) : (s.advance).slices = s.slices := rfl
@[simp] theorem State.advance_cycle (s : State) : (s.advance).cycle = s.cycle := rfl
@[simp] theorem State.advance_free (s : State) : (s.advance).free = s.free := rfl
@[simp] theorem State.advance_mem (s : State) : (s.advance).mem = s.mem := rfl
@[simp] theorem State.advance_tags (s : State) : (s.advance).tags = s.tags := rfl
@[simp] theorem State.advance_dirty (s : State) : (s.advance).dirty = s.dirty := rfl
@[simp] theorem State.advance_hostAbsent (s : State) : (s.advance).hostAbsent = s.hostAbsent := rfl
@[simp] theorem State.advance_arrivals (s : State) : (s.advance).arrivals = s.arrivals := rfl
@[simp] theorem State.advance_cur (s : State) : (s.advance).cur = s.cur := rfl
@[simp] theorem State.advance_ctxs (s : State) : (s.advance).ctxs = s.ctxs := rfl
@[simp] theorem State.advance_cores (s : State) : (s.advance).cores = s.cores := rfl
@[simp] theorem State.advance_clusters (s : State) : (s.advance).clusters = s.clusters := rfl
@[simp] theorem State.advance_spaces (s : State) : (s.advance).spaces = s.spaces := rfl
@[simp] theorem State.advance_exports (s : State) : (s.advance).exports = s.exports := rfl
@[simp] theorem State.advance_remotes (s : State) : (s.advance).remotes = s.remotes := rfl
@[simp] theorem State.advance_revocations (s : State) : (s.advance).revocations = s.revocations := rfl
@[simp] theorem State.advance_txns (s : State) : (s.advance).txns = s.txns := rfl
@[simp] theorem State.advance_quiet (s : State) : (s.advance).quiet = s.quiet := rfl
@[simp] theorem State.advance_label (s : State) : (s.advance).label = s.label := rfl
@[simp] theorem State.advance_chips (s : State) : (s.advance).chips = s.chips := rfl
@[simp] theorem State.advance_hostRegions (s : State) : (s.advance).hostRegions = s.hostRegions := rfl
@[simp] theorem State.advance_engines (s : State) : (s.advance).engines = s.engines := rfl
@[simp] theorem State.advance_accepts (s : State) : (s.advance).accepts = s.accepts := rfl
@[simp] theorem State.advance_plan (s : State) : (s.advance).plan = s.plan := rfl
@[simp] theorem State.advance_gangs (s : State) : (s.advance).gangs = s.gangs := rfl
@[simp] theorem State.advance_spans (s : State) : (s.advance).spans = s.spans := rfl
@[simp] theorem State.advance_launches (s : State) : (s.advance).launches = s.launches := rfl
@[simp] theorem State.advance_nextLaunch (s : State) : (s.advance).nextLaunch = s.nextLaunch := rfl
@[simp] theorem State.advance_logs (s : State) : (s.advance).logs = s.logs := rfl
@[simp] theorem State.advance_allotments (s : State) : (s.advance).allotments = s.allotments := rfl
@[simp] theorem State.advance_pool (s : State) : (s.advance).pool = s.pool := rfl
@[simp] theorem State.advance_nextGang (s : State) : (s.advance).nextGang = s.nextGang := rfl
@[simp] theorem State.advance_placePtr (s : State) : (s.advance).placePtr = s.placePtr := rfl
@[simp] theorem State.advance_placements (s : State) : (s.advance).placements = s.placements := rfl
@[simp] theorem State.advance_xarrived (s : State) : (s.advance).xarrived = s.xarrived := rfl
@[simp] theorem State.advance_xqueue (s : State) : (s.advance).xqueue = s.xqueue := rfl
@[simp] theorem State.advance_deficits (s : State) : (s.advance).deficits = s.deficits := rfl
@[simp] theorem State.advance_xvisit (s : State) : (s.advance).xvisit = s.xvisit := rfl
@[simp] theorem State.advance_phase (s : State) : (s.advance).phase = s.phase := rfl
@[simp] theorem State.advance_ports (s : State) : (s.advance).ports = s.ports := rfl
@[simp] theorem State.advance_pkg (s : State) : (s.advance).pkg = s.pkg := rfl
@[simp] theorem State.advance_queues (s : State) : (s.advance).queues = s.queues := rfl
@[simp] theorem State.advance_pkgWrites (s : State) : (s.advance).pkgWrites = s.pkgWrites := rfl
@[simp] theorem State.advance_tlbInvs (s : State) : (s.advance).tlbInvs = s.tlbInvs := rfl
@[simp] theorem State.advance_faults (s : State) : (s.advance).faults = s.faults := rfl
@[simp] theorem State.advance_memErr (s : State) : (s.advance).memErr = s.memErr := rfl
@[simp] theorem State.advance_hostRefuse (s : State) : (s.advance).hostRefuse = s.hostRefuse := rfl
@[simp] theorem State.advance_tableFault (s : State) : (s.advance).tableFault = s.tableFault := rfl
@[simp] theorem State.advance_prgs (s : State) : (s.advance).prgs = s.prgs := rfl
@[simp] theorem State.advance_fabric (s : State) : (s.advance).fabric = s.fabric := rfl
@[simp] theorem State.advance_keys (s : State) : (s.advance).keys = s.keys := rfl
@[simp] theorem State.advance_booted (s : State) : (s.advance).booted = s.booted := rfl
@[simp] theorem State.advance_recovery (s : State) : (s.advance).recovery = s.recovery := rfl
@[simp] theorem State.advance_versions (s : State) : (s.advance).versions = s.versions := rfl
@[simp] theorem State.advance_powerLimited (s : State) : (s.advance).powerLimited = s.powerLimited := rfl
@[simp] theorem State.advance_net (s : State) : (s.advance).net = s.net := rfl
@[simp] theorem State.advance_host (s : State) : (s.advance).host = s.host := rfl

/-! ### State.openWindow -/

@[simp] theorem State.openWindow_agenda (s : State) (p : Pending) : (s.openWindow p).agenda = s.agenda := rfl
@[simp] theorem State.openWindow_pace (s : State) (p : Pending) : (s.openWindow p).pace = s.pace := rfl
@[simp] theorem State.openWindow_slices (s : State) (p : Pending) : (s.openWindow p).slices = s.slices := rfl
@[simp] theorem State.openWindow_cycle (s : State) (p : Pending) : (s.openWindow p).cycle = s.cycle := rfl
@[simp] theorem State.openWindow_free (s : State) (p : Pending) : (s.openWindow p).free = s.free := rfl
@[simp] theorem State.openWindow_mem (s : State) (p : Pending) : (s.openWindow p).mem = s.mem := rfl
@[simp] theorem State.openWindow_tags (s : State) (p : Pending) : (s.openWindow p).tags = s.tags := rfl
@[simp] theorem State.openWindow_dirty (s : State) (p : Pending) : (s.openWindow p).dirty = s.dirty := rfl
@[simp] theorem State.openWindow_hostAbsent (s : State) (p : Pending) : (s.openWindow p).hostAbsent = s.hostAbsent := rfl
@[simp] theorem State.openWindow_arrivals (s : State) (p : Pending) : (s.openWindow p).arrivals = s.arrivals := rfl
@[simp] theorem State.openWindow_cur (s : State) (p : Pending) : (s.openWindow p).cur = s.cur := rfl
@[simp] theorem State.openWindow_ctxs (s : State) (p : Pending) : (s.openWindow p).ctxs = s.ctxs := rfl
@[simp] theorem State.openWindow_cores (s : State) (p : Pending) : (s.openWindow p).cores = s.cores := rfl
@[simp] theorem State.openWindow_clusters (s : State) (p : Pending) : (s.openWindow p).clusters = s.clusters := rfl
@[simp] theorem State.openWindow_spaces (s : State) (p : Pending) : (s.openWindow p).spaces = s.spaces := rfl
@[simp] theorem State.openWindow_exports (s : State) (p : Pending) : (s.openWindow p).exports = s.exports := rfl
@[simp] theorem State.openWindow_remotes (s : State) (p : Pending) : (s.openWindow p).remotes = s.remotes := rfl
@[simp] theorem State.openWindow_revocations (s : State) (p : Pending) : (s.openWindow p).revocations = s.revocations := rfl
@[simp] theorem State.openWindow_txns (s : State) (p : Pending) : (s.openWindow p).txns = s.txns := rfl
@[simp] theorem State.openWindow_quiet (s : State) (p : Pending) : (s.openWindow p).quiet = s.quiet := rfl
@[simp] theorem State.openWindow_label (s : State) (p : Pending) : (s.openWindow p).label = s.label := rfl
@[simp] theorem State.openWindow_chips (s : State) (p : Pending) : (s.openWindow p).chips = s.chips := rfl
@[simp] theorem State.openWindow_hostRegions (s : State) (p : Pending) : (s.openWindow p).hostRegions = s.hostRegions := rfl
@[simp] theorem State.openWindow_engines (s : State) (p : Pending) : (s.openWindow p).engines = s.engines := rfl
@[simp] theorem State.openWindow_accepts (s : State) (p : Pending) : (s.openWindow p).accepts = s.accepts := rfl
@[simp] theorem State.openWindow_plan (s : State) (p : Pending) : (s.openWindow p).plan = s.plan := rfl
@[simp] theorem State.openWindow_gangs (s : State) (p : Pending) : (s.openWindow p).gangs = s.gangs := rfl
@[simp] theorem State.openWindow_spans (s : State) (p : Pending) : (s.openWindow p).spans = s.spans := rfl
@[simp] theorem State.openWindow_launches (s : State) (p : Pending) : (s.openWindow p).launches = s.launches := rfl
@[simp] theorem State.openWindow_nextLaunch (s : State) (p : Pending) : (s.openWindow p).nextLaunch = s.nextLaunch := rfl
@[simp] theorem State.openWindow_logs (s : State) (p : Pending) : (s.openWindow p).logs = s.logs := rfl
@[simp] theorem State.openWindow_allotments (s : State) (p : Pending) : (s.openWindow p).allotments = s.allotments := rfl
@[simp] theorem State.openWindow_pool (s : State) (p : Pending) : (s.openWindow p).pool = s.pool := rfl
@[simp] theorem State.openWindow_nextGang (s : State) (p : Pending) : (s.openWindow p).nextGang = s.nextGang := rfl
@[simp] theorem State.openWindow_placePtr (s : State) (p : Pending) : (s.openWindow p).placePtr = s.placePtr := rfl
@[simp] theorem State.openWindow_placements (s : State) (p : Pending) : (s.openWindow p).placements = s.placements := rfl
@[simp] theorem State.openWindow_xarrived (s : State) (p : Pending) : (s.openWindow p).xarrived = s.xarrived := rfl
@[simp] theorem State.openWindow_xqueue (s : State) (p : Pending) : (s.openWindow p).xqueue = s.xqueue := rfl
@[simp] theorem State.openWindow_deficits (s : State) (p : Pending) : (s.openWindow p).deficits = s.deficits := rfl
@[simp] theorem State.openWindow_xvisit (s : State) (p : Pending) : (s.openWindow p).xvisit = s.xvisit := rfl
@[simp] theorem State.openWindow_phase (s : State) (p : Pending) : (s.openWindow p).phase = s.phase := rfl
@[simp] theorem State.openWindow_ports (s : State) (p : Pending) : (s.openWindow p).ports = s.ports := rfl
@[simp] theorem State.openWindow_pkg (s : State) (p : Pending) : (s.openWindow p).pkg = s.pkg := rfl
@[simp] theorem State.openWindow_queues (s : State) (p : Pending) : (s.openWindow p).queues = s.queues := rfl
@[simp] theorem State.openWindow_pkgWrites (s : State) (p : Pending) : (s.openWindow p).pkgWrites = s.pkgWrites := rfl
@[simp] theorem State.openWindow_tlbInvs (s : State) (p : Pending) : (s.openWindow p).tlbInvs = s.tlbInvs := rfl
@[simp] theorem State.openWindow_faults (s : State) (p : Pending) : (s.openWindow p).faults = s.faults := rfl
@[simp] theorem State.openWindow_memErr (s : State) (p : Pending) : (s.openWindow p).memErr = s.memErr := rfl
@[simp] theorem State.openWindow_hostRefuse (s : State) (p : Pending) : (s.openWindow p).hostRefuse = s.hostRefuse := rfl
@[simp] theorem State.openWindow_tableFault (s : State) (p : Pending) : (s.openWindow p).tableFault = s.tableFault := rfl
@[simp] theorem State.openWindow_prgs (s : State) (p : Pending) : (s.openWindow p).prgs = s.prgs := rfl
@[simp] theorem State.openWindow_fabric (s : State) (p : Pending) : (s.openWindow p).fabric = s.fabric := rfl
@[simp] theorem State.openWindow_keys (s : State) (p : Pending) : (s.openWindow p).keys = s.keys := rfl
@[simp] theorem State.openWindow_booted (s : State) (p : Pending) : (s.openWindow p).booted = s.booted := rfl
@[simp] theorem State.openWindow_recovery (s : State) (p : Pending) : (s.openWindow p).recovery = s.recovery := rfl
@[simp] theorem State.openWindow_versions (s : State) (p : Pending) : (s.openWindow p).versions = s.versions := rfl
@[simp] theorem State.openWindow_powerLimited (s : State) (p : Pending) : (s.openWindow p).powerLimited = s.powerLimited := rfl
@[simp] theorem State.openWindow_net (s : State) (p : Pending) : (s.openWindow p).net = s.net := rfl
@[simp] theorem State.openWindow_host (s : State) (p : Pending) : (s.openWindow p).host = s.host := rfl

/-! ### State.unblock -/

@[simp] theorem State.unblock_agenda (s : State) : (s.unblock).agenda = s.agenda := rfl
@[simp] theorem State.unblock_pace (s : State) : (s.unblock).pace = s.pace := rfl
@[simp] theorem State.unblock_slices (s : State) : (s.unblock).slices = s.slices := rfl
@[simp] theorem State.unblock_cycle (s : State) : (s.unblock).cycle = s.cycle := rfl
@[simp] theorem State.unblock_free (s : State) : (s.unblock).free = s.free := rfl
@[simp] theorem State.unblock_mem (s : State) : (s.unblock).mem = s.mem := rfl
@[simp] theorem State.unblock_tags (s : State) : (s.unblock).tags = s.tags := rfl
@[simp] theorem State.unblock_dirty (s : State) : (s.unblock).dirty = s.dirty := rfl
@[simp] theorem State.unblock_hostAbsent (s : State) : (s.unblock).hostAbsent = s.hostAbsent := rfl
@[simp] theorem State.unblock_arrivals (s : State) : (s.unblock).arrivals = s.arrivals := rfl
@[simp] theorem State.unblock_cur (s : State) : (s.unblock).cur = s.cur := rfl
@[simp] theorem State.unblock_ctxs (s : State) : (s.unblock).ctxs = s.ctxs := rfl
@[simp] theorem State.unblock_cores (s : State) : (s.unblock).cores = s.cores := rfl
@[simp] theorem State.unblock_clusters (s : State) : (s.unblock).clusters = s.clusters := rfl
@[simp] theorem State.unblock_spaces (s : State) : (s.unblock).spaces = s.spaces := rfl
@[simp] theorem State.unblock_exports (s : State) : (s.unblock).exports = s.exports := rfl
@[simp] theorem State.unblock_remotes (s : State) : (s.unblock).remotes = s.remotes := rfl
@[simp] theorem State.unblock_revocations (s : State) : (s.unblock).revocations = s.revocations := rfl
@[simp] theorem State.unblock_txns (s : State) : (s.unblock).txns = s.txns := rfl
@[simp] theorem State.unblock_quiet (s : State) : (s.unblock).quiet = s.quiet := rfl
@[simp] theorem State.unblock_label (s : State) : (s.unblock).label = s.label := rfl
@[simp] theorem State.unblock_chips (s : State) : (s.unblock).chips = s.chips := rfl
@[simp] theorem State.unblock_hostRegions (s : State) : (s.unblock).hostRegions = s.hostRegions := rfl
@[simp] theorem State.unblock_engines (s : State) : (s.unblock).engines = s.engines := rfl
@[simp] theorem State.unblock_accepts (s : State) : (s.unblock).accepts = s.accepts := rfl
@[simp] theorem State.unblock_plan (s : State) : (s.unblock).plan = s.plan := rfl
@[simp] theorem State.unblock_gangs (s : State) : (s.unblock).gangs = s.gangs := rfl
@[simp] theorem State.unblock_spans (s : State) : (s.unblock).spans = s.spans := rfl
@[simp] theorem State.unblock_launches (s : State) : (s.unblock).launches = s.launches := rfl
@[simp] theorem State.unblock_nextLaunch (s : State) : (s.unblock).nextLaunch = s.nextLaunch := rfl
@[simp] theorem State.unblock_logs (s : State) : (s.unblock).logs = s.logs := rfl
@[simp] theorem State.unblock_allotments (s : State) : (s.unblock).allotments = s.allotments := rfl
@[simp] theorem State.unblock_pool (s : State) : (s.unblock).pool = s.pool := rfl
@[simp] theorem State.unblock_nextGang (s : State) : (s.unblock).nextGang = s.nextGang := rfl
@[simp] theorem State.unblock_placePtr (s : State) : (s.unblock).placePtr = s.placePtr := rfl
@[simp] theorem State.unblock_placements (s : State) : (s.unblock).placements = s.placements := rfl
@[simp] theorem State.unblock_xarrived (s : State) : (s.unblock).xarrived = s.xarrived := rfl
@[simp] theorem State.unblock_xqueue (s : State) : (s.unblock).xqueue = s.xqueue := rfl
@[simp] theorem State.unblock_deficits (s : State) : (s.unblock).deficits = s.deficits := rfl
@[simp] theorem State.unblock_xvisit (s : State) : (s.unblock).xvisit = s.xvisit := rfl
@[simp] theorem State.unblock_phase (s : State) : (s.unblock).phase = s.phase := rfl
@[simp] theorem State.unblock_ports (s : State) : (s.unblock).ports = s.ports := rfl
@[simp] theorem State.unblock_pkg (s : State) : (s.unblock).pkg = s.pkg := rfl
@[simp] theorem State.unblock_queues (s : State) : (s.unblock).queues = s.queues := rfl
@[simp] theorem State.unblock_pkgWrites (s : State) : (s.unblock).pkgWrites = s.pkgWrites := rfl
@[simp] theorem State.unblock_tlbInvs (s : State) : (s.unblock).tlbInvs = s.tlbInvs := rfl
@[simp] theorem State.unblock_faults (s : State) : (s.unblock).faults = s.faults := rfl
@[simp] theorem State.unblock_memErr (s : State) : (s.unblock).memErr = s.memErr := rfl
@[simp] theorem State.unblock_hostRefuse (s : State) : (s.unblock).hostRefuse = s.hostRefuse := rfl
@[simp] theorem State.unblock_tableFault (s : State) : (s.unblock).tableFault = s.tableFault := rfl
@[simp] theorem State.unblock_prgs (s : State) : (s.unblock).prgs = s.prgs := rfl
@[simp] theorem State.unblock_fabric (s : State) : (s.unblock).fabric = s.fabric := rfl
@[simp] theorem State.unblock_keys (s : State) : (s.unblock).keys = s.keys := rfl
@[simp] theorem State.unblock_booted (s : State) : (s.unblock).booted = s.booted := rfl
@[simp] theorem State.unblock_recovery (s : State) : (s.unblock).recovery = s.recovery := rfl
@[simp] theorem State.unblock_versions (s : State) : (s.unblock).versions = s.versions := rfl
@[simp] theorem State.unblock_powerLimited (s : State) : (s.unblock).powerLimited = s.powerLimited := rfl
@[simp] theorem State.unblock_net (s : State) : (s.unblock).net = s.net := rfl
@[simp] theorem State.unblock_host (s : State) : (s.unblock).host = s.host := rfl

/-! ### State.finishWait -/

@[simp] theorem State.finishWait_agenda (s : State) : (s.finishWait).agenda = s.agenda := rfl
@[simp] theorem State.finishWait_pace (s : State) : (s.finishWait).pace = s.pace := rfl
@[simp] theorem State.finishWait_slices (s : State) : (s.finishWait).slices = s.slices := rfl
@[simp] theorem State.finishWait_cycle (s : State) : (s.finishWait).cycle = s.cycle := rfl
@[simp] theorem State.finishWait_free (s : State) : (s.finishWait).free = s.free := rfl
@[simp] theorem State.finishWait_mem (s : State) : (s.finishWait).mem = s.mem := rfl
@[simp] theorem State.finishWait_tags (s : State) : (s.finishWait).tags = s.tags := rfl
@[simp] theorem State.finishWait_dirty (s : State) : (s.finishWait).dirty = s.dirty := rfl
@[simp] theorem State.finishWait_hostAbsent (s : State) : (s.finishWait).hostAbsent = s.hostAbsent := rfl
@[simp] theorem State.finishWait_arrivals (s : State) : (s.finishWait).arrivals = s.arrivals := rfl
@[simp] theorem State.finishWait_cur (s : State) : (s.finishWait).cur = s.cur := rfl
@[simp] theorem State.finishWait_ctxs (s : State) : (s.finishWait).ctxs = s.ctxs := rfl
@[simp] theorem State.finishWait_cores (s : State) : (s.finishWait).cores = s.cores := rfl
@[simp] theorem State.finishWait_clusters (s : State) : (s.finishWait).clusters = s.clusters := rfl
@[simp] theorem State.finishWait_spaces (s : State) : (s.finishWait).spaces = s.spaces := rfl
@[simp] theorem State.finishWait_exports (s : State) : (s.finishWait).exports = s.exports := rfl
@[simp] theorem State.finishWait_remotes (s : State) : (s.finishWait).remotes = s.remotes := rfl
@[simp] theorem State.finishWait_revocations (s : State) : (s.finishWait).revocations = s.revocations := rfl
@[simp] theorem State.finishWait_txns (s : State) : (s.finishWait).txns = s.txns := rfl
@[simp] theorem State.finishWait_quiet (s : State) : (s.finishWait).quiet = s.quiet := rfl
@[simp] theorem State.finishWait_label (s : State) : (s.finishWait).label = s.label := rfl
@[simp] theorem State.finishWait_chips (s : State) : (s.finishWait).chips = s.chips := rfl
@[simp] theorem State.finishWait_hostRegions (s : State) : (s.finishWait).hostRegions = s.hostRegions := rfl
@[simp] theorem State.finishWait_engines (s : State) : (s.finishWait).engines = s.engines := rfl
@[simp] theorem State.finishWait_accepts (s : State) : (s.finishWait).accepts = s.accepts := rfl
@[simp] theorem State.finishWait_plan (s : State) : (s.finishWait).plan = s.plan := rfl
@[simp] theorem State.finishWait_gangs (s : State) : (s.finishWait).gangs = s.gangs := rfl
@[simp] theorem State.finishWait_spans (s : State) : (s.finishWait).spans = s.spans := rfl
@[simp] theorem State.finishWait_launches (s : State) : (s.finishWait).launches = s.launches := rfl
@[simp] theorem State.finishWait_nextLaunch (s : State) : (s.finishWait).nextLaunch = s.nextLaunch := rfl
@[simp] theorem State.finishWait_logs (s : State) : (s.finishWait).logs = s.logs := rfl
@[simp] theorem State.finishWait_allotments (s : State) : (s.finishWait).allotments = s.allotments := rfl
@[simp] theorem State.finishWait_pool (s : State) : (s.finishWait).pool = s.pool := rfl
@[simp] theorem State.finishWait_nextGang (s : State) : (s.finishWait).nextGang = s.nextGang := rfl
@[simp] theorem State.finishWait_placePtr (s : State) : (s.finishWait).placePtr = s.placePtr := rfl
@[simp] theorem State.finishWait_placements (s : State) : (s.finishWait).placements = s.placements := rfl
@[simp] theorem State.finishWait_xarrived (s : State) : (s.finishWait).xarrived = s.xarrived := rfl
@[simp] theorem State.finishWait_xqueue (s : State) : (s.finishWait).xqueue = s.xqueue := rfl
@[simp] theorem State.finishWait_deficits (s : State) : (s.finishWait).deficits = s.deficits := rfl
@[simp] theorem State.finishWait_xvisit (s : State) : (s.finishWait).xvisit = s.xvisit := rfl
@[simp] theorem State.finishWait_phase (s : State) : (s.finishWait).phase = s.phase := rfl
@[simp] theorem State.finishWait_ports (s : State) : (s.finishWait).ports = s.ports := rfl
@[simp] theorem State.finishWait_pkg (s : State) : (s.finishWait).pkg = s.pkg := rfl
@[simp] theorem State.finishWait_queues (s : State) : (s.finishWait).queues = s.queues := rfl
@[simp] theorem State.finishWait_pkgWrites (s : State) : (s.finishWait).pkgWrites = s.pkgWrites := rfl
@[simp] theorem State.finishWait_tlbInvs (s : State) : (s.finishWait).tlbInvs = s.tlbInvs := rfl
@[simp] theorem State.finishWait_faults (s : State) : (s.finishWait).faults = s.faults := rfl
@[simp] theorem State.finishWait_memErr (s : State) : (s.finishWait).memErr = s.memErr := rfl
@[simp] theorem State.finishWait_hostRefuse (s : State) : (s.finishWait).hostRefuse = s.hostRefuse := rfl
@[simp] theorem State.finishWait_tableFault (s : State) : (s.finishWait).tableFault = s.tableFault := rfl
@[simp] theorem State.finishWait_prgs (s : State) : (s.finishWait).prgs = s.prgs := rfl
@[simp] theorem State.finishWait_fabric (s : State) : (s.finishWait).fabric = s.fabric := rfl
@[simp] theorem State.finishWait_keys (s : State) : (s.finishWait).keys = s.keys := rfl
@[simp] theorem State.finishWait_booted (s : State) : (s.finishWait).booted = s.booted := rfl
@[simp] theorem State.finishWait_recovery (s : State) : (s.finishWait).recovery = s.recovery := rfl
@[simp] theorem State.finishWait_versions (s : State) : (s.finishWait).versions = s.versions := rfl
@[simp] theorem State.finishWait_powerLimited (s : State) : (s.finishWait).powerLimited = s.powerLimited := rfl
@[simp] theorem State.finishWait_net (s : State) : (s.finishWait).net = s.net := rfl
@[simp] theorem State.finishWait_host (s : State) : (s.finishWait).host = s.host := rfl

/-! ### State.block -/

@[simp] theorem State.block_agenda (s : State) (w : Wait) : (s.block w).agenda = s.agenda := rfl
@[simp] theorem State.block_pace (s : State) (w : Wait) : (s.block w).pace = s.pace := rfl
@[simp] theorem State.block_slices (s : State) (w : Wait) : (s.block w).slices = s.slices := rfl
@[simp] theorem State.block_cycle (s : State) (w : Wait) : (s.block w).cycle = s.cycle := rfl
@[simp] theorem State.block_free (s : State) (w : Wait) : (s.block w).free = s.free := rfl
@[simp] theorem State.block_mem (s : State) (w : Wait) : (s.block w).mem = s.mem := rfl
@[simp] theorem State.block_tags (s : State) (w : Wait) : (s.block w).tags = s.tags := rfl
@[simp] theorem State.block_dirty (s : State) (w : Wait) : (s.block w).dirty = s.dirty := rfl
@[simp] theorem State.block_hostAbsent (s : State) (w : Wait) : (s.block w).hostAbsent = s.hostAbsent := rfl
@[simp] theorem State.block_arrivals (s : State) (w : Wait) : (s.block w).arrivals = s.arrivals := rfl
@[simp] theorem State.block_cur (s : State) (w : Wait) : (s.block w).cur = s.cur := rfl
@[simp] theorem State.block_ctxs (s : State) (w : Wait) : (s.block w).ctxs = s.ctxs := rfl
@[simp] theorem State.block_cores (s : State) (w : Wait) : (s.block w).cores = s.cores := rfl
@[simp] theorem State.block_clusters (s : State) (w : Wait) : (s.block w).clusters = s.clusters := rfl
@[simp] theorem State.block_spaces (s : State) (w : Wait) : (s.block w).spaces = s.spaces := rfl
@[simp] theorem State.block_exports (s : State) (w : Wait) : (s.block w).exports = s.exports := rfl
@[simp] theorem State.block_remotes (s : State) (w : Wait) : (s.block w).remotes = s.remotes := rfl
@[simp] theorem State.block_revocations (s : State) (w : Wait) : (s.block w).revocations = s.revocations := rfl
@[simp] theorem State.block_txns (s : State) (w : Wait) : (s.block w).txns = s.txns := rfl
@[simp] theorem State.block_quiet (s : State) (w : Wait) : (s.block w).quiet = s.quiet := rfl
@[simp] theorem State.block_label (s : State) (w : Wait) : (s.block w).label = s.label := rfl
@[simp] theorem State.block_chips (s : State) (w : Wait) : (s.block w).chips = s.chips := rfl
@[simp] theorem State.block_hostRegions (s : State) (w : Wait) : (s.block w).hostRegions = s.hostRegions := rfl
@[simp] theorem State.block_engines (s : State) (w : Wait) : (s.block w).engines = s.engines := rfl
@[simp] theorem State.block_accepts (s : State) (w : Wait) : (s.block w).accepts = s.accepts := rfl
@[simp] theorem State.block_plan (s : State) (w : Wait) : (s.block w).plan = s.plan := rfl
@[simp] theorem State.block_gangs (s : State) (w : Wait) : (s.block w).gangs = s.gangs := rfl
@[simp] theorem State.block_spans (s : State) (w : Wait) : (s.block w).spans = s.spans := rfl
@[simp] theorem State.block_launches (s : State) (w : Wait) : (s.block w).launches = s.launches := rfl
@[simp] theorem State.block_nextLaunch (s : State) (w : Wait) : (s.block w).nextLaunch = s.nextLaunch := rfl
@[simp] theorem State.block_logs (s : State) (w : Wait) : (s.block w).logs = s.logs := rfl
@[simp] theorem State.block_allotments (s : State) (w : Wait) : (s.block w).allotments = s.allotments := rfl
@[simp] theorem State.block_pool (s : State) (w : Wait) : (s.block w).pool = s.pool := rfl
@[simp] theorem State.block_nextGang (s : State) (w : Wait) : (s.block w).nextGang = s.nextGang := rfl
@[simp] theorem State.block_placePtr (s : State) (w : Wait) : (s.block w).placePtr = s.placePtr := rfl
@[simp] theorem State.block_placements (s : State) (w : Wait) : (s.block w).placements = s.placements := rfl
@[simp] theorem State.block_xarrived (s : State) (w : Wait) : (s.block w).xarrived = s.xarrived := rfl
@[simp] theorem State.block_xqueue (s : State) (w : Wait) : (s.block w).xqueue = s.xqueue := rfl
@[simp] theorem State.block_deficits (s : State) (w : Wait) : (s.block w).deficits = s.deficits := rfl
@[simp] theorem State.block_xvisit (s : State) (w : Wait) : (s.block w).xvisit = s.xvisit := rfl
@[simp] theorem State.block_phase (s : State) (w : Wait) : (s.block w).phase = s.phase := rfl
@[simp] theorem State.block_ports (s : State) (w : Wait) : (s.block w).ports = s.ports := rfl
@[simp] theorem State.block_pkg (s : State) (w : Wait) : (s.block w).pkg = s.pkg := rfl
@[simp] theorem State.block_queues (s : State) (w : Wait) : (s.block w).queues = s.queues := rfl
@[simp] theorem State.block_pkgWrites (s : State) (w : Wait) : (s.block w).pkgWrites = s.pkgWrites := rfl
@[simp] theorem State.block_tlbInvs (s : State) (w : Wait) : (s.block w).tlbInvs = s.tlbInvs := rfl
@[simp] theorem State.block_faults (s : State) (w : Wait) : (s.block w).faults = s.faults := rfl
@[simp] theorem State.block_memErr (s : State) (w : Wait) : (s.block w).memErr = s.memErr := rfl
@[simp] theorem State.block_hostRefuse (s : State) (w : Wait) : (s.block w).hostRefuse = s.hostRefuse := rfl
@[simp] theorem State.block_tableFault (s : State) (w : Wait) : (s.block w).tableFault = s.tableFault := rfl
@[simp] theorem State.block_prgs (s : State) (w : Wait) : (s.block w).prgs = s.prgs := rfl
@[simp] theorem State.block_fabric (s : State) (w : Wait) : (s.block w).fabric = s.fabric := rfl
@[simp] theorem State.block_keys (s : State) (w : Wait) : (s.block w).keys = s.keys := rfl
@[simp] theorem State.block_booted (s : State) (w : Wait) : (s.block w).booted = s.booted := rfl
@[simp] theorem State.block_recovery (s : State) (w : Wait) : (s.block w).recovery = s.recovery := rfl
@[simp] theorem State.block_versions (s : State) (w : Wait) : (s.block w).versions = s.versions := rfl
@[simp] theorem State.block_powerLimited (s : State) (w : Wait) : (s.block w).powerLimited = s.powerLimited := rfl
@[simp] theorem State.block_net (s : State) (w : Wait) : (s.block w).net = s.net := rfl
@[simp] theorem State.block_host (s : State) (w : Wait) : (s.block w).host = s.host := rfl

/-! ### State.updCore -/

@[simp] theorem State.updCore_agenda (s : State) (c : CoreIx) (f : Core → Core) : (s.updCore c f).agenda = s.agenda := rfl
@[simp] theorem State.updCore_pace (s : State) (c : CoreIx) (f : Core → Core) : (s.updCore c f).pace = s.pace := rfl
@[simp] theorem State.updCore_slices (s : State) (c : CoreIx) (f : Core → Core) : (s.updCore c f).slices = s.slices := rfl
@[simp] theorem State.updCore_cycle (s : State) (c : CoreIx) (f : Core → Core) : (s.updCore c f).cycle = s.cycle := rfl
@[simp] theorem State.updCore_free (s : State) (c : CoreIx) (f : Core → Core) : (s.updCore c f).free = s.free := rfl
@[simp] theorem State.updCore_mem (s : State) (c : CoreIx) (f : Core → Core) : (s.updCore c f).mem = s.mem := rfl
@[simp] theorem State.updCore_tags (s : State) (c : CoreIx) (f : Core → Core) : (s.updCore c f).tags = s.tags := rfl
@[simp] theorem State.updCore_dirty (s : State) (c : CoreIx) (f : Core → Core) : (s.updCore c f).dirty = s.dirty := rfl
@[simp] theorem State.updCore_hostAbsent (s : State) (c : CoreIx) (f : Core → Core) : (s.updCore c f).hostAbsent = s.hostAbsent := rfl
@[simp] theorem State.updCore_arrivals (s : State) (c : CoreIx) (f : Core → Core) : (s.updCore c f).arrivals = s.arrivals := rfl
@[simp] theorem State.updCore_cur (s : State) (c : CoreIx) (f : Core → Core) : (s.updCore c f).cur = s.cur := rfl
@[simp] theorem State.updCore_cx (s : State) (c : CoreIx) (f : Core → Core) : (s.updCore c f).cx = s.cx := rfl
@[simp] theorem State.updCore_ctxs (s : State) (c : CoreIx) (f : Core → Core) : (s.updCore c f).ctxs = s.ctxs := rfl
@[simp] theorem State.updCore_clusters (s : State) (c : CoreIx) (f : Core → Core) : (s.updCore c f).clusters = s.clusters := rfl
@[simp] theorem State.updCore_spaces (s : State) (c : CoreIx) (f : Core → Core) : (s.updCore c f).spaces = s.spaces := rfl
@[simp] theorem State.updCore_exports (s : State) (c : CoreIx) (f : Core → Core) : (s.updCore c f).exports = s.exports := rfl
@[simp] theorem State.updCore_remotes (s : State) (c : CoreIx) (f : Core → Core) : (s.updCore c f).remotes = s.remotes := rfl
@[simp] theorem State.updCore_revocations (s : State) (c : CoreIx) (f : Core → Core) : (s.updCore c f).revocations = s.revocations := rfl
@[simp] theorem State.updCore_txns (s : State) (c : CoreIx) (f : Core → Core) : (s.updCore c f).txns = s.txns := rfl
@[simp] theorem State.updCore_quiet (s : State) (c : CoreIx) (f : Core → Core) : (s.updCore c f).quiet = s.quiet := rfl
@[simp] theorem State.updCore_label (s : State) (c : CoreIx) (f : Core → Core) : (s.updCore c f).label = s.label := rfl
@[simp] theorem State.updCore_chips (s : State) (c : CoreIx) (f : Core → Core) : (s.updCore c f).chips = s.chips := rfl
@[simp] theorem State.updCore_hostRegions (s : State) (c : CoreIx) (f : Core → Core) : (s.updCore c f).hostRegions = s.hostRegions := rfl
@[simp] theorem State.updCore_engines (s : State) (c : CoreIx) (f : Core → Core) : (s.updCore c f).engines = s.engines := rfl
@[simp] theorem State.updCore_accepts (s : State) (c : CoreIx) (f : Core → Core) : (s.updCore c f).accepts = s.accepts := rfl
@[simp] theorem State.updCore_plan (s : State) (c : CoreIx) (f : Core → Core) : (s.updCore c f).plan = s.plan := rfl
@[simp] theorem State.updCore_gangs (s : State) (c : CoreIx) (f : Core → Core) : (s.updCore c f).gangs = s.gangs := rfl
@[simp] theorem State.updCore_spans (s : State) (c : CoreIx) (f : Core → Core) : (s.updCore c f).spans = s.spans := rfl
@[simp] theorem State.updCore_launches (s : State) (c : CoreIx) (f : Core → Core) : (s.updCore c f).launches = s.launches := rfl
@[simp] theorem State.updCore_nextLaunch (s : State) (c : CoreIx) (f : Core → Core) : (s.updCore c f).nextLaunch = s.nextLaunch := rfl
@[simp] theorem State.updCore_logs (s : State) (c : CoreIx) (f : Core → Core) : (s.updCore c f).logs = s.logs := rfl
@[simp] theorem State.updCore_allotments (s : State) (c : CoreIx) (f : Core → Core) : (s.updCore c f).allotments = s.allotments := rfl
@[simp] theorem State.updCore_pool (s : State) (c : CoreIx) (f : Core → Core) : (s.updCore c f).pool = s.pool := rfl
@[simp] theorem State.updCore_nextGang (s : State) (c : CoreIx) (f : Core → Core) : (s.updCore c f).nextGang = s.nextGang := rfl
@[simp] theorem State.updCore_placePtr (s : State) (c : CoreIx) (f : Core → Core) : (s.updCore c f).placePtr = s.placePtr := rfl
@[simp] theorem State.updCore_placements (s : State) (c : CoreIx) (f : Core → Core) : (s.updCore c f).placements = s.placements := rfl
@[simp] theorem State.updCore_xarrived (s : State) (c : CoreIx) (f : Core → Core) : (s.updCore c f).xarrived = s.xarrived := rfl
@[simp] theorem State.updCore_xqueue (s : State) (c : CoreIx) (f : Core → Core) : (s.updCore c f).xqueue = s.xqueue := rfl
@[simp] theorem State.updCore_deficits (s : State) (c : CoreIx) (f : Core → Core) : (s.updCore c f).deficits = s.deficits := rfl
@[simp] theorem State.updCore_xvisit (s : State) (c : CoreIx) (f : Core → Core) : (s.updCore c f).xvisit = s.xvisit := rfl
@[simp] theorem State.updCore_phase (s : State) (c : CoreIx) (f : Core → Core) : (s.updCore c f).phase = s.phase := rfl
@[simp] theorem State.updCore_ports (s : State) (c : CoreIx) (f : Core → Core) : (s.updCore c f).ports = s.ports := rfl
@[simp] theorem State.updCore_pkg (s : State) (c : CoreIx) (f : Core → Core) : (s.updCore c f).pkg = s.pkg := rfl
@[simp] theorem State.updCore_queues (s : State) (c : CoreIx) (f : Core → Core) : (s.updCore c f).queues = s.queues := rfl
@[simp] theorem State.updCore_pkgWrites (s : State) (c : CoreIx) (f : Core → Core) : (s.updCore c f).pkgWrites = s.pkgWrites := rfl
@[simp] theorem State.updCore_tlbInvs (s : State) (c : CoreIx) (f : Core → Core) : (s.updCore c f).tlbInvs = s.tlbInvs := rfl
@[simp] theorem State.updCore_faults (s : State) (c : CoreIx) (f : Core → Core) : (s.updCore c f).faults = s.faults := rfl
@[simp] theorem State.updCore_memErr (s : State) (c : CoreIx) (f : Core → Core) : (s.updCore c f).memErr = s.memErr := rfl
@[simp] theorem State.updCore_hostRefuse (s : State) (c : CoreIx) (f : Core → Core) : (s.updCore c f).hostRefuse = s.hostRefuse := rfl
@[simp] theorem State.updCore_tableFault (s : State) (c : CoreIx) (f : Core → Core) : (s.updCore c f).tableFault = s.tableFault := rfl
@[simp] theorem State.updCore_prgs (s : State) (c : CoreIx) (f : Core → Core) : (s.updCore c f).prgs = s.prgs := rfl
@[simp] theorem State.updCore_fabric (s : State) (c : CoreIx) (f : Core → Core) : (s.updCore c f).fabric = s.fabric := rfl
@[simp] theorem State.updCore_keys (s : State) (c : CoreIx) (f : Core → Core) : (s.updCore c f).keys = s.keys := rfl
@[simp] theorem State.updCore_booted (s : State) (c : CoreIx) (f : Core → Core) : (s.updCore c f).booted = s.booted := rfl
@[simp] theorem State.updCore_recovery (s : State) (c : CoreIx) (f : Core → Core) : (s.updCore c f).recovery = s.recovery := rfl
@[simp] theorem State.updCore_versions (s : State) (c : CoreIx) (f : Core → Core) : (s.updCore c f).versions = s.versions := rfl
@[simp] theorem State.updCore_powerLimited (s : State) (c : CoreIx) (f : Core → Core) : (s.updCore c f).powerLimited = s.powerLimited := rfl
@[simp] theorem State.updCore_net (s : State) (c : CoreIx) (f : Core → Core) : (s.updCore c f).net = s.net := rfl
@[simp] theorem State.updCore_host (s : State) (c : CoreIx) (f : Core → Core) : (s.updCore c f).host = s.host := rfl

/-! ### State.setBound -/

@[simp] theorem State.setBound_agenda (s : State) (l : SlotId) (i : Option (BitVec 32)) : (s.setBound l i).agenda = s.agenda := rfl
@[simp] theorem State.setBound_pace (s : State) (l : SlotId) (i : Option (BitVec 32)) : (s.setBound l i).pace = s.pace := rfl
@[simp] theorem State.setBound_slices (s : State) (l : SlotId) (i : Option (BitVec 32)) : (s.setBound l i).slices = s.slices := rfl
@[simp] theorem State.setBound_cycle (s : State) (l : SlotId) (i : Option (BitVec 32)) : (s.setBound l i).cycle = s.cycle := rfl
@[simp] theorem State.setBound_free (s : State) (l : SlotId) (i : Option (BitVec 32)) : (s.setBound l i).free = s.free := rfl
@[simp] theorem State.setBound_mem (s : State) (l : SlotId) (i : Option (BitVec 32)) : (s.setBound l i).mem = s.mem := rfl
@[simp] theorem State.setBound_tags (s : State) (l : SlotId) (i : Option (BitVec 32)) : (s.setBound l i).tags = s.tags := rfl
@[simp] theorem State.setBound_dirty (s : State) (l : SlotId) (i : Option (BitVec 32)) : (s.setBound l i).dirty = s.dirty := rfl
@[simp] theorem State.setBound_hostAbsent (s : State) (l : SlotId) (i : Option (BitVec 32)) : (s.setBound l i).hostAbsent = s.hostAbsent := rfl
@[simp] theorem State.setBound_arrivals (s : State) (l : SlotId) (i : Option (BitVec 32)) : (s.setBound l i).arrivals = s.arrivals := rfl
@[simp] theorem State.setBound_cur (s : State) (l : SlotId) (i : Option (BitVec 32)) : (s.setBound l i).cur = s.cur := rfl
@[simp] theorem State.setBound_cx (s : State) (l : SlotId) (i : Option (BitVec 32)) : (s.setBound l i).cx = s.cx := rfl
@[simp] theorem State.setBound_ctxs (s : State) (l : SlotId) (i : Option (BitVec 32)) : (s.setBound l i).ctxs = s.ctxs := rfl
@[simp] theorem State.setBound_clusters (s : State) (l : SlotId) (i : Option (BitVec 32)) : (s.setBound l i).clusters = s.clusters := rfl
@[simp] theorem State.setBound_spaces (s : State) (l : SlotId) (i : Option (BitVec 32)) : (s.setBound l i).spaces = s.spaces := rfl
@[simp] theorem State.setBound_exports (s : State) (l : SlotId) (i : Option (BitVec 32)) : (s.setBound l i).exports = s.exports := rfl
@[simp] theorem State.setBound_remotes (s : State) (l : SlotId) (i : Option (BitVec 32)) : (s.setBound l i).remotes = s.remotes := rfl
@[simp] theorem State.setBound_revocations (s : State) (l : SlotId) (i : Option (BitVec 32)) : (s.setBound l i).revocations = s.revocations := rfl
@[simp] theorem State.setBound_txns (s : State) (l : SlotId) (i : Option (BitVec 32)) : (s.setBound l i).txns = s.txns := rfl
@[simp] theorem State.setBound_quiet (s : State) (l : SlotId) (i : Option (BitVec 32)) : (s.setBound l i).quiet = s.quiet := rfl
@[simp] theorem State.setBound_label (s : State) (l : SlotId) (i : Option (BitVec 32)) : (s.setBound l i).label = s.label := rfl
@[simp] theorem State.setBound_chips (s : State) (l : SlotId) (i : Option (BitVec 32)) : (s.setBound l i).chips = s.chips := rfl
@[simp] theorem State.setBound_hostRegions (s : State) (l : SlotId) (i : Option (BitVec 32)) : (s.setBound l i).hostRegions = s.hostRegions := rfl
@[simp] theorem State.setBound_engines (s : State) (l : SlotId) (i : Option (BitVec 32)) : (s.setBound l i).engines = s.engines := rfl
@[simp] theorem State.setBound_accepts (s : State) (l : SlotId) (i : Option (BitVec 32)) : (s.setBound l i).accepts = s.accepts := rfl
@[simp] theorem State.setBound_plan (s : State) (l : SlotId) (i : Option (BitVec 32)) : (s.setBound l i).plan = s.plan := rfl
@[simp] theorem State.setBound_gangs (s : State) (l : SlotId) (i : Option (BitVec 32)) : (s.setBound l i).gangs = s.gangs := rfl
@[simp] theorem State.setBound_spans (s : State) (l : SlotId) (i : Option (BitVec 32)) : (s.setBound l i).spans = s.spans := rfl
@[simp] theorem State.setBound_launches (s : State) (l : SlotId) (i : Option (BitVec 32)) : (s.setBound l i).launches = s.launches := rfl
@[simp] theorem State.setBound_nextLaunch (s : State) (l : SlotId) (i : Option (BitVec 32)) : (s.setBound l i).nextLaunch = s.nextLaunch := rfl
@[simp] theorem State.setBound_logs (s : State) (l : SlotId) (i : Option (BitVec 32)) : (s.setBound l i).logs = s.logs := rfl
@[simp] theorem State.setBound_allotments (s : State) (l : SlotId) (i : Option (BitVec 32)) : (s.setBound l i).allotments = s.allotments := rfl
@[simp] theorem State.setBound_pool (s : State) (l : SlotId) (i : Option (BitVec 32)) : (s.setBound l i).pool = s.pool := rfl
@[simp] theorem State.setBound_nextGang (s : State) (l : SlotId) (i : Option (BitVec 32)) : (s.setBound l i).nextGang = s.nextGang := rfl
@[simp] theorem State.setBound_placePtr (s : State) (l : SlotId) (i : Option (BitVec 32)) : (s.setBound l i).placePtr = s.placePtr := rfl
@[simp] theorem State.setBound_placements (s : State) (l : SlotId) (i : Option (BitVec 32)) : (s.setBound l i).placements = s.placements := rfl
@[simp] theorem State.setBound_xarrived (s : State) (l : SlotId) (i : Option (BitVec 32)) : (s.setBound l i).xarrived = s.xarrived := rfl
@[simp] theorem State.setBound_xqueue (s : State) (l : SlotId) (i : Option (BitVec 32)) : (s.setBound l i).xqueue = s.xqueue := rfl
@[simp] theorem State.setBound_deficits (s : State) (l : SlotId) (i : Option (BitVec 32)) : (s.setBound l i).deficits = s.deficits := rfl
@[simp] theorem State.setBound_xvisit (s : State) (l : SlotId) (i : Option (BitVec 32)) : (s.setBound l i).xvisit = s.xvisit := rfl
@[simp] theorem State.setBound_phase (s : State) (l : SlotId) (i : Option (BitVec 32)) : (s.setBound l i).phase = s.phase := rfl
@[simp] theorem State.setBound_ports (s : State) (l : SlotId) (i : Option (BitVec 32)) : (s.setBound l i).ports = s.ports := rfl
@[simp] theorem State.setBound_pkg (s : State) (l : SlotId) (i : Option (BitVec 32)) : (s.setBound l i).pkg = s.pkg := rfl
@[simp] theorem State.setBound_queues (s : State) (l : SlotId) (i : Option (BitVec 32)) : (s.setBound l i).queues = s.queues := rfl
@[simp] theorem State.setBound_pkgWrites (s : State) (l : SlotId) (i : Option (BitVec 32)) : (s.setBound l i).pkgWrites = s.pkgWrites := rfl
@[simp] theorem State.setBound_tlbInvs (s : State) (l : SlotId) (i : Option (BitVec 32)) : (s.setBound l i).tlbInvs = s.tlbInvs := rfl
@[simp] theorem State.setBound_faults (s : State) (l : SlotId) (i : Option (BitVec 32)) : (s.setBound l i).faults = s.faults := rfl
@[simp] theorem State.setBound_memErr (s : State) (l : SlotId) (i : Option (BitVec 32)) : (s.setBound l i).memErr = s.memErr := rfl
@[simp] theorem State.setBound_hostRefuse (s : State) (l : SlotId) (i : Option (BitVec 32)) : (s.setBound l i).hostRefuse = s.hostRefuse := rfl
@[simp] theorem State.setBound_tableFault (s : State) (l : SlotId) (i : Option (BitVec 32)) : (s.setBound l i).tableFault = s.tableFault := rfl
@[simp] theorem State.setBound_prgs (s : State) (l : SlotId) (i : Option (BitVec 32)) : (s.setBound l i).prgs = s.prgs := rfl
@[simp] theorem State.setBound_fabric (s : State) (l : SlotId) (i : Option (BitVec 32)) : (s.setBound l i).fabric = s.fabric := rfl
@[simp] theorem State.setBound_keys (s : State) (l : SlotId) (i : Option (BitVec 32)) : (s.setBound l i).keys = s.keys := rfl
@[simp] theorem State.setBound_booted (s : State) (l : SlotId) (i : Option (BitVec 32)) : (s.setBound l i).booted = s.booted := rfl
@[simp] theorem State.setBound_recovery (s : State) (l : SlotId) (i : Option (BitVec 32)) : (s.setBound l i).recovery = s.recovery := rfl
@[simp] theorem State.setBound_versions (s : State) (l : SlotId) (i : Option (BitVec 32)) : (s.setBound l i).versions = s.versions := rfl
@[simp] theorem State.setBound_powerLimited (s : State) (l : SlotId) (i : Option (BitVec 32)) : (s.setBound l i).powerLimited = s.powerLimited := rfl
@[simp] theorem State.setBound_net (s : State) (l : SlotId) (i : Option (BitVec 32)) : (s.setBound l i).net = s.net := rfl
@[simp] theorem State.setBound_host (s : State) (l : SlotId) (i : Option (BitVec 32)) : (s.setBound l i).host = s.host := rfl

/-! ### State.updCluster -/

@[simp] theorem State.updCluster_agenda (s : State) (c : ClusterIx) (f : Cluster → Cluster) : (s.updCluster c f).agenda = s.agenda := rfl
@[simp] theorem State.updCluster_pace (s : State) (c : ClusterIx) (f : Cluster → Cluster) : (s.updCluster c f).pace = s.pace := rfl
@[simp] theorem State.updCluster_slices (s : State) (c : ClusterIx) (f : Cluster → Cluster) : (s.updCluster c f).slices = s.slices := rfl
@[simp] theorem State.updCluster_cycle (s : State) (c : ClusterIx) (f : Cluster → Cluster) : (s.updCluster c f).cycle = s.cycle := rfl
@[simp] theorem State.updCluster_free (s : State) (c : ClusterIx) (f : Cluster → Cluster) : (s.updCluster c f).free = s.free := rfl
@[simp] theorem State.updCluster_mem (s : State) (c : ClusterIx) (f : Cluster → Cluster) : (s.updCluster c f).mem = s.mem := rfl
@[simp] theorem State.updCluster_tags (s : State) (c : ClusterIx) (f : Cluster → Cluster) : (s.updCluster c f).tags = s.tags := rfl
@[simp] theorem State.updCluster_dirty (s : State) (c : ClusterIx) (f : Cluster → Cluster) : (s.updCluster c f).dirty = s.dirty := rfl
@[simp] theorem State.updCluster_hostAbsent (s : State) (c : ClusterIx) (f : Cluster → Cluster) : (s.updCluster c f).hostAbsent = s.hostAbsent := rfl
@[simp] theorem State.updCluster_arrivals (s : State) (c : ClusterIx) (f : Cluster → Cluster) : (s.updCluster c f).arrivals = s.arrivals := rfl
@[simp] theorem State.updCluster_cur (s : State) (c : ClusterIx) (f : Cluster → Cluster) : (s.updCluster c f).cur = s.cur := rfl
@[simp] theorem State.updCluster_cx (s : State) (c : ClusterIx) (f : Cluster → Cluster) : (s.updCluster c f).cx = s.cx := rfl
@[simp] theorem State.updCluster_ctxs (s : State) (c : ClusterIx) (f : Cluster → Cluster) : (s.updCluster c f).ctxs = s.ctxs := rfl
@[simp] theorem State.updCluster_cores (s : State) (c : ClusterIx) (f : Cluster → Cluster) : (s.updCluster c f).cores = s.cores := rfl
@[simp] theorem State.updCluster_spaces (s : State) (c : ClusterIx) (f : Cluster → Cluster) : (s.updCluster c f).spaces = s.spaces := rfl
@[simp] theorem State.updCluster_exports (s : State) (c : ClusterIx) (f : Cluster → Cluster) : (s.updCluster c f).exports = s.exports := rfl
@[simp] theorem State.updCluster_remotes (s : State) (c : ClusterIx) (f : Cluster → Cluster) : (s.updCluster c f).remotes = s.remotes := rfl
@[simp] theorem State.updCluster_revocations (s : State) (c : ClusterIx) (f : Cluster → Cluster) : (s.updCluster c f).revocations = s.revocations := rfl
@[simp] theorem State.updCluster_txns (s : State) (c : ClusterIx) (f : Cluster → Cluster) : (s.updCluster c f).txns = s.txns := rfl
@[simp] theorem State.updCluster_quiet (s : State) (c : ClusterIx) (f : Cluster → Cluster) : (s.updCluster c f).quiet = s.quiet := rfl
@[simp] theorem State.updCluster_label (s : State) (c : ClusterIx) (f : Cluster → Cluster) : (s.updCluster c f).label = s.label := rfl
@[simp] theorem State.updCluster_chips (s : State) (c : ClusterIx) (f : Cluster → Cluster) : (s.updCluster c f).chips = s.chips := rfl
@[simp] theorem State.updCluster_hostRegions (s : State) (c : ClusterIx) (f : Cluster → Cluster) : (s.updCluster c f).hostRegions = s.hostRegions := rfl
@[simp] theorem State.updCluster_engines (s : State) (c : ClusterIx) (f : Cluster → Cluster) : (s.updCluster c f).engines = s.engines := rfl
@[simp] theorem State.updCluster_accepts (s : State) (c : ClusterIx) (f : Cluster → Cluster) : (s.updCluster c f).accepts = s.accepts := rfl
@[simp] theorem State.updCluster_plan (s : State) (c : ClusterIx) (f : Cluster → Cluster) : (s.updCluster c f).plan = s.plan := rfl
@[simp] theorem State.updCluster_gangs (s : State) (c : ClusterIx) (f : Cluster → Cluster) : (s.updCluster c f).gangs = s.gangs := rfl
@[simp] theorem State.updCluster_spans (s : State) (c : ClusterIx) (f : Cluster → Cluster) : (s.updCluster c f).spans = s.spans := rfl
@[simp] theorem State.updCluster_launches (s : State) (c : ClusterIx) (f : Cluster → Cluster) : (s.updCluster c f).launches = s.launches := rfl
@[simp] theorem State.updCluster_nextLaunch (s : State) (c : ClusterIx) (f : Cluster → Cluster) : (s.updCluster c f).nextLaunch = s.nextLaunch := rfl
@[simp] theorem State.updCluster_logs (s : State) (c : ClusterIx) (f : Cluster → Cluster) : (s.updCluster c f).logs = s.logs := rfl
@[simp] theorem State.updCluster_allotments (s : State) (c : ClusterIx) (f : Cluster → Cluster) : (s.updCluster c f).allotments = s.allotments := rfl
@[simp] theorem State.updCluster_pool (s : State) (c : ClusterIx) (f : Cluster → Cluster) : (s.updCluster c f).pool = s.pool := rfl
@[simp] theorem State.updCluster_nextGang (s : State) (c : ClusterIx) (f : Cluster → Cluster) : (s.updCluster c f).nextGang = s.nextGang := rfl
@[simp] theorem State.updCluster_placePtr (s : State) (c : ClusterIx) (f : Cluster → Cluster) : (s.updCluster c f).placePtr = s.placePtr := rfl
@[simp] theorem State.updCluster_placements (s : State) (c : ClusterIx) (f : Cluster → Cluster) : (s.updCluster c f).placements = s.placements := rfl
@[simp] theorem State.updCluster_xarrived (s : State) (c : ClusterIx) (f : Cluster → Cluster) : (s.updCluster c f).xarrived = s.xarrived := rfl
@[simp] theorem State.updCluster_xqueue (s : State) (c : ClusterIx) (f : Cluster → Cluster) : (s.updCluster c f).xqueue = s.xqueue := rfl
@[simp] theorem State.updCluster_deficits (s : State) (c : ClusterIx) (f : Cluster → Cluster) : (s.updCluster c f).deficits = s.deficits := rfl
@[simp] theorem State.updCluster_xvisit (s : State) (c : ClusterIx) (f : Cluster → Cluster) : (s.updCluster c f).xvisit = s.xvisit := rfl
@[simp] theorem State.updCluster_phase (s : State) (c : ClusterIx) (f : Cluster → Cluster) : (s.updCluster c f).phase = s.phase := rfl
@[simp] theorem State.updCluster_ports (s : State) (c : ClusterIx) (f : Cluster → Cluster) : (s.updCluster c f).ports = s.ports := rfl
@[simp] theorem State.updCluster_pkg (s : State) (c : ClusterIx) (f : Cluster → Cluster) : (s.updCluster c f).pkg = s.pkg := rfl
@[simp] theorem State.updCluster_queues (s : State) (c : ClusterIx) (f : Cluster → Cluster) : (s.updCluster c f).queues = s.queues := rfl
@[simp] theorem State.updCluster_pkgWrites (s : State) (c : ClusterIx) (f : Cluster → Cluster) : (s.updCluster c f).pkgWrites = s.pkgWrites := rfl
@[simp] theorem State.updCluster_tlbInvs (s : State) (c : ClusterIx) (f : Cluster → Cluster) : (s.updCluster c f).tlbInvs = s.tlbInvs := rfl
@[simp] theorem State.updCluster_faults (s : State) (c : ClusterIx) (f : Cluster → Cluster) : (s.updCluster c f).faults = s.faults := rfl
@[simp] theorem State.updCluster_memErr (s : State) (c : ClusterIx) (f : Cluster → Cluster) : (s.updCluster c f).memErr = s.memErr := rfl
@[simp] theorem State.updCluster_hostRefuse (s : State) (c : ClusterIx) (f : Cluster → Cluster) : (s.updCluster c f).hostRefuse = s.hostRefuse := rfl
@[simp] theorem State.updCluster_tableFault (s : State) (c : ClusterIx) (f : Cluster → Cluster) : (s.updCluster c f).tableFault = s.tableFault := rfl
@[simp] theorem State.updCluster_prgs (s : State) (c : ClusterIx) (f : Cluster → Cluster) : (s.updCluster c f).prgs = s.prgs := rfl
@[simp] theorem State.updCluster_fabric (s : State) (c : ClusterIx) (f : Cluster → Cluster) : (s.updCluster c f).fabric = s.fabric := rfl
@[simp] theorem State.updCluster_keys (s : State) (c : ClusterIx) (f : Cluster → Cluster) : (s.updCluster c f).keys = s.keys := rfl
@[simp] theorem State.updCluster_booted (s : State) (c : ClusterIx) (f : Cluster → Cluster) : (s.updCluster c f).booted = s.booted := rfl
@[simp] theorem State.updCluster_recovery (s : State) (c : ClusterIx) (f : Cluster → Cluster) : (s.updCluster c f).recovery = s.recovery := rfl
@[simp] theorem State.updCluster_versions (s : State) (c : ClusterIx) (f : Cluster → Cluster) : (s.updCluster c f).versions = s.versions := rfl
@[simp] theorem State.updCluster_powerLimited (s : State) (c : ClusterIx) (f : Cluster → Cluster) : (s.updCluster c f).powerLimited = s.powerLimited := rfl
@[simp] theorem State.updCluster_net (s : State) (c : ClusterIx) (f : Cluster → Cluster) : (s.updCluster c f).net = s.net := rfl
@[simp] theorem State.updCluster_host (s : State) (c : ClusterIx) (f : Cluster → Cluster) : (s.updCluster c f).host = s.host := rfl

/-! ### State.updSpace -/

@[simp] theorem State.updSpace_agenda (s : State) (a : Asid) (f : Space → Space) : (s.updSpace a f).agenda = s.agenda := rfl
@[simp] theorem State.updSpace_pace (s : State) (a : Asid) (f : Space → Space) : (s.updSpace a f).pace = s.pace := rfl
@[simp] theorem State.updSpace_slices (s : State) (a : Asid) (f : Space → Space) : (s.updSpace a f).slices = s.slices := rfl
@[simp] theorem State.updSpace_cycle (s : State) (a : Asid) (f : Space → Space) : (s.updSpace a f).cycle = s.cycle := rfl
@[simp] theorem State.updSpace_free (s : State) (a : Asid) (f : Space → Space) : (s.updSpace a f).free = s.free := rfl
@[simp] theorem State.updSpace_mem (s : State) (a : Asid) (f : Space → Space) : (s.updSpace a f).mem = s.mem := rfl
@[simp] theorem State.updSpace_tags (s : State) (a : Asid) (f : Space → Space) : (s.updSpace a f).tags = s.tags := rfl
@[simp] theorem State.updSpace_dirty (s : State) (a : Asid) (f : Space → Space) : (s.updSpace a f).dirty = s.dirty := rfl
@[simp] theorem State.updSpace_hostAbsent (s : State) (a : Asid) (f : Space → Space) : (s.updSpace a f).hostAbsent = s.hostAbsent := rfl
@[simp] theorem State.updSpace_arrivals (s : State) (a : Asid) (f : Space → Space) : (s.updSpace a f).arrivals = s.arrivals := rfl
@[simp] theorem State.updSpace_cur (s : State) (a : Asid) (f : Space → Space) : (s.updSpace a f).cur = s.cur := rfl
@[simp] theorem State.updSpace_cx (s : State) (a : Asid) (f : Space → Space) : (s.updSpace a f).cx = s.cx := rfl
@[simp] theorem State.updSpace_ctxs (s : State) (a : Asid) (f : Space → Space) : (s.updSpace a f).ctxs = s.ctxs := rfl
@[simp] theorem State.updSpace_cores (s : State) (a : Asid) (f : Space → Space) : (s.updSpace a f).cores = s.cores := rfl
@[simp] theorem State.updSpace_clusters (s : State) (a : Asid) (f : Space → Space) : (s.updSpace a f).clusters = s.clusters := rfl
@[simp] theorem State.updSpace_exports (s : State) (a : Asid) (f : Space → Space) : (s.updSpace a f).exports = s.exports := rfl
@[simp] theorem State.updSpace_remotes (s : State) (a : Asid) (f : Space → Space) : (s.updSpace a f).remotes = s.remotes := rfl
@[simp] theorem State.updSpace_revocations (s : State) (a : Asid) (f : Space → Space) : (s.updSpace a f).revocations = s.revocations := rfl
@[simp] theorem State.updSpace_txns (s : State) (a : Asid) (f : Space → Space) : (s.updSpace a f).txns = s.txns := rfl
@[simp] theorem State.updSpace_quiet (s : State) (a : Asid) (f : Space → Space) : (s.updSpace a f).quiet = s.quiet := rfl
@[simp] theorem State.updSpace_label (s : State) (a : Asid) (f : Space → Space) : (s.updSpace a f).label = s.label := rfl
@[simp] theorem State.updSpace_chips (s : State) (a : Asid) (f : Space → Space) : (s.updSpace a f).chips = s.chips := rfl
@[simp] theorem State.updSpace_hostRegions (s : State) (a : Asid) (f : Space → Space) : (s.updSpace a f).hostRegions = s.hostRegions := rfl
@[simp] theorem State.updSpace_engines (s : State) (a : Asid) (f : Space → Space) : (s.updSpace a f).engines = s.engines := rfl
@[simp] theorem State.updSpace_accepts (s : State) (a : Asid) (f : Space → Space) : (s.updSpace a f).accepts = s.accepts := rfl
@[simp] theorem State.updSpace_plan (s : State) (a : Asid) (f : Space → Space) : (s.updSpace a f).plan = s.plan := rfl
@[simp] theorem State.updSpace_gangs (s : State) (a : Asid) (f : Space → Space) : (s.updSpace a f).gangs = s.gangs := rfl
@[simp] theorem State.updSpace_spans (s : State) (a : Asid) (f : Space → Space) : (s.updSpace a f).spans = s.spans := rfl
@[simp] theorem State.updSpace_launches (s : State) (a : Asid) (f : Space → Space) : (s.updSpace a f).launches = s.launches := rfl
@[simp] theorem State.updSpace_nextLaunch (s : State) (a : Asid) (f : Space → Space) : (s.updSpace a f).nextLaunch = s.nextLaunch := rfl
@[simp] theorem State.updSpace_logs (s : State) (a : Asid) (f : Space → Space) : (s.updSpace a f).logs = s.logs := rfl
@[simp] theorem State.updSpace_allotments (s : State) (a : Asid) (f : Space → Space) : (s.updSpace a f).allotments = s.allotments := rfl
@[simp] theorem State.updSpace_pool (s : State) (a : Asid) (f : Space → Space) : (s.updSpace a f).pool = s.pool := rfl
@[simp] theorem State.updSpace_nextGang (s : State) (a : Asid) (f : Space → Space) : (s.updSpace a f).nextGang = s.nextGang := rfl
@[simp] theorem State.updSpace_placePtr (s : State) (a : Asid) (f : Space → Space) : (s.updSpace a f).placePtr = s.placePtr := rfl
@[simp] theorem State.updSpace_placements (s : State) (a : Asid) (f : Space → Space) : (s.updSpace a f).placements = s.placements := rfl
@[simp] theorem State.updSpace_xarrived (s : State) (a : Asid) (f : Space → Space) : (s.updSpace a f).xarrived = s.xarrived := rfl
@[simp] theorem State.updSpace_xqueue (s : State) (a : Asid) (f : Space → Space) : (s.updSpace a f).xqueue = s.xqueue := rfl
@[simp] theorem State.updSpace_deficits (s : State) (a : Asid) (f : Space → Space) : (s.updSpace a f).deficits = s.deficits := rfl
@[simp] theorem State.updSpace_xvisit (s : State) (a : Asid) (f : Space → Space) : (s.updSpace a f).xvisit = s.xvisit := rfl
@[simp] theorem State.updSpace_phase (s : State) (a : Asid) (f : Space → Space) : (s.updSpace a f).phase = s.phase := rfl
@[simp] theorem State.updSpace_ports (s : State) (a : Asid) (f : Space → Space) : (s.updSpace a f).ports = s.ports := rfl
@[simp] theorem State.updSpace_pkg (s : State) (a : Asid) (f : Space → Space) : (s.updSpace a f).pkg = s.pkg := rfl
@[simp] theorem State.updSpace_queues (s : State) (a : Asid) (f : Space → Space) : (s.updSpace a f).queues = s.queues := rfl
@[simp] theorem State.updSpace_pkgWrites (s : State) (a : Asid) (f : Space → Space) : (s.updSpace a f).pkgWrites = s.pkgWrites := rfl
@[simp] theorem State.updSpace_tlbInvs (s : State) (a : Asid) (f : Space → Space) : (s.updSpace a f).tlbInvs = s.tlbInvs := rfl
@[simp] theorem State.updSpace_faults (s : State) (a : Asid) (f : Space → Space) : (s.updSpace a f).faults = s.faults := rfl
@[simp] theorem State.updSpace_memErr (s : State) (a : Asid) (f : Space → Space) : (s.updSpace a f).memErr = s.memErr := rfl
@[simp] theorem State.updSpace_hostRefuse (s : State) (a : Asid) (f : Space → Space) : (s.updSpace a f).hostRefuse = s.hostRefuse := rfl
@[simp] theorem State.updSpace_tableFault (s : State) (a : Asid) (f : Space → Space) : (s.updSpace a f).tableFault = s.tableFault := rfl
@[simp] theorem State.updSpace_prgs (s : State) (a : Asid) (f : Space → Space) : (s.updSpace a f).prgs = s.prgs := rfl
@[simp] theorem State.updSpace_fabric (s : State) (a : Asid) (f : Space → Space) : (s.updSpace a f).fabric = s.fabric := rfl
@[simp] theorem State.updSpace_keys (s : State) (a : Asid) (f : Space → Space) : (s.updSpace a f).keys = s.keys := rfl
@[simp] theorem State.updSpace_booted (s : State) (a : Asid) (f : Space → Space) : (s.updSpace a f).booted = s.booted := rfl
@[simp] theorem State.updSpace_recovery (s : State) (a : Asid) (f : Space → Space) : (s.updSpace a f).recovery = s.recovery := rfl
@[simp] theorem State.updSpace_versions (s : State) (a : Asid) (f : Space → Space) : (s.updSpace a f).versions = s.versions := rfl
@[simp] theorem State.updSpace_powerLimited (s : State) (a : Asid) (f : Space → Space) : (s.updSpace a f).powerLimited = s.powerLimited := rfl
@[simp] theorem State.updSpace_net (s : State) (a : Asid) (f : Space → Space) : (s.updSpace a f).net = s.net := rfl
@[simp] theorem State.updSpace_host (s : State) (a : Asid) (f : Space → Space) : (s.updSpace a f).host = s.host := rfl

/-! ### State.updNode -/

@[simp] theorem State.updNode_agenda (s : State) (a : Asid) (i : BitVec 23) (f : Node → Node) : (s.updNode a i f).agenda = s.agenda := rfl
@[simp] theorem State.updNode_pace (s : State) (a : Asid) (i : BitVec 23) (f : Node → Node) : (s.updNode a i f).pace = s.pace := rfl
@[simp] theorem State.updNode_slices (s : State) (a : Asid) (i : BitVec 23) (f : Node → Node) : (s.updNode a i f).slices = s.slices := rfl
@[simp] theorem State.updNode_cycle (s : State) (a : Asid) (i : BitVec 23) (f : Node → Node) : (s.updNode a i f).cycle = s.cycle := rfl
@[simp] theorem State.updNode_free (s : State) (a : Asid) (i : BitVec 23) (f : Node → Node) : (s.updNode a i f).free = s.free := rfl
@[simp] theorem State.updNode_mem (s : State) (a : Asid) (i : BitVec 23) (f : Node → Node) : (s.updNode a i f).mem = s.mem := rfl
@[simp] theorem State.updNode_tags (s : State) (a : Asid) (i : BitVec 23) (f : Node → Node) : (s.updNode a i f).tags = s.tags := rfl
@[simp] theorem State.updNode_dirty (s : State) (a : Asid) (i : BitVec 23) (f : Node → Node) : (s.updNode a i f).dirty = s.dirty := rfl
@[simp] theorem State.updNode_hostAbsent (s : State) (a : Asid) (i : BitVec 23) (f : Node → Node) : (s.updNode a i f).hostAbsent = s.hostAbsent := rfl
@[simp] theorem State.updNode_arrivals (s : State) (a : Asid) (i : BitVec 23) (f : Node → Node) : (s.updNode a i f).arrivals = s.arrivals := rfl
@[simp] theorem State.updNode_cur (s : State) (a : Asid) (i : BitVec 23) (f : Node → Node) : (s.updNode a i f).cur = s.cur := rfl
@[simp] theorem State.updNode_cx (s : State) (a : Asid) (i : BitVec 23) (f : Node → Node) : (s.updNode a i f).cx = s.cx := rfl
@[simp] theorem State.updNode_ctxs (s : State) (a : Asid) (i : BitVec 23) (f : Node → Node) : (s.updNode a i f).ctxs = s.ctxs := rfl
@[simp] theorem State.updNode_cores (s : State) (a : Asid) (i : BitVec 23) (f : Node → Node) : (s.updNode a i f).cores = s.cores := rfl
@[simp] theorem State.updNode_clusters (s : State) (a : Asid) (i : BitVec 23) (f : Node → Node) : (s.updNode a i f).clusters = s.clusters := rfl
@[simp] theorem State.updNode_exports (s : State) (a : Asid) (i : BitVec 23) (f : Node → Node) : (s.updNode a i f).exports = s.exports := rfl
@[simp] theorem State.updNode_remotes (s : State) (a : Asid) (i : BitVec 23) (f : Node → Node) : (s.updNode a i f).remotes = s.remotes := rfl
@[simp] theorem State.updNode_revocations (s : State) (a : Asid) (i : BitVec 23) (f : Node → Node) : (s.updNode a i f).revocations = s.revocations := rfl
@[simp] theorem State.updNode_txns (s : State) (a : Asid) (i : BitVec 23) (f : Node → Node) : (s.updNode a i f).txns = s.txns := rfl
@[simp] theorem State.updNode_quiet (s : State) (a : Asid) (i : BitVec 23) (f : Node → Node) : (s.updNode a i f).quiet = s.quiet := rfl
@[simp] theorem State.updNode_label (s : State) (a : Asid) (i : BitVec 23) (f : Node → Node) : (s.updNode a i f).label = s.label := rfl
@[simp] theorem State.updNode_chips (s : State) (a : Asid) (i : BitVec 23) (f : Node → Node) : (s.updNode a i f).chips = s.chips := rfl
@[simp] theorem State.updNode_hostRegions (s : State) (a : Asid) (i : BitVec 23) (f : Node → Node) : (s.updNode a i f).hostRegions = s.hostRegions := rfl
@[simp] theorem State.updNode_engines (s : State) (a : Asid) (i : BitVec 23) (f : Node → Node) : (s.updNode a i f).engines = s.engines := rfl
@[simp] theorem State.updNode_accepts (s : State) (a : Asid) (i : BitVec 23) (f : Node → Node) : (s.updNode a i f).accepts = s.accepts := rfl
@[simp] theorem State.updNode_plan (s : State) (a : Asid) (i : BitVec 23) (f : Node → Node) : (s.updNode a i f).plan = s.plan := rfl
@[simp] theorem State.updNode_gangs (s : State) (a : Asid) (i : BitVec 23) (f : Node → Node) : (s.updNode a i f).gangs = s.gangs := rfl
@[simp] theorem State.updNode_spans (s : State) (a : Asid) (i : BitVec 23) (f : Node → Node) : (s.updNode a i f).spans = s.spans := rfl
@[simp] theorem State.updNode_launches (s : State) (a : Asid) (i : BitVec 23) (f : Node → Node) : (s.updNode a i f).launches = s.launches := rfl
@[simp] theorem State.updNode_nextLaunch (s : State) (a : Asid) (i : BitVec 23) (f : Node → Node) : (s.updNode a i f).nextLaunch = s.nextLaunch := rfl
@[simp] theorem State.updNode_logs (s : State) (a : Asid) (i : BitVec 23) (f : Node → Node) : (s.updNode a i f).logs = s.logs := rfl
@[simp] theorem State.updNode_allotments (s : State) (a : Asid) (i : BitVec 23) (f : Node → Node) : (s.updNode a i f).allotments = s.allotments := rfl
@[simp] theorem State.updNode_pool (s : State) (a : Asid) (i : BitVec 23) (f : Node → Node) : (s.updNode a i f).pool = s.pool := rfl
@[simp] theorem State.updNode_nextGang (s : State) (a : Asid) (i : BitVec 23) (f : Node → Node) : (s.updNode a i f).nextGang = s.nextGang := rfl
@[simp] theorem State.updNode_placePtr (s : State) (a : Asid) (i : BitVec 23) (f : Node → Node) : (s.updNode a i f).placePtr = s.placePtr := rfl
@[simp] theorem State.updNode_placements (s : State) (a : Asid) (i : BitVec 23) (f : Node → Node) : (s.updNode a i f).placements = s.placements := rfl
@[simp] theorem State.updNode_xarrived (s : State) (a : Asid) (i : BitVec 23) (f : Node → Node) : (s.updNode a i f).xarrived = s.xarrived := rfl
@[simp] theorem State.updNode_xqueue (s : State) (a : Asid) (i : BitVec 23) (f : Node → Node) : (s.updNode a i f).xqueue = s.xqueue := rfl
@[simp] theorem State.updNode_deficits (s : State) (a : Asid) (i : BitVec 23) (f : Node → Node) : (s.updNode a i f).deficits = s.deficits := rfl
@[simp] theorem State.updNode_xvisit (s : State) (a : Asid) (i : BitVec 23) (f : Node → Node) : (s.updNode a i f).xvisit = s.xvisit := rfl
@[simp] theorem State.updNode_phase (s : State) (a : Asid) (i : BitVec 23) (f : Node → Node) : (s.updNode a i f).phase = s.phase := rfl
@[simp] theorem State.updNode_ports (s : State) (a : Asid) (i : BitVec 23) (f : Node → Node) : (s.updNode a i f).ports = s.ports := rfl
@[simp] theorem State.updNode_pkg (s : State) (a : Asid) (i : BitVec 23) (f : Node → Node) : (s.updNode a i f).pkg = s.pkg := rfl
@[simp] theorem State.updNode_queues (s : State) (a : Asid) (i : BitVec 23) (f : Node → Node) : (s.updNode a i f).queues = s.queues := rfl
@[simp] theorem State.updNode_pkgWrites (s : State) (a : Asid) (i : BitVec 23) (f : Node → Node) : (s.updNode a i f).pkgWrites = s.pkgWrites := rfl
@[simp] theorem State.updNode_tlbInvs (s : State) (a : Asid) (i : BitVec 23) (f : Node → Node) : (s.updNode a i f).tlbInvs = s.tlbInvs := rfl
@[simp] theorem State.updNode_faults (s : State) (a : Asid) (i : BitVec 23) (f : Node → Node) : (s.updNode a i f).faults = s.faults := rfl
@[simp] theorem State.updNode_memErr (s : State) (a : Asid) (i : BitVec 23) (f : Node → Node) : (s.updNode a i f).memErr = s.memErr := rfl
@[simp] theorem State.updNode_hostRefuse (s : State) (a : Asid) (i : BitVec 23) (f : Node → Node) : (s.updNode a i f).hostRefuse = s.hostRefuse := rfl
@[simp] theorem State.updNode_tableFault (s : State) (a : Asid) (i : BitVec 23) (f : Node → Node) : (s.updNode a i f).tableFault = s.tableFault := rfl
@[simp] theorem State.updNode_prgs (s : State) (a : Asid) (i : BitVec 23) (f : Node → Node) : (s.updNode a i f).prgs = s.prgs := rfl
@[simp] theorem State.updNode_fabric (s : State) (a : Asid) (i : BitVec 23) (f : Node → Node) : (s.updNode a i f).fabric = s.fabric := rfl
@[simp] theorem State.updNode_keys (s : State) (a : Asid) (i : BitVec 23) (f : Node → Node) : (s.updNode a i f).keys = s.keys := rfl
@[simp] theorem State.updNode_booted (s : State) (a : Asid) (i : BitVec 23) (f : Node → Node) : (s.updNode a i f).booted = s.booted := rfl
@[simp] theorem State.updNode_recovery (s : State) (a : Asid) (i : BitVec 23) (f : Node → Node) : (s.updNode a i f).recovery = s.recovery := rfl
@[simp] theorem State.updNode_versions (s : State) (a : Asid) (i : BitVec 23) (f : Node → Node) : (s.updNode a i f).versions = s.versions := rfl
@[simp] theorem State.updNode_powerLimited (s : State) (a : Asid) (i : BitVec 23) (f : Node → Node) : (s.updNode a i f).powerLimited = s.powerLimited := rfl
@[simp] theorem State.updNode_net (s : State) (a : Asid) (i : BitVec 23) (f : Node → Node) : (s.updNode a i f).net = s.net := rfl
@[simp] theorem State.updNode_host (s : State) (a : Asid) (i : BitVec 23) (f : Node → Node) : (s.updNode a i f).host = s.host := rfl

/-! ### State.updHandle -/

@[simp] theorem State.updHandle_agenda (s : State) (a : Asid) (i : BitVec 24) (f : Handle → Handle) : (s.updHandle a i f).agenda = s.agenda := rfl
@[simp] theorem State.updHandle_pace (s : State) (a : Asid) (i : BitVec 24) (f : Handle → Handle) : (s.updHandle a i f).pace = s.pace := rfl
@[simp] theorem State.updHandle_slices (s : State) (a : Asid) (i : BitVec 24) (f : Handle → Handle) : (s.updHandle a i f).slices = s.slices := rfl
@[simp] theorem State.updHandle_cycle (s : State) (a : Asid) (i : BitVec 24) (f : Handle → Handle) : (s.updHandle a i f).cycle = s.cycle := rfl
@[simp] theorem State.updHandle_free (s : State) (a : Asid) (i : BitVec 24) (f : Handle → Handle) : (s.updHandle a i f).free = s.free := rfl
@[simp] theorem State.updHandle_mem (s : State) (a : Asid) (i : BitVec 24) (f : Handle → Handle) : (s.updHandle a i f).mem = s.mem := rfl
@[simp] theorem State.updHandle_tags (s : State) (a : Asid) (i : BitVec 24) (f : Handle → Handle) : (s.updHandle a i f).tags = s.tags := rfl
@[simp] theorem State.updHandle_dirty (s : State) (a : Asid) (i : BitVec 24) (f : Handle → Handle) : (s.updHandle a i f).dirty = s.dirty := rfl
@[simp] theorem State.updHandle_hostAbsent (s : State) (a : Asid) (i : BitVec 24) (f : Handle → Handle) : (s.updHandle a i f).hostAbsent = s.hostAbsent := rfl
@[simp] theorem State.updHandle_arrivals (s : State) (a : Asid) (i : BitVec 24) (f : Handle → Handle) : (s.updHandle a i f).arrivals = s.arrivals := rfl
@[simp] theorem State.updHandle_cur (s : State) (a : Asid) (i : BitVec 24) (f : Handle → Handle) : (s.updHandle a i f).cur = s.cur := rfl
@[simp] theorem State.updHandle_cx (s : State) (a : Asid) (i : BitVec 24) (f : Handle → Handle) : (s.updHandle a i f).cx = s.cx := rfl
@[simp] theorem State.updHandle_ctxs (s : State) (a : Asid) (i : BitVec 24) (f : Handle → Handle) : (s.updHandle a i f).ctxs = s.ctxs := rfl
@[simp] theorem State.updHandle_cores (s : State) (a : Asid) (i : BitVec 24) (f : Handle → Handle) : (s.updHandle a i f).cores = s.cores := rfl
@[simp] theorem State.updHandle_clusters (s : State) (a : Asid) (i : BitVec 24) (f : Handle → Handle) : (s.updHandle a i f).clusters = s.clusters := rfl
@[simp] theorem State.updHandle_exports (s : State) (a : Asid) (i : BitVec 24) (f : Handle → Handle) : (s.updHandle a i f).exports = s.exports := rfl
@[simp] theorem State.updHandle_remotes (s : State) (a : Asid) (i : BitVec 24) (f : Handle → Handle) : (s.updHandle a i f).remotes = s.remotes := rfl
@[simp] theorem State.updHandle_revocations (s : State) (a : Asid) (i : BitVec 24) (f : Handle → Handle) : (s.updHandle a i f).revocations = s.revocations := rfl
@[simp] theorem State.updHandle_txns (s : State) (a : Asid) (i : BitVec 24) (f : Handle → Handle) : (s.updHandle a i f).txns = s.txns := rfl
@[simp] theorem State.updHandle_quiet (s : State) (a : Asid) (i : BitVec 24) (f : Handle → Handle) : (s.updHandle a i f).quiet = s.quiet := rfl
@[simp] theorem State.updHandle_label (s : State) (a : Asid) (i : BitVec 24) (f : Handle → Handle) : (s.updHandle a i f).label = s.label := rfl
@[simp] theorem State.updHandle_chips (s : State) (a : Asid) (i : BitVec 24) (f : Handle → Handle) : (s.updHandle a i f).chips = s.chips := rfl
@[simp] theorem State.updHandle_hostRegions (s : State) (a : Asid) (i : BitVec 24) (f : Handle → Handle) : (s.updHandle a i f).hostRegions = s.hostRegions := rfl
@[simp] theorem State.updHandle_engines (s : State) (a : Asid) (i : BitVec 24) (f : Handle → Handle) : (s.updHandle a i f).engines = s.engines := rfl
@[simp] theorem State.updHandle_accepts (s : State) (a : Asid) (i : BitVec 24) (f : Handle → Handle) : (s.updHandle a i f).accepts = s.accepts := rfl
@[simp] theorem State.updHandle_plan (s : State) (a : Asid) (i : BitVec 24) (f : Handle → Handle) : (s.updHandle a i f).plan = s.plan := rfl
@[simp] theorem State.updHandle_gangs (s : State) (a : Asid) (i : BitVec 24) (f : Handle → Handle) : (s.updHandle a i f).gangs = s.gangs := rfl
@[simp] theorem State.updHandle_spans (s : State) (a : Asid) (i : BitVec 24) (f : Handle → Handle) : (s.updHandle a i f).spans = s.spans := rfl
@[simp] theorem State.updHandle_launches (s : State) (a : Asid) (i : BitVec 24) (f : Handle → Handle) : (s.updHandle a i f).launches = s.launches := rfl
@[simp] theorem State.updHandle_nextLaunch (s : State) (a : Asid) (i : BitVec 24) (f : Handle → Handle) : (s.updHandle a i f).nextLaunch = s.nextLaunch := rfl
@[simp] theorem State.updHandle_logs (s : State) (a : Asid) (i : BitVec 24) (f : Handle → Handle) : (s.updHandle a i f).logs = s.logs := rfl
@[simp] theorem State.updHandle_allotments (s : State) (a : Asid) (i : BitVec 24) (f : Handle → Handle) : (s.updHandle a i f).allotments = s.allotments := rfl
@[simp] theorem State.updHandle_pool (s : State) (a : Asid) (i : BitVec 24) (f : Handle → Handle) : (s.updHandle a i f).pool = s.pool := rfl
@[simp] theorem State.updHandle_nextGang (s : State) (a : Asid) (i : BitVec 24) (f : Handle → Handle) : (s.updHandle a i f).nextGang = s.nextGang := rfl
@[simp] theorem State.updHandle_placePtr (s : State) (a : Asid) (i : BitVec 24) (f : Handle → Handle) : (s.updHandle a i f).placePtr = s.placePtr := rfl
@[simp] theorem State.updHandle_placements (s : State) (a : Asid) (i : BitVec 24) (f : Handle → Handle) : (s.updHandle a i f).placements = s.placements := rfl
@[simp] theorem State.updHandle_xarrived (s : State) (a : Asid) (i : BitVec 24) (f : Handle → Handle) : (s.updHandle a i f).xarrived = s.xarrived := rfl
@[simp] theorem State.updHandle_xqueue (s : State) (a : Asid) (i : BitVec 24) (f : Handle → Handle) : (s.updHandle a i f).xqueue = s.xqueue := rfl
@[simp] theorem State.updHandle_deficits (s : State) (a : Asid) (i : BitVec 24) (f : Handle → Handle) : (s.updHandle a i f).deficits = s.deficits := rfl
@[simp] theorem State.updHandle_xvisit (s : State) (a : Asid) (i : BitVec 24) (f : Handle → Handle) : (s.updHandle a i f).xvisit = s.xvisit := rfl
@[simp] theorem State.updHandle_phase (s : State) (a : Asid) (i : BitVec 24) (f : Handle → Handle) : (s.updHandle a i f).phase = s.phase := rfl
@[simp] theorem State.updHandle_ports (s : State) (a : Asid) (i : BitVec 24) (f : Handle → Handle) : (s.updHandle a i f).ports = s.ports := rfl
@[simp] theorem State.updHandle_pkg (s : State) (a : Asid) (i : BitVec 24) (f : Handle → Handle) : (s.updHandle a i f).pkg = s.pkg := rfl
@[simp] theorem State.updHandle_queues (s : State) (a : Asid) (i : BitVec 24) (f : Handle → Handle) : (s.updHandle a i f).queues = s.queues := rfl
@[simp] theorem State.updHandle_pkgWrites (s : State) (a : Asid) (i : BitVec 24) (f : Handle → Handle) : (s.updHandle a i f).pkgWrites = s.pkgWrites := rfl
@[simp] theorem State.updHandle_tlbInvs (s : State) (a : Asid) (i : BitVec 24) (f : Handle → Handle) : (s.updHandle a i f).tlbInvs = s.tlbInvs := rfl
@[simp] theorem State.updHandle_faults (s : State) (a : Asid) (i : BitVec 24) (f : Handle → Handle) : (s.updHandle a i f).faults = s.faults := rfl
@[simp] theorem State.updHandle_memErr (s : State) (a : Asid) (i : BitVec 24) (f : Handle → Handle) : (s.updHandle a i f).memErr = s.memErr := rfl
@[simp] theorem State.updHandle_hostRefuse (s : State) (a : Asid) (i : BitVec 24) (f : Handle → Handle) : (s.updHandle a i f).hostRefuse = s.hostRefuse := rfl
@[simp] theorem State.updHandle_tableFault (s : State) (a : Asid) (i : BitVec 24) (f : Handle → Handle) : (s.updHandle a i f).tableFault = s.tableFault := rfl
@[simp] theorem State.updHandle_prgs (s : State) (a : Asid) (i : BitVec 24) (f : Handle → Handle) : (s.updHandle a i f).prgs = s.prgs := rfl
@[simp] theorem State.updHandle_fabric (s : State) (a : Asid) (i : BitVec 24) (f : Handle → Handle) : (s.updHandle a i f).fabric = s.fabric := rfl
@[simp] theorem State.updHandle_keys (s : State) (a : Asid) (i : BitVec 24) (f : Handle → Handle) : (s.updHandle a i f).keys = s.keys := rfl
@[simp] theorem State.updHandle_booted (s : State) (a : Asid) (i : BitVec 24) (f : Handle → Handle) : (s.updHandle a i f).booted = s.booted := rfl
@[simp] theorem State.updHandle_recovery (s : State) (a : Asid) (i : BitVec 24) (f : Handle → Handle) : (s.updHandle a i f).recovery = s.recovery := rfl
@[simp] theorem State.updHandle_versions (s : State) (a : Asid) (i : BitVec 24) (f : Handle → Handle) : (s.updHandle a i f).versions = s.versions := rfl
@[simp] theorem State.updHandle_powerLimited (s : State) (a : Asid) (i : BitVec 24) (f : Handle → Handle) : (s.updHandle a i f).powerLimited = s.powerLimited := rfl
@[simp] theorem State.updHandle_net (s : State) (a : Asid) (i : BitVec 24) (f : Handle → Handle) : (s.updHandle a i f).net = s.net := rfl
@[simp] theorem State.updHandle_host (s : State) (a : Asid) (i : BitVec 24) (f : Handle → Handle) : (s.updHandle a i f).host = s.host := rfl

/-! ### State.updEngine -/

@[simp] theorem State.updEngine_agenda (s : State) (e : EngineIx) (f : Engine → Engine) : (s.updEngine e f).agenda = s.agenda := rfl
@[simp] theorem State.updEngine_pace (s : State) (e : EngineIx) (f : Engine → Engine) : (s.updEngine e f).pace = s.pace := rfl
@[simp] theorem State.updEngine_slices (s : State) (e : EngineIx) (f : Engine → Engine) : (s.updEngine e f).slices = s.slices := rfl
@[simp] theorem State.updEngine_cycle (s : State) (e : EngineIx) (f : Engine → Engine) : (s.updEngine e f).cycle = s.cycle := rfl
@[simp] theorem State.updEngine_free (s : State) (e : EngineIx) (f : Engine → Engine) : (s.updEngine e f).free = s.free := rfl
@[simp] theorem State.updEngine_mem (s : State) (e : EngineIx) (f : Engine → Engine) : (s.updEngine e f).mem = s.mem := rfl
@[simp] theorem State.updEngine_tags (s : State) (e : EngineIx) (f : Engine → Engine) : (s.updEngine e f).tags = s.tags := rfl
@[simp] theorem State.updEngine_dirty (s : State) (e : EngineIx) (f : Engine → Engine) : (s.updEngine e f).dirty = s.dirty := rfl
@[simp] theorem State.updEngine_hostAbsent (s : State) (e : EngineIx) (f : Engine → Engine) : (s.updEngine e f).hostAbsent = s.hostAbsent := rfl
@[simp] theorem State.updEngine_arrivals (s : State) (e : EngineIx) (f : Engine → Engine) : (s.updEngine e f).arrivals = s.arrivals := rfl
@[simp] theorem State.updEngine_cur (s : State) (e : EngineIx) (f : Engine → Engine) : (s.updEngine e f).cur = s.cur := rfl
@[simp] theorem State.updEngine_cx (s : State) (e : EngineIx) (f : Engine → Engine) : (s.updEngine e f).cx = s.cx := rfl
@[simp] theorem State.updEngine_ctxs (s : State) (e : EngineIx) (f : Engine → Engine) : (s.updEngine e f).ctxs = s.ctxs := rfl
@[simp] theorem State.updEngine_cores (s : State) (e : EngineIx) (f : Engine → Engine) : (s.updEngine e f).cores = s.cores := rfl
@[simp] theorem State.updEngine_clusters (s : State) (e : EngineIx) (f : Engine → Engine) : (s.updEngine e f).clusters = s.clusters := rfl
@[simp] theorem State.updEngine_spaces (s : State) (e : EngineIx) (f : Engine → Engine) : (s.updEngine e f).spaces = s.spaces := rfl
@[simp] theorem State.updEngine_exports (s : State) (e : EngineIx) (f : Engine → Engine) : (s.updEngine e f).exports = s.exports := rfl
@[simp] theorem State.updEngine_remotes (s : State) (e : EngineIx) (f : Engine → Engine) : (s.updEngine e f).remotes = s.remotes := rfl
@[simp] theorem State.updEngine_revocations (s : State) (e : EngineIx) (f : Engine → Engine) : (s.updEngine e f).revocations = s.revocations := rfl
@[simp] theorem State.updEngine_txns (s : State) (e : EngineIx) (f : Engine → Engine) : (s.updEngine e f).txns = s.txns := rfl
@[simp] theorem State.updEngine_quiet (s : State) (e : EngineIx) (f : Engine → Engine) : (s.updEngine e f).quiet = s.quiet := rfl
@[simp] theorem State.updEngine_label (s : State) (e : EngineIx) (f : Engine → Engine) : (s.updEngine e f).label = s.label := rfl
@[simp] theorem State.updEngine_chips (s : State) (e : EngineIx) (f : Engine → Engine) : (s.updEngine e f).chips = s.chips := rfl
@[simp] theorem State.updEngine_hostRegions (s : State) (e : EngineIx) (f : Engine → Engine) : (s.updEngine e f).hostRegions = s.hostRegions := rfl
@[simp] theorem State.updEngine_accepts (s : State) (e : EngineIx) (f : Engine → Engine) : (s.updEngine e f).accepts = s.accepts := rfl
@[simp] theorem State.updEngine_plan (s : State) (e : EngineIx) (f : Engine → Engine) : (s.updEngine e f).plan = s.plan := rfl
@[simp] theorem State.updEngine_gangs (s : State) (e : EngineIx) (f : Engine → Engine) : (s.updEngine e f).gangs = s.gangs := rfl
@[simp] theorem State.updEngine_spans (s : State) (e : EngineIx) (f : Engine → Engine) : (s.updEngine e f).spans = s.spans := rfl
@[simp] theorem State.updEngine_launches (s : State) (e : EngineIx) (f : Engine → Engine) : (s.updEngine e f).launches = s.launches := rfl
@[simp] theorem State.updEngine_nextLaunch (s : State) (e : EngineIx) (f : Engine → Engine) : (s.updEngine e f).nextLaunch = s.nextLaunch := rfl
@[simp] theorem State.updEngine_logs (s : State) (e : EngineIx) (f : Engine → Engine) : (s.updEngine e f).logs = s.logs := rfl
@[simp] theorem State.updEngine_allotments (s : State) (e : EngineIx) (f : Engine → Engine) : (s.updEngine e f).allotments = s.allotments := rfl
@[simp] theorem State.updEngine_pool (s : State) (e : EngineIx) (f : Engine → Engine) : (s.updEngine e f).pool = s.pool := rfl
@[simp] theorem State.updEngine_nextGang (s : State) (e : EngineIx) (f : Engine → Engine) : (s.updEngine e f).nextGang = s.nextGang := rfl
@[simp] theorem State.updEngine_placePtr (s : State) (e : EngineIx) (f : Engine → Engine) : (s.updEngine e f).placePtr = s.placePtr := rfl
@[simp] theorem State.updEngine_placements (s : State) (e : EngineIx) (f : Engine → Engine) : (s.updEngine e f).placements = s.placements := rfl
@[simp] theorem State.updEngine_xarrived (s : State) (e : EngineIx) (f : Engine → Engine) : (s.updEngine e f).xarrived = s.xarrived := rfl
@[simp] theorem State.updEngine_xqueue (s : State) (e : EngineIx) (f : Engine → Engine) : (s.updEngine e f).xqueue = s.xqueue := rfl
@[simp] theorem State.updEngine_deficits (s : State) (e : EngineIx) (f : Engine → Engine) : (s.updEngine e f).deficits = s.deficits := rfl
@[simp] theorem State.updEngine_xvisit (s : State) (e : EngineIx) (f : Engine → Engine) : (s.updEngine e f).xvisit = s.xvisit := rfl
@[simp] theorem State.updEngine_phase (s : State) (e : EngineIx) (f : Engine → Engine) : (s.updEngine e f).phase = s.phase := rfl
@[simp] theorem State.updEngine_ports (s : State) (e : EngineIx) (f : Engine → Engine) : (s.updEngine e f).ports = s.ports := rfl
@[simp] theorem State.updEngine_pkg (s : State) (e : EngineIx) (f : Engine → Engine) : (s.updEngine e f).pkg = s.pkg := rfl
@[simp] theorem State.updEngine_queues (s : State) (e : EngineIx) (f : Engine → Engine) : (s.updEngine e f).queues = s.queues := rfl
@[simp] theorem State.updEngine_pkgWrites (s : State) (e : EngineIx) (f : Engine → Engine) : (s.updEngine e f).pkgWrites = s.pkgWrites := rfl
@[simp] theorem State.updEngine_tlbInvs (s : State) (e : EngineIx) (f : Engine → Engine) : (s.updEngine e f).tlbInvs = s.tlbInvs := rfl
@[simp] theorem State.updEngine_faults (s : State) (e : EngineIx) (f : Engine → Engine) : (s.updEngine e f).faults = s.faults := rfl
@[simp] theorem State.updEngine_memErr (s : State) (e : EngineIx) (f : Engine → Engine) : (s.updEngine e f).memErr = s.memErr := rfl
@[simp] theorem State.updEngine_hostRefuse (s : State) (e : EngineIx) (f : Engine → Engine) : (s.updEngine e f).hostRefuse = s.hostRefuse := rfl
@[simp] theorem State.updEngine_tableFault (s : State) (e : EngineIx) (f : Engine → Engine) : (s.updEngine e f).tableFault = s.tableFault := rfl
@[simp] theorem State.updEngine_prgs (s : State) (e : EngineIx) (f : Engine → Engine) : (s.updEngine e f).prgs = s.prgs := rfl
@[simp] theorem State.updEngine_fabric (s : State) (e : EngineIx) (f : Engine → Engine) : (s.updEngine e f).fabric = s.fabric := rfl
@[simp] theorem State.updEngine_keys (s : State) (e : EngineIx) (f : Engine → Engine) : (s.updEngine e f).keys = s.keys := rfl
@[simp] theorem State.updEngine_booted (s : State) (e : EngineIx) (f : Engine → Engine) : (s.updEngine e f).booted = s.booted := rfl
@[simp] theorem State.updEngine_recovery (s : State) (e : EngineIx) (f : Engine → Engine) : (s.updEngine e f).recovery = s.recovery := rfl
@[simp] theorem State.updEngine_versions (s : State) (e : EngineIx) (f : Engine → Engine) : (s.updEngine e f).versions = s.versions := rfl
@[simp] theorem State.updEngine_powerLimited (s : State) (e : EngineIx) (f : Engine → Engine) : (s.updEngine e f).powerLimited = s.powerLimited := rfl
@[simp] theorem State.updEngine_net (s : State) (e : EngineIx) (f : Engine → Engine) : (s.updEngine e f).net = s.net := rfl
@[simp] theorem State.updEngine_host (s : State) (e : EngineIx) (f : Engine → Engine) : (s.updEngine e f).host = s.host := rfl

/-! ### State.updJob -/

@[simp] theorem State.updJob_agenda (s : State) (e : EngineIx) (i : BitVec 16) (f : Job → Job) : (s.updJob e i f).agenda = s.agenda := rfl
@[simp] theorem State.updJob_pace (s : State) (e : EngineIx) (i : BitVec 16) (f : Job → Job) : (s.updJob e i f).pace = s.pace := rfl
@[simp] theorem State.updJob_slices (s : State) (e : EngineIx) (i : BitVec 16) (f : Job → Job) : (s.updJob e i f).slices = s.slices := rfl
@[simp] theorem State.updJob_cycle (s : State) (e : EngineIx) (i : BitVec 16) (f : Job → Job) : (s.updJob e i f).cycle = s.cycle := rfl
@[simp] theorem State.updJob_free (s : State) (e : EngineIx) (i : BitVec 16) (f : Job → Job) : (s.updJob e i f).free = s.free := rfl
@[simp] theorem State.updJob_mem (s : State) (e : EngineIx) (i : BitVec 16) (f : Job → Job) : (s.updJob e i f).mem = s.mem := rfl
@[simp] theorem State.updJob_tags (s : State) (e : EngineIx) (i : BitVec 16) (f : Job → Job) : (s.updJob e i f).tags = s.tags := rfl
@[simp] theorem State.updJob_dirty (s : State) (e : EngineIx) (i : BitVec 16) (f : Job → Job) : (s.updJob e i f).dirty = s.dirty := rfl
@[simp] theorem State.updJob_hostAbsent (s : State) (e : EngineIx) (i : BitVec 16) (f : Job → Job) : (s.updJob e i f).hostAbsent = s.hostAbsent := rfl
@[simp] theorem State.updJob_arrivals (s : State) (e : EngineIx) (i : BitVec 16) (f : Job → Job) : (s.updJob e i f).arrivals = s.arrivals := rfl
@[simp] theorem State.updJob_cur (s : State) (e : EngineIx) (i : BitVec 16) (f : Job → Job) : (s.updJob e i f).cur = s.cur := rfl
@[simp] theorem State.updJob_cx (s : State) (e : EngineIx) (i : BitVec 16) (f : Job → Job) : (s.updJob e i f).cx = s.cx := rfl
@[simp] theorem State.updJob_ctxs (s : State) (e : EngineIx) (i : BitVec 16) (f : Job → Job) : (s.updJob e i f).ctxs = s.ctxs := rfl
@[simp] theorem State.updJob_cores (s : State) (e : EngineIx) (i : BitVec 16) (f : Job → Job) : (s.updJob e i f).cores = s.cores := rfl
@[simp] theorem State.updJob_clusters (s : State) (e : EngineIx) (i : BitVec 16) (f : Job → Job) : (s.updJob e i f).clusters = s.clusters := rfl
@[simp] theorem State.updJob_spaces (s : State) (e : EngineIx) (i : BitVec 16) (f : Job → Job) : (s.updJob e i f).spaces = s.spaces := rfl
@[simp] theorem State.updJob_exports (s : State) (e : EngineIx) (i : BitVec 16) (f : Job → Job) : (s.updJob e i f).exports = s.exports := rfl
@[simp] theorem State.updJob_remotes (s : State) (e : EngineIx) (i : BitVec 16) (f : Job → Job) : (s.updJob e i f).remotes = s.remotes := rfl
@[simp] theorem State.updJob_revocations (s : State) (e : EngineIx) (i : BitVec 16) (f : Job → Job) : (s.updJob e i f).revocations = s.revocations := rfl
@[simp] theorem State.updJob_txns (s : State) (e : EngineIx) (i : BitVec 16) (f : Job → Job) : (s.updJob e i f).txns = s.txns := rfl
@[simp] theorem State.updJob_quiet (s : State) (e : EngineIx) (i : BitVec 16) (f : Job → Job) : (s.updJob e i f).quiet = s.quiet := rfl
@[simp] theorem State.updJob_label (s : State) (e : EngineIx) (i : BitVec 16) (f : Job → Job) : (s.updJob e i f).label = s.label := rfl
@[simp] theorem State.updJob_chips (s : State) (e : EngineIx) (i : BitVec 16) (f : Job → Job) : (s.updJob e i f).chips = s.chips := rfl
@[simp] theorem State.updJob_hostRegions (s : State) (e : EngineIx) (i : BitVec 16) (f : Job → Job) : (s.updJob e i f).hostRegions = s.hostRegions := rfl
@[simp] theorem State.updJob_accepts (s : State) (e : EngineIx) (i : BitVec 16) (f : Job → Job) : (s.updJob e i f).accepts = s.accepts := rfl
@[simp] theorem State.updJob_plan (s : State) (e : EngineIx) (i : BitVec 16) (f : Job → Job) : (s.updJob e i f).plan = s.plan := rfl
@[simp] theorem State.updJob_gangs (s : State) (e : EngineIx) (i : BitVec 16) (f : Job → Job) : (s.updJob e i f).gangs = s.gangs := rfl
@[simp] theorem State.updJob_spans (s : State) (e : EngineIx) (i : BitVec 16) (f : Job → Job) : (s.updJob e i f).spans = s.spans := rfl
@[simp] theorem State.updJob_launches (s : State) (e : EngineIx) (i : BitVec 16) (f : Job → Job) : (s.updJob e i f).launches = s.launches := rfl
@[simp] theorem State.updJob_nextLaunch (s : State) (e : EngineIx) (i : BitVec 16) (f : Job → Job) : (s.updJob e i f).nextLaunch = s.nextLaunch := rfl
@[simp] theorem State.updJob_logs (s : State) (e : EngineIx) (i : BitVec 16) (f : Job → Job) : (s.updJob e i f).logs = s.logs := rfl
@[simp] theorem State.updJob_allotments (s : State) (e : EngineIx) (i : BitVec 16) (f : Job → Job) : (s.updJob e i f).allotments = s.allotments := rfl
@[simp] theorem State.updJob_pool (s : State) (e : EngineIx) (i : BitVec 16) (f : Job → Job) : (s.updJob e i f).pool = s.pool := rfl
@[simp] theorem State.updJob_nextGang (s : State) (e : EngineIx) (i : BitVec 16) (f : Job → Job) : (s.updJob e i f).nextGang = s.nextGang := rfl
@[simp] theorem State.updJob_placePtr (s : State) (e : EngineIx) (i : BitVec 16) (f : Job → Job) : (s.updJob e i f).placePtr = s.placePtr := rfl
@[simp] theorem State.updJob_placements (s : State) (e : EngineIx) (i : BitVec 16) (f : Job → Job) : (s.updJob e i f).placements = s.placements := rfl
@[simp] theorem State.updJob_xarrived (s : State) (e : EngineIx) (i : BitVec 16) (f : Job → Job) : (s.updJob e i f).xarrived = s.xarrived := rfl
@[simp] theorem State.updJob_xqueue (s : State) (e : EngineIx) (i : BitVec 16) (f : Job → Job) : (s.updJob e i f).xqueue = s.xqueue := rfl
@[simp] theorem State.updJob_deficits (s : State) (e : EngineIx) (i : BitVec 16) (f : Job → Job) : (s.updJob e i f).deficits = s.deficits := rfl
@[simp] theorem State.updJob_xvisit (s : State) (e : EngineIx) (i : BitVec 16) (f : Job → Job) : (s.updJob e i f).xvisit = s.xvisit := rfl
@[simp] theorem State.updJob_phase (s : State) (e : EngineIx) (i : BitVec 16) (f : Job → Job) : (s.updJob e i f).phase = s.phase := rfl
@[simp] theorem State.updJob_ports (s : State) (e : EngineIx) (i : BitVec 16) (f : Job → Job) : (s.updJob e i f).ports = s.ports := rfl
@[simp] theorem State.updJob_pkg (s : State) (e : EngineIx) (i : BitVec 16) (f : Job → Job) : (s.updJob e i f).pkg = s.pkg := rfl
@[simp] theorem State.updJob_queues (s : State) (e : EngineIx) (i : BitVec 16) (f : Job → Job) : (s.updJob e i f).queues = s.queues := rfl
@[simp] theorem State.updJob_pkgWrites (s : State) (e : EngineIx) (i : BitVec 16) (f : Job → Job) : (s.updJob e i f).pkgWrites = s.pkgWrites := rfl
@[simp] theorem State.updJob_tlbInvs (s : State) (e : EngineIx) (i : BitVec 16) (f : Job → Job) : (s.updJob e i f).tlbInvs = s.tlbInvs := rfl
@[simp] theorem State.updJob_faults (s : State) (e : EngineIx) (i : BitVec 16) (f : Job → Job) : (s.updJob e i f).faults = s.faults := rfl
@[simp] theorem State.updJob_memErr (s : State) (e : EngineIx) (i : BitVec 16) (f : Job → Job) : (s.updJob e i f).memErr = s.memErr := rfl
@[simp] theorem State.updJob_hostRefuse (s : State) (e : EngineIx) (i : BitVec 16) (f : Job → Job) : (s.updJob e i f).hostRefuse = s.hostRefuse := rfl
@[simp] theorem State.updJob_tableFault (s : State) (e : EngineIx) (i : BitVec 16) (f : Job → Job) : (s.updJob e i f).tableFault = s.tableFault := rfl
@[simp] theorem State.updJob_prgs (s : State) (e : EngineIx) (i : BitVec 16) (f : Job → Job) : (s.updJob e i f).prgs = s.prgs := rfl
@[simp] theorem State.updJob_fabric (s : State) (e : EngineIx) (i : BitVec 16) (f : Job → Job) : (s.updJob e i f).fabric = s.fabric := rfl
@[simp] theorem State.updJob_keys (s : State) (e : EngineIx) (i : BitVec 16) (f : Job → Job) : (s.updJob e i f).keys = s.keys := rfl
@[simp] theorem State.updJob_booted (s : State) (e : EngineIx) (i : BitVec 16) (f : Job → Job) : (s.updJob e i f).booted = s.booted := rfl
@[simp] theorem State.updJob_recovery (s : State) (e : EngineIx) (i : BitVec 16) (f : Job → Job) : (s.updJob e i f).recovery = s.recovery := rfl
@[simp] theorem State.updJob_versions (s : State) (e : EngineIx) (i : BitVec 16) (f : Job → Job) : (s.updJob e i f).versions = s.versions := rfl
@[simp] theorem State.updJob_powerLimited (s : State) (e : EngineIx) (i : BitVec 16) (f : Job → Job) : (s.updJob e i f).powerLimited = s.powerLimited := rfl
@[simp] theorem State.updJob_net (s : State) (e : EngineIx) (i : BitVec 16) (f : Job → Job) : (s.updJob e i f).net = s.net := rfl
@[simp] theorem State.updJob_host (s : State) (e : EngineIx) (i : BitVec 16) (f : Job → Job) : (s.updJob e i f).host = s.host := rfl

/-! ### State.updLaunch -/

@[simp] theorem State.updLaunch_agenda (s : State) (i : Nat) (f : Launch → Launch) : (s.updLaunch i f).agenda = s.agenda := rfl
@[simp] theorem State.updLaunch_pace (s : State) (i : Nat) (f : Launch → Launch) : (s.updLaunch i f).pace = s.pace := rfl
@[simp] theorem State.updLaunch_slices (s : State) (i : Nat) (f : Launch → Launch) : (s.updLaunch i f).slices = s.slices := rfl
@[simp] theorem State.updLaunch_cycle (s : State) (i : Nat) (f : Launch → Launch) : (s.updLaunch i f).cycle = s.cycle := rfl
@[simp] theorem State.updLaunch_free (s : State) (i : Nat) (f : Launch → Launch) : (s.updLaunch i f).free = s.free := rfl
@[simp] theorem State.updLaunch_mem (s : State) (i : Nat) (f : Launch → Launch) : (s.updLaunch i f).mem = s.mem := rfl
@[simp] theorem State.updLaunch_tags (s : State) (i : Nat) (f : Launch → Launch) : (s.updLaunch i f).tags = s.tags := rfl
@[simp] theorem State.updLaunch_dirty (s : State) (i : Nat) (f : Launch → Launch) : (s.updLaunch i f).dirty = s.dirty := rfl
@[simp] theorem State.updLaunch_hostAbsent (s : State) (i : Nat) (f : Launch → Launch) : (s.updLaunch i f).hostAbsent = s.hostAbsent := rfl
@[simp] theorem State.updLaunch_arrivals (s : State) (i : Nat) (f : Launch → Launch) : (s.updLaunch i f).arrivals = s.arrivals := rfl
@[simp] theorem State.updLaunch_cur (s : State) (i : Nat) (f : Launch → Launch) : (s.updLaunch i f).cur = s.cur := rfl
@[simp] theorem State.updLaunch_cx (s : State) (i : Nat) (f : Launch → Launch) : (s.updLaunch i f).cx = s.cx := rfl
@[simp] theorem State.updLaunch_ctxs (s : State) (i : Nat) (f : Launch → Launch) : (s.updLaunch i f).ctxs = s.ctxs := rfl
@[simp] theorem State.updLaunch_cores (s : State) (i : Nat) (f : Launch → Launch) : (s.updLaunch i f).cores = s.cores := rfl
@[simp] theorem State.updLaunch_clusters (s : State) (i : Nat) (f : Launch → Launch) : (s.updLaunch i f).clusters = s.clusters := rfl
@[simp] theorem State.updLaunch_spaces (s : State) (i : Nat) (f : Launch → Launch) : (s.updLaunch i f).spaces = s.spaces := rfl
@[simp] theorem State.updLaunch_exports (s : State) (i : Nat) (f : Launch → Launch) : (s.updLaunch i f).exports = s.exports := rfl
@[simp] theorem State.updLaunch_remotes (s : State) (i : Nat) (f : Launch → Launch) : (s.updLaunch i f).remotes = s.remotes := rfl
@[simp] theorem State.updLaunch_revocations (s : State) (i : Nat) (f : Launch → Launch) : (s.updLaunch i f).revocations = s.revocations := rfl
@[simp] theorem State.updLaunch_txns (s : State) (i : Nat) (f : Launch → Launch) : (s.updLaunch i f).txns = s.txns := rfl
@[simp] theorem State.updLaunch_quiet (s : State) (i : Nat) (f : Launch → Launch) : (s.updLaunch i f).quiet = s.quiet := rfl
@[simp] theorem State.updLaunch_label (s : State) (i : Nat) (f : Launch → Launch) : (s.updLaunch i f).label = s.label := rfl
@[simp] theorem State.updLaunch_chips (s : State) (i : Nat) (f : Launch → Launch) : (s.updLaunch i f).chips = s.chips := rfl
@[simp] theorem State.updLaunch_hostRegions (s : State) (i : Nat) (f : Launch → Launch) : (s.updLaunch i f).hostRegions = s.hostRegions := rfl
@[simp] theorem State.updLaunch_engines (s : State) (i : Nat) (f : Launch → Launch) : (s.updLaunch i f).engines = s.engines := rfl
@[simp] theorem State.updLaunch_accepts (s : State) (i : Nat) (f : Launch → Launch) : (s.updLaunch i f).accepts = s.accepts := rfl
@[simp] theorem State.updLaunch_plan (s : State) (i : Nat) (f : Launch → Launch) : (s.updLaunch i f).plan = s.plan := rfl
@[simp] theorem State.updLaunch_gangs (s : State) (i : Nat) (f : Launch → Launch) : (s.updLaunch i f).gangs = s.gangs := rfl
@[simp] theorem State.updLaunch_spans (s : State) (i : Nat) (f : Launch → Launch) : (s.updLaunch i f).spans = s.spans := rfl
@[simp] theorem State.updLaunch_nextLaunch (s : State) (i : Nat) (f : Launch → Launch) : (s.updLaunch i f).nextLaunch = s.nextLaunch := rfl
@[simp] theorem State.updLaunch_logs (s : State) (i : Nat) (f : Launch → Launch) : (s.updLaunch i f).logs = s.logs := rfl
@[simp] theorem State.updLaunch_allotments (s : State) (i : Nat) (f : Launch → Launch) : (s.updLaunch i f).allotments = s.allotments := rfl
@[simp] theorem State.updLaunch_pool (s : State) (i : Nat) (f : Launch → Launch) : (s.updLaunch i f).pool = s.pool := rfl
@[simp] theorem State.updLaunch_nextGang (s : State) (i : Nat) (f : Launch → Launch) : (s.updLaunch i f).nextGang = s.nextGang := rfl
@[simp] theorem State.updLaunch_placePtr (s : State) (i : Nat) (f : Launch → Launch) : (s.updLaunch i f).placePtr = s.placePtr := rfl
@[simp] theorem State.updLaunch_placements (s : State) (i : Nat) (f : Launch → Launch) : (s.updLaunch i f).placements = s.placements := rfl
@[simp] theorem State.updLaunch_xarrived (s : State) (i : Nat) (f : Launch → Launch) : (s.updLaunch i f).xarrived = s.xarrived := rfl
@[simp] theorem State.updLaunch_xqueue (s : State) (i : Nat) (f : Launch → Launch) : (s.updLaunch i f).xqueue = s.xqueue := rfl
@[simp] theorem State.updLaunch_deficits (s : State) (i : Nat) (f : Launch → Launch) : (s.updLaunch i f).deficits = s.deficits := rfl
@[simp] theorem State.updLaunch_xvisit (s : State) (i : Nat) (f : Launch → Launch) : (s.updLaunch i f).xvisit = s.xvisit := rfl
@[simp] theorem State.updLaunch_phase (s : State) (i : Nat) (f : Launch → Launch) : (s.updLaunch i f).phase = s.phase := rfl
@[simp] theorem State.updLaunch_ports (s : State) (i : Nat) (f : Launch → Launch) : (s.updLaunch i f).ports = s.ports := rfl
@[simp] theorem State.updLaunch_pkg (s : State) (i : Nat) (f : Launch → Launch) : (s.updLaunch i f).pkg = s.pkg := rfl
@[simp] theorem State.updLaunch_queues (s : State) (i : Nat) (f : Launch → Launch) : (s.updLaunch i f).queues = s.queues := rfl
@[simp] theorem State.updLaunch_pkgWrites (s : State) (i : Nat) (f : Launch → Launch) : (s.updLaunch i f).pkgWrites = s.pkgWrites := rfl
@[simp] theorem State.updLaunch_tlbInvs (s : State) (i : Nat) (f : Launch → Launch) : (s.updLaunch i f).tlbInvs = s.tlbInvs := rfl
@[simp] theorem State.updLaunch_faults (s : State) (i : Nat) (f : Launch → Launch) : (s.updLaunch i f).faults = s.faults := rfl
@[simp] theorem State.updLaunch_memErr (s : State) (i : Nat) (f : Launch → Launch) : (s.updLaunch i f).memErr = s.memErr := rfl
@[simp] theorem State.updLaunch_hostRefuse (s : State) (i : Nat) (f : Launch → Launch) : (s.updLaunch i f).hostRefuse = s.hostRefuse := rfl
@[simp] theorem State.updLaunch_tableFault (s : State) (i : Nat) (f : Launch → Launch) : (s.updLaunch i f).tableFault = s.tableFault := rfl
@[simp] theorem State.updLaunch_prgs (s : State) (i : Nat) (f : Launch → Launch) : (s.updLaunch i f).prgs = s.prgs := rfl
@[simp] theorem State.updLaunch_fabric (s : State) (i : Nat) (f : Launch → Launch) : (s.updLaunch i f).fabric = s.fabric := rfl
@[simp] theorem State.updLaunch_keys (s : State) (i : Nat) (f : Launch → Launch) : (s.updLaunch i f).keys = s.keys := rfl
@[simp] theorem State.updLaunch_booted (s : State) (i : Nat) (f : Launch → Launch) : (s.updLaunch i f).booted = s.booted := rfl
@[simp] theorem State.updLaunch_recovery (s : State) (i : Nat) (f : Launch → Launch) : (s.updLaunch i f).recovery = s.recovery := rfl
@[simp] theorem State.updLaunch_versions (s : State) (i : Nat) (f : Launch → Launch) : (s.updLaunch i f).versions = s.versions := rfl
@[simp] theorem State.updLaunch_powerLimited (s : State) (i : Nat) (f : Launch → Launch) : (s.updLaunch i f).powerLimited = s.powerLimited := rfl
@[simp] theorem State.updLaunch_net (s : State) (i : Nat) (f : Launch → Launch) : (s.updLaunch i f).net = s.net := rfl
@[simp] theorem State.updLaunch_host (s : State) (i : Nat) (f : Launch → Launch) : (s.updLaunch i f).host = s.host := rfl

/-! ### State.updGang -/

@[simp] theorem State.updGang_agenda (s : State) (i : BitVec 32) (f : Gang → Gang) : (s.updGang i f).agenda = s.agenda := rfl
@[simp] theorem State.updGang_pace (s : State) (i : BitVec 32) (f : Gang → Gang) : (s.updGang i f).pace = s.pace := rfl
@[simp] theorem State.updGang_slices (s : State) (i : BitVec 32) (f : Gang → Gang) : (s.updGang i f).slices = s.slices := rfl
@[simp] theorem State.updGang_cycle (s : State) (i : BitVec 32) (f : Gang → Gang) : (s.updGang i f).cycle = s.cycle := rfl
@[simp] theorem State.updGang_free (s : State) (i : BitVec 32) (f : Gang → Gang) : (s.updGang i f).free = s.free := rfl
@[simp] theorem State.updGang_mem (s : State) (i : BitVec 32) (f : Gang → Gang) : (s.updGang i f).mem = s.mem := rfl
@[simp] theorem State.updGang_tags (s : State) (i : BitVec 32) (f : Gang → Gang) : (s.updGang i f).tags = s.tags := rfl
@[simp] theorem State.updGang_dirty (s : State) (i : BitVec 32) (f : Gang → Gang) : (s.updGang i f).dirty = s.dirty := rfl
@[simp] theorem State.updGang_hostAbsent (s : State) (i : BitVec 32) (f : Gang → Gang) : (s.updGang i f).hostAbsent = s.hostAbsent := rfl
@[simp] theorem State.updGang_arrivals (s : State) (i : BitVec 32) (f : Gang → Gang) : (s.updGang i f).arrivals = s.arrivals := rfl
@[simp] theorem State.updGang_cur (s : State) (i : BitVec 32) (f : Gang → Gang) : (s.updGang i f).cur = s.cur := rfl
@[simp] theorem State.updGang_cx (s : State) (i : BitVec 32) (f : Gang → Gang) : (s.updGang i f).cx = s.cx := rfl
@[simp] theorem State.updGang_ctxs (s : State) (i : BitVec 32) (f : Gang → Gang) : (s.updGang i f).ctxs = s.ctxs := rfl
@[simp] theorem State.updGang_cores (s : State) (i : BitVec 32) (f : Gang → Gang) : (s.updGang i f).cores = s.cores := rfl
@[simp] theorem State.updGang_clusters (s : State) (i : BitVec 32) (f : Gang → Gang) : (s.updGang i f).clusters = s.clusters := rfl
@[simp] theorem State.updGang_spaces (s : State) (i : BitVec 32) (f : Gang → Gang) : (s.updGang i f).spaces = s.spaces := rfl
@[simp] theorem State.updGang_exports (s : State) (i : BitVec 32) (f : Gang → Gang) : (s.updGang i f).exports = s.exports := rfl
@[simp] theorem State.updGang_remotes (s : State) (i : BitVec 32) (f : Gang → Gang) : (s.updGang i f).remotes = s.remotes := rfl
@[simp] theorem State.updGang_revocations (s : State) (i : BitVec 32) (f : Gang → Gang) : (s.updGang i f).revocations = s.revocations := rfl
@[simp] theorem State.updGang_txns (s : State) (i : BitVec 32) (f : Gang → Gang) : (s.updGang i f).txns = s.txns := rfl
@[simp] theorem State.updGang_quiet (s : State) (i : BitVec 32) (f : Gang → Gang) : (s.updGang i f).quiet = s.quiet := rfl
@[simp] theorem State.updGang_label (s : State) (i : BitVec 32) (f : Gang → Gang) : (s.updGang i f).label = s.label := rfl
@[simp] theorem State.updGang_chips (s : State) (i : BitVec 32) (f : Gang → Gang) : (s.updGang i f).chips = s.chips := rfl
@[simp] theorem State.updGang_hostRegions (s : State) (i : BitVec 32) (f : Gang → Gang) : (s.updGang i f).hostRegions = s.hostRegions := rfl
@[simp] theorem State.updGang_engines (s : State) (i : BitVec 32) (f : Gang → Gang) : (s.updGang i f).engines = s.engines := rfl
@[simp] theorem State.updGang_accepts (s : State) (i : BitVec 32) (f : Gang → Gang) : (s.updGang i f).accepts = s.accepts := rfl
@[simp] theorem State.updGang_plan (s : State) (i : BitVec 32) (f : Gang → Gang) : (s.updGang i f).plan = s.plan := rfl
@[simp] theorem State.updGang_spans (s : State) (i : BitVec 32) (f : Gang → Gang) : (s.updGang i f).spans = s.spans := rfl
@[simp] theorem State.updGang_launches (s : State) (i : BitVec 32) (f : Gang → Gang) : (s.updGang i f).launches = s.launches := rfl
@[simp] theorem State.updGang_nextLaunch (s : State) (i : BitVec 32) (f : Gang → Gang) : (s.updGang i f).nextLaunch = s.nextLaunch := rfl
@[simp] theorem State.updGang_logs (s : State) (i : BitVec 32) (f : Gang → Gang) : (s.updGang i f).logs = s.logs := rfl
@[simp] theorem State.updGang_allotments (s : State) (i : BitVec 32) (f : Gang → Gang) : (s.updGang i f).allotments = s.allotments := rfl
@[simp] theorem State.updGang_pool (s : State) (i : BitVec 32) (f : Gang → Gang) : (s.updGang i f).pool = s.pool := rfl
@[simp] theorem State.updGang_nextGang (s : State) (i : BitVec 32) (f : Gang → Gang) : (s.updGang i f).nextGang = s.nextGang := rfl
@[simp] theorem State.updGang_placePtr (s : State) (i : BitVec 32) (f : Gang → Gang) : (s.updGang i f).placePtr = s.placePtr := rfl
@[simp] theorem State.updGang_placements (s : State) (i : BitVec 32) (f : Gang → Gang) : (s.updGang i f).placements = s.placements := rfl
@[simp] theorem State.updGang_xarrived (s : State) (i : BitVec 32) (f : Gang → Gang) : (s.updGang i f).xarrived = s.xarrived := rfl
@[simp] theorem State.updGang_xqueue (s : State) (i : BitVec 32) (f : Gang → Gang) : (s.updGang i f).xqueue = s.xqueue := rfl
@[simp] theorem State.updGang_deficits (s : State) (i : BitVec 32) (f : Gang → Gang) : (s.updGang i f).deficits = s.deficits := rfl
@[simp] theorem State.updGang_xvisit (s : State) (i : BitVec 32) (f : Gang → Gang) : (s.updGang i f).xvisit = s.xvisit := rfl
@[simp] theorem State.updGang_phase (s : State) (i : BitVec 32) (f : Gang → Gang) : (s.updGang i f).phase = s.phase := rfl
@[simp] theorem State.updGang_ports (s : State) (i : BitVec 32) (f : Gang → Gang) : (s.updGang i f).ports = s.ports := rfl
@[simp] theorem State.updGang_pkg (s : State) (i : BitVec 32) (f : Gang → Gang) : (s.updGang i f).pkg = s.pkg := rfl
@[simp] theorem State.updGang_queues (s : State) (i : BitVec 32) (f : Gang → Gang) : (s.updGang i f).queues = s.queues := rfl
@[simp] theorem State.updGang_pkgWrites (s : State) (i : BitVec 32) (f : Gang → Gang) : (s.updGang i f).pkgWrites = s.pkgWrites := rfl
@[simp] theorem State.updGang_tlbInvs (s : State) (i : BitVec 32) (f : Gang → Gang) : (s.updGang i f).tlbInvs = s.tlbInvs := rfl
@[simp] theorem State.updGang_faults (s : State) (i : BitVec 32) (f : Gang → Gang) : (s.updGang i f).faults = s.faults := rfl
@[simp] theorem State.updGang_memErr (s : State) (i : BitVec 32) (f : Gang → Gang) : (s.updGang i f).memErr = s.memErr := rfl
@[simp] theorem State.updGang_hostRefuse (s : State) (i : BitVec 32) (f : Gang → Gang) : (s.updGang i f).hostRefuse = s.hostRefuse := rfl
@[simp] theorem State.updGang_tableFault (s : State) (i : BitVec 32) (f : Gang → Gang) : (s.updGang i f).tableFault = s.tableFault := rfl
@[simp] theorem State.updGang_prgs (s : State) (i : BitVec 32) (f : Gang → Gang) : (s.updGang i f).prgs = s.prgs := rfl
@[simp] theorem State.updGang_fabric (s : State) (i : BitVec 32) (f : Gang → Gang) : (s.updGang i f).fabric = s.fabric := rfl
@[simp] theorem State.updGang_keys (s : State) (i : BitVec 32) (f : Gang → Gang) : (s.updGang i f).keys = s.keys := rfl
@[simp] theorem State.updGang_booted (s : State) (i : BitVec 32) (f : Gang → Gang) : (s.updGang i f).booted = s.booted := rfl
@[simp] theorem State.updGang_recovery (s : State) (i : BitVec 32) (f : Gang → Gang) : (s.updGang i f).recovery = s.recovery := rfl
@[simp] theorem State.updGang_versions (s : State) (i : BitVec 32) (f : Gang → Gang) : (s.updGang i f).versions = s.versions := rfl
@[simp] theorem State.updGang_powerLimited (s : State) (i : BitVec 32) (f : Gang → Gang) : (s.updGang i f).powerLimited = s.powerLimited := rfl
@[simp] theorem State.updGang_net (s : State) (i : BitVec 32) (f : Gang → Gang) : (s.updGang i f).net = s.net := rfl
@[simp] theorem State.updGang_host (s : State) (i : BitVec 32) (f : Gang → Gang) : (s.updGang i f).host = s.host := rfl

/-! ### State.updSpan -/

@[simp] theorem State.updSpan_agenda (s : State) (i : BitVec 32) (f : Span → Span) : (s.updSpan i f).agenda = s.agenda := rfl
@[simp] theorem State.updSpan_pace (s : State) (i : BitVec 32) (f : Span → Span) : (s.updSpan i f).pace = s.pace := rfl
@[simp] theorem State.updSpan_slices (s : State) (i : BitVec 32) (f : Span → Span) : (s.updSpan i f).slices = s.slices := rfl
@[simp] theorem State.updSpan_cycle (s : State) (i : BitVec 32) (f : Span → Span) : (s.updSpan i f).cycle = s.cycle := rfl
@[simp] theorem State.updSpan_free (s : State) (i : BitVec 32) (f : Span → Span) : (s.updSpan i f).free = s.free := rfl
@[simp] theorem State.updSpan_mem (s : State) (i : BitVec 32) (f : Span → Span) : (s.updSpan i f).mem = s.mem := rfl
@[simp] theorem State.updSpan_tags (s : State) (i : BitVec 32) (f : Span → Span) : (s.updSpan i f).tags = s.tags := rfl
@[simp] theorem State.updSpan_dirty (s : State) (i : BitVec 32) (f : Span → Span) : (s.updSpan i f).dirty = s.dirty := rfl
@[simp] theorem State.updSpan_hostAbsent (s : State) (i : BitVec 32) (f : Span → Span) : (s.updSpan i f).hostAbsent = s.hostAbsent := rfl
@[simp] theorem State.updSpan_arrivals (s : State) (i : BitVec 32) (f : Span → Span) : (s.updSpan i f).arrivals = s.arrivals := rfl
@[simp] theorem State.updSpan_cur (s : State) (i : BitVec 32) (f : Span → Span) : (s.updSpan i f).cur = s.cur := rfl
@[simp] theorem State.updSpan_cx (s : State) (i : BitVec 32) (f : Span → Span) : (s.updSpan i f).cx = s.cx := rfl
@[simp] theorem State.updSpan_ctxs (s : State) (i : BitVec 32) (f : Span → Span) : (s.updSpan i f).ctxs = s.ctxs := rfl
@[simp] theorem State.updSpan_cores (s : State) (i : BitVec 32) (f : Span → Span) : (s.updSpan i f).cores = s.cores := rfl
@[simp] theorem State.updSpan_clusters (s : State) (i : BitVec 32) (f : Span → Span) : (s.updSpan i f).clusters = s.clusters := rfl
@[simp] theorem State.updSpan_spaces (s : State) (i : BitVec 32) (f : Span → Span) : (s.updSpan i f).spaces = s.spaces := rfl
@[simp] theorem State.updSpan_exports (s : State) (i : BitVec 32) (f : Span → Span) : (s.updSpan i f).exports = s.exports := rfl
@[simp] theorem State.updSpan_remotes (s : State) (i : BitVec 32) (f : Span → Span) : (s.updSpan i f).remotes = s.remotes := rfl
@[simp] theorem State.updSpan_revocations (s : State) (i : BitVec 32) (f : Span → Span) : (s.updSpan i f).revocations = s.revocations := rfl
@[simp] theorem State.updSpan_txns (s : State) (i : BitVec 32) (f : Span → Span) : (s.updSpan i f).txns = s.txns := rfl
@[simp] theorem State.updSpan_quiet (s : State) (i : BitVec 32) (f : Span → Span) : (s.updSpan i f).quiet = s.quiet := rfl
@[simp] theorem State.updSpan_label (s : State) (i : BitVec 32) (f : Span → Span) : (s.updSpan i f).label = s.label := rfl
@[simp] theorem State.updSpan_chips (s : State) (i : BitVec 32) (f : Span → Span) : (s.updSpan i f).chips = s.chips := rfl
@[simp] theorem State.updSpan_hostRegions (s : State) (i : BitVec 32) (f : Span → Span) : (s.updSpan i f).hostRegions = s.hostRegions := rfl
@[simp] theorem State.updSpan_engines (s : State) (i : BitVec 32) (f : Span → Span) : (s.updSpan i f).engines = s.engines := rfl
@[simp] theorem State.updSpan_accepts (s : State) (i : BitVec 32) (f : Span → Span) : (s.updSpan i f).accepts = s.accepts := rfl
@[simp] theorem State.updSpan_plan (s : State) (i : BitVec 32) (f : Span → Span) : (s.updSpan i f).plan = s.plan := rfl
@[simp] theorem State.updSpan_gangs (s : State) (i : BitVec 32) (f : Span → Span) : (s.updSpan i f).gangs = s.gangs := rfl
@[simp] theorem State.updSpan_launches (s : State) (i : BitVec 32) (f : Span → Span) : (s.updSpan i f).launches = s.launches := rfl
@[simp] theorem State.updSpan_nextLaunch (s : State) (i : BitVec 32) (f : Span → Span) : (s.updSpan i f).nextLaunch = s.nextLaunch := rfl
@[simp] theorem State.updSpan_logs (s : State) (i : BitVec 32) (f : Span → Span) : (s.updSpan i f).logs = s.logs := rfl
@[simp] theorem State.updSpan_allotments (s : State) (i : BitVec 32) (f : Span → Span) : (s.updSpan i f).allotments = s.allotments := rfl
@[simp] theorem State.updSpan_pool (s : State) (i : BitVec 32) (f : Span → Span) : (s.updSpan i f).pool = s.pool := rfl
@[simp] theorem State.updSpan_nextGang (s : State) (i : BitVec 32) (f : Span → Span) : (s.updSpan i f).nextGang = s.nextGang := rfl
@[simp] theorem State.updSpan_placePtr (s : State) (i : BitVec 32) (f : Span → Span) : (s.updSpan i f).placePtr = s.placePtr := rfl
@[simp] theorem State.updSpan_placements (s : State) (i : BitVec 32) (f : Span → Span) : (s.updSpan i f).placements = s.placements := rfl
@[simp] theorem State.updSpan_xarrived (s : State) (i : BitVec 32) (f : Span → Span) : (s.updSpan i f).xarrived = s.xarrived := rfl
@[simp] theorem State.updSpan_xqueue (s : State) (i : BitVec 32) (f : Span → Span) : (s.updSpan i f).xqueue = s.xqueue := rfl
@[simp] theorem State.updSpan_deficits (s : State) (i : BitVec 32) (f : Span → Span) : (s.updSpan i f).deficits = s.deficits := rfl
@[simp] theorem State.updSpan_xvisit (s : State) (i : BitVec 32) (f : Span → Span) : (s.updSpan i f).xvisit = s.xvisit := rfl
@[simp] theorem State.updSpan_phase (s : State) (i : BitVec 32) (f : Span → Span) : (s.updSpan i f).phase = s.phase := rfl
@[simp] theorem State.updSpan_ports (s : State) (i : BitVec 32) (f : Span → Span) : (s.updSpan i f).ports = s.ports := rfl
@[simp] theorem State.updSpan_pkg (s : State) (i : BitVec 32) (f : Span → Span) : (s.updSpan i f).pkg = s.pkg := rfl
@[simp] theorem State.updSpan_queues (s : State) (i : BitVec 32) (f : Span → Span) : (s.updSpan i f).queues = s.queues := rfl
@[simp] theorem State.updSpan_pkgWrites (s : State) (i : BitVec 32) (f : Span → Span) : (s.updSpan i f).pkgWrites = s.pkgWrites := rfl
@[simp] theorem State.updSpan_tlbInvs (s : State) (i : BitVec 32) (f : Span → Span) : (s.updSpan i f).tlbInvs = s.tlbInvs := rfl
@[simp] theorem State.updSpan_faults (s : State) (i : BitVec 32) (f : Span → Span) : (s.updSpan i f).faults = s.faults := rfl
@[simp] theorem State.updSpan_memErr (s : State) (i : BitVec 32) (f : Span → Span) : (s.updSpan i f).memErr = s.memErr := rfl
@[simp] theorem State.updSpan_hostRefuse (s : State) (i : BitVec 32) (f : Span → Span) : (s.updSpan i f).hostRefuse = s.hostRefuse := rfl
@[simp] theorem State.updSpan_tableFault (s : State) (i : BitVec 32) (f : Span → Span) : (s.updSpan i f).tableFault = s.tableFault := rfl
@[simp] theorem State.updSpan_prgs (s : State) (i : BitVec 32) (f : Span → Span) : (s.updSpan i f).prgs = s.prgs := rfl
@[simp] theorem State.updSpan_fabric (s : State) (i : BitVec 32) (f : Span → Span) : (s.updSpan i f).fabric = s.fabric := rfl
@[simp] theorem State.updSpan_keys (s : State) (i : BitVec 32) (f : Span → Span) : (s.updSpan i f).keys = s.keys := rfl
@[simp] theorem State.updSpan_booted (s : State) (i : BitVec 32) (f : Span → Span) : (s.updSpan i f).booted = s.booted := rfl
@[simp] theorem State.updSpan_recovery (s : State) (i : BitVec 32) (f : Span → Span) : (s.updSpan i f).recovery = s.recovery := rfl
@[simp] theorem State.updSpan_versions (s : State) (i : BitVec 32) (f : Span → Span) : (s.updSpan i f).versions = s.versions := rfl
@[simp] theorem State.updSpan_powerLimited (s : State) (i : BitVec 32) (f : Span → Span) : (s.updSpan i f).powerLimited = s.powerLimited := rfl
@[simp] theorem State.updSpan_net (s : State) (i : BitVec 32) (f : Span → Span) : (s.updSpan i f).net = s.net := rfl
@[simp] theorem State.updSpan_host (s : State) (i : BitVec 32) (f : Span → Span) : (s.updSpan i f).host = s.host := rfl

/-! ### State.updKq -/

@[simp] theorem State.updKq_agenda (s : State) (q : BitVec 5) (f : KQueue → KQueue) : (s.updKq q f).agenda = s.agenda := rfl
@[simp] theorem State.updKq_pace (s : State) (q : BitVec 5) (f : KQueue → KQueue) : (s.updKq q f).pace = s.pace := rfl
@[simp] theorem State.updKq_slices (s : State) (q : BitVec 5) (f : KQueue → KQueue) : (s.updKq q f).slices = s.slices := rfl
@[simp] theorem State.updKq_cycle (s : State) (q : BitVec 5) (f : KQueue → KQueue) : (s.updKq q f).cycle = s.cycle := rfl
@[simp] theorem State.updKq_free (s : State) (q : BitVec 5) (f : KQueue → KQueue) : (s.updKq q f).free = s.free := rfl
@[simp] theorem State.updKq_mem (s : State) (q : BitVec 5) (f : KQueue → KQueue) : (s.updKq q f).mem = s.mem := rfl
@[simp] theorem State.updKq_tags (s : State) (q : BitVec 5) (f : KQueue → KQueue) : (s.updKq q f).tags = s.tags := rfl
@[simp] theorem State.updKq_dirty (s : State) (q : BitVec 5) (f : KQueue → KQueue) : (s.updKq q f).dirty = s.dirty := rfl
@[simp] theorem State.updKq_hostAbsent (s : State) (q : BitVec 5) (f : KQueue → KQueue) : (s.updKq q f).hostAbsent = s.hostAbsent := rfl
@[simp] theorem State.updKq_arrivals (s : State) (q : BitVec 5) (f : KQueue → KQueue) : (s.updKq q f).arrivals = s.arrivals := rfl
@[simp] theorem State.updKq_cur (s : State) (q : BitVec 5) (f : KQueue → KQueue) : (s.updKq q f).cur = s.cur := rfl
@[simp] theorem State.updKq_cx (s : State) (q : BitVec 5) (f : KQueue → KQueue) : (s.updKq q f).cx = s.cx := rfl
@[simp] theorem State.updKq_ctxs (s : State) (q : BitVec 5) (f : KQueue → KQueue) : (s.updKq q f).ctxs = s.ctxs := rfl
@[simp] theorem State.updKq_cores (s : State) (q : BitVec 5) (f : KQueue → KQueue) : (s.updKq q f).cores = s.cores := rfl
@[simp] theorem State.updKq_clusters (s : State) (q : BitVec 5) (f : KQueue → KQueue) : (s.updKq q f).clusters = s.clusters := rfl
@[simp] theorem State.updKq_spaces (s : State) (q : BitVec 5) (f : KQueue → KQueue) : (s.updKq q f).spaces = s.spaces := rfl
@[simp] theorem State.updKq_exports (s : State) (q : BitVec 5) (f : KQueue → KQueue) : (s.updKq q f).exports = s.exports := rfl
@[simp] theorem State.updKq_remotes (s : State) (q : BitVec 5) (f : KQueue → KQueue) : (s.updKq q f).remotes = s.remotes := rfl
@[simp] theorem State.updKq_revocations (s : State) (q : BitVec 5) (f : KQueue → KQueue) : (s.updKq q f).revocations = s.revocations := rfl
@[simp] theorem State.updKq_txns (s : State) (q : BitVec 5) (f : KQueue → KQueue) : (s.updKq q f).txns = s.txns := rfl
@[simp] theorem State.updKq_quiet (s : State) (q : BitVec 5) (f : KQueue → KQueue) : (s.updKq q f).quiet = s.quiet := rfl
@[simp] theorem State.updKq_label (s : State) (q : BitVec 5) (f : KQueue → KQueue) : (s.updKq q f).label = s.label := rfl
@[simp] theorem State.updKq_chips (s : State) (q : BitVec 5) (f : KQueue → KQueue) : (s.updKq q f).chips = s.chips := rfl
@[simp] theorem State.updKq_hostRegions (s : State) (q : BitVec 5) (f : KQueue → KQueue) : (s.updKq q f).hostRegions = s.hostRegions := rfl
@[simp] theorem State.updKq_engines (s : State) (q : BitVec 5) (f : KQueue → KQueue) : (s.updKq q f).engines = s.engines := rfl
@[simp] theorem State.updKq_accepts (s : State) (q : BitVec 5) (f : KQueue → KQueue) : (s.updKq q f).accepts = s.accepts := rfl
@[simp] theorem State.updKq_plan (s : State) (q : BitVec 5) (f : KQueue → KQueue) : (s.updKq q f).plan = s.plan := rfl
@[simp] theorem State.updKq_gangs (s : State) (q : BitVec 5) (f : KQueue → KQueue) : (s.updKq q f).gangs = s.gangs := rfl
@[simp] theorem State.updKq_spans (s : State) (q : BitVec 5) (f : KQueue → KQueue) : (s.updKq q f).spans = s.spans := rfl
@[simp] theorem State.updKq_launches (s : State) (q : BitVec 5) (f : KQueue → KQueue) : (s.updKq q f).launches = s.launches := rfl
@[simp] theorem State.updKq_nextLaunch (s : State) (q : BitVec 5) (f : KQueue → KQueue) : (s.updKq q f).nextLaunch = s.nextLaunch := rfl
@[simp] theorem State.updKq_logs (s : State) (q : BitVec 5) (f : KQueue → KQueue) : (s.updKq q f).logs = s.logs := rfl
@[simp] theorem State.updKq_allotments (s : State) (q : BitVec 5) (f : KQueue → KQueue) : (s.updKq q f).allotments = s.allotments := rfl
@[simp] theorem State.updKq_pool (s : State) (q : BitVec 5) (f : KQueue → KQueue) : (s.updKq q f).pool = s.pool := rfl
@[simp] theorem State.updKq_nextGang (s : State) (q : BitVec 5) (f : KQueue → KQueue) : (s.updKq q f).nextGang = s.nextGang := rfl
@[simp] theorem State.updKq_placePtr (s : State) (q : BitVec 5) (f : KQueue → KQueue) : (s.updKq q f).placePtr = s.placePtr := rfl
@[simp] theorem State.updKq_placements (s : State) (q : BitVec 5) (f : KQueue → KQueue) : (s.updKq q f).placements = s.placements := rfl
@[simp] theorem State.updKq_xarrived (s : State) (q : BitVec 5) (f : KQueue → KQueue) : (s.updKq q f).xarrived = s.xarrived := rfl
@[simp] theorem State.updKq_xqueue (s : State) (q : BitVec 5) (f : KQueue → KQueue) : (s.updKq q f).xqueue = s.xqueue := rfl
@[simp] theorem State.updKq_deficits (s : State) (q : BitVec 5) (f : KQueue → KQueue) : (s.updKq q f).deficits = s.deficits := rfl
@[simp] theorem State.updKq_xvisit (s : State) (q : BitVec 5) (f : KQueue → KQueue) : (s.updKq q f).xvisit = s.xvisit := rfl
@[simp] theorem State.updKq_phase (s : State) (q : BitVec 5) (f : KQueue → KQueue) : (s.updKq q f).phase = s.phase := rfl
@[simp] theorem State.updKq_ports (s : State) (q : BitVec 5) (f : KQueue → KQueue) : (s.updKq q f).ports = s.ports := rfl
@[simp] theorem State.updKq_pkg (s : State) (q : BitVec 5) (f : KQueue → KQueue) : (s.updKq q f).pkg = s.pkg := rfl
@[simp] theorem State.updKq_pkgWrites (s : State) (q : BitVec 5) (f : KQueue → KQueue) : (s.updKq q f).pkgWrites = s.pkgWrites := rfl
@[simp] theorem State.updKq_tlbInvs (s : State) (q : BitVec 5) (f : KQueue → KQueue) : (s.updKq q f).tlbInvs = s.tlbInvs := rfl
@[simp] theorem State.updKq_faults (s : State) (q : BitVec 5) (f : KQueue → KQueue) : (s.updKq q f).faults = s.faults := rfl
@[simp] theorem State.updKq_memErr (s : State) (q : BitVec 5) (f : KQueue → KQueue) : (s.updKq q f).memErr = s.memErr := rfl
@[simp] theorem State.updKq_hostRefuse (s : State) (q : BitVec 5) (f : KQueue → KQueue) : (s.updKq q f).hostRefuse = s.hostRefuse := rfl
@[simp] theorem State.updKq_tableFault (s : State) (q : BitVec 5) (f : KQueue → KQueue) : (s.updKq q f).tableFault = s.tableFault := rfl
@[simp] theorem State.updKq_prgs (s : State) (q : BitVec 5) (f : KQueue → KQueue) : (s.updKq q f).prgs = s.prgs := rfl
@[simp] theorem State.updKq_fabric (s : State) (q : BitVec 5) (f : KQueue → KQueue) : (s.updKq q f).fabric = s.fabric := rfl
@[simp] theorem State.updKq_keys (s : State) (q : BitVec 5) (f : KQueue → KQueue) : (s.updKq q f).keys = s.keys := rfl
@[simp] theorem State.updKq_booted (s : State) (q : BitVec 5) (f : KQueue → KQueue) : (s.updKq q f).booted = s.booted := rfl
@[simp] theorem State.updKq_recovery (s : State) (q : BitVec 5) (f : KQueue → KQueue) : (s.updKq q f).recovery = s.recovery := rfl
@[simp] theorem State.updKq_versions (s : State) (q : BitVec 5) (f : KQueue → KQueue) : (s.updKq q f).versions = s.versions := rfl
@[simp] theorem State.updKq_powerLimited (s : State) (q : BitVec 5) (f : KQueue → KQueue) : (s.updKq q f).powerLimited = s.powerLimited := rfl
@[simp] theorem State.updKq_net (s : State) (q : BitVec 5) (f : KQueue → KQueue) : (s.updKq q f).net = s.net := rfl
@[simp] theorem State.updKq_host (s : State) (q : BitVec 5) (f : KQueue → KQueue) : (s.updKq q f).host = s.host := rfl

/-! ### State.updRemote -/

@[simp] theorem State.updRemote_agenda (s : State) (i : BitVec 24) (f : RemoteHandle → RemoteHandle) : (s.updRemote i f).agenda = s.agenda := rfl
@[simp] theorem State.updRemote_pace (s : State) (i : BitVec 24) (f : RemoteHandle → RemoteHandle) : (s.updRemote i f).pace = s.pace := rfl
@[simp] theorem State.updRemote_slices (s : State) (i : BitVec 24) (f : RemoteHandle → RemoteHandle) : (s.updRemote i f).slices = s.slices := rfl
@[simp] theorem State.updRemote_cycle (s : State) (i : BitVec 24) (f : RemoteHandle → RemoteHandle) : (s.updRemote i f).cycle = s.cycle := rfl
@[simp] theorem State.updRemote_free (s : State) (i : BitVec 24) (f : RemoteHandle → RemoteHandle) : (s.updRemote i f).free = s.free := rfl
@[simp] theorem State.updRemote_mem (s : State) (i : BitVec 24) (f : RemoteHandle → RemoteHandle) : (s.updRemote i f).mem = s.mem := rfl
@[simp] theorem State.updRemote_tags (s : State) (i : BitVec 24) (f : RemoteHandle → RemoteHandle) : (s.updRemote i f).tags = s.tags := rfl
@[simp] theorem State.updRemote_dirty (s : State) (i : BitVec 24) (f : RemoteHandle → RemoteHandle) : (s.updRemote i f).dirty = s.dirty := rfl
@[simp] theorem State.updRemote_hostAbsent (s : State) (i : BitVec 24) (f : RemoteHandle → RemoteHandle) : (s.updRemote i f).hostAbsent = s.hostAbsent := rfl
@[simp] theorem State.updRemote_arrivals (s : State) (i : BitVec 24) (f : RemoteHandle → RemoteHandle) : (s.updRemote i f).arrivals = s.arrivals := rfl
@[simp] theorem State.updRemote_cur (s : State) (i : BitVec 24) (f : RemoteHandle → RemoteHandle) : (s.updRemote i f).cur = s.cur := rfl
@[simp] theorem State.updRemote_cx (s : State) (i : BitVec 24) (f : RemoteHandle → RemoteHandle) : (s.updRemote i f).cx = s.cx := rfl
@[simp] theorem State.updRemote_ctxs (s : State) (i : BitVec 24) (f : RemoteHandle → RemoteHandle) : (s.updRemote i f).ctxs = s.ctxs := rfl
@[simp] theorem State.updRemote_cores (s : State) (i : BitVec 24) (f : RemoteHandle → RemoteHandle) : (s.updRemote i f).cores = s.cores := rfl
@[simp] theorem State.updRemote_clusters (s : State) (i : BitVec 24) (f : RemoteHandle → RemoteHandle) : (s.updRemote i f).clusters = s.clusters := rfl
@[simp] theorem State.updRemote_spaces (s : State) (i : BitVec 24) (f : RemoteHandle → RemoteHandle) : (s.updRemote i f).spaces = s.spaces := rfl
@[simp] theorem State.updRemote_exports (s : State) (i : BitVec 24) (f : RemoteHandle → RemoteHandle) : (s.updRemote i f).exports = s.exports := rfl
@[simp] theorem State.updRemote_revocations (s : State) (i : BitVec 24) (f : RemoteHandle → RemoteHandle) : (s.updRemote i f).revocations = s.revocations := rfl
@[simp] theorem State.updRemote_txns (s : State) (i : BitVec 24) (f : RemoteHandle → RemoteHandle) : (s.updRemote i f).txns = s.txns := rfl
@[simp] theorem State.updRemote_quiet (s : State) (i : BitVec 24) (f : RemoteHandle → RemoteHandle) : (s.updRemote i f).quiet = s.quiet := rfl
@[simp] theorem State.updRemote_label (s : State) (i : BitVec 24) (f : RemoteHandle → RemoteHandle) : (s.updRemote i f).label = s.label := rfl
@[simp] theorem State.updRemote_chips (s : State) (i : BitVec 24) (f : RemoteHandle → RemoteHandle) : (s.updRemote i f).chips = s.chips := rfl
@[simp] theorem State.updRemote_hostRegions (s : State) (i : BitVec 24) (f : RemoteHandle → RemoteHandle) : (s.updRemote i f).hostRegions = s.hostRegions := rfl
@[simp] theorem State.updRemote_engines (s : State) (i : BitVec 24) (f : RemoteHandle → RemoteHandle) : (s.updRemote i f).engines = s.engines := rfl
@[simp] theorem State.updRemote_accepts (s : State) (i : BitVec 24) (f : RemoteHandle → RemoteHandle) : (s.updRemote i f).accepts = s.accepts := rfl
@[simp] theorem State.updRemote_plan (s : State) (i : BitVec 24) (f : RemoteHandle → RemoteHandle) : (s.updRemote i f).plan = s.plan := rfl
@[simp] theorem State.updRemote_gangs (s : State) (i : BitVec 24) (f : RemoteHandle → RemoteHandle) : (s.updRemote i f).gangs = s.gangs := rfl
@[simp] theorem State.updRemote_spans (s : State) (i : BitVec 24) (f : RemoteHandle → RemoteHandle) : (s.updRemote i f).spans = s.spans := rfl
@[simp] theorem State.updRemote_launches (s : State) (i : BitVec 24) (f : RemoteHandle → RemoteHandle) : (s.updRemote i f).launches = s.launches := rfl
@[simp] theorem State.updRemote_nextLaunch (s : State) (i : BitVec 24) (f : RemoteHandle → RemoteHandle) : (s.updRemote i f).nextLaunch = s.nextLaunch := rfl
@[simp] theorem State.updRemote_logs (s : State) (i : BitVec 24) (f : RemoteHandle → RemoteHandle) : (s.updRemote i f).logs = s.logs := rfl
@[simp] theorem State.updRemote_allotments (s : State) (i : BitVec 24) (f : RemoteHandle → RemoteHandle) : (s.updRemote i f).allotments = s.allotments := rfl
@[simp] theorem State.updRemote_pool (s : State) (i : BitVec 24) (f : RemoteHandle → RemoteHandle) : (s.updRemote i f).pool = s.pool := rfl
@[simp] theorem State.updRemote_nextGang (s : State) (i : BitVec 24) (f : RemoteHandle → RemoteHandle) : (s.updRemote i f).nextGang = s.nextGang := rfl
@[simp] theorem State.updRemote_placePtr (s : State) (i : BitVec 24) (f : RemoteHandle → RemoteHandle) : (s.updRemote i f).placePtr = s.placePtr := rfl
@[simp] theorem State.updRemote_placements (s : State) (i : BitVec 24) (f : RemoteHandle → RemoteHandle) : (s.updRemote i f).placements = s.placements := rfl
@[simp] theorem State.updRemote_xarrived (s : State) (i : BitVec 24) (f : RemoteHandle → RemoteHandle) : (s.updRemote i f).xarrived = s.xarrived := rfl
@[simp] theorem State.updRemote_xqueue (s : State) (i : BitVec 24) (f : RemoteHandle → RemoteHandle) : (s.updRemote i f).xqueue = s.xqueue := rfl
@[simp] theorem State.updRemote_deficits (s : State) (i : BitVec 24) (f : RemoteHandle → RemoteHandle) : (s.updRemote i f).deficits = s.deficits := rfl
@[simp] theorem State.updRemote_xvisit (s : State) (i : BitVec 24) (f : RemoteHandle → RemoteHandle) : (s.updRemote i f).xvisit = s.xvisit := rfl
@[simp] theorem State.updRemote_phase (s : State) (i : BitVec 24) (f : RemoteHandle → RemoteHandle) : (s.updRemote i f).phase = s.phase := rfl
@[simp] theorem State.updRemote_ports (s : State) (i : BitVec 24) (f : RemoteHandle → RemoteHandle) : (s.updRemote i f).ports = s.ports := rfl
@[simp] theorem State.updRemote_pkg (s : State) (i : BitVec 24) (f : RemoteHandle → RemoteHandle) : (s.updRemote i f).pkg = s.pkg := rfl
@[simp] theorem State.updRemote_queues (s : State) (i : BitVec 24) (f : RemoteHandle → RemoteHandle) : (s.updRemote i f).queues = s.queues := rfl
@[simp] theorem State.updRemote_pkgWrites (s : State) (i : BitVec 24) (f : RemoteHandle → RemoteHandle) : (s.updRemote i f).pkgWrites = s.pkgWrites := rfl
@[simp] theorem State.updRemote_tlbInvs (s : State) (i : BitVec 24) (f : RemoteHandle → RemoteHandle) : (s.updRemote i f).tlbInvs = s.tlbInvs := rfl
@[simp] theorem State.updRemote_faults (s : State) (i : BitVec 24) (f : RemoteHandle → RemoteHandle) : (s.updRemote i f).faults = s.faults := rfl
@[simp] theorem State.updRemote_memErr (s : State) (i : BitVec 24) (f : RemoteHandle → RemoteHandle) : (s.updRemote i f).memErr = s.memErr := rfl
@[simp] theorem State.updRemote_hostRefuse (s : State) (i : BitVec 24) (f : RemoteHandle → RemoteHandle) : (s.updRemote i f).hostRefuse = s.hostRefuse := rfl
@[simp] theorem State.updRemote_tableFault (s : State) (i : BitVec 24) (f : RemoteHandle → RemoteHandle) : (s.updRemote i f).tableFault = s.tableFault := rfl
@[simp] theorem State.updRemote_prgs (s : State) (i : BitVec 24) (f : RemoteHandle → RemoteHandle) : (s.updRemote i f).prgs = s.prgs := rfl
@[simp] theorem State.updRemote_fabric (s : State) (i : BitVec 24) (f : RemoteHandle → RemoteHandle) : (s.updRemote i f).fabric = s.fabric := rfl
@[simp] theorem State.updRemote_keys (s : State) (i : BitVec 24) (f : RemoteHandle → RemoteHandle) : (s.updRemote i f).keys = s.keys := rfl
@[simp] theorem State.updRemote_booted (s : State) (i : BitVec 24) (f : RemoteHandle → RemoteHandle) : (s.updRemote i f).booted = s.booted := rfl
@[simp] theorem State.updRemote_recovery (s : State) (i : BitVec 24) (f : RemoteHandle → RemoteHandle) : (s.updRemote i f).recovery = s.recovery := rfl
@[simp] theorem State.updRemote_versions (s : State) (i : BitVec 24) (f : RemoteHandle → RemoteHandle) : (s.updRemote i f).versions = s.versions := rfl
@[simp] theorem State.updRemote_powerLimited (s : State) (i : BitVec 24) (f : RemoteHandle → RemoteHandle) : (s.updRemote i f).powerLimited = s.powerLimited := rfl
@[simp] theorem State.updRemote_net (s : State) (i : BitVec 24) (f : RemoteHandle → RemoteHandle) : (s.updRemote i f).net = s.net := rfl
@[simp] theorem State.updRemote_host (s : State) (i : BitVec 24) (f : RemoteHandle → RemoteHandle) : (s.updRemote i f).host = s.host := rfl

/-! ### State.send -/

@[simp] theorem State.send_agenda (s : State) (m : NetMsg) : (s.send m).agenda = s.agenda := rfl
@[simp] theorem State.send_pace (s : State) (m : NetMsg) : (s.send m).pace = s.pace := rfl
@[simp] theorem State.send_slices (s : State) (m : NetMsg) : (s.send m).slices = s.slices := rfl
@[simp] theorem State.send_cycle (s : State) (m : NetMsg) : (s.send m).cycle = s.cycle := rfl
@[simp] theorem State.send_free (s : State) (m : NetMsg) : (s.send m).free = s.free := rfl
@[simp] theorem State.send_mem (s : State) (m : NetMsg) : (s.send m).mem = s.mem := rfl
@[simp] theorem State.send_tags (s : State) (m : NetMsg) : (s.send m).tags = s.tags := rfl
@[simp] theorem State.send_dirty (s : State) (m : NetMsg) : (s.send m).dirty = s.dirty := rfl
@[simp] theorem State.send_hostAbsent (s : State) (m : NetMsg) : (s.send m).hostAbsent = s.hostAbsent := rfl
@[simp] theorem State.send_arrivals (s : State) (m : NetMsg) : (s.send m).arrivals = s.arrivals := rfl
@[simp] theorem State.send_cur (s : State) (m : NetMsg) : (s.send m).cur = s.cur := rfl
@[simp] theorem State.send_cx (s : State) (m : NetMsg) : (s.send m).cx = s.cx := rfl
@[simp] theorem State.send_ctxs (s : State) (m : NetMsg) : (s.send m).ctxs = s.ctxs := rfl
@[simp] theorem State.send_cores (s : State) (m : NetMsg) : (s.send m).cores = s.cores := rfl
@[simp] theorem State.send_clusters (s : State) (m : NetMsg) : (s.send m).clusters = s.clusters := rfl
@[simp] theorem State.send_spaces (s : State) (m : NetMsg) : (s.send m).spaces = s.spaces := rfl
@[simp] theorem State.send_exports (s : State) (m : NetMsg) : (s.send m).exports = s.exports := rfl
@[simp] theorem State.send_remotes (s : State) (m : NetMsg) : (s.send m).remotes = s.remotes := rfl
@[simp] theorem State.send_revocations (s : State) (m : NetMsg) : (s.send m).revocations = s.revocations := rfl
@[simp] theorem State.send_txns (s : State) (m : NetMsg) : (s.send m).txns = s.txns := rfl
@[simp] theorem State.send_quiet (s : State) (m : NetMsg) : (s.send m).quiet = s.quiet := rfl
@[simp] theorem State.send_label (s : State) (m : NetMsg) : (s.send m).label = s.label := rfl
@[simp] theorem State.send_chips (s : State) (m : NetMsg) : (s.send m).chips = s.chips := rfl
@[simp] theorem State.send_hostRegions (s : State) (m : NetMsg) : (s.send m).hostRegions = s.hostRegions := rfl
@[simp] theorem State.send_engines (s : State) (m : NetMsg) : (s.send m).engines = s.engines := rfl
@[simp] theorem State.send_accepts (s : State) (m : NetMsg) : (s.send m).accepts = s.accepts := rfl
@[simp] theorem State.send_plan (s : State) (m : NetMsg) : (s.send m).plan = s.plan := rfl
@[simp] theorem State.send_gangs (s : State) (m : NetMsg) : (s.send m).gangs = s.gangs := rfl
@[simp] theorem State.send_spans (s : State) (m : NetMsg) : (s.send m).spans = s.spans := rfl
@[simp] theorem State.send_launches (s : State) (m : NetMsg) : (s.send m).launches = s.launches := rfl
@[simp] theorem State.send_nextLaunch (s : State) (m : NetMsg) : (s.send m).nextLaunch = s.nextLaunch := rfl
@[simp] theorem State.send_logs (s : State) (m : NetMsg) : (s.send m).logs = s.logs := rfl
@[simp] theorem State.send_allotments (s : State) (m : NetMsg) : (s.send m).allotments = s.allotments := rfl
@[simp] theorem State.send_pool (s : State) (m : NetMsg) : (s.send m).pool = s.pool := rfl
@[simp] theorem State.send_nextGang (s : State) (m : NetMsg) : (s.send m).nextGang = s.nextGang := rfl
@[simp] theorem State.send_placePtr (s : State) (m : NetMsg) : (s.send m).placePtr = s.placePtr := rfl
@[simp] theorem State.send_placements (s : State) (m : NetMsg) : (s.send m).placements = s.placements := rfl
@[simp] theorem State.send_xarrived (s : State) (m : NetMsg) : (s.send m).xarrived = s.xarrived := rfl
@[simp] theorem State.send_xqueue (s : State) (m : NetMsg) : (s.send m).xqueue = s.xqueue := rfl
@[simp] theorem State.send_deficits (s : State) (m : NetMsg) : (s.send m).deficits = s.deficits := rfl
@[simp] theorem State.send_xvisit (s : State) (m : NetMsg) : (s.send m).xvisit = s.xvisit := rfl
@[simp] theorem State.send_phase (s : State) (m : NetMsg) : (s.send m).phase = s.phase := rfl
@[simp] theorem State.send_ports (s : State) (m : NetMsg) : (s.send m).ports = s.ports := rfl
@[simp] theorem State.send_pkg (s : State) (m : NetMsg) : (s.send m).pkg = s.pkg := rfl
@[simp] theorem State.send_queues (s : State) (m : NetMsg) : (s.send m).queues = s.queues := rfl
@[simp] theorem State.send_pkgWrites (s : State) (m : NetMsg) : (s.send m).pkgWrites = s.pkgWrites := rfl
@[simp] theorem State.send_tlbInvs (s : State) (m : NetMsg) : (s.send m).tlbInvs = s.tlbInvs := rfl
@[simp] theorem State.send_faults (s : State) (m : NetMsg) : (s.send m).faults = s.faults := rfl
@[simp] theorem State.send_memErr (s : State) (m : NetMsg) : (s.send m).memErr = s.memErr := rfl
@[simp] theorem State.send_hostRefuse (s : State) (m : NetMsg) : (s.send m).hostRefuse = s.hostRefuse := rfl
@[simp] theorem State.send_tableFault (s : State) (m : NetMsg) : (s.send m).tableFault = s.tableFault := rfl
@[simp] theorem State.send_prgs (s : State) (m : NetMsg) : (s.send m).prgs = s.prgs := rfl
@[simp] theorem State.send_fabric (s : State) (m : NetMsg) : (s.send m).fabric = s.fabric := rfl
@[simp] theorem State.send_keys (s : State) (m : NetMsg) : (s.send m).keys = s.keys := rfl
@[simp] theorem State.send_booted (s : State) (m : NetMsg) : (s.send m).booted = s.booted := rfl
@[simp] theorem State.send_recovery (s : State) (m : NetMsg) : (s.send m).recovery = s.recovery := rfl
@[simp] theorem State.send_versions (s : State) (m : NetMsg) : (s.send m).versions = s.versions := rfl
@[simp] theorem State.send_powerLimited (s : State) (m : NetMsg) : (s.send m).powerLimited = s.powerLimited := rfl
@[simp] theorem State.send_host (s : State) (m : NetMsg) : (s.send m).host = s.host := rfl

/-! ### State.tell -/

@[simp] theorem State.tell_agenda (s : State) (m : HostMsg) : (s.tell m).agenda = s.agenda := rfl
@[simp] theorem State.tell_pace (s : State) (m : HostMsg) : (s.tell m).pace = s.pace := rfl
@[simp] theorem State.tell_slices (s : State) (m : HostMsg) : (s.tell m).slices = s.slices := rfl
@[simp] theorem State.tell_cycle (s : State) (m : HostMsg) : (s.tell m).cycle = s.cycle := rfl
@[simp] theorem State.tell_free (s : State) (m : HostMsg) : (s.tell m).free = s.free := rfl
@[simp] theorem State.tell_mem (s : State) (m : HostMsg) : (s.tell m).mem = s.mem := rfl
@[simp] theorem State.tell_tags (s : State) (m : HostMsg) : (s.tell m).tags = s.tags := rfl
@[simp] theorem State.tell_dirty (s : State) (m : HostMsg) : (s.tell m).dirty = s.dirty := rfl
@[simp] theorem State.tell_hostAbsent (s : State) (m : HostMsg) : (s.tell m).hostAbsent = s.hostAbsent := rfl
@[simp] theorem State.tell_arrivals (s : State) (m : HostMsg) : (s.tell m).arrivals = s.arrivals := rfl
@[simp] theorem State.tell_cur (s : State) (m : HostMsg) : (s.tell m).cur = s.cur := rfl
@[simp] theorem State.tell_cx (s : State) (m : HostMsg) : (s.tell m).cx = s.cx := rfl
@[simp] theorem State.tell_ctxs (s : State) (m : HostMsg) : (s.tell m).ctxs = s.ctxs := rfl
@[simp] theorem State.tell_cores (s : State) (m : HostMsg) : (s.tell m).cores = s.cores := rfl
@[simp] theorem State.tell_clusters (s : State) (m : HostMsg) : (s.tell m).clusters = s.clusters := rfl
@[simp] theorem State.tell_spaces (s : State) (m : HostMsg) : (s.tell m).spaces = s.spaces := rfl
@[simp] theorem State.tell_exports (s : State) (m : HostMsg) : (s.tell m).exports = s.exports := rfl
@[simp] theorem State.tell_remotes (s : State) (m : HostMsg) : (s.tell m).remotes = s.remotes := rfl
@[simp] theorem State.tell_revocations (s : State) (m : HostMsg) : (s.tell m).revocations = s.revocations := rfl
@[simp] theorem State.tell_txns (s : State) (m : HostMsg) : (s.tell m).txns = s.txns := rfl
@[simp] theorem State.tell_quiet (s : State) (m : HostMsg) : (s.tell m).quiet = s.quiet := rfl
@[simp] theorem State.tell_label (s : State) (m : HostMsg) : (s.tell m).label = s.label := rfl
@[simp] theorem State.tell_chips (s : State) (m : HostMsg) : (s.tell m).chips = s.chips := rfl
@[simp] theorem State.tell_hostRegions (s : State) (m : HostMsg) : (s.tell m).hostRegions = s.hostRegions := rfl
@[simp] theorem State.tell_engines (s : State) (m : HostMsg) : (s.tell m).engines = s.engines := rfl
@[simp] theorem State.tell_accepts (s : State) (m : HostMsg) : (s.tell m).accepts = s.accepts := rfl
@[simp] theorem State.tell_plan (s : State) (m : HostMsg) : (s.tell m).plan = s.plan := rfl
@[simp] theorem State.tell_gangs (s : State) (m : HostMsg) : (s.tell m).gangs = s.gangs := rfl
@[simp] theorem State.tell_spans (s : State) (m : HostMsg) : (s.tell m).spans = s.spans := rfl
@[simp] theorem State.tell_launches (s : State) (m : HostMsg) : (s.tell m).launches = s.launches := rfl
@[simp] theorem State.tell_nextLaunch (s : State) (m : HostMsg) : (s.tell m).nextLaunch = s.nextLaunch := rfl
@[simp] theorem State.tell_logs (s : State) (m : HostMsg) : (s.tell m).logs = s.logs := rfl
@[simp] theorem State.tell_allotments (s : State) (m : HostMsg) : (s.tell m).allotments = s.allotments := rfl
@[simp] theorem State.tell_pool (s : State) (m : HostMsg) : (s.tell m).pool = s.pool := rfl
@[simp] theorem State.tell_nextGang (s : State) (m : HostMsg) : (s.tell m).nextGang = s.nextGang := rfl
@[simp] theorem State.tell_placePtr (s : State) (m : HostMsg) : (s.tell m).placePtr = s.placePtr := rfl
@[simp] theorem State.tell_placements (s : State) (m : HostMsg) : (s.tell m).placements = s.placements := rfl
@[simp] theorem State.tell_xarrived (s : State) (m : HostMsg) : (s.tell m).xarrived = s.xarrived := rfl
@[simp] theorem State.tell_xqueue (s : State) (m : HostMsg) : (s.tell m).xqueue = s.xqueue := rfl
@[simp] theorem State.tell_deficits (s : State) (m : HostMsg) : (s.tell m).deficits = s.deficits := rfl
@[simp] theorem State.tell_xvisit (s : State) (m : HostMsg) : (s.tell m).xvisit = s.xvisit := rfl
@[simp] theorem State.tell_phase (s : State) (m : HostMsg) : (s.tell m).phase = s.phase := rfl
@[simp] theorem State.tell_ports (s : State) (m : HostMsg) : (s.tell m).ports = s.ports := rfl
@[simp] theorem State.tell_pkg (s : State) (m : HostMsg) : (s.tell m).pkg = s.pkg := rfl
@[simp] theorem State.tell_queues (s : State) (m : HostMsg) : (s.tell m).queues = s.queues := rfl
@[simp] theorem State.tell_pkgWrites (s : State) (m : HostMsg) : (s.tell m).pkgWrites = s.pkgWrites := rfl
@[simp] theorem State.tell_tlbInvs (s : State) (m : HostMsg) : (s.tell m).tlbInvs = s.tlbInvs := rfl
@[simp] theorem State.tell_faults (s : State) (m : HostMsg) : (s.tell m).faults = s.faults := rfl
@[simp] theorem State.tell_memErr (s : State) (m : HostMsg) : (s.tell m).memErr = s.memErr := rfl
@[simp] theorem State.tell_hostRefuse (s : State) (m : HostMsg) : (s.tell m).hostRefuse = s.hostRefuse := rfl
@[simp] theorem State.tell_tableFault (s : State) (m : HostMsg) : (s.tell m).tableFault = s.tableFault := rfl
@[simp] theorem State.tell_prgs (s : State) (m : HostMsg) : (s.tell m).prgs = s.prgs := rfl
@[simp] theorem State.tell_fabric (s : State) (m : HostMsg) : (s.tell m).fabric = s.fabric := rfl
@[simp] theorem State.tell_keys (s : State) (m : HostMsg) : (s.tell m).keys = s.keys := rfl
@[simp] theorem State.tell_booted (s : State) (m : HostMsg) : (s.tell m).booted = s.booted := rfl
@[simp] theorem State.tell_recovery (s : State) (m : HostMsg) : (s.tell m).recovery = s.recovery := rfl
@[simp] theorem State.tell_versions (s : State) (m : HostMsg) : (s.tell m).versions = s.versions := rfl
@[simp] theorem State.tell_powerLimited (s : State) (m : HostMsg) : (s.tell m).powerLimited = s.powerLimited := rfl
@[simp] theorem State.tell_net (s : State) (m : HostMsg) : (s.tell m).net = s.net := rfl

/-! ### State.write -/

@[simp] theorem State.write_agenda (s : State) (k : Nat) (b : List Byte) : (s.write k b).agenda = s.agenda := rfl
@[simp] theorem State.write_pace (s : State) (k : Nat) (b : List Byte) : (s.write k b).pace = s.pace := rfl
@[simp] theorem State.write_slices (s : State) (k : Nat) (b : List Byte) : (s.write k b).slices = s.slices := rfl
@[simp] theorem State.write_cycle (s : State) (k : Nat) (b : List Byte) : (s.write k b).cycle = s.cycle := rfl
@[simp] theorem State.write_free (s : State) (k : Nat) (b : List Byte) : (s.write k b).free = s.free := rfl
@[simp] theorem State.write_dirty (s : State) (k : Nat) (b : List Byte) : (s.write k b).dirty = s.dirty := rfl
@[simp] theorem State.write_hostAbsent (s : State) (k : Nat) (b : List Byte) : (s.write k b).hostAbsent = s.hostAbsent := rfl
@[simp] theorem State.write_arrivals (s : State) (k : Nat) (b : List Byte) : (s.write k b).arrivals = s.arrivals := rfl
@[simp] theorem State.write_cur (s : State) (k : Nat) (b : List Byte) : (s.write k b).cur = s.cur := rfl
@[simp] theorem State.write_cx (s : State) (k : Nat) (b : List Byte) : (s.write k b).cx = s.cx := rfl
@[simp] theorem State.write_ctxs (s : State) (k : Nat) (b : List Byte) : (s.write k b).ctxs = s.ctxs := rfl
@[simp] theorem State.write_cores (s : State) (k : Nat) (b : List Byte) : (s.write k b).cores = s.cores := rfl
@[simp] theorem State.write_clusters (s : State) (k : Nat) (b : List Byte) : (s.write k b).clusters = s.clusters := rfl
@[simp] theorem State.write_spaces (s : State) (k : Nat) (b : List Byte) : (s.write k b).spaces = s.spaces := rfl
@[simp] theorem State.write_exports (s : State) (k : Nat) (b : List Byte) : (s.write k b).exports = s.exports := rfl
@[simp] theorem State.write_remotes (s : State) (k : Nat) (b : List Byte) : (s.write k b).remotes = s.remotes := rfl
@[simp] theorem State.write_revocations (s : State) (k : Nat) (b : List Byte) : (s.write k b).revocations = s.revocations := rfl
@[simp] theorem State.write_txns (s : State) (k : Nat) (b : List Byte) : (s.write k b).txns = s.txns := rfl
@[simp] theorem State.write_quiet (s : State) (k : Nat) (b : List Byte) : (s.write k b).quiet = s.quiet := rfl
@[simp] theorem State.write_label (s : State) (k : Nat) (b : List Byte) : (s.write k b).label = s.label := rfl
@[simp] theorem State.write_chips (s : State) (k : Nat) (b : List Byte) : (s.write k b).chips = s.chips := rfl
@[simp] theorem State.write_hostRegions (s : State) (k : Nat) (b : List Byte) : (s.write k b).hostRegions = s.hostRegions := rfl
@[simp] theorem State.write_engines (s : State) (k : Nat) (b : List Byte) : (s.write k b).engines = s.engines := rfl
@[simp] theorem State.write_accepts (s : State) (k : Nat) (b : List Byte) : (s.write k b).accepts = s.accepts := rfl
@[simp] theorem State.write_plan (s : State) (k : Nat) (b : List Byte) : (s.write k b).plan = s.plan := rfl
@[simp] theorem State.write_gangs (s : State) (k : Nat) (b : List Byte) : (s.write k b).gangs = s.gangs := rfl
@[simp] theorem State.write_spans (s : State) (k : Nat) (b : List Byte) : (s.write k b).spans = s.spans := rfl
@[simp] theorem State.write_launches (s : State) (k : Nat) (b : List Byte) : (s.write k b).launches = s.launches := rfl
@[simp] theorem State.write_nextLaunch (s : State) (k : Nat) (b : List Byte) : (s.write k b).nextLaunch = s.nextLaunch := rfl
@[simp] theorem State.write_logs (s : State) (k : Nat) (b : List Byte) : (s.write k b).logs = s.logs := rfl
@[simp] theorem State.write_allotments (s : State) (k : Nat) (b : List Byte) : (s.write k b).allotments = s.allotments := rfl
@[simp] theorem State.write_pool (s : State) (k : Nat) (b : List Byte) : (s.write k b).pool = s.pool := rfl
@[simp] theorem State.write_nextGang (s : State) (k : Nat) (b : List Byte) : (s.write k b).nextGang = s.nextGang := rfl
@[simp] theorem State.write_placePtr (s : State) (k : Nat) (b : List Byte) : (s.write k b).placePtr = s.placePtr := rfl
@[simp] theorem State.write_placements (s : State) (k : Nat) (b : List Byte) : (s.write k b).placements = s.placements := rfl
@[simp] theorem State.write_xarrived (s : State) (k : Nat) (b : List Byte) : (s.write k b).xarrived = s.xarrived := rfl
@[simp] theorem State.write_xqueue (s : State) (k : Nat) (b : List Byte) : (s.write k b).xqueue = s.xqueue := rfl
@[simp] theorem State.write_deficits (s : State) (k : Nat) (b : List Byte) : (s.write k b).deficits = s.deficits := rfl
@[simp] theorem State.write_xvisit (s : State) (k : Nat) (b : List Byte) : (s.write k b).xvisit = s.xvisit := rfl
@[simp] theorem State.write_phase (s : State) (k : Nat) (b : List Byte) : (s.write k b).phase = s.phase := rfl
@[simp] theorem State.write_ports (s : State) (k : Nat) (b : List Byte) : (s.write k b).ports = s.ports := rfl
@[simp] theorem State.write_pkg (s : State) (k : Nat) (b : List Byte) : (s.write k b).pkg = s.pkg := rfl
@[simp] theorem State.write_queues (s : State) (k : Nat) (b : List Byte) : (s.write k b).queues = s.queues := rfl
@[simp] theorem State.write_pkgWrites (s : State) (k : Nat) (b : List Byte) : (s.write k b).pkgWrites = s.pkgWrites := rfl
@[simp] theorem State.write_tlbInvs (s : State) (k : Nat) (b : List Byte) : (s.write k b).tlbInvs = s.tlbInvs := rfl
@[simp] theorem State.write_faults (s : State) (k : Nat) (b : List Byte) : (s.write k b).faults = s.faults := rfl
@[simp] theorem State.write_memErr (s : State) (k : Nat) (b : List Byte) : (s.write k b).memErr = s.memErr := rfl
@[simp] theorem State.write_hostRefuse (s : State) (k : Nat) (b : List Byte) : (s.write k b).hostRefuse = s.hostRefuse := rfl
@[simp] theorem State.write_tableFault (s : State) (k : Nat) (b : List Byte) : (s.write k b).tableFault = s.tableFault := rfl
@[simp] theorem State.write_prgs (s : State) (k : Nat) (b : List Byte) : (s.write k b).prgs = s.prgs := rfl
@[simp] theorem State.write_fabric (s : State) (k : Nat) (b : List Byte) : (s.write k b).fabric = s.fabric := rfl
@[simp] theorem State.write_keys (s : State) (k : Nat) (b : List Byte) : (s.write k b).keys = s.keys := rfl
@[simp] theorem State.write_booted (s : State) (k : Nat) (b : List Byte) : (s.write k b).booted = s.booted := rfl
@[simp] theorem State.write_recovery (s : State) (k : Nat) (b : List Byte) : (s.write k b).recovery = s.recovery := rfl
@[simp] theorem State.write_versions (s : State) (k : Nat) (b : List Byte) : (s.write k b).versions = s.versions := rfl
@[simp] theorem State.write_powerLimited (s : State) (k : Nat) (b : List Byte) : (s.write k b).powerLimited = s.powerLimited := rfl
@[simp] theorem State.write_net (s : State) (k : Nat) (b : List Byte) : (s.write k b).net = s.net := rfl
@[simp] theorem State.write_host (s : State) (k : Nat) (b : List Byte) : (s.write k b).host = s.host := rfl

/-! ### State.homeWrite -/

@[simp] theorem State.homeWrite_agenda (s : State) (k : Nat) (b : List Byte) : (s.homeWrite k b).agenda = s.agenda := rfl
@[simp] theorem State.homeWrite_pace (s : State) (k : Nat) (b : List Byte) : (s.homeWrite k b).pace = s.pace := rfl
@[simp] theorem State.homeWrite_slices (s : State) (k : Nat) (b : List Byte) : (s.homeWrite k b).slices = s.slices := rfl
@[simp] theorem State.homeWrite_cycle (s : State) (k : Nat) (b : List Byte) : (s.homeWrite k b).cycle = s.cycle := rfl
@[simp] theorem State.homeWrite_free (s : State) (k : Nat) (b : List Byte) : (s.homeWrite k b).free = s.free := rfl
@[simp] theorem State.homeWrite_hostAbsent (s : State) (k : Nat) (b : List Byte) : (s.homeWrite k b).hostAbsent = s.hostAbsent := rfl
@[simp] theorem State.homeWrite_arrivals (s : State) (k : Nat) (b : List Byte) : (s.homeWrite k b).arrivals = s.arrivals := rfl
@[simp] theorem State.homeWrite_cur (s : State) (k : Nat) (b : List Byte) : (s.homeWrite k b).cur = s.cur := rfl
@[simp] theorem State.homeWrite_cx (s : State) (k : Nat) (b : List Byte) : (s.homeWrite k b).cx = s.cx := rfl
@[simp] theorem State.homeWrite_ctxs (s : State) (k : Nat) (b : List Byte) : (s.homeWrite k b).ctxs = s.ctxs := rfl
@[simp] theorem State.homeWrite_cores (s : State) (k : Nat) (b : List Byte) : (s.homeWrite k b).cores = s.cores := rfl
@[simp] theorem State.homeWrite_clusters (s : State) (k : Nat) (b : List Byte) : (s.homeWrite k b).clusters = s.clusters := rfl
@[simp] theorem State.homeWrite_spaces (s : State) (k : Nat) (b : List Byte) : (s.homeWrite k b).spaces = s.spaces := rfl
@[simp] theorem State.homeWrite_exports (s : State) (k : Nat) (b : List Byte) : (s.homeWrite k b).exports = s.exports := rfl
@[simp] theorem State.homeWrite_remotes (s : State) (k : Nat) (b : List Byte) : (s.homeWrite k b).remotes = s.remotes := rfl
@[simp] theorem State.homeWrite_revocations (s : State) (k : Nat) (b : List Byte) : (s.homeWrite k b).revocations = s.revocations := rfl
@[simp] theorem State.homeWrite_txns (s : State) (k : Nat) (b : List Byte) : (s.homeWrite k b).txns = s.txns := rfl
@[simp] theorem State.homeWrite_quiet (s : State) (k : Nat) (b : List Byte) : (s.homeWrite k b).quiet = s.quiet := rfl
@[simp] theorem State.homeWrite_label (s : State) (k : Nat) (b : List Byte) : (s.homeWrite k b).label = s.label := rfl
@[simp] theorem State.homeWrite_chips (s : State) (k : Nat) (b : List Byte) : (s.homeWrite k b).chips = s.chips := rfl
@[simp] theorem State.homeWrite_hostRegions (s : State) (k : Nat) (b : List Byte) : (s.homeWrite k b).hostRegions = s.hostRegions := rfl
@[simp] theorem State.homeWrite_engines (s : State) (k : Nat) (b : List Byte) : (s.homeWrite k b).engines = s.engines := rfl
@[simp] theorem State.homeWrite_accepts (s : State) (k : Nat) (b : List Byte) : (s.homeWrite k b).accepts = s.accepts := rfl
@[simp] theorem State.homeWrite_plan (s : State) (k : Nat) (b : List Byte) : (s.homeWrite k b).plan = s.plan := rfl
@[simp] theorem State.homeWrite_gangs (s : State) (k : Nat) (b : List Byte) : (s.homeWrite k b).gangs = s.gangs := rfl
@[simp] theorem State.homeWrite_spans (s : State) (k : Nat) (b : List Byte) : (s.homeWrite k b).spans = s.spans := rfl
@[simp] theorem State.homeWrite_launches (s : State) (k : Nat) (b : List Byte) : (s.homeWrite k b).launches = s.launches := rfl
@[simp] theorem State.homeWrite_nextLaunch (s : State) (k : Nat) (b : List Byte) : (s.homeWrite k b).nextLaunch = s.nextLaunch := rfl
@[simp] theorem State.homeWrite_logs (s : State) (k : Nat) (b : List Byte) : (s.homeWrite k b).logs = s.logs := rfl
@[simp] theorem State.homeWrite_allotments (s : State) (k : Nat) (b : List Byte) : (s.homeWrite k b).allotments = s.allotments := rfl
@[simp] theorem State.homeWrite_pool (s : State) (k : Nat) (b : List Byte) : (s.homeWrite k b).pool = s.pool := rfl
@[simp] theorem State.homeWrite_nextGang (s : State) (k : Nat) (b : List Byte) : (s.homeWrite k b).nextGang = s.nextGang := rfl
@[simp] theorem State.homeWrite_placePtr (s : State) (k : Nat) (b : List Byte) : (s.homeWrite k b).placePtr = s.placePtr := rfl
@[simp] theorem State.homeWrite_placements (s : State) (k : Nat) (b : List Byte) : (s.homeWrite k b).placements = s.placements := rfl
@[simp] theorem State.homeWrite_xarrived (s : State) (k : Nat) (b : List Byte) : (s.homeWrite k b).xarrived = s.xarrived := rfl
@[simp] theorem State.homeWrite_xqueue (s : State) (k : Nat) (b : List Byte) : (s.homeWrite k b).xqueue = s.xqueue := rfl
@[simp] theorem State.homeWrite_deficits (s : State) (k : Nat) (b : List Byte) : (s.homeWrite k b).deficits = s.deficits := rfl
@[simp] theorem State.homeWrite_xvisit (s : State) (k : Nat) (b : List Byte) : (s.homeWrite k b).xvisit = s.xvisit := rfl
@[simp] theorem State.homeWrite_phase (s : State) (k : Nat) (b : List Byte) : (s.homeWrite k b).phase = s.phase := rfl
@[simp] theorem State.homeWrite_ports (s : State) (k : Nat) (b : List Byte) : (s.homeWrite k b).ports = s.ports := rfl
@[simp] theorem State.homeWrite_pkg (s : State) (k : Nat) (b : List Byte) : (s.homeWrite k b).pkg = s.pkg := rfl
@[simp] theorem State.homeWrite_queues (s : State) (k : Nat) (b : List Byte) : (s.homeWrite k b).queues = s.queues := rfl
@[simp] theorem State.homeWrite_pkgWrites (s : State) (k : Nat) (b : List Byte) : (s.homeWrite k b).pkgWrites = s.pkgWrites := rfl
@[simp] theorem State.homeWrite_tlbInvs (s : State) (k : Nat) (b : List Byte) : (s.homeWrite k b).tlbInvs = s.tlbInvs := rfl
@[simp] theorem State.homeWrite_faults (s : State) (k : Nat) (b : List Byte) : (s.homeWrite k b).faults = s.faults := rfl
@[simp] theorem State.homeWrite_memErr (s : State) (k : Nat) (b : List Byte) : (s.homeWrite k b).memErr = s.memErr := rfl
@[simp] theorem State.homeWrite_hostRefuse (s : State) (k : Nat) (b : List Byte) : (s.homeWrite k b).hostRefuse = s.hostRefuse := rfl
@[simp] theorem State.homeWrite_tableFault (s : State) (k : Nat) (b : List Byte) : (s.homeWrite k b).tableFault = s.tableFault := rfl
@[simp] theorem State.homeWrite_prgs (s : State) (k : Nat) (b : List Byte) : (s.homeWrite k b).prgs = s.prgs := rfl
@[simp] theorem State.homeWrite_fabric (s : State) (k : Nat) (b : List Byte) : (s.homeWrite k b).fabric = s.fabric := rfl
@[simp] theorem State.homeWrite_keys (s : State) (k : Nat) (b : List Byte) : (s.homeWrite k b).keys = s.keys := rfl
@[simp] theorem State.homeWrite_booted (s : State) (k : Nat) (b : List Byte) : (s.homeWrite k b).booted = s.booted := rfl
@[simp] theorem State.homeWrite_recovery (s : State) (k : Nat) (b : List Byte) : (s.homeWrite k b).recovery = s.recovery := rfl
@[simp] theorem State.homeWrite_versions (s : State) (k : Nat) (b : List Byte) : (s.homeWrite k b).versions = s.versions := rfl
@[simp] theorem State.homeWrite_powerLimited (s : State) (k : Nat) (b : List Byte) : (s.homeWrite k b).powerLimited = s.powerLimited := rfl
@[simp] theorem State.homeWrite_net (s : State) (k : Nat) (b : List Byte) : (s.homeWrite k b).net = s.net := rfl
@[simp] theorem State.homeWrite_host (s : State) (k : Nat) (b : List Byte) : (s.homeWrite k b).host = s.host := rfl

/-! ### State.writeBack -/

@[simp] theorem State.writeBack_agenda (s : State) (k : Nat) : (s.writeBack k).agenda = s.agenda := rfl
@[simp] theorem State.writeBack_pace (s : State) (k : Nat) : (s.writeBack k).pace = s.pace := rfl
@[simp] theorem State.writeBack_slices (s : State) (k : Nat) : (s.writeBack k).slices = s.slices := rfl
@[simp] theorem State.writeBack_cycle (s : State) (k : Nat) : (s.writeBack k).cycle = s.cycle := rfl
@[simp] theorem State.writeBack_free (s : State) (k : Nat) : (s.writeBack k).free = s.free := rfl
@[simp] theorem State.writeBack_mem (s : State) (k : Nat) : (s.writeBack k).mem = s.mem := rfl
@[simp] theorem State.writeBack_tags (s : State) (k : Nat) : (s.writeBack k).tags = s.tags := rfl
@[simp] theorem State.writeBack_hostAbsent (s : State) (k : Nat) : (s.writeBack k).hostAbsent = s.hostAbsent := rfl
@[simp] theorem State.writeBack_arrivals (s : State) (k : Nat) : (s.writeBack k).arrivals = s.arrivals := rfl
@[simp] theorem State.writeBack_cur (s : State) (k : Nat) : (s.writeBack k).cur = s.cur := rfl
@[simp] theorem State.writeBack_cx (s : State) (k : Nat) : (s.writeBack k).cx = s.cx := rfl
@[simp] theorem State.writeBack_ctxs (s : State) (k : Nat) : (s.writeBack k).ctxs = s.ctxs := rfl
@[simp] theorem State.writeBack_cores (s : State) (k : Nat) : (s.writeBack k).cores = s.cores := rfl
@[simp] theorem State.writeBack_clusters (s : State) (k : Nat) : (s.writeBack k).clusters = s.clusters := rfl
@[simp] theorem State.writeBack_spaces (s : State) (k : Nat) : (s.writeBack k).spaces = s.spaces := rfl
@[simp] theorem State.writeBack_exports (s : State) (k : Nat) : (s.writeBack k).exports = s.exports := rfl
@[simp] theorem State.writeBack_remotes (s : State) (k : Nat) : (s.writeBack k).remotes = s.remotes := rfl
@[simp] theorem State.writeBack_revocations (s : State) (k : Nat) : (s.writeBack k).revocations = s.revocations := rfl
@[simp] theorem State.writeBack_txns (s : State) (k : Nat) : (s.writeBack k).txns = s.txns := rfl
@[simp] theorem State.writeBack_quiet (s : State) (k : Nat) : (s.writeBack k).quiet = s.quiet := rfl
@[simp] theorem State.writeBack_label (s : State) (k : Nat) : (s.writeBack k).label = s.label := rfl
@[simp] theorem State.writeBack_chips (s : State) (k : Nat) : (s.writeBack k).chips = s.chips := rfl
@[simp] theorem State.writeBack_hostRegions (s : State) (k : Nat) : (s.writeBack k).hostRegions = s.hostRegions := rfl
@[simp] theorem State.writeBack_engines (s : State) (k : Nat) : (s.writeBack k).engines = s.engines := rfl
@[simp] theorem State.writeBack_accepts (s : State) (k : Nat) : (s.writeBack k).accepts = s.accepts := rfl
@[simp] theorem State.writeBack_plan (s : State) (k : Nat) : (s.writeBack k).plan = s.plan := rfl
@[simp] theorem State.writeBack_gangs (s : State) (k : Nat) : (s.writeBack k).gangs = s.gangs := rfl
@[simp] theorem State.writeBack_spans (s : State) (k : Nat) : (s.writeBack k).spans = s.spans := rfl
@[simp] theorem State.writeBack_launches (s : State) (k : Nat) : (s.writeBack k).launches = s.launches := rfl
@[simp] theorem State.writeBack_nextLaunch (s : State) (k : Nat) : (s.writeBack k).nextLaunch = s.nextLaunch := rfl
@[simp] theorem State.writeBack_logs (s : State) (k : Nat) : (s.writeBack k).logs = s.logs := rfl
@[simp] theorem State.writeBack_allotments (s : State) (k : Nat) : (s.writeBack k).allotments = s.allotments := rfl
@[simp] theorem State.writeBack_pool (s : State) (k : Nat) : (s.writeBack k).pool = s.pool := rfl
@[simp] theorem State.writeBack_nextGang (s : State) (k : Nat) : (s.writeBack k).nextGang = s.nextGang := rfl
@[simp] theorem State.writeBack_placePtr (s : State) (k : Nat) : (s.writeBack k).placePtr = s.placePtr := rfl
@[simp] theorem State.writeBack_placements (s : State) (k : Nat) : (s.writeBack k).placements = s.placements := rfl
@[simp] theorem State.writeBack_xarrived (s : State) (k : Nat) : (s.writeBack k).xarrived = s.xarrived := rfl
@[simp] theorem State.writeBack_xqueue (s : State) (k : Nat) : (s.writeBack k).xqueue = s.xqueue := rfl
@[simp] theorem State.writeBack_deficits (s : State) (k : Nat) : (s.writeBack k).deficits = s.deficits := rfl
@[simp] theorem State.writeBack_xvisit (s : State) (k : Nat) : (s.writeBack k).xvisit = s.xvisit := rfl
@[simp] theorem State.writeBack_phase (s : State) (k : Nat) : (s.writeBack k).phase = s.phase := rfl
@[simp] theorem State.writeBack_ports (s : State) (k : Nat) : (s.writeBack k).ports = s.ports := rfl
@[simp] theorem State.writeBack_pkg (s : State) (k : Nat) : (s.writeBack k).pkg = s.pkg := rfl
@[simp] theorem State.writeBack_queues (s : State) (k : Nat) : (s.writeBack k).queues = s.queues := rfl
@[simp] theorem State.writeBack_pkgWrites (s : State) (k : Nat) : (s.writeBack k).pkgWrites = s.pkgWrites := rfl
@[simp] theorem State.writeBack_tlbInvs (s : State) (k : Nat) : (s.writeBack k).tlbInvs = s.tlbInvs := rfl
@[simp] theorem State.writeBack_faults (s : State) (k : Nat) : (s.writeBack k).faults = s.faults := rfl
@[simp] theorem State.writeBack_memErr (s : State) (k : Nat) : (s.writeBack k).memErr = s.memErr := rfl
@[simp] theorem State.writeBack_hostRefuse (s : State) (k : Nat) : (s.writeBack k).hostRefuse = s.hostRefuse := rfl
@[simp] theorem State.writeBack_tableFault (s : State) (k : Nat) : (s.writeBack k).tableFault = s.tableFault := rfl
@[simp] theorem State.writeBack_prgs (s : State) (k : Nat) : (s.writeBack k).prgs = s.prgs := rfl
@[simp] theorem State.writeBack_fabric (s : State) (k : Nat) : (s.writeBack k).fabric = s.fabric := rfl
@[simp] theorem State.writeBack_keys (s : State) (k : Nat) : (s.writeBack k).keys = s.keys := rfl
@[simp] theorem State.writeBack_booted (s : State) (k : Nat) : (s.writeBack k).booted = s.booted := rfl
@[simp] theorem State.writeBack_recovery (s : State) (k : Nat) : (s.writeBack k).recovery = s.recovery := rfl
@[simp] theorem State.writeBack_versions (s : State) (k : Nat) : (s.writeBack k).versions = s.versions := rfl
@[simp] theorem State.writeBack_powerLimited (s : State) (k : Nat) : (s.writeBack k).powerLimited = s.powerLimited := rfl
@[simp] theorem State.writeBack_net (s : State) (k : Nat) : (s.writeBack k).net = s.net := rfl
@[simp] theorem State.writeBack_host (s : State) (k : Nat) : (s.writeBack k).host = s.host := rfl

/-! ### What the changed fields become -/

@[simp] theorem State.updCx_cx (s : State) (f : Ctx → Ctx) : (s.updCx f).cx = f s.cx := rfl
@[simp] theorem State.setReg_cx (s : State) (r : Reg) (v : RegVal) : (s.setReg r v).cx = s.cx.setReg r v := rfl
@[simp] theorem State.setBits_cx (s : State) (r : Reg) (v : W256) : (s.setBits r v).cx = s.cx.setReg r ⟨v, false⟩ := rfl
@[simp] theorem State.setX_cx (s : State) (r : Reg) (v : Word) :
    (s.setX r v).cx = s.cx.setReg r ⟨v.setWidth 256, false⟩ := rfl
@[simp] theorem State.setPc_cx (s : State) (w : Word) : (s.setPc w).cx = s.cx.setPc w := rfl
@[simp] theorem State.advance_cx (s : State) : s.advance.cx = s.cx.setPc (s.here + 4) := rfl
@[simp] theorem State.openWindow_pend (s : State) (p : Pending) : (s.openWindow p).cx.pend = s.cx.pend ++ [p] := rfl
@[simp] theorem State.send_net (s : State) (m : NetMsg) : (s.send m).net = s.net ++ [m] := rfl
@[simp] theorem State.tell_host (s : State) (m : HostMsg) : (s.tell m).host = s.host ++ [m] := rfl
@[simp] theorem State.write_mem (s : State) (k : Nat) (b : List Byte) : (s.write k b).mem = Memory.write s.mem k b := rfl
@[simp] theorem State.write_tags (s : State) (k : Nat) (b : List Byte) :
    (s.write k b).tags = clearTags k b.length s.tags := rfl
@[simp] theorem State.homeWrite_mem (s : State) (k : Nat) (b : List Byte) :
    (s.homeWrite k b).mem = Memory.write s.mem k b := rfl
@[simp] theorem State.homeWrite_tags (s : State) (k : Nat) (b : List Byte) :
    (s.homeWrite k b).tags = clearTags k b.length s.tags := rfl

/-! ### Ctx.setPc and Ctx.setReg -/

@[simp] theorem Ctx.setPc_id (c : Ctx) (w : Word) : (c.setPc w).id = c.id := rfl
@[simp] theorem Ctx.setPc_asid (c : Ctx) (w : Word) : (c.setPc w).asid = c.asid := rfl
@[simp] theorem Ctx.setPc_cdva (c : Ctx) (w : Word) : (c.setPc w).cdva = c.cdva := rfl
@[simp] theorem Ctx.setPc_ctxHandle (c : Ctx) (w : Word) : (c.setPc w).ctxHandle = c.ctxHandle := rfl
@[simp] theorem Ctx.setPc_ctxGen (c : Ctx) (w : Word) : (c.setPc w).ctxGen = c.ctxGen := rfl
@[simp] theorem Ctx.setPc_root (c : Ctx) (w : Word) : (c.setPc w).root = c.root := rfl
@[simp] theorem Ctx.setPc_launch (c : Ctx) (w : Word) : (c.setPc w).launch = c.launch := rfl
@[simp] theorem Ctx.setPc_fn (c : Ctx) (w : Word) : (c.setPc w).fn = c.fn := rfl
@[simp] theorem Ctx.setPc_tileX (c : Ctx) (w : Word) : (c.setPc w).tileX = c.tileX := rfl
@[simp] theorem Ctx.setPc_tileY (c : Ctx) (w : Word) : (c.setPc w).tileY = c.tileY := rfl
@[simp] theorem Ctx.setPc_tileZ (c : Ctx) (w : Word) : (c.setPc w).tileZ = c.tileZ := rfl
@[simp] theorem Ctx.setPc_gang (c : Ctx) (w : Word) : (c.setPc w).gang = c.gang := rfl
@[simp] theorem Ctx.setPc_member (c : Ctx) (w : Word) : (c.setPc w).member = c.member := rfl
@[simp] theorem Ctx.setPc_count (c : Ctx) (w : Word) : (c.setPc w).count = c.count := rfl
@[simp] theorem Ctx.setPc_span (c : Ctx) (w : Word) : (c.setPc w).span = c.span := rfl
@[simp] theorem Ctx.setPc_gangIdx (c : Ctx) (w : Word) : (c.setPc w).gangIdx = c.gangIdx := rfl
@[simp] theorem Ctx.setPc_gangs (c : Ctx) (w : Word) : (c.setPc w).gangs = c.gangs := rfl
@[simp] theorem Ctx.setPc_res (c : Ctx) (w : Word) : (c.setPc w).res = c.res := rfl
@[simp] theorem Ctx.setPc_run (c : Ctx) (w : Word) : (c.setPc w).run = c.run := rfl
@[simp] theorem Ctx.setPc_savePending (c : Ctx) (w : Word) : (c.setPc w).savePending = c.savePending := rfl
@[simp] theorem Ctx.setPc_incomplete (c : Ctx) (w : Word) : (c.setPc w).incomplete = c.incomplete := rfl
@[simp] theorem Ctx.setPc_protected_ (c : Ctx) (w : Word) : (c.setPc w).protected_ = c.protected_ := rfl
@[simp] theorem Ctx.setPc_woken (c : Ctx) (w : Word) : (c.setPc w).woken = c.woken := rfl
@[simp] theorem Ctx.setPc_pcTag (c : Ctx) (w : Word) : (c.setPc w).pcTag = c.pcTag := rfl
@[simp] theorem Ctx.setPc_qvalid (c : Ctx) (w : Word) : (c.setPc w).qvalid = c.qvalid := rfl
@[simp] theorem Ctx.setPc_prio (c : Ctx) (w : Word) : (c.setPc w).prio = c.prio := rfl
@[simp] theorem Ctx.setPc_saveCnt (c : Ctx) (w : Word) : (c.setPc w).saveCnt = c.saveCnt := rfl
@[simp] theorem Ctx.setPc_keySlot (c : Ctx) (w : Word) : (c.setPc w).keySlot = c.keySlot := rfl
@[simp] theorem Ctx.setPc_exit (c : Ctx) (w : Word) : (c.setPc w).exit = c.exit := rfl
@[simp] theorem Ctx.setPc_sigPend (c : Ctx) (w : Word) : (c.setPc w).sigPend = c.sigPend := rfl
@[simp] theorem Ctx.setPc_regs (c : Ctx) (w : Word) : (c.setPc w).regs = c.regs := rfl
@[simp] theorem Ctx.setPc_qcached (c : Ctx) (w : Word) : (c.setPc w).qcached = c.qcached := rfl
@[simp] theorem Ctx.setPc_qdirty (c : Ctx) (w : Word) : (c.setPc w).qdirty = c.qdirty := rfl
@[simp] theorem Ctx.setPc_qpinned (c : Ctx) (w : Word) : (c.setPc w).qpinned = c.qpinned := rfl
@[simp] theorem Ctx.setPc_nec (c : Ctx) (w : Word) : (c.setPc w).nec = c.nec := rfl
@[simp] theorem Ctx.setPc_necFlags (c : Ctx) (w : Word) : (c.setPc w).necFlags = c.necFlags := rfl
@[simp] theorem Ctx.setPc_nameStat (c : Ctx) (w : Word) : (c.setPc w).nameStat = c.nameStat := rfl
@[simp] theorem Ctx.setPc_fpctl (c : Ctx) (w : Word) : (c.setPc w).fpctl = c.fpctl := rfl
@[simp] theorem Ctx.setPc_stkOvf (c : Ctx) (w : Word) : (c.setPc w).stkOvf = c.stkOvf := rfl
@[simp] theorem Ctx.setPc_copy (c : Ctx) (w : Word) : (c.setPc w).copy = c.copy := rfl
@[simp] theorem Ctx.setPc_trap (c : Ctx) (w : Word) : (c.setPc w).trap = c.trap := rfl
@[simp] theorem Ctx.setPc_priv (c : Ctx) (w : Word) : (c.setPc w).priv = c.priv := rfl
@[simp] theorem Ctx.setPc_ie (c : Ctx) (w : Word) : (c.setPc w).ie = c.ie := rfl
@[simp] theorem Ctx.setPc_handler (c : Ctx) (w : Word) : (c.setPc w).handler = c.handler := rfl
@[simp] theorem Ctx.setPc_save (c : Ctx) (w : Word) : (c.setPc w).save = c.save := rfl
@[simp] theorem Ctx.setPc_core (c : Ctx) (w : Word) : (c.setPc w).core = c.core := rfl
@[simp] theorem Ctx.setPc_slot (c : Ctx) (w : Word) : (c.setPc w).slot = c.slot := rfl
@[simp] theorem Ctx.setPc_stackCore (c : Ctx) (w : Word) : (c.setPc w).stackCore = c.stackCore := rfl
@[simp] theorem Ctx.setPc_stackBase (c : Ctx) (w : Word) : (c.setPc w).stackBase = c.stackBase := rfl
@[simp] theorem Ctx.setPc_stackSize (c : Ctx) (w : Word) : (c.setPc w).stackSize = c.stackSize := rfl
@[simp] theorem Ctx.setPc_stackHeld (c : Ctx) (w : Word) : (c.setPc w).stackHeld = c.stackHeld := rfl
@[simp] theorem Ctx.setPc_storeQ (c : Ctx) (w : Word) : (c.setPc w).storeQ = c.storeQ := rfl
@[simp] theorem Ctx.setPc_stash (c : Ctx) (w : Word) : (c.setPc w).stash = c.stash := rfl
@[simp] theorem Ctx.setPc_pend (c : Ctx) (w : Word) : (c.setPc w).pend = c.pend := rfl
@[simp] theorem Ctx.setPc_late (c : Ctx) (w : Word) : (c.setPc w).late = c.late := rfl
@[simp] theorem Ctx.setPc_wait (c : Ctx) (w : Word) : (c.setPc w).wait = c.wait := rfl
@[simp] theorem Ctx.setPc_unit (c : Ctx) (w : Word) : (c.setPc w).unit = c.unit := rfl
@[simp] theorem Ctx.setPc_preempt (c : Ctx) (w : Word) : (c.setPc w).preempt = c.preempt := rfl
@[simp] theorem Ctx.setPc_preemptCyc (c : Ctx) (w : Word) : (c.setPc w).preemptCyc = c.preemptCyc := rfl
@[simp] theorem Ctx.setPc_fullSave (c : Ctx) (w : Word) : (c.setPc w).fullSave = c.fullSave := rfl
@[simp] theorem Ctx.setPc_bindCyc (c : Ctx) (w : Word) : (c.setPc w).bindCyc = c.bindCyc := rfl
@[simp] theorem Ctx.setPc_quantum (c : Ctx) (w : Word) : (c.setPc w).quantum = c.quantum := rfl
@[simp] theorem Ctx.setPc_retireCyc (c : Ctx) (w : Word) : (c.setPc w).retireCyc = c.retireCyc := rfl
@[simp] theorem Ctx.setPc_alone (c : Ctx) (w : Word) : (c.setPc w).alone = c.alone := rfl
@[simp] theorem Ctx.setPc_freezeReq (c : Ctx) (w : Word) : (c.setPc w).freezeReq = c.freezeReq := rfl
@[simp] theorem Ctx.setPc_killReq (c : Ctx) (w : Word) : (c.setPc w).killReq = c.killReq := rfl
@[simp] theorem Ctx.setPc_imgRegion (c : Ctx) (w : Word) : (c.setPc w).imgRegion = c.imgRegion := rfl
@[simp] theorem Ctx.setPc_xstat (c : Ctx) (w : Word) : (c.setPc w).xstat = c.xstat := rfl
@[simp] theorem Ctx.setPc_peerNodes (c : Ctx) (w : Word) : (c.setPc w).peerNodes = c.peerNodes := rfl
@[simp] theorem Ctx.setPc_wokenFar (c : Ctx) (w : Word) : (c.setPc w).wokenFar = c.wokenFar := rfl
@[simp] theorem Ctx.setReg_id (c : Ctx) (r : Reg) (v : RegVal) : (c.setReg r v).id = c.id := by
  unfold Ctx.setReg; split <;> rfl
@[simp] theorem Ctx.setReg_asid (c : Ctx) (r : Reg) (v : RegVal) : (c.setReg r v).asid = c.asid := by
  unfold Ctx.setReg; split <;> rfl
@[simp] theorem Ctx.setReg_cdva (c : Ctx) (r : Reg) (v : RegVal) : (c.setReg r v).cdva = c.cdva := by
  unfold Ctx.setReg; split <;> rfl
@[simp] theorem Ctx.setReg_ctxHandle (c : Ctx) (r : Reg) (v : RegVal) : (c.setReg r v).ctxHandle = c.ctxHandle := by
  unfold Ctx.setReg; split <;> rfl
@[simp] theorem Ctx.setReg_ctxGen (c : Ctx) (r : Reg) (v : RegVal) : (c.setReg r v).ctxGen = c.ctxGen := by
  unfold Ctx.setReg; split <;> rfl
@[simp] theorem Ctx.setReg_root (c : Ctx) (r : Reg) (v : RegVal) : (c.setReg r v).root = c.root := by
  unfold Ctx.setReg; split <;> rfl
@[simp] theorem Ctx.setReg_launch (c : Ctx) (r : Reg) (v : RegVal) : (c.setReg r v).launch = c.launch := by
  unfold Ctx.setReg; split <;> rfl
@[simp] theorem Ctx.setReg_fn (c : Ctx) (r : Reg) (v : RegVal) : (c.setReg r v).fn = c.fn := by
  unfold Ctx.setReg; split <;> rfl
@[simp] theorem Ctx.setReg_tileX (c : Ctx) (r : Reg) (v : RegVal) : (c.setReg r v).tileX = c.tileX := by
  unfold Ctx.setReg; split <;> rfl
@[simp] theorem Ctx.setReg_tileY (c : Ctx) (r : Reg) (v : RegVal) : (c.setReg r v).tileY = c.tileY := by
  unfold Ctx.setReg; split <;> rfl
@[simp] theorem Ctx.setReg_tileZ (c : Ctx) (r : Reg) (v : RegVal) : (c.setReg r v).tileZ = c.tileZ := by
  unfold Ctx.setReg; split <;> rfl
@[simp] theorem Ctx.setReg_gang (c : Ctx) (r : Reg) (v : RegVal) : (c.setReg r v).gang = c.gang := by
  unfold Ctx.setReg; split <;> rfl
@[simp] theorem Ctx.setReg_member (c : Ctx) (r : Reg) (v : RegVal) : (c.setReg r v).member = c.member := by
  unfold Ctx.setReg; split <;> rfl
@[simp] theorem Ctx.setReg_count (c : Ctx) (r : Reg) (v : RegVal) : (c.setReg r v).count = c.count := by
  unfold Ctx.setReg; split <;> rfl
@[simp] theorem Ctx.setReg_span (c : Ctx) (r : Reg) (v : RegVal) : (c.setReg r v).span = c.span := by
  unfold Ctx.setReg; split <;> rfl
@[simp] theorem Ctx.setReg_gangIdx (c : Ctx) (r : Reg) (v : RegVal) : (c.setReg r v).gangIdx = c.gangIdx := by
  unfold Ctx.setReg; split <;> rfl
@[simp] theorem Ctx.setReg_gangs (c : Ctx) (r : Reg) (v : RegVal) : (c.setReg r v).gangs = c.gangs := by
  unfold Ctx.setReg; split <;> rfl
@[simp] theorem Ctx.setReg_res (c : Ctx) (r : Reg) (v : RegVal) : (c.setReg r v).res = c.res := by
  unfold Ctx.setReg; split <;> rfl
@[simp] theorem Ctx.setReg_run (c : Ctx) (r : Reg) (v : RegVal) : (c.setReg r v).run = c.run := by
  unfold Ctx.setReg; split <;> rfl
@[simp] theorem Ctx.setReg_savePending (c : Ctx) (r : Reg) (v : RegVal) : (c.setReg r v).savePending = c.savePending := by
  unfold Ctx.setReg; split <;> rfl
@[simp] theorem Ctx.setReg_incomplete (c : Ctx) (r : Reg) (v : RegVal) : (c.setReg r v).incomplete = c.incomplete := by
  unfold Ctx.setReg; split <;> rfl
@[simp] theorem Ctx.setReg_protected_ (c : Ctx) (r : Reg) (v : RegVal) : (c.setReg r v).protected_ = c.protected_ := by
  unfold Ctx.setReg; split <;> rfl
@[simp] theorem Ctx.setReg_woken (c : Ctx) (r : Reg) (v : RegVal) : (c.setReg r v).woken = c.woken := by
  unfold Ctx.setReg; split <;> rfl
@[simp] theorem Ctx.setReg_pcTag (c : Ctx) (r : Reg) (v : RegVal) : (c.setReg r v).pcTag = c.pcTag := by
  unfold Ctx.setReg; split <;> rfl
@[simp] theorem Ctx.setReg_pcCap (c : Ctx) (r : Reg) (v : RegVal) : (c.setReg r v).pcCap = c.pcCap := by
  unfold Ctx.setReg; split <;> rfl
@[simp] theorem Ctx.setReg_qvalid (c : Ctx) (r : Reg) (v : RegVal) : (c.setReg r v).qvalid = c.qvalid := by
  unfold Ctx.setReg; split <;> rfl
@[simp] theorem Ctx.setReg_prio (c : Ctx) (r : Reg) (v : RegVal) : (c.setReg r v).prio = c.prio := by
  unfold Ctx.setReg; split <;> rfl
@[simp] theorem Ctx.setReg_saveCnt (c : Ctx) (r : Reg) (v : RegVal) : (c.setReg r v).saveCnt = c.saveCnt := by
  unfold Ctx.setReg; split <;> rfl
@[simp] theorem Ctx.setReg_keySlot (c : Ctx) (r : Reg) (v : RegVal) : (c.setReg r v).keySlot = c.keySlot := by
  unfold Ctx.setReg; split <;> rfl
@[simp] theorem Ctx.setReg_exit (c : Ctx) (r : Reg) (v : RegVal) : (c.setReg r v).exit = c.exit := by
  unfold Ctx.setReg; split <;> rfl
@[simp] theorem Ctx.setReg_sigPend (c : Ctx) (r : Reg) (v : RegVal) : (c.setReg r v).sigPend = c.sigPend := by
  unfold Ctx.setReg; split <;> rfl
@[simp] theorem Ctx.setReg_qcached (c : Ctx) (r : Reg) (v : RegVal) : (c.setReg r v).qcached = c.qcached := by
  unfold Ctx.setReg; split <;> rfl
@[simp] theorem Ctx.setReg_qpinned (c : Ctx) (r : Reg) (v : RegVal) : (c.setReg r v).qpinned = c.qpinned := by
  unfold Ctx.setReg; split <;> rfl
@[simp] theorem Ctx.setReg_nec (c : Ctx) (r : Reg) (v : RegVal) : (c.setReg r v).nec = c.nec := by
  unfold Ctx.setReg; split <;> rfl
@[simp] theorem Ctx.setReg_necFlags (c : Ctx) (r : Reg) (v : RegVal) : (c.setReg r v).necFlags = c.necFlags := by
  unfold Ctx.setReg; split <;> rfl
@[simp] theorem Ctx.setReg_nameStat (c : Ctx) (r : Reg) (v : RegVal) : (c.setReg r v).nameStat = c.nameStat := by
  unfold Ctx.setReg; split <;> rfl
@[simp] theorem Ctx.setReg_fpctl (c : Ctx) (r : Reg) (v : RegVal) : (c.setReg r v).fpctl = c.fpctl := by
  unfold Ctx.setReg; split <;> rfl
@[simp] theorem Ctx.setReg_stkOvf (c : Ctx) (r : Reg) (v : RegVal) : (c.setReg r v).stkOvf = c.stkOvf := by
  unfold Ctx.setReg; split <;> rfl
@[simp] theorem Ctx.setReg_copy (c : Ctx) (r : Reg) (v : RegVal) : (c.setReg r v).copy = c.copy := by
  unfold Ctx.setReg; split <;> rfl
@[simp] theorem Ctx.setReg_trap (c : Ctx) (r : Reg) (v : RegVal) : (c.setReg r v).trap = c.trap := by
  unfold Ctx.setReg; split <;> rfl
@[simp] theorem Ctx.setReg_priv (c : Ctx) (r : Reg) (v : RegVal) : (c.setReg r v).priv = c.priv := by
  unfold Ctx.setReg; split <;> rfl
@[simp] theorem Ctx.setReg_ie (c : Ctx) (r : Reg) (v : RegVal) : (c.setReg r v).ie = c.ie := by
  unfold Ctx.setReg; split <;> rfl
@[simp] theorem Ctx.setReg_handler (c : Ctx) (r : Reg) (v : RegVal) : (c.setReg r v).handler = c.handler := by
  unfold Ctx.setReg; split <;> rfl
@[simp] theorem Ctx.setReg_save (c : Ctx) (r : Reg) (v : RegVal) : (c.setReg r v).save = c.save := by
  unfold Ctx.setReg; split <;> rfl
@[simp] theorem Ctx.setReg_core (c : Ctx) (r : Reg) (v : RegVal) : (c.setReg r v).core = c.core := by
  unfold Ctx.setReg; split <;> rfl
@[simp] theorem Ctx.setReg_slot (c : Ctx) (r : Reg) (v : RegVal) : (c.setReg r v).slot = c.slot := by
  unfold Ctx.setReg; split <;> rfl
@[simp] theorem Ctx.setReg_stackCore (c : Ctx) (r : Reg) (v : RegVal) : (c.setReg r v).stackCore = c.stackCore := by
  unfold Ctx.setReg; split <;> rfl
@[simp] theorem Ctx.setReg_stackBase (c : Ctx) (r : Reg) (v : RegVal) : (c.setReg r v).stackBase = c.stackBase := by
  unfold Ctx.setReg; split <;> rfl
@[simp] theorem Ctx.setReg_stackSize (c : Ctx) (r : Reg) (v : RegVal) : (c.setReg r v).stackSize = c.stackSize := by
  unfold Ctx.setReg; split <;> rfl
@[simp] theorem Ctx.setReg_stackHeld (c : Ctx) (r : Reg) (v : RegVal) : (c.setReg r v).stackHeld = c.stackHeld := by
  unfold Ctx.setReg; split <;> rfl
@[simp] theorem Ctx.setReg_storeQ (c : Ctx) (r : Reg) (v : RegVal) : (c.setReg r v).storeQ = c.storeQ := by
  unfold Ctx.setReg; split <;> rfl
@[simp] theorem Ctx.setReg_stash (c : Ctx) (r : Reg) (v : RegVal) : (c.setReg r v).stash = c.stash := by
  unfold Ctx.setReg; split <;> rfl
@[simp] theorem Ctx.setReg_pend (c : Ctx) (r : Reg) (v : RegVal) : (c.setReg r v).pend = c.pend := by
  unfold Ctx.setReg; split <;> rfl
@[simp] theorem Ctx.setReg_late (c : Ctx) (r : Reg) (v : RegVal) : (c.setReg r v).late = c.late := by
  unfold Ctx.setReg; split <;> rfl
@[simp] theorem Ctx.setReg_wait (c : Ctx) (r : Reg) (v : RegVal) : (c.setReg r v).wait = c.wait := by
  unfold Ctx.setReg; split <;> rfl
@[simp] theorem Ctx.setReg_unit (c : Ctx) (r : Reg) (v : RegVal) : (c.setReg r v).unit = c.unit := by
  unfold Ctx.setReg; split <;> rfl
@[simp] theorem Ctx.setReg_preempt (c : Ctx) (r : Reg) (v : RegVal) : (c.setReg r v).preempt = c.preempt := by
  unfold Ctx.setReg; split <;> rfl
@[simp] theorem Ctx.setReg_preemptCyc (c : Ctx) (r : Reg) (v : RegVal) : (c.setReg r v).preemptCyc = c.preemptCyc := by
  unfold Ctx.setReg; split <;> rfl
@[simp] theorem Ctx.setReg_fullSave (c : Ctx) (r : Reg) (v : RegVal) : (c.setReg r v).fullSave = c.fullSave := by
  unfold Ctx.setReg; split <;> rfl
@[simp] theorem Ctx.setReg_bindCyc (c : Ctx) (r : Reg) (v : RegVal) : (c.setReg r v).bindCyc = c.bindCyc := by
  unfold Ctx.setReg; split <;> rfl
@[simp] theorem Ctx.setReg_quantum (c : Ctx) (r : Reg) (v : RegVal) : (c.setReg r v).quantum = c.quantum := by
  unfold Ctx.setReg; split <;> rfl
@[simp] theorem Ctx.setReg_retireCyc (c : Ctx) (r : Reg) (v : RegVal) : (c.setReg r v).retireCyc = c.retireCyc := by
  unfold Ctx.setReg; split <;> rfl
@[simp] theorem Ctx.setReg_alone (c : Ctx) (r : Reg) (v : RegVal) : (c.setReg r v).alone = c.alone := by
  unfold Ctx.setReg; split <;> rfl
@[simp] theorem Ctx.setReg_freezeReq (c : Ctx) (r : Reg) (v : RegVal) : (c.setReg r v).freezeReq = c.freezeReq := by
  unfold Ctx.setReg; split <;> rfl
@[simp] theorem Ctx.setReg_killReq (c : Ctx) (r : Reg) (v : RegVal) : (c.setReg r v).killReq = c.killReq := by
  unfold Ctx.setReg; split <;> rfl
@[simp] theorem Ctx.setReg_imgRegion (c : Ctx) (r : Reg) (v : RegVal) : (c.setReg r v).imgRegion = c.imgRegion := by
  unfold Ctx.setReg; split <;> rfl
@[simp] theorem Ctx.setReg_xstat (c : Ctx) (r : Reg) (v : RegVal) : (c.setReg r v).xstat = c.xstat := by
  unfold Ctx.setReg; split <;> rfl
@[simp] theorem Ctx.setReg_peerNodes (c : Ctx) (r : Reg) (v : RegVal) : (c.setReg r v).peerNodes = c.peerNodes := by
  unfold Ctx.setReg; split <;> rfl
@[simp] theorem Ctx.setReg_wokenFar (c : Ctx) (r : Reg) (v : RegVal) : (c.setReg r v).wokenFar = c.wokenFar := by
  unfold Ctx.setReg; split <;> rfl

end Sys2Proof.Machine
end

