-- ==== Sys2Proof/Laws/Memory.lean ====
section
/-!
SUPPORT. Sys2Proof/Laws/Memory.lean: what a write does to memory: a byte read after it, the canonical form, the tags; and
that the writes of the model keep `State.MemoryOk`.
-/
namespace Sys2Proof.Machine
set_option Elab.async false

/-! ### Reading after writing -/

theorem lookup_filter_pos (m : Memory) (p : Nat × Byte → Bool) (x : Nat) (h : ∀ b, p (x, b) = true) :
    (m.filter p).lookup x = m.lookup x := by
  induction m with
  | nil => rfl
  | cons c m ih =>
    obtain ⟨a, b⟩ := c
    by_cases e : x = a
    · subst e; simp [h]
    · have e' : (x == a) = false := by simpa using e
      by_cases q : p (a, b) = true
      · simp [q, List.lookup_cons, e', ih]
      · simp [q, List.lookup_cons, e', ih]

theorem lookup_filter_neg (m : Memory) (p : Nat × Byte → Bool) (x : Nat) (h : ∀ b, p (x, b) = false) :
    (m.filter p).lookup x = none := by
  induction m with
  | nil => rfl
  | cons c m ih =>
    obtain ⟨a, b⟩ := c
    by_cases q : p (a, b) = true
    · have e : (x == a) = false := by
        by_contra e
        have e : x = a := by simpa using e
        subst e; simp [h] at q
      simp [q, List.lookup_cons, e, ih]
    · simp [q, ih]

theorem lookup_cellsAt (bs : List Byte) : ∀ (a x : Nat),
    ((cellsAt a bs).lookup x).getD 0 = if a ≤ x then bs.getD (x - a) 0 else 0 := by
  induction bs with
  | nil => intro a x; simp [cellsAt]
  | cons b bs ih =>
    intro a x
    by_cases hx : x = a
    · subst hx
      by_cases hb : b = 0
      · subst hb
        have := ih (x + 1) x
        simp [cellsAt] at this ⊢
        simpa using this
      · have hb' : ¬ b = 0#8 := hb
        simp [cellsAt, hb']
    · have e : (x == a) = false := by simpa using hx
      have := ih (a + 1) x
      have step : ((cellsAt a (b :: bs)).lookup x).getD 0 = ((cellsAt (a + 1) bs).lookup x).getD 0 := by
        rw [cellsAt]
        split
        · rfl
        · simp [List.lookup_cons, e]
      rw [step, this]
      by_cases h : a + 1 ≤ x
      · have h' : a ≤ x := by omega
        obtain ⟨k, rfl⟩ := Nat.exists_eq_add_of_le h
        have e1 : a + 1 + k - (a + 1) = k := by omega
        have e2 : a + 1 + k - a = k + 1 := by omega
        simp [h', e1, e2]
      · have h' : ¬ a ≤ x := by omega
        simp [h, h']

theorem cellsAt_lookup_none (bs : List Byte) : ∀ (a x : Nat), x < a ∨ a + bs.length ≤ x →
    (cellsAt a bs).lookup x = none := by
  induction bs with
  | nil => intro a x _; rfl
  | cons b bs ih =>
    intro a x h
    have h2 : x < a + 1 ∨ a + 1 + bs.length ≤ x := by
      simp at h; omega
    have e : (x == a) = false := by
      simp at h ⊢; omega
    unfold cellsAt
    split
    · exact ih _ _ h2
    · simp [List.lookup_cons, e, ih _ _ h2]

/-- A byte that a write covers holds what was written. -/
theorem Memory.byte_write_in (m : Memory) (a x : Nat) (bs : List Byte) (h1 : a ≤ x) (h2 : x < a + bs.length) :
    Memory.byte (Memory.write m a bs) x = bs.getD (x - a) 0 := by
  unfold Memory.byte Memory.write
  rw [List.lookup_append, List.lookup_append]
  rw [lookup_filter_neg m (fun c => c.1 < a) x (by intro b; simp; omega)]
  rw [lookup_filter_neg m (fun c => a + bs.length ≤ c.1) x (by intro b; simp; omega)]
  have := lookup_cellsAt bs a x
  simp [h1] at this
  simpa using this

/-- A byte that a write does not cover is as before. -/
theorem Memory.byte_write_out (m : Memory) (a x : Nat) (bs : List Byte) (h : x < a ∨ a + bs.length ≤ x) :
    Memory.byte (Memory.write m a bs) x = Memory.byte m x := by
  unfold Memory.byte Memory.write
  rw [List.lookup_append, List.lookup_append, cellsAt_lookup_none bs a x h]
  rcases h with h | h
  · rw [lookup_filter_pos m (fun c => c.1 < a) x (by intro b; simpa using h)]
    rw [lookup_filter_neg m (fun c => a + bs.length ≤ c.1) x (by intro b; simp; omega)]
    simp
  · rw [lookup_filter_neg m (fun c => c.1 < a) x (by intro b; simp; omega)]
    rw [lookup_filter_pos m (fun c => a + bs.length ≤ c.1) x (by intro b; simpa using h)]
    simp

@[simp] theorem Memory.bytes_length (m : Memory) (a n : Nat) : (Memory.bytes m a n).length = n := by
  simp [Memory.bytes]

/-- What was written is read back. -/
theorem Memory.bytes_write_same (m : Memory) (a : Nat) (bs : List Byte) :
    Memory.bytes (Memory.write m a bs) a bs.length = bs := by
  apply List.ext_getElem
  · simp
  · intro i h1 h2
    simp only [Memory.bytes, List.getElem_map, List.getElem_range]
    rw [Memory.byte_write_in m a (a + i) bs (by omega) (by omega)]
    simp [h2]

/-- Bytes that a write does not touch are read as before. -/
theorem Memory.bytes_write_apart (m : Memory) (a k n : Nat) (bs : List Byte) (h : k + n ≤ a ∨ a + bs.length ≤ k) :
    Memory.bytes (Memory.write m a bs) k n = Memory.bytes m k n := by
  apply List.map_congr_left
  intro i hi
  have hi : i < n := by simpa using hi
  exact Memory.byte_write_out m a (k + i) bs (by omega)

/-! ### The canonical form -/

theorem wfFrom_iff (m : Memory) : ∀ lo, wfFrom lo m = true ↔
    (m.Pairwise fun c d => c.1 < d.1) ∧ ∀ c ∈ m, lo ≤ c.1 ∧ c.2 ≠ 0 := by
  induction m with
  | nil => intro lo; simp [wfFrom]
  | cons c m ih =>
    intro lo
    obtain ⟨a, b⟩ := c
    simp only [wfFrom, Bool.and_eq_true, decide_eq_true_eq, bne_iff_ne, ih, List.pairwise_cons, List.mem_cons,
      forall_eq_or_imp]
    constructor
    · rintro ⟨⟨h1, h2⟩, h3, h4⟩
      exact ⟨⟨fun d hd => (h4 d hd).1, h3⟩, ⟨h1, h2⟩, fun d hd => ⟨by have := (h4 d hd).1; omega, (h4 d hd).2⟩⟩
    · rintro ⟨⟨h1, h2⟩, ⟨h3, h4⟩, h5⟩
      exact ⟨⟨h3, h4⟩, h2, fun d hd => ⟨h1 d hd, (h5 d hd).2⟩⟩

theorem cellsAt_spec (bs : List Byte) : ∀ a,
    ((cellsAt a bs).Pairwise fun c d => c.1 < d.1) ∧
      ∀ c ∈ cellsAt a bs, a ≤ c.1 ∧ c.1 < a + bs.length ∧ c.2 ≠ 0 := by
  induction bs with
  | nil => intro a; simp [cellsAt]
  | cons b bs ih =>
    intro a
    obtain ⟨h1, h2⟩ := ih (a + 1)
    unfold cellsAt
    split
    · refine ⟨h1, fun c hc => ?_⟩
      obtain ⟨p, q, r⟩ := h2 c hc
      exact ⟨by omega, by simp; omega, r⟩
    · rename_i hb
      refine ⟨List.pairwise_cons.2 ⟨fun d hd => by have := (h2 d hd).1; simp; omega, h1⟩, fun c hc => ?_⟩
      rcases List.mem_cons.1 hc with rfl | hc
      · exact ⟨by simp, by simp, hb⟩
      · obtain ⟨p, q, r⟩ := h2 c hc
        exact ⟨by omega, by simp; omega, r⟩

/-- A write keeps the canonical form. -/
theorem Memory.write_wf (m : Memory) (a : Nat) (bs : List Byte) (h : Memory.wf m = true) :
    Memory.wf (Memory.write m a bs) = true := by
  unfold Memory.wf at *
  rw [wfFrom_iff] at *
  obtain ⟨h1, h2⟩ := h
  obtain ⟨c1, c2⟩ := cellsAt_spec bs a
  unfold Memory.write
  refine ⟨?_, ?_⟩
  · rw [List.pairwise_append, List.pairwise_append]
    refine ⟨⟨h1.filter _, c1, ?_⟩, h1.filter _, ?_⟩
    · intro x hx y hy
      have hx : x.1 < a := by simpa using (List.mem_filter.1 hx).2
      have := (c2 y hy).1; omega
    · intro x hx y hy
      have hy : a + bs.length ≤ y.1 := by simpa using (List.mem_filter.1 hy).2
      rcases List.mem_append.1 hx with hx | hx
      · have hx : x.1 < a := by simpa using (List.mem_filter.1 hx).2
        omega
      · have := (c2 x hx).2.1; omega
  · intro c hc
    refine ⟨Nat.zero_le _, ?_⟩
    rcases List.mem_append.1 hc with hc | hc
    · rcases List.mem_append.1 hc with hc | hc
      · exact (h2 c (List.mem_filter.1 hc).1).2
      · exact (c2 c hc).2.2
    · exact (h2 c (List.mem_filter.1 hc).1).2

/-- Dropping cells keeps the canonical form. -/
theorem Memory.filter_wf (m : Memory) (p : Nat × Byte → Bool) (h : Memory.wf m = true) :
    Memory.wf (m.filter p) = true := by
  unfold Memory.wf at *
  rw [wfFrom_iff] at *
  exact ⟨h.1.filter _, fun c hc => h.2 c (List.mem_filter.1 hc).1⟩

/-! ### Tags -/

theorem mem_insertSorted (k x : Nat) (ts : List Nat) : x ∈ insertSorted k ts ↔ x = k ∨ x ∈ ts := by
  induction ts with
  | nil => simp [insertSorted]
  | cons a t ih =>
    unfold insertSorted
    split
    · simp
    · split
      · rename_i h; subst h; simp
      · simp [ih]; tauto

theorem insertSorted_sorted (k : Nat) (ts : List Nat) (h : ts.Pairwise (· < ·)) :
    (insertSorted k ts).Pairwise (· < ·) := by
  induction ts with
  | nil => simp [insertSorted]
  | cons a t ih =>
    obtain ⟨h1, h2⟩ := List.pairwise_cons.1 h
    unfold insertSorted
    split
    · rename_i hk
      refine List.pairwise_cons.2 ⟨fun x hx => ?_, h⟩
      rcases List.mem_cons.1 hx with rfl | hx
      · exact hk
      · exact Nat.lt_trans hk (h1 x hx)
    · split
      · exact h
      · rename_i hk hne
        refine List.pairwise_cons.2 ⟨fun x hx => ?_, ih h2⟩
        rcases (mem_insertSorted k x t).1 hx with rfl | hx
        · omega
        · exact h1 x hx

theorem setTag_sorted (g : Nat) (b : Bool) (ts : List Nat) (h : ts.Pairwise (· < ·)) :
    (setTag g b ts).Pairwise (· < ·) := by
  unfold setTag
  split
  · exact insertSorted_sorted g ts h
  · exact h.filter _

theorem clearTags_sorted (k n : Nat) (ts : List Nat) (h : ts.Pairwise (· < ·)) :
    (clearTags k n ts).Pairwise (· < ·) := h.filter _

/-- The tag of a granule after its tag was set or cleared, and of every other. -/
theorem mem_setTag (g x : Nat) (b : Bool) (ts : List Nat) :
    x ∈ setTag g b ts ↔ (x = g ∧ b = true) ∨ (x ≠ g ∧ x ∈ ts) := by
  unfold setTag
  split
  · rename_i h
    rw [mem_insertSorted]
    by_cases e : x = g
    · simp [e, h]
    · simp [e]
  · rename_i h
    simp [h, and_comm]

/-! ### The writes of the model keep `MemoryOk` -/

theorem State.write_ok (s : State) (k : Nat) (b : List Byte) (h : s.MemoryOk) : (s.write k b).MemoryOk :=
  ⟨Memory.write_wf _ _ _ h.1, clearTags_sorted _ _ _ h.2⟩

theorem State.homeWrite_ok (s : State) (k : Nat) (b : List Byte) (h : s.MemoryOk) : (s.homeWrite k b).MemoryOk :=
  ⟨Memory.write_wf _ _ _ h.1, clearTags_sorted _ _ _ h.2⟩

/-- An L2 that takes a line changes no byte and no tag. -/
theorem State.touchLine_frame (s : State) (k : Nat) : (s.touchLine k).mem = s.mem ∧ (s.touchLine k).tags = s.tags := by
  simp only [State.touchLine]
  split <;> exact ⟨rfl, rfl⟩

/-- A store of a core writes the same bytes and clears the same tags as a plain write. -/
theorem State.coreWrite_frame (s : State) (k : Nat) (b : List Byte) :
    (s.coreWrite k b).mem = Memory.write s.mem k b ∧ (s.coreWrite k b).tags = clearTags k b.length s.tags := by
  obtain ⟨h1, h2⟩ := s.touchLine_frame k
  unfold State.coreWrite
  exact ⟨by rw [State.write_mem, h1], by rw [State.write_tags, h2]⟩

theorem State.coreWrite_ok (s : State) (k : Nat) (b : List Byte) (h : s.MemoryOk) : (s.coreWrite k b).MemoryOk := by
  obtain ⟨h1, h2⟩ := s.coreWrite_frame k b
  exact ⟨by rw [h1]; exact Memory.write_wf _ _ _ h.1, by rw [h2]; exact clearTags_sorted _ _ _ h.2⟩

/-- Reset memory is in its canonical form. -/
theorem State.reset_memory : State.reset.mem.wf = true ∧ State.reset.tags = [] := ⟨rfl, rfl⟩

end Sys2Proof.Machine
end

