-- ==== Sys2Proof/Laws/Ops.lean ====
section
/-!
SUPPORT. Sys2Proof/Laws/Ops.lean: what the shared operations of the meanings do, once each: tables, contexts, registers and
the program counter, writing a result, opening a window, and the operations that have nothing to do where nothing is
queued or pending.
-/
namespace Sys2Proof.Machine
set_option Elab.async false

/-! ### Tables -/

theorem tget_tset_same {α : Type} (t : Table α) (k : Nat) (v d : α) : tget (tset k v t) k d = v := by
  unfold tget
  induction t with
  | nil => simp [tset]
  | cons c t ih =>
    obtain ⟨k', v'⟩ := c
    unfold tset
    split
    · simp
    · split
      · simp
      · rename_i h
        have e : (k == k') = false := by simpa using h
        rw [List.lookup_cons, e]; exact ih

theorem tget_tset_other {α : Type} (t : Table α) (k j : Nat) (v d : α) (h : j ≠ k) :
    tget (tset k v t) j d = tget t j d := by
  unfold tget
  have e : (j == k) = false := by simpa using h
  induction t with
  | nil => simp [tset, List.lookup_cons, e]
  | cons c t ih =>
    obtain ⟨k', v'⟩ := c
    unfold tset
    split
    · rw [List.lookup_cons, e]
    · split
      · rename_i _ h'
        subst h'
        simp [List.lookup_cons, e]
      · rw [List.lookup_cons, List.lookup_cons]
        split
        · rfl
        · exact ih

@[simp] theorem State.core_updCore (s : State) (c : CoreIx) (f : Core → Core) : (s.updCore c f).core c = f (s.core c) :=
  tget_tset_same _ _ _ _
theorem State.core_updCore_other (s : State) (c d : CoreIx) (f : Core → Core) (h : d ≠ c) :
    (s.updCore c f).core d = s.core d :=
  tget_tset_other _ _ _ _ _ (fun e => h (BitVec.eq_of_toNat_eq e))
@[simp] theorem State.cluster_updCluster (s : State) (c : ClusterIx) (f : Cluster → Cluster) :
    (s.updCluster c f).cluster c = f (s.cluster c) := tget_tset_same _ _ _ _
theorem State.cluster_updCluster_other (s : State) (c d : ClusterIx) (f : Cluster → Cluster) (h : d ≠ c) :
    (s.updCluster c f).cluster d = s.cluster d :=
  tget_tset_other _ _ _ _ _ (fun e => h (BitVec.eq_of_toNat_eq e))
@[simp] theorem State.space_updSpace (s : State) (a : Asid) (f : Space → Space) : (s.updSpace a f).space a = f (s.space a) :=
  tget_tset_same _ _ _ _
theorem State.space_updSpace_other (s : State) (a b : Asid) (f : Space → Space) (h : b ≠ a) :
    (s.updSpace a f).space b = s.space b :=
  tget_tset_other _ _ _ _ _ (fun e => h (BitVec.eq_of_toNat_eq e))
@[simp] theorem State.engine_updEngine (s : State) (e : EngineIx) (f : Engine → Engine) :
    (s.updEngine e f).engine e = f (s.engine e) := tget_tset_same _ _ _ _
theorem State.engine_updEngine_other (s : State) (e g : EngineIx) (f : Engine → Engine) (h : g ≠ e) :
    (s.updEngine e f).engine g = s.engine g :=
  tget_tset_other _ _ _ _ _ (fun x => h (BitVec.eq_of_toNat_eq x))

/-! ### Registers and the program counter (R113, R157) -/

theorem Ctx.reg_setReg (c : Ctx) (d r : Reg) (v : RegVal) :
    (c.setReg d v).reg r = if r = 0 then {} else if r = d then v else c.reg r := by
  unfold Ctx.reg Ctx.setReg
  by_cases h0 : r = 0
  · rw [if_pos h0, if_pos h0]
  · rw [if_neg h0, if_neg h0, if_neg h0]
    by_cases hd : d = 0
    · have h : ¬ r = d := by rw [hd]; exact h0
      rw [if_neg h]
      simp only [if_pos hd]
    · simp only [if_neg hd]
      by_cases h : r = d
      · subst h; rw [if_pos rfl]; exact Vector.getElem_set_self _
      · rw [if_neg h]
        exact Vector.getElem_set_ne _ _ fun e => h (BitVec.eq_of_toNat_eq e.symm)

theorem Ctx.reg_setReg_same (c : Ctx) (d : Reg) (v : RegVal) : (c.setReg d v).reg d = if d = 0 then {} else v := by
  rw [Ctx.reg_setReg, if_pos rfl]

theorem Ctx.reg_setReg_other (c : Ctx) (d r : Reg) (v : RegVal) (h : r ≠ d) : (c.setReg d v).reg r = c.reg r := by
  rw [Ctx.reg_setReg, if_neg h]
  unfold Ctx.reg
  by_cases h0 : r = 0
  · rw [if_pos h0, if_pos h0]
  · rw [if_neg h0, if_neg h0]

@[simp] theorem Ctx.reg_setPc (c : Ctx) (w : Word) (r : Reg) : (c.setPc w).reg r = c.reg r := rfl

@[simp] theorem Ctx.pc_setPc (c : Ctx) (w : Word) : (c.setPc w).pc = w := by
  apply BitVec.eq_of_getLsbD_eq
  intro i hi
  simp [Ctx.pc, Ctx.setPc]

theorem Ctx.pcCap_setPc (c : Ctx) (w : Word) : (c.setPc w).pcCap >>> 64 = c.pcCap >>> 64 := by
  apply BitVec.eq_of_getLsbD_eq
  intro i hi
  have h : ¬ 64 + i < 64 := by omega
  by_cases h2 : 64 + i < 256
  · simp [Ctx.setPc, h2]
  · have : w.getLsbD (64 + i) = false := BitVec.getLsbD_of_ge _ _ (by omega)
    have h3 : c.pcCap.getLsbD (64 + i) = false := BitVec.getLsbD_of_ge _ _ (by omega)
    simp [Ctx.setPc, h2, h3]

@[simp] theorem Ctx.pc_setReg (c : Ctx) (d : Reg) (v : RegVal) : (c.setReg d v).pc = c.pc := by
  unfold Ctx.pc; rw [Ctx.setReg_pcCap]

@[simp] theorem State.here_setReg (s : State) (d : Reg) (v : RegVal) : (s.setReg d v).here = s.here := by
  unfold State.here State.setReg Ctx.setReg
  split <;> rfl

/-- A register written, then the program counter set: exactly that has happened. -/
theorem regWritten_of (s u : State) (d : Reg) (v : RegVal) (pc : Word) (hr : u.cx.regs = s.cx.regs)
    (hp : u.cx.pcCap = s.cx.pcCap) (hu : u = { s with cx := u.cx }) :
    RegWritten s ((u.setReg d v).setPc pc) u.cx d v pc := by
  have hreg : ∀ r, u.cx.reg r = s.cx.reg r := fun r => by unfold Ctx.reg; rw [hr]
  refine ⟨?_, ?_, ?_, ?_, ?_⟩
  · show ((u.cx.setReg d v).setPc pc).reg d = _
    rw [Ctx.reg_setPc, Ctx.reg_setReg_same]
  · intro r hne
    show ((u.cx.setReg d v).setPc pc).reg r = s.cx.reg r
    rw [Ctx.reg_setPc, Ctx.reg_setReg_other _ _ _ _ hne, hreg]
  · exact Ctx.pc_setPc _ _
  · show ((u.cx.setReg d v).setPc pc).pcCap >>> 64 = _
    rw [Ctx.pcCap_setPc, Ctx.setReg_pcCap, hp]
  · rw [hu]
    unfold State.setReg State.setPc Ctx.setPc Ctx.setReg
    split <;> rfl

/-- The usual end of a unit that writes one register. -/
theorem writes_of (s : State) (i : Instr) (d : Reg) (v : RegVal) (h : exec i s = .next (s.setReg d v).advance) :
    Writes s i d v := by
  refine ⟨_, h, ?_⟩
  have e : (s.setReg d v).advance = (s.setReg d v).setPc (s.here + 4) := by
    show (s.setReg d v).setPc ((s.setReg d v).here + 4) = _
    rw [State.here_setReg]
  rw [e]
  exact regWritten_of s s d v _ rfl rfl rfl

/-- The same for a scalar result. -/
theorem writesX_of (s : State) (i : Instr) (d : Reg) (w : Word) (h : exec i s = s.scalar d w) : WritesX s i d w :=
  writes_of s i d _ h

/-- The program counter alone. -/
theorem onlyPc_setPc (s u : State) (pc : Word) (hp : u.cx.pcCap = s.cx.pcCap) (hu : u = { s with cx := u.cx }) :
    OnlyPc s (u.setPc pc) u.cx pc := by
  refine ⟨Ctx.pc_setPc _ _, ?_, ?_⟩
  · show (u.cx.setPc pc).pcCap >>> 64 = _
    rw [Ctx.pcCap_setPc, hp]
  · rw [hu]; rfl

/-! ### Checks -/

@[simp] theorem State.orTrap_ok {α : Type} (s : State) (x : α) (f : α → State) : s.orTrap (.ok x) f = .next (f x) := rfl
@[simp] theorem State.orTrap_error {α : Type} (s : State) (b : Bad) (f : α → State) :
    s.orTrap (.error b) f = .next (s.takeTrap b.1 b.2) := rfl

/-- A form with a handle operand goes on where its check passes, and traps with the register's number elsewhere. -/
theorem State.withHandle_cases (s : State) (r : Reg) (need : BitVec 12) (kinds : List (BitVec 3)) (f : State) :
    (s.handleCheck s.cx.asid (s.reg r) need kinds = none ∧ s.withHandle r need kinds f = .next f) ∨
    ∃ c, s.handleCheck s.cx.asid (s.reg r) need kinds = some c ∧
      s.withHandle r need kinds f = .next (s.takeTrap c (r.setWidth 64)) := by
  unfold State.withHandle
  cases h : s.handleCheck s.cx.asid (s.reg r) need kinds with
  | none => exact .inl ⟨rfl, rfl⟩
  | some c => exact .inr ⟨c, rfl, rfl⟩

/-! ### Nothing pending, nothing queued -/

theorem State.resolveAll_nil (s : State) (h : s.cx.pend = []) : s.resolveAll = s := by
  unfold State.resolveAll; rw [h]; rfl

theorem State.completeAll_nil (s : State) (h : s.cx.pend = []) : s.completeAll = s := by
  unfold State.completeAll; rw [h]; rfl

theorem State.unstash_nil (s : State) (t : Target) (n : Nat) (h : s.cx.stash = []) : s.unstash t n = s := by
  unfold State.unstash
  split
  · rfl
  · rfl
  · have e (p : StashSector → Bool) : s.cx.stash.filter p = s.cx.stash := by rw [h]; rfl
    have r (p : StashSector → Bool) : (s.cx.stash.filter p).reverse = [] := by rw [h]; rfl
    simp only [r]
    show { s with cx := { s.cx with stash := s.cx.stash.filter _ } } = s
    rw [e]

theorem State.resolveFor_nil (s : State) (t : Target) (n : Nat) (h : s.cx.pend = []) (hs : s.cx.stash = []) :
    s.resolveFor t n = s := by
  unfold State.resolveFor; rw [h]; exact s.unstash_nil t n hs

theorem State.closeWindows_nil (s : State) (h : s.cx.pend = []) : s.closeWindows = (true, s) := by
  unfold State.closeWindows; rw [h]; rfl

theorem State.takeLate_nil (s : State) (p : LateFault → Bool) (h : s.cx.late = []) : s.takeLate p = none := by
  unfold State.takeLate; rw [h]; rfl

theorem State.drain_nil (s : State) (id : BitVec 32) (h : ∀ c, s.getCtx id = some c → c.storeQ = []) : s.drain id = s := by
  unfold State.drain
  cases e : s.getCtx id with
  | none => rfl
  | some c => simp only; rw [h c e]; rfl

@[simp] theorem State.windowDone_zero (s : State) (i : Instr) : s.windowDone i 0 = s := rfl

theorem State.windowDone_pos (s : State) (i : Instr) (la : BitVec 4) (h : la ≠ 0) :
    s.windowDone i la = s.updCx fun c =>
      { c with pend := c.pend ++ [⟨s.here, la.toNat, (instrRegs i).2, s.sources i, none, .done⟩] } := by
  unfold State.windowDone; rw [if_neg h]; rfl

/-- Counting events changes only the current context. -/
theorem State.countLanes_frame (s : State) (evs : List Ev) :
    s.countLanes evs = { s with cx := (s.countLanes evs).cx } := by
  unfold State.countLanes; split <;> rfl

@[simp] theorem State.countLanes_nil (s : State) : s.countLanes [] = s := rfl

/-- Nothing occurred, nothing is counted. -/
theorem State.countLanes_zero (s : State) (evs : List Ev) (h : ∀ e ∈ evs, e = 0) : s.countLanes evs = s := by
  unfold State.countLanes
  rw [if_pos]
  rw [List.all_eq_true]
  intro e he
  rw [h e he]; rfl

/-! ### Contexts by identity -/

theorem State.getCtx_current (s : State) (h : s.cx.id ≠ 0) : s.getCtx s.cx.id = some s.cx := by
  unfold State.getCtx State.allCtxs
  rw [if_neg h]
  simp

theorem State.focus_current (s : State) (sl : SlotId) : s.focus s.cx.id sl = { s with cur := sl } := by
  unfold State.focus; rw [if_pos rfl]

theorem State.updCtx_current (s : State) (f : Ctx → Ctx) : s.updCtx s.cx.id f = s.updCx f := by
  unfold State.updCtx; rw [if_pos rfl]; rfl

/-- Changing a context by its identity changes no byte of memory and no tag. -/
theorem State.updCtx_memory (s : State) (id : BitVec 32) (f : Ctx → Ctx) :
    (s.updCtx id f).mem = s.mem ∧ (s.updCtx id f).tags = s.tags := by
  unfold State.updCtx; split <;> exact ⟨rfl, rfl⟩

/-- So does making another context the current one. -/
theorem State.focus_memory (s : State) (id : BitVec 32) (sl : SlotId) :
    (s.focus id sl).mem = s.mem ∧ (s.focus id sl).tags = s.tags := by
  unfold State.focus
  split
  · exact ⟨rfl, rfl⟩
  · split <;> exact ⟨rfl, rfl⟩

/-- A clamp is counted and nothing else happens to memory or contexts (R238). -/
theorem State.clampFn_frame (s : State) (fn : FnIx) (code : Nat) :
    s.clampFn fn code = { s with pkg := (s.clampFn fn code).pkg } := by
  unfold State.clampFn
  split
  · split <;> rfl
  · rfl

end Sys2Proof.Machine
end

