-- ==== Sys2Proof/Laws/Kept.lean ====
section
/-!
SUPPORT. Sys2Proof/Laws/Kept.lean: the shared operations keep memory in its canonical form: translation, where an access
goes, stores that perform, pending loads, leaving a slot, and taking an exception.
-/
namespace Sys2Proof.Machine
set_option Elab.async false

/-- Memory and tags alone decide. -/
theorem State.MemoryOk.of_eq {s t : State} (h : s.MemoryOk) (hm : t.mem = s.mem) (ht : t.tags = s.tags) : t.MemoryOk := by
  unfold State.MemoryOk at *; rw [hm, ht]; exact h

theorem State.MemoryOk.updCtx {s : State} (h : s.MemoryOk) (id : BitVec 32) (f : Ctx → Ctx) : (s.updCtx id f).MemoryOk :=
  h.of_eq (s.updCtx_memory id f).1 (s.updCtx_memory id f).2

theorem State.MemoryOk.clampFn {s : State} (h : s.MemoryOk) (fn : FnIx) (n : Nat) : (s.clampFn fn n).MemoryOk := by
  rw [State.clampFn_frame]; exact h.of_eq rfl rfl

theorem State.MemoryOk.setTag {s : State} (h : s.MemoryOk) (g : Nat) (b : Bool) :
    State.MemoryOk { s with tags := Machine.setTag g b s.tags } := ⟨h.1, setTag_sorted _ _ _ h.2⟩

theorem State.MemoryOk.cacheHandle {s : State} (h : s.MemoryOk) (cl : ClusterIx) (a : Asid) (x g : BitVec 24) :
    (s.cacheHandle cl a x g).MemoryOk := by
  unfold State.cacheHandle State.cacheEntry
  split
  · exact h
  · exact h.of_eq (State.updCluster_mem _ _ _) (State.updCluster_tags _ _ _)

/-- A fold of steps that keep it keeps it. -/
theorem foldl_ok {α : Type} (f : State → α → State) (hf : ∀ s a, s.MemoryOk → (f s a).MemoryOk) (xs : List α) :
    ∀ s : State, s.MemoryOk → (xs.foldl f s).MemoryOk := by
  induction xs with
  | nil => intro s h; exact h
  | cons x xs ih => intro s h; exact ih _ (hf s x h)

/-! ### Translation and where an access goes -/

theorem State.orPte_ok (s : State) (a b : Nat) (h : s.MemoryOk) : (s.orPte a b).MemoryOk := s.homeWrite_ok _ _ h

/-- A translation keeps the memory's form where filling a TLB does. -/
theorem State.translateBy_ok (s : State) (hit : Option TlbEntry) (fill : Bool → TlbEntry → State → State) (a : Asid)
    (va : Nat) (acc : Acc) (x : Xlate) (t : State) (hf : ∀ b e u, u.MemoryOk → (fill b e u).MemoryOk) (h : s.MemoryOk)
    (e : s.translateBy hit fill a va acc = .ok (x, t)) : t.MemoryOk := by
  unfold State.translateBy at e
  simp only at e
  split at e
  · cases e
  · split at e
    · cases e
    · split at e
      · cases e
      · simp only [Except.ok.injEq, Prod.mk.injEq] at e
        obtain ⟨-, rfl⟩ := e
        refine hf _ _ _ ?_
        repeat' split
        all_goals first
          | exact h
          | exact s.orPte_ok _ _ h

theorem State.translate_ok (s : State) (cl : ClusterIx) (a : Asid) (va : Nat) (acc : Acc) (x : Xlate) (t : State)
    (h : s.MemoryOk) (e : s.translate cl a va acc = .ok (x, t)) : t.MemoryOk := by
  unfold State.translate at e
  refine s.translateBy_ok _ _ _ _ _ _ _ (fun b e u hu => ?_) h e
  split <;> exact hu

theorem State.coreTranslate_ok (s : State) (core : CoreIx) (a : Asid) (va : Nat) (acc : Acc) (x : Xlate) (t : State)
    (h : s.MemoryOk) (e : s.coreTranslate core a va acc = .ok (x, t)) : t.MemoryOk := by
  unfold State.coreTranslate at e
  refine s.translateBy_ok _ _ _ _ _ _ _ (fun b e u hu => ?_) h e
  repeat' split
  all_goals exact hu

theorem State.reachMem_ok (s : State) (core : CoreIx) (a : Asid) (va : Nat) (q : Access) (eff : Word) (x : Target)
    (t : State) (h : s.MemoryOk) (e : s.reachMem core a va q eff = .ok (x, t)) : t.MemoryOk := by
  unfold State.reachMem at e
  split at e
  · cases e
  · split at e
    · cases e
    · split at e
      · cases e
      all_goals
        rename_i e'
        simp only [Except.ok.injEq, Prod.mk.injEq] at e
        obtain ⟨-, rfl⟩ := e
        exact s.coreTranslate_ok _ _ _ _ _ _ h e'

theorem reachSpad_state (s : State) (core : CoreIx) (base off : Nat) (tags : Bool) (q : Access) (eff : Word) (x : Target)
    (t : State) (e : reachSpad s core base off tags q eff = .ok (x, t)) : t = s := by
  unfold reachSpad at e
  split at e
  · simp only [Except.ok.injEq, Prod.mk.injEq] at e; exact e.2.symm
  · cases e

theorem State.reach_ok (s : State) (c : Ctx) (a : Asid) (eff : Word) (q : Access) (x : Target) (t : State)
    (h : s.MemoryOk) : ∀ (fuel : Nat) (body : NodeBody) (off : Nat) (hd : Option (BitVec 24)),
    s.reach c a eff q fuel body off hd = .ok (x, t) → t.MemoryOk := by
  intro fuel
  induction fuel with
  | zero =>
    intro body off hd e
    unfold State.reach at e
    cases body <;> simp only at e <;> repeat' split at e
    all_goals first
      | (cases e; done)
      | exact s.reachMem_ok _ _ _ _ _ _ _ h e
      | (rw [reachSpad_state _ _ _ _ _ _ _ _ _ e]; exact h)
      | (simp only [Except.ok.injEq, Prod.mk.injEq] at e; obtain ⟨-, rfl⟩ := e; exact h)
  | succ n ih =>
    intro body off hd e
    unfold State.reach at e
    cases body <;> simp only at e <;> repeat' split at e
    all_goals first
      | (cases e; done)
      | exact s.reachMem_ok _ _ _ _ _ _ _ h e
      | (rw [reachSpad_state _ _ _ _ _ _ _ _ _ e]; exact h)
      | exact ih _ _ _ e
      | (simp only [Except.ok.injEq, Prod.mk.injEq] at e; obtain ⟨-, rfl⟩ := e; exact h)

theorem State.accessAt_ok (s : State) (c : Ctx) (v : RegVal) (need : BitVec 12) (eff : Word) (q : Access) (x : Target)
    (t : State) (h : s.MemoryOk) (e : s.accessAt c v need eff q = .ok (x, t)) : t.MemoryOk := by
  unfold State.accessAt at e
  simp only at e
  repeat' split at e
  all_goals first
    | (cases e; done)
    | (rename_i e'
       simp only [Except.ok.injEq, Prod.mk.injEq] at e
       obtain ⟨-, rfl⟩ := e
       exact (s.reach_ok _ _ _ _ _ _ h _ _ _ _ e').cacheHandle _ _ _ _)

theorem State.ringTarget_ok (s : State) (a : Asid) (q : Queue) (i : Nat) (acc : Acc) (x : Target) (t : State)
    (h : s.MemoryOk) (e : s.ringTarget a q i acc = .ok (x, t)) : t.MemoryOk := by
  unfold State.ringTarget at e
  split at e
  · cases e
  · exact s.reach_ok _ _ _ _ _ _ h _ _ _ _ e

/-! ### Plane windows -/

theorem State.putBlock_ok (s : State) (key p : Nat) (w : PlanePos) (b : PlaneBlock) (h : s.MemoryOk) :
    (s.putBlock key p w b).MemoryOk := by
  unfold State.putBlock
  exact foldl_ok _ (fun s _ h => s.write_ok _ _ h) _ _ (s.write_ok _ _ h)

theorem State.planeZero_ok (s : State) (key : Nat) (ty : ElemType) (p off : Nat) (h : s.MemoryOk) :
    (s.planeZero key ty p off).MemoryOk := by
  unfold State.planeZero
  refine foldl_ok _ (fun s i h => ?_) _ _ h
  exact State.putBlock_ok _ _ _ _ _ (h.of_eq rfl rfl)

theorem foldl_fst_ok {α β : Type} (f : State × β → α → State × β)
    (hf : ∀ s b a, s.MemoryOk → (f (s, b) a).1.MemoryOk) (xs : List α) :
    ∀ (s : State) (b : β), s.MemoryOk → (xs.foldl f (s, b)).1.MemoryOk := by
  induction xs with
  | nil => intro s b h; exact h
  | cons x xs ih => intro s b h; exact ih _ _ (hf s b x h)

theorem State.planeWrite_ok (s : State) (key : Nat) (ty : ElemType) (p off : Nat) (data : List Byte) (h : s.MemoryOk) :
    (s.planeWrite key ty p off data).1.MemoryOk := by
  unfold State.planeWrite
  simp only
  split
  · exact s.putBlock_ok _ _ _ _ h
  · split
    · exact foldl_fst_ok _ (fun s _ _ h => s.putBlock_ok _ _ _ _ h) _ _ _ h
    · split
      · exact State.putBlock_ok _ _ _ _ _ (h.of_eq rfl rfl)
      · exact h.of_eq rfl rfl

/-! ### Fault records -/

theorem State.putFault_ok (s : State) (a : Asid) (x : Xlate) (bs : List Byte) (h : s.MemoryOk) {t : State}
    (e : s.putFault a x bs = some t) : t.MemoryOk := by
  cases x with
  | dram pa =>
    cases e
    exact State.homeWrite_ok _ _ _ h
  | host addr =>
    cases e
    exact State.homeWrite_ok _ _ _ h
  | fabric chip page off =>
    simp only [State.putFault] at e
    split at e
    · cases e
      exact h.of_eq rfl rfl
    · cases hk : s.fabricPage (s.asidPart a) page off true false with
      | none => simp [hk] at e
      | some key =>
        simp only [hk, Option.map_some, Option.some.injEq] at e
        subst e
        exact State.homeWrite_ok _ _ _ h

theorem State.flushFault_ok (s : State) (a : Asid) (h : s.MemoryOk) : (s.flushFault a).MemoryOk := by
  rcases hq : s.faultQueue a with ⟨base, n, tail, head⟩
  unfold State.flushFault
  rw [hq]
  simp only
  split
  · exact h
  · split
    · exact h
    · split
      · exact h
      · rename_i e'
        have h1 := s.translate_ok _ _ _ _ _ _ h e'
        split
        · exact h
        · rename_i e''
          exact (State.homeWrite_ok _ _ _ (State.putFault_ok _ _ _ _ h1 e'')).of_eq rfl rfl

theorem State.pageRequest_memory (s : State) (fn : FnIx) (a : Nat) (w : Bool) :
    (s.pageRequest fn a w).2.mem = s.mem ∧ (s.pageRequest fn a w).2.tags = s.tags := ⟨rfl, rfl⟩

theorem State.raiseFault_ok (s : State) (a : Asid) (src : BitVec 4) (cause : Cause) (wr m : Bool) (host : Option Nat)
    (id : BitVec 32) (va : Word) (w : FaultWaiter) (h : s.MemoryOk) :
    (s.raiseFault a src cause wr m host id va w).MemoryOk := by
  rcases hq : s.faultQueue a with ⟨base, n, tail, head⟩
  have h0 : ∀ fs : List FaultRec, State.MemoryOk { s with faults := fs } := fun fs => h
  unfold State.raiseFault
  cases host with
  | none =>
    simp only [hq]
    exact State.flushFault_ok _ _ (h0 _)
  | some x => exact State.flushFault_ok _ _ h

theorem State.raiseRing_ok (s : State) (cl : ClusterIx) (a : Asid) (id : BitVec 32) (va : Word) (wr : Bool) (w : FaultWaiter)
    (h : s.MemoryOk) : (s.raiseRing cl a id va wr w).MemoryOk := s.raiseFault_ok _ _ _ _ _ _ _ _ _ h

/-! ### Stores that perform -/

theorem State.qAppend_ok (s : State) (a : Asid) (node : BitVec 23) (q : Queue) (v : RegVal) (t : State)
    (h : s.MemoryOk) (e : s.qAppend a node q v = .ok t) : t.MemoryOk := by
  unfold State.qAppend at e
  split at e
  · cases e
  all_goals
    rename_i e'
    have hr := s.ringTarget_ok _ _ _ _ _ _ h e'
    simp only [Except.ok.injEq] at e
    subst e
  · exact ((State.coreWrite_ok _ _ _ hr).setTag _ _).of_eq rfl rfl
  · exact (State.coreWrite_ok _ _ _ hr).of_eq rfl rfl
  · exact (State.planeWrite_ok _ _ _ _ _ _ hr).of_eq rfl rfl
  · exact hr.of_eq rfl rfl

theorem State.updBar_ok (s : State) (key : Nat) (f : Bar → Bar) (h : s.MemoryOk) : (s.updBar key f).MemoryOk :=
  s.homeWrite_ok _ _ h

theorem State.cdReady_ok (s : State) (c : Ctx) (pa : Nat) (t : State) (h : s.MemoryOk) (e : s.cdReady c = .ok (pa, t)) :
    t.MemoryOk := by
  unfold State.cdReady at e
  split at e
  · rename_i e'
    simp only [Except.ok.injEq, Prod.mk.injEq] at e
    obtain ⟨-, rfl⟩ := e
    exact s.coreTranslate_ok _ _ _ _ _ _ h e'
  · cases e
  · cases e

theorem State.putQuads_ok (s : State) (c : Ctx) (quads : BitVec 16) (pa : Nat) (h : s.MemoryOk) :
    (s.putQuads c quads pa).MemoryOk := by
  refine foldl_ok _ (fun s q h => ?_) _ _ h
  split
  · exact s.coreWrite_ok _ _ h
  · exact h

theorem State.storeCd_ok (s : State) (id : BitVec 32) (off : Nat) (bs : List Byte) (tag : Bool) (h : s.MemoryOk) :
    (s.storeCd id off bs tag).MemoryOk := by
  unfold State.storeCd
  split
  · exact h
  · simp only
    split
    · exact h.updCtx _ _
    · split
      · rename_i e'
        exact State.putQuads_ok _ _ _ _ (State.cdReady_ok _ _ _ _ (h.updCtx _ _) e')
      · exact h.updCtx _ _

theorem State.countFor_ok (s : State) (id : BitVec 32) (evs : List Ev) (h : s.MemoryOk) : (s.countFor id evs).MemoryOk := by
  unfold State.countFor
  split
  · exact h
  · exact h.updCtx _ _

theorem State.performStore_ok (s : State) (id : BitVec 32) (e : StoreEntry) (t : State) (h : s.MemoryOk)
    (q : s.performStore id e = some t) : t.MemoryOk := by
  unfold State.performStore at q
  split at q
  · simp only [Option.some.injEq] at q
    subst q
    have hw := fun k b => s.coreWrite_ok k b h
    split
    · exact s.updBar_ok _ _ h
    · split
      · exact (hw _ _).setTag _ _
      · exact hw _ _
  · split at q
    · simp only [Option.some.injEq] at q; subst q; exact s.planeZero_ok _ _ _ _ h
    · simp only [Option.some.injEq] at q; subst q
      exact State.countFor_ok _ _ _ (s.planeWrite_ok _ _ _ _ _ h)
  · split at q
    · simp only [Option.some.injEq] at q; subst q; exact h
    · split at q
      · cases q
      · simp only at q
        split at q
        · rename_i e'
          simp only [Option.some.injEq] at q; subst q
          exact s.qAppend_ok _ _ _ _ _ h e'
        · cases q
  · simp only [Option.some.injEq] at q; subst q; exact s.storeCd_ok _ _ _ _ h
  · simp only [Option.some.injEq] at q; subst q; exact h.of_eq rfl rfl
  all_goals first
    | (simp only [Option.some.injEq] at q; subst q; exact h)
    | cases q

theorem State.joinLine_ok (s : State) (id : BitVec 32) (a : Asid) (node : BitVec 23) (q : Queue) (l : Nat) (h : s.MemoryOk) :
    (s.joinLine id a node q l).MemoryOk := by
  unfold State.joinLine
  split
  · exact h
  · exact h.of_eq rfl rfl

theorem State.askRing_ok (s : State) (id : BitVec 32) (a : Asid) (q : Queue) (e : StoreEntry) (l : Nat) (h : s.MemoryOk) :
    (s.askRing id a q e l).MemoryOk := by
  unfold State.askRing
  split
  · exact h
  · split
    · exact s.raiseRing_ok _ _ _ _ _ _ h
    · exact h

theorem State.storeWaits_ok (s : State) (c : Ctx) (a : Asid) (node : BitVec 23) (e : StoreEntry) (h : s.MemoryOk) :
    (s.storeWaits c a node e).2.MemoryOk := by
  unfold State.storeWaits
  split
  · exact h
  · exact State.askRing_ok _ _ _ _ _ _ (s.joinLine_ok _ _ _ _ _ h)

theorem State.sendStore_ok (s : State) (c : Ctx) (e : StoreEntry) (h : s.MemoryOk) : (s.sendStore c e).2.MemoryOk := by
  unfold State.sendStore
  split
  · exact s.storeWaits_ok _ _ _ _ h
  · exact h
  · split
    · split <;> exact h.of_eq rfl rfl
    · exact h.of_eq rfl rfl
    · exact h

theorem State.performAt_ok (s : State) (id : BitVec 32) (i : Nat) (h : s.MemoryOk) : (s.performAt id i).MemoryOk := by
  unfold State.performAt
  split
  · exact h
  · split
    · exact h
    · split
      · exact h
      · split
        · exact h.updCtx _ _
        · split
          · rename_i e'
            exact (s.performStore_ok _ _ _ h e').updCtx _ _
          · exact (s.sendStore_ok _ _ h).updCtx _ _

theorem drainFrom_ok (id : BitVec 32) : ∀ (n i : Nat) (s : State), s.MemoryOk → (drainFrom id n i s).MemoryOk := by
  intro n
  induction n with
  | zero => intro i s h; exact h
  | succ n ih => intro i s h; exact ih _ _ (s.performAt_ok _ _ h)

theorem State.drain_ok (s : State) (id : BitVec 32) (h : s.MemoryOk) : (s.drain id).MemoryOk := by
  unfold State.drain
  split
  · exact h
  · exact drainFrom_ok _ _ _ _ h

theorem State.drainStash_ok (s : State) (id : BitVec 32) (h : s.MemoryOk) : (s.drainStash id).MemoryOk := by
  unfold State.drainStash
  split
  · exact h
  · exact (foldl_ok _ (fun s _ h => s.write_ok _ _ h) _ _ h).updCtx _ _

/-! ### Pending instructions -/

theorem State.pendWrite_memory (s : State) (p : Pending) (v : RegVal) :
    (s.pendWrite p v).mem = s.mem ∧ (s.pendWrite p v).tags = s.tags := by
  unfold State.pendWrite; split <;> exact ⟨rfl, rfl⟩

/-- A pending load receives its value without a change of memory. -/
theorem State.resolvePend_memory (s : State) (i : Nat) :
    (s.resolvePend i).mem = s.mem ∧ (s.resolvePend i).tags = s.tags := by
  unfold State.resolvePend
  split
  · exact ⟨rfl, rfl⟩
  · simp only
    split
    · exact s.pendWrite_memory _ _
    · split
      · exact ⟨rfl, rfl⟩
      · exact s.pendWrite_memory _ _
    · split
      · exact ⟨rfl, rfl⟩
      · exact s.pendWrite_memory _ _
    all_goals exact ⟨rfl, rfl⟩

theorem State.resolveAll_ok (s : State) (h : s.MemoryOk) : s.resolveAll.MemoryOk :=
  foldl_ok _ (fun s i h => h.of_eq (s.resolvePend_memory i).1 (s.resolvePend_memory i).2) _ _ h

theorem State.completePend_memory (s : State) (i : Nat) :
    (s.completePend i).mem = s.mem ∧ (s.completePend i).tags = s.tags := by
  unfold State.completePend
  split
  · exact ⟨rfl, rfl⟩
  · simp only
    split
    · exact ⟨rfl, rfl⟩
    · exact ⟨rfl, rfl⟩
    · exact ⟨rfl, rfl⟩
    · exact ⟨rfl, rfl⟩
    · exact s.resolvePend_memory i

theorem completeFrom_memory : ∀ (n i : Nat) (s : State),
    (completeFrom n i s).mem = s.mem ∧ (completeFrom n i s).tags = s.tags := by
  intro n
  induction n with
  | zero => intro i s; exact ⟨rfl, rfl⟩
  | succ n ih =>
    intro i s
    unfold completeFrom
    simp only
    obtain ⟨h1, h2⟩ := s.completePend_memory i
    exact ⟨(ih _ _).1.trans h1, (ih _ _).2.trans h2⟩

theorem State.completeAll_memory (s : State) : s.completeAll.mem = s.mem ∧ s.completeAll.tags = s.tags :=
  completeFrom_memory _ _ _

/-! ### Leaving a slot, exceptions -/

theorem State.writeQuads_ok (s : State) (id : BitVec 32) (src : BitVec 4) (h : s.MemoryOk) :
    (s.writeQuads id src).MemoryOk := by
  unfold State.writeQuads
  split
  · exact h
  · split
    · exact h
    · split
      · rename_i e'
        exact (State.putQuads_ok _ _ _ _ (s.cdReady_ok _ _ _ h e')).updCtx _ _
      · exact State.raiseFault_ok _ _ _ _ _ _ _ _ _ _ (h.updCtx _ _)

theorem State.leaveSlot_ok (s : State) (id : BitVec 32) (h : s.MemoryOk) : (s.leaveSlot id).MemoryOk := by
  unfold State.leaveSlot
  split
  · exact h
  · simp only
    have h1 := State.drain_ok _ id (s.drainStash_ok id h)
    split
    · exact State.MemoryOk.updCtx (h1.of_eq (State.setBound_mem _ _ _) (State.setBound_tags _ _ _)) _ _
    · exact h1.updCtx _ _

theorem State.freezeCtx_ok (s : State) (id : BitVec 32) (h : s.MemoryOk) : (s.freezeCtx id).MemoryOk := by
  unfold State.freezeCtx
  exact State.writeQuads_ok _ _ _ (((s.leaveSlot_ok id h).clampFn _ _).updCtx _ _)

theorem State.stopWait_memory (s : State) (id : BitVec 32) :
    (s.stopWait id).mem = s.mem ∧ (s.stopWait id).tags = s.tags := State.updCtx_memory _ _ _

theorem State.leaveNow_ok (s : State) (id : BitVec 32) (why : Leaving) (h : s.MemoryOk) : (s.leaveNow id why).MemoryOk := by
  have hs : (s.stopWait id).MemoryOk := h.of_eq (s.stopWait_memory id).1 (s.stopWait_memory id).2
  have hf := s.freezeCtx_ok id h
  have hg := State.freezeCtx_ok _ id hs
  have hl := State.leaveSlot_ok _ id hs
  unfold State.leaveNow State.leaveForSave
  split
  · exact hf.of_eq (State.updCore_mem _ _ _) (State.updCore_tags _ _ _)
  · exact hg
  · exact hl.updCtx _ _

theorem State.leave_ok (s : State) (id : BitVec 32) (why : Leaving) (h : s.MemoryOk) : (s.leave id why).MemoryOk := by
  have hd := State.drain_ok _ id (s.drainStash_ok id h)
  unfold State.leave
  simp only
  split
  · exact hd
  · split
    · exact State.leaveNow_ok _ _ _ hd
    · exact (hd.of_eq (State.stopWait_memory _ id).1 (State.stopWait_memory _ id).2).updCtx _ _

/-- Taking an exception keeps memory in its canonical form (R381 to R385). -/
theorem State.takeTrap_ok (s : State) (c : Cause) (v : Word) (h : s.MemoryOk) : (s.takeTrap c v).MemoryOk := by
  unfold State.takeTrap
  simp only
  have h1 := h.of_eq s.completeAll_memory.1 s.completeAll_memory.2
  have h2 : ∀ f, (s.completeAll.updCx f).MemoryOk := fun f => h1.of_eq (State.updCx_mem _ _) (State.updCx_tags _ _)
  exact State.leave_ok _ _ _ ((h2 _).of_eq (State.updCore_mem _ _ _) (State.updCore_tags _ _ _))

end Sys2Proof.Machine
end

