-- ==== Sys2Proof/Tests/Slice0.lean ====
section
/-!
SUPPORT. Sys2Proof/Tests/Slice0.lean: tests. A word that each check of WellFormed refuses, words of the manual's worked
encodings, and single instructions on a small state, their results worked out by hand from the rules named beside them.
-/
namespace Sys2Proof.Tests
set_option Elab.async false
open Sys2Proof Sys2Proof.Machine

/-! ### A small state: one context bound in slot 0 of core 0, with one handle for each kind of node -/

/-- A plain capability on handle `h`: all rights, bounds 0 to `limit`. -/
def capOf (h : BitVec 24) (kind : BitVec 3) (off limit : Word) (perm : BitVec 12 := 0xFFF) (sealed : Bool := false) :
    RegVal :=
  ⟨(Cap.mk off 0 limit h 0 perm kind sealed).toBits, true⟩

/-- A 64-bit number in a register. -/
def num (n : Nat) : RegVal := ⟨.ofNat 256 n, false⟩

/-- Nodes: 0 a raw window over core 0's scratchpad, 1 a directory that binds "x" to node 0 and "p"
to node 11, 2 a queue of two entries
over node 0, 3 a matrix engine, 4 the heap of cluster 0, 5 context 2, 6 a stash window, 7 a copy of node 0. Handle n is
open on node n. 8 is /mem, 9 a host region at 0x20, 10
an empty directory that nothing binds, 11 chip 5. -/
def space : Space where
  nodes := [{ ix := 0, body := .raw 0 0, extent := 0x40000 }, { ix := 1, body := .dir [⟨ascii "x", 0, 0xFFF⟩, ⟨ascii "p", 11, 0xFFF⟩], extent := 0 },
    { ix := 2, body := .queue { handle := 0, gen := 0, off := 0x1000, log2 := 1 }, extent := 64 },
    { ix := 3, body := .engine 0, extent := 0 }, { ix := 4, body := .heap 0, extent := 0 },
    { ix := 5, body := .ctx 2, extent := 8192 }, { ix := 6, body := .stash 0 0x2000, extent := 4096 },
    { ix := 7, body := .raw 0 0, extent := 0x40000 }, { ix := 8, body := .mem, extent := 2 ^ 48 },
    { ix := 9, body := .host 0x20, extent := 4096 }, { ix := 10, body := .dir [], extent := 0 },
    { ix := 11, body := .peerRoot 5, extent := 0 }]
  handles := (List.range 12).map fun i => { ix := .ofNat 24 i, node := some (.ofNat 23 i) }

/-- Registers c3 on: capabilities on the nodes, then numbers. -/
def regs : Vector RegVal 64 :=
  let put (l : List (Reg × RegVal)) : Vector RegVal 64 :=
    l.foldl (fun v (r, x) => v.set r.toNat x r.isLt) (Vector.replicate 64 {})
  put [(3, capOf 0 0 0 0x40000), (4, capOf 0 0 0x100 0x40000), (5, num 5), (6, num 0xFFFFFFFFFFFFFFFF), (7, num 1),
    (8, num 0x8000000000000000), (9, capOf 5 3 0 8192), (10, capOf 1 7 0 0), (11, capOf 2 1 0 64), (12, capOf 3 2 0 0),
    (13, capOf 4 4 0 0), (14, capOf 6 0 0 4096), (15, capOf 0 0 0x200 0x40000), (16, num 0x0123456789ABCDEF),
    (17, num 2), (18, capOf 8 0 0x40 0x100000), (19, capOf 8 0 0x10008 0x100000), (20, capOf 9 0 0 4096)]

/-- The current context: privileged, bound, with every quad of its registers at hand. -/
def me : Ctx :=
  { id := 1, res := .bound, pcCap := (Cap.mk 0 0 4096 0 0 0xFFF 0 false).toBits, qvalid := 0xFFFF, qcached := 0xFFFF,
    count := 1, regs := regs, priv := true, root := 1, ctxHandle := 5 }

/-- A context that is frozen and not bound. -/
def other : Ctx := { id := 2, run := .frozen, count := 1, core := 1 }

/-- Page 0 of /mem is page 0 of local DRAM; the next is page 5 of chip 3's fabric. -/
def pages : List TlbEntry := [⟨0, 0, 16, 0x1F, 0⟩, ⟨0, 0x10000, 16, .ofNat 64 (0x5F + 3 * 2 ^ 44 + 5 * 2 ^ 16), 0⟩]

/-- The small state. -/
def small : State :=
  { State.reset with
    cx := me, ctxs := [other], booted := true, spaces := [(0, space)], clusters := [(0, { tlb := pages })]
    cores := [(0, { bound := (Vector.replicate 8 none).set 0 (some 1) })]
    mem := [⟨(Place.spad 0 0x200).key, 0x78⟩] }

/-- The outcome is a next state of which `p` holds. -/
def after (o : Out) (p : State → Bool) : Bool :=
  match o with
  | .next t => p t
  | _ => false

theorem after_iff {o : Out} {p : State → Bool} : after o p = true ↔ ∃ t, o = .next t ∧ p t = true := by
  cases o <;> simp [after]

/-- An answer without fault, of which `p` holds. -/
def good {ε α : Type} (x : Except ε α) (p : α → Bool) : Bool :=
  match x with
  | .ok a => p a
  | .error _ => false

theorem good_iff {ε α : Type} {x : Except ε α} {p : α → Bool} : good x p = true ↔ ∃ a, x = .ok a ∧ p a = true := by
  cases x <;> simp [good]

/-- An answer that is a fault or a refused access. -/
def bad {ε α : Type} (x : Except ε α) : Bool :=
  match x with
  | .ok _ => false
  | .error _ => true

theorem bad_iff {ε α : Type} {x : Except ε α} : bad x = true ↔ ∃ e, x = .error e := by cases x <;> simp [bad]

theorem test_small_memory : small.MemoryOk := ⟨by decide, by decide⟩
theorem test_small_bound : small.boundAt ⟨0, 0⟩ = some small.cx.id := by decide +kernel

/-! ### Terms that the checks refuse -/

theorem test_wf_slli : (Instr.slli 1 2 63).wf = true ∧ (Instr.slli 1 2 64).wf = false := by decide
theorem test_wf_srli : (Instr.srli 1 2 63).wf = true ∧ (Instr.srli 1 2 64).wf = false := by decide
theorem test_wf_srai : (Instr.srai 1 2 63).wf = true ∧ (Instr.srai 1 2 64).wf = false := by decide
theorem test_wf_rori : (Instr.rori 1 2 63).wf = true ∧ (Instr.rori 1 2 64).wf = false := by decide
theorem test_wf_ld : (Instr.ld {} .b32 true 0 1 2 ⟨none, 0⟩).wf = true ∧
    ∀ z ∈ ([.b64, .b128, .b256, .cap] : List MemSize), (Instr.ld {} z true 0 1 2 ⟨none, 0⟩).wf = false := by decide
theorem test_wf_ldx : (Instr.ldx {} .b8 true 0 1 2 3).wf = true ∧ (Instr.ldx {} .b64 true 0 1 2 3).wf = false := by
  decide
theorem test_wf_shift_lane : ∀ t ∈ ([.bf16, .f16, .f32, .f64] : List LaneType), (Instr.vsll t 0 1 2 3).wf = false ∧
    (Instr.vsrl t 0 1 2 3).wf = false ∧ (Instr.vsra t 0 1 2 3).wf = false ∧ (Instr.vmulh t 0 1 2 3).wf = false := by
  decide
theorem test_wf_vcmpun : (Instr.vcmpun .f32 1 2 3 0).wf = true ∧ (Instr.vcmpun .s32 1 2 3 0).wf = false := by decide
theorem test_wf_vsel : (Instr.vsel .s32 1 1 2 3).wf = true ∧ (Instr.vsel .s32 0 1 2 3).wf = false := by decide
theorem test_wf_ctlr : (Instr.ctlr 1 0x004).wf = true ∧ (Instr.ctlr 1 0x005).wf = false := by decide
theorem test_wf_ctlw : (Instr.ctlw 1 0x040).wf = true ∧ (Instr.ctlw 1 0x04F).wf = false := by decide
theorem test_wf_ctls : (Instr.ctls 1 0x020).wf = true ∧ (Instr.ctls 1 0x040).wf = false ∧
    (Instr.ctlc 1 0x041).wf = false := by decide

/-! ### Words of the manual's worked encodings, one family after another -/

/-- One word is this instruction, without EXT or guard. -/
abbrev Reads (w : Nat) (i : Instr) : Prop := decodeUnit [w] = .done ⟨none, i⟩

theorem test_decode_cmp : Reads 0x1A144247 (.cmp .lt 9 4 5 3) := by decide +kernel
theorem test_decode_int : Reads 0x1B032D41 (.mov 53 50) := by decide +kernel
theorem test_decode_bit : Reads 0x060C9283 (.slli 10 9 48) := by decide +kernel
theorem test_decode_dbnz : Reads 0xFFFFF10F (.dbnz 4 ⟨none, 0xFFFFF⟩) := by decide +kernel
theorem test_decode_bb : Reads 0xFFC804CB (.bb false 19 128 ⟨none, 0x7FE⟩) := by decide +kernel
theorem test_decode_cap : Reads 0x0A3C3410 (.cnarrow 16 3 15) ∧ Reads 0x095955D0 (.cstep 23 21 22) := by decide +kernel
theorem test_decode_capimm : Reads 0x0101CD91 (.cinci 54 28 ⟨none, 0x40⟩) := by decide +kernel
theorem test_decode_name : Reads 0x000C0512 (.walk 0 20 0 3) ∧ Reads 0x10645612 (.open_ 0 24 5 25) ∧
    Reads 0x80554592 (.mknode 0 22 20 21) ∧ Reads 0x90003592 (.export_ 0 22 3 0) := by decide +kernel
theorem test_decode_queue : Reads 0x1524C113 (.qpopNb 4 12 9 5) ∧ Reads 0x0201A153 (.qpush 5 26) := by decide +kernel
theorem test_decode_load : Reads 0x08283154 (.ld {} .b32 true 0 5 3 ⟨none, 2⟩) ∧
    Reads 0x04183494 (.ld {} .cap false 0 18 3 ⟨none, 1⟩) := by decide +kernel
theorem test_decode_store : Reads 0x7B4DCED5 (.st {} .b64 59 28 ⟨none, 493⟩) ∧
    Reads 0x00148195 (.st {} .b256 6 8 ⟨none, 0⟩) := by decide +kernel
theorem test_decode_atom : Reads 0x90194158 (.acas ⟨.rlx, .pkg, false⟩ 0 5 20 6) := by decide +kernel
theorem test_decode_fence : Reads 0xA019 (.fence .pkg .full) ∧ Reads 0x04000259 (.hfence 9) := by decide +kernel
theorem test_decode_rcpc : Reads 0x002D51DA (.lda .b64 0 7 21 .clu) ∧ Reads 0x002D419B (.stl .b64 6 20 .clu) ∧
    Reads 0x0059559B (.stl .cap 22 21 .pkg) := by decide +kernel
theorem test_decode_cache : Reads 0x0C00901C (.clzero 9) := by decide +kernel
theorem test_decode_barrier : Reads 0x0261E01D (.barexp 30 24) ∧ Reads 0x0002801D (.barinit 40 0) ∧
    Reads 0x0600025D (.gangbar 9) ∧ Reads 0x040124DD (.bartest 19 18 0) := by decide +kernel
theorem test_decode_task : Reads 0x0500059E (.self 22) ∧ Reads 0x0301D29E (.sleep 10 29) ∧
    Reads 0x090135DE (.evwait 23 19) := by decide +kernel
theorem test_decode_engine : Reads 0x0059F69F (.enq 0 26 31 22) ∧ Reads 0x1069F69F (.jwait 26 31 26) ∧
    Reads 0x4001BC5F (.aswap 0 49 27 0) := by decide +kernel
theorem test_decode_vector : Reads 0x30185120 (.vadd .f32 0 4 5 6) ∧ Reads 0x31AA9A29 (.vmaxw .f32 1 40 41 42) ∧
    Reads 0x9001B1AB (.vdup .s32 0 6 27) ∧ Reads 0xD0F37EEB (.vext .s32 59 55 60) := by decide +kernel
theorem test_decode_gather : Reads 0x0A15412A (.vgath .e32 2 4 20 5) := by decide +kernel
theorem test_decode_control : Reads 0x24AC (.ctlr 18 0x002) ∧ Reads 0x0102012C (.ctlw 4 0x020) := by decide +kernel
theorem test_decode_sys : Reads 0x502D (.trap 5) ∧ Reads 0x0201102D (.phint 17 0) ∧ Reads 0x0481686D (.resume 33 22 32) := by
  decide +kernel
theorem test_decode_xchg : Reads 0x001C616E (.xgo 5 6 7) ∧ Reads 0x0100A26E (.xstat 9 10) ∧
    Reads 0x0234C2EE (.sumcol 11 12 13) := by decide +kernel
/-- ADDI with an EXT word: 6 above the 14 bits 0x6A0. -/
theorem test_decode_ext : decodeUnit [0x1BF, 0x1A804142] = .done ⟨none, .addi 5 4 ⟨some 6, 0x6A0⟩⟩ := by decide +kernel
/-- A guarded load with an EXT word. -/
theorem test_decode_guard : decodeUnit [0x0030327E, 0x23F, 0x000C3154] =
    .done ⟨some ⟨9, 3, true⟩, .ld {} .b64 false 0 5 3 ⟨some 8, 0⟩⟩ := by decide +kernel
theorem test_encode_words : encodeWord (.cnarrow 16 3 15) = some 0x0A3C3410 ∧ encodeWord (.slli 10 9 48) = some 0x060C9283 ∧
    encodeWord (.acas ⟨.rlx, .pkg, false⟩ 0 5 20 6) = some 0x90194158 := by decide +kernel

/-! ### One instruction at a time -/

/-- The small state with these registers. -/
def holding (l : List (Reg × RegVal)) : State :=
  { small with cx := { me with regs := l.foldl (fun v (r, x) => v.set r.toNat x r.isLt) regs } }

/-- c[d] holds `n` with the tag clear. -/
abbrev Gives (i : Instr) (d : Reg) (n : Nat) (s : State := small) : Prop :=
  after (exec i s) (fun t => t.reg d == num n) = true

/-- The trap that the instruction takes, and its value. -/
abbrev TrapsWith (i : Instr) (c : Cause) (v : Word) (s : State := small) : Prop :=
  after (exec i s) (fun t => t.cx.run == .frozen && t.cx.trap.cause == c.code && t.cx.trap.val == v) = true

-- R125: sums wrap; the arithmetic shift keeps the sign; a register of 0 minus 1.
theorem test_add_wraps : Gives (.add 20 6 7) 20 0 := by decide +kernel
theorem test_sub_wraps : Gives (.sub 7 0 7) 7 0xFFFFFFFFFFFFFFFF := by decide +kernel
theorem test_sra_sign : Gives (.sra 20 8 17) 20 0xE000000000000000 := by decide +kernel
theorem test_addw_sign : Gives (.addw 20 5 7) 20 0xFFFFFFFF80000000 (holding [(5, num 0x7FFFFFFF)]) := by decide +kernel
theorem test_byterev : Gives (.byterev 16 16) 16 0xEFCDAB8967452301 := by decide +kernel
theorem test_min_signed : Gives (.min 20 6 7) 20 0xFFFFFFFFFFFFFFFF ∧ Gives (.minu 20 6 7) 20 1 := by decide +kernel
theorem test_clead : Gives (.clead 20 0) 20 64 ∧ Gives (.ctrail 20 8) 20 63 := by decide +kernel
-- R113: c0 discards a write.
theorem test_c0 : Gives (.addi 0 5 ⟨none, 1⟩) 0 0 := by decide +kernel
-- R126: MOVH 21, then ADDI -7360: 21 * 2^14 - 7360.
theorem test_movh : Gives (.movh 22 21) 22 344064 ∧
    Gives (.addi 22 22 ⟨none, 0x2340⟩) 22 336704 (holding [(22, num 344064)]) := by decide +kernel
-- R123, R130: bit 3 of c17 = 2 is set; signed and unsigned order differ.
theorem test_cmp : Gives (.cmp .lt 17 6 7 3) 17 10 ∧ Gives (.cmp .ltu 17 6 7 3) 17 2 := by decide +kernel
theorem test_bseti : Gives (.bseti 20 5 255) 20 (2 ^ 255 + 5) ∧ Gives (.bexti 20 5 2) 20 1 := by decide +kernel
-- R131, R132: (-2^63)^2 = 2^126; the least number by -1; a zero divisor.
theorem test_mulh : Gives (.mulh 0 20 8 8) 20 0x4000000000000000 ∧ Gives (.mulhsn 0 20 8 8) 20 0xC000000000000000 := by
  decide +kernel
theorem test_div : Gives (.div 0 20 8 6) 20 0x8000000000000000 ∧ Gives (.rem 0 20 8 6) 20 0 := by decide +kernel
theorem test_div_zero : Gives (.divu 0 20 5 0) 20 0xFFFFFFFFFFFFFFFF ∧
    after (exec (.divu 0 20 5 0) small) (fun t => t.cx.nec[7] == 1 && t.cx.necFlags == 0x80) = true := by decide +kernel
-- R134, R135: the offset moves; NARROW below the base traps with the register number of the limit.
theorem test_cinci : Gives (.cgetoff 20 4) 20 0x100 ∧
    after (exec (.cinci 20 4 ⟨none, 0x40⟩) small) (fun t => t.cap 20 == { t.cap 4 with offset := 0x140 }) = true := by
  decide +kernel
theorem test_cnarrow : TrapsWith (.cnarrow 20 4 5) .capBounds 5 ∧ TrapsWith (.cnarrow 20 5 5) .capTag 5 := by
  decide +kernel
-- R161, R163, R164.
theorem test_jalr : TrapsWith (.jalr 1 5 ⟨none, 0⟩) .align 5 ∧
    after (exec (.jalr 1 5 ⟨none, 3⟩) small) (fun t => t.cx.pc == 8 && t.reg 1 == num 4) = true := by decide +kernel
theorem test_dbnz : after (exec (.dbnz 7 ⟨none, 0xFFFFF⟩) small) (fun t => t.cx.pc == 4 && t.reg 7 == num 0) = true ∧
    after (exec (.dbnz 5 ⟨none, 2⟩) small) (fun t => t.cx.pc == 8 && t.reg 5 == num 4) = true := by decide +kernel
theorem test_bcc : after (exec (.bcc .lt 6 7 ⟨none, 4⟩) small) (fun t => t.cx.pc == 16) = true ∧
    after (exec (.bcc .ltu 6 7 ⟨none, 4⟩) small) (fun t => t.cx.pc == 4) = true := by decide +kernel
-- R402, R382, R385: the trap freezes the context and its record waits at the core.
theorem test_trap : TrapsWith (.trap 5) .syscall 5 ∧ after (exec (.trap 5) small) (fun t =>
    t.boundAt ⟨0, 0⟩ == none && (t.core 0).held.length == 1 && t.cx.trap.pc == 0) = true := by decide +kernel
theorem test_eret : after (exec .eret { small with cx := { me with trap := { pc := 0x40 } } })
    (fun t => t.cx.ie && t.cx.pc == 0x40) = true := by decide +kernel
-- R242: the byte at 0x200 is 0x78; R217: a doubleword that crosses a sector.
theorem test_ld : Gives (.ld {} .b8 true 0 20 15 ⟨none, 0⟩) 20 0x78 ∧
    TrapsWith (.ldx {} .b64 false 0 20 15 5) .align 0x23D
      (holding [(15, capOf 0 0 0x215 0x40000)]) := by decide +kernel
-- R220, R243: a store waits in the store queue.
theorem test_st : after (exec (.st {} .b64 5 4 ⟨none, 1⟩) small) (fun t => t.mem == small.mem &&
    t.cx.storeQ.map (·.target) == [.bytes ((Place.spad 0 0x108).key) false]) = true := by decide +kernel
-- R246: the old value is returned.
theorem test_aadd : Gives (.aadd {} 0 20 15 5) 20 0x78 ∧
    after (exec (.aadd {} 0 20 15 5) small) (fun t => t.nat (Place.spad 0 0x200).key 8 == 0x7D) = true := by
  decide +kernel
theorem test_acas : after (exec (.acas {} 0 20 15 5) small) (fun t => t.mem == small.mem && t.reg 20 == num 0x78) = true := by
  decide +kernel
-- R287, R288: two arrivals expected; the last completes the phase.
theorem test_barrier : after (exec (.barinit 4 17) small) (fun t =>
      t.barAt (Place.spad 0 0x100).key == ⟨0, false, 2, 2, 0, 0⟩) = true ∧
    after (exec (.barinit 4 7) small) (fun t => after (exec (.bararv 20 4) t) fun u =>
      u.barAt (Place.spad 0 0x100).key == ⟨1, false, 1, 1, 0, 0⟩ && u.reg 20 == num 0) = true := by decide +kernel
-- R181: an event to an empty queue is taken.
theorem test_evpost : after (exec (.evpost 20 5 7) small) (fun t => t.reg 20 == num 0 &&
    (t.cluster 0).evq.length == 1) = true := by decide +kernel
theorem test_htry : Gives (.htry 20 13) 20 (2 ^ 255) ∧
    after (exec (.hpush 13 5) small) (fun t => (t.heap 0 0).2 == [.ofNat 256 5]) = true := by
  decide +kernel
-- R212, R213: the entry goes to the ring.
theorem test_qpush : after (exec (.qpush 5 11) small) (fun t => t.nat (Place.spad 0 0x1000).key 32 == 5 &&
    (t.queueAt 0 2).any fun q => q.tail == 1 && q.head == 0) = true := by decide +kernel
theorem test_qpop_empty : after (exec (.qpop 20 11) small) (fun t => t.cx.run == .waiting) = true ∧
    after (exec (.qpopNb 20 11 17 1) small) (fun t => t.reg 17 == num 0) = true := by decide +kernel
-- R199: the path "x" from the root reaches node 0.
theorem test_walk : after (exec (.walk 0 20 0 15) small) (fun t => (t.reg 20).tag && (t.cap 20).handle == 0x800000 &&
    (t.cap 20).limit == 0x40000 && t.cx.nameStat == 0) = true := by decide +kernel
theorem test_walk_unbound : Gives (.walk 0 20 0 15) 20 (1 + 7 * 2 ^ 16) { small with mem := [⟨(Place.spad 0 0x200).key, 0x79⟩] } := by
  decide +kernel
-- R391: fpctl has four bits; R389: ctx.id.
theorem test_ctlw : after (exec (.ctlw 6 0x020) small) (fun t => t.cx.fpctl == 0xF) = true := by decide +kernel
theorem test_ctlr : Gives (.ctlr 20 0x000) 20 1 ∧ TrapsWith (.ctlr 20 0x104) .priv 0x10452C
    { small with cx := { me with priv := false } } := by decide +kernel
-- R258, R261: lanes of 1.0 + 2.0 = 3.0; a lane of 8 bits wraps and the others hold 0 + 0.
theorem test_vadd : after (exec (.vadd .f32 0 20 21 22) (holding [(21, num 0x3F800000), (22, num 0x40000000)]))
      (fun t => t.reg 20 == num 0x40400000) = true ∧
    after (exec (.vadd .s8 0 20 21 22) (holding [(21, num 0xFF), (22, num 1)])) (fun t => t.reg 20 == num 0) = true := by
  decide +kernel
theorem test_vdup : Gives (.vdup .s64 0 20 5) 20 (5 * (1 + 2 ^ 64 + 2 ^ 128 + 2 ^ 192)) := by decide +kernel
-- R157: the step fetches and runs the word: ADDI c60, c0, 2 of the manual's example; an undefined word traps.
theorem test_step_addi : after (step (State.reset.withFetchWord 32 0x00080F02)) (fun t => t.reg 60 == num 2) = true := by
  decide +kernel
theorem test_step_illegal : after (step (State.reset.withFetchWord 32 0x2F)) (fun t =>
    t.cx.trap.cause == Cause.illegal.code && t.cx.trap.val == 0x2F) = true := by decide +kernel

end Sys2Proof.Tests
end

