-- ==== Sys2Proof/Tests/Witness.lean ====
section
/-!
SUPPORT. Sys2Proof/Tests/Witness.lean: for each statement of Certificates/Slice0/Obligations.lean that has hypotheses, a
state and operands that meet the hypotheses of each of its clauses. `good x p` says that `x` answers without fault and
`p` holds of the answer, `bad x` that it does not; IntResults, ImmediateResults, BitResults, MulDivResults, TrapForms and DecodeWords have none.
-/
namespace Sys2Proof.Tests
set_option Elab.async false
open Sys2Proof Sys2Proof.Machine

/-- The small state with another second context. -/
def beside (c : Ctx) : State := { small with ctxs := [c] }

/-- A second context in slot 1 of core 0. -/
def second : Ctx := { other with run := .ready, res := .bound, core := 0, slot := 1, regs := regs }

/-- The small state with a second context bound in slot 1. -/
def with2 (c : Ctx) : State :=
  { small with ctxs := [c], cores := [(0, { bound := ((Vector.replicate 8 none).set 0 (some 1)).set 1 (some 2) })] }

/-- The same, the second context waiting. -/
def waits (w : Wait) : State := with2 { second with run := .waiting, wait := w }

/-- Slot 1 of core 0. -/
def slot1 : SlotId := ⟨0, 1⟩

theorem witness_with2 (c : Ctx) (h : c.id = 2) : (with2 c).boundAt slot1 = some c.id ∧ (with2 c).getCtx 2 = some c := by
  rw [h]; exact ⟨rfl, by simp [with2, State.getCtx, State.allCtxs, small, me, h]⟩

/-- The current context without privilege. -/
def user : State := { small with cx := { me with priv := false } }

theorem witness_BranchResults : (small.x 5 + immValue (⟨none, 3⟩ : Imm 14)).toNat % 4 = 0 ∧
    (small.x 5 + immValue (⟨none, 0⟩ : Imm 14)).toNat % 4 ≠ 0 := by decide +kernel

theorem witness_CapabilityReads : (small.reg 3).tag = true ∧ (small.reg 4).tag = true ∧ (small.reg 5).tag = false ∧
    (small.bits 3).extractLsb' 192 48 = (small.bits 4).extractLsb' 192 48 ∧
    (small.bits 3).extractLsb' 192 48 ≠ (small.bits 9).extractLsb' 192 48 ∧ (small.reg 9).tag = true := by decide +kernel

/-- NARROW: an offset equal to the base, and a limit equal to the offset, are inside; one above the limit is not. -/
theorem witness_CapabilityDerivations : let s := holding [(21, capOf 0 0 0 64 0xFFF true), (22, num 0x40000), (23, num 0x40001)]
    let off (r : Reg) : Word := (s.bits r).extractLsb' 0 64
    let lim (r : Reg) : Word := (s.bits r).extractLsb' 128 64
    (s.reg 5).tag = false ∧ ((s.reg 21).tag = true ∧ (s.bits 21).getLsbD 255 = true) ∧ (s.reg 3).tag = true ∧
    (s.bits 3).getLsbD 255 = false ∧ ((s.bits 3).extractLsb' 64 64).toNat ≤ (off 3).toNat ∧
    (off 3).toNat ≤ (s.x 0).toNat ∧ (s.x 0).toNat ≤ (lim 3).toNat ∧ (s.x 22).toNat ≤ (lim 3).toNat ∧
    ¬ (s.x 23).toNat ≤ (lim 3).toNat := by decide +kernel

/-- One register pair for each clause of the chain; the last two are COVER's. -/
theorem witness_CoverResults : let s := holding [(21, capOf 0 0 0 64 0xFFF true), (22, capOf 0 0 0 64 0xFBF)]
    (s.reg 5).tag = false ∧ (s.reg 3).tag = true ∧ (s.bits 21).getLsbD 255 = true ∧
    ((s.bits 22).getLsbD 255 = false ∧ (s.bits 22).getLsbD 246 = false) ∧
    ((s.bits 9).getLsbD 246 = true ∧ (s.bits 9).extractLsb' 192 48 ≠ (s.bits 3).extractLsb' 192 48) ∧
    ((s.bits 4).getLsbD 255 = false ∧ (s.bits 4).getLsbD 246 = true ∧
      (s.bits 4).extractLsb' 192 48 = (s.bits 3).extractLsb' 192 48 ∧ (s.bits 3).getLsbD 255 = false ∧
      (s.bits 4).extractLsb' 192 48 = (s.bits 21).extractLsb' 192 48) := by decide +kernel

theorem witness_ExceptionEntry : small.cx.id ≠ 0 ∧ small.cx.pend = [] ∧ small.cx.storeQ = [] ∧ small.cx.stash = [] ∧
    small.cx.qdirty = 0 ∧ small.boundAt ⟨small.cx.core, small.cx.slot⟩ = some small.cx.id := by decide +kernel

theorem witness_HandlerReturn : small.cx.priv = true ∧ user.cx.priv = false := by decide

/-- The target frozen; waiting in an exchange; between units; and asked to end already. -/
theorem witness_ContextControl : (small.cx.priv = true ∧ small.handleCheck small.cx.asid (small.reg 9) permW [3] = none) ∧
    (small.targetCtx 9 = some other ∧ other.id ≠ small.cx.id ∧ other.run = .frozen) ∧
    (let t : Ctx := { second with run := .waiting, wait := .xgo 4 }
     (with2 t).targetCtx 9 = some t ∧ t.run ≠ .frozen ∧ t.res = .bound ∧ t.killReq = none) ∧
    ((with2 second).targetCtx 9 = some second ∧ second.id ≠ (with2 second).cx.id ∧ (with2 second).cx.id ≠ 0 ∧ second.id ≠ 0 ∧
      second.wait = .none ∧ second.storeQ = [] ∧ second.run ≠ .frozen ∧ second.killReq = none ∧ second.leaving = false ∧
      second.pend = [] ∧ second.stash = [] ∧ second.qdirty = 0) ∧
    (let t : Ctx := { second with killReq := some 0 }
     (with2 t).targetCtx 9 = some t ∧ t.killReq ≠ none) ∧ user.cx.priv = false := by decide +kernel

/-- The last byte inside the bounds and the first outside; no tag; sealed; a right too few; a stale generation. -/
theorem witness_CapabilityChecks : let check (v : RegVal) (eff : Word) (n : Nat) := small.capCheck 0 v permR eff n
    check (small.reg 3) 0x3FFFF 1 = none ∧ check (small.reg 3) 0x3FFFF 2 = some .capBounds ∧
    check (small.reg 5) 0 1 = some .capTag ∧ check (capOf 0 0 0 64 0xFFF true) 0 1 = some .capSealed ∧
    check (capOf 0 0 0 64 0xFFE) 0 1 = some .capPerm ∧ check (capOf 12 0 0 64) 0 1 = some .capStale ∧
    small.handleCheck 0 (small.reg 9) permW [3] = none ∧ small.handleCheck 0 (small.reg 9) permW [1, 6] = some .capPerm ∧
    small.handleCheck 0 (capOf 12 3 0 64) permW [3] = some .capStale := by decide +kernel

/-- A load that its bounds refuse, one of local bytes, and one of another chip's page. -/
theorem witness_LoadResults :
    let try_ (s : State) (a : Reg) := s.accessAt s.cx (s.reg a) permR ((s.cap a).offset)
      { acc := .read, n := 8, size := .b64 }
    bad (try_ small 5) = true ∧
    good (try_ small 15) (fun r => match r.1 with | .bytes .. => true | _ => false) = true ∧
    good (try_ small 19) (fun r => r.1 == .fabric 3 5 8 0x10008) = true ∧ small.memErr = false ∧
    ({ small with memErr := true } : State).memErr = true := by decide +kernel

theorem witness_StoreResults :
    let try_ (s : State) (a : Reg) := s.accessAt s.cx (s.reg a) permW ((s.cap a).offset)
      { acc := .write, n := 8, size := .b64 }
    bad (try_ small 5) = true ∧
    good (try_ small 15) (fun r => match r.1 with | .bytes .. => true | _ => false) = true ∧
    good (try_ small 19) (fun r => r.1 == .fabric 3 5 8 0x10008) = true ∧
    good (try_ small 14) (fun r => match r.1 with | .stash _ => true | _ => false) = true ∧
    (good (try_ small 11) fun r => (small.entryScope r.1).isSome) = true := by decide +kernel

theorem witness_StoreThenLoad : let k := small.cap 4
    small.capCheck small.cx.asid (small.reg 4) (permR ||| permW) k.offset 8 = none ∧
    ((small.openNode small.cx.asid k.handle k.gen).map Node.body) = some (.raw 0 0) ∧ k.offset.toNat % 8 = 0 ∧
    small.memErr = false ∧ small.cx.pend = [] ∧ small.cx.stash = [] := by decide +kernel

/-- A doubleword store of the second context, which may perform: nothing is older. -/
theorem witness_StorePerforms : let e : StoreEntry := { target := .bytes (Place.spad 0 0x100).key true, n := 8, data := 7, size := .b64 }
    let f : StoreEntry := { target := .bytes (Place.spad 0 0x100).key true, n := 32, data := 7, size := .cap, tag := true }
    let c : Ctx := { second with storeQ := [e] }
    (with2 c).slotOwner slot1 = some 2 ∧ (with2 c).getCtx 2 = some c ∧ mayPerform c.storeQ 0 = true ∧ e.marker = false ∧
    0 < e.n ∧ (e.size = .cap → e.n = 32 ∧ (Place.spad 0 0x100).key % 32 = 0) ∧ mayPerform [f] 0 = true ∧
    (f.size = .cap → f.n = 32 ∧ (Place.spad 0 0x100).key % 32 = 0) := by decide +kernel

/-- An atomic of 8 bytes inside, one that its bounds refuse, one of another kind, and a cursor that is no multiple of 8, in a
scratchpad window and in a node at 4 of /mem, whose address is one; ACAS that matches and one that does not. -/
theorem witness_AtomicResults : let k := small.cap 15
    let q : Access := { acc := .write, n := 8, size := .b64, strong := true, atom := true }
    small.capCheck small.cx.asid (small.reg 15) permA k.offset 8 = none ∧ k.kind = 0 ∧
    good (small.accessAt small.cx (small.reg 15) permA k.offset q) (fun r =>
      r.1 == .bytes (Place.spad 0 0x200).key true && r.2.memErr == false) = true ∧ (Place.spad 0 0x200).key < 2 ^ 64 ∧
    small.capCheck small.cx.asid (small.reg 5) permA 0 8 = some .capTag ∧
    (small.capCheck small.cx.asid (small.reg 11) permA 0 8 = none ∧ (small.cap 11).kind ≠ 0) ∧
    (let s := (holding [(21, capOf 0 0 4 0x40000), (22, capOf 12 0 4 64)]).updSpace 0 fun sp =>
       { nodes := { ix := 12, body := .sub 8 0 4, extent := 64 } :: sp.nodes, handles := { ix := 12, node := some 12 } :: sp.handles }
     let try_ (a : Reg) := s.accessAt s.cx (s.reg a) permA (s.cap a).offset q
     s.capCheck s.cx.asid (s.reg 21) permA (s.cap 21).offset 8 = none ∧ bad (try_ 21) = true ∧
     s.capCheck s.cx.asid (s.reg 22) permA (s.cap 22).offset 8 = none ∧ good (try_ 22) (fun _ => true) = true ∧
     (s.cap 22).kind = 0 ∧ (s.cap 22).offset.toNat % 8 ≠ 0) ∧
    small.nat (Place.spad 0 0x200).key 8 = 0x78 := by
  decide +kernel

/-- A store queue that is empty, one with a store through handle 0; HFENCE on a walk reference and on a handle. -/
theorem witness_FenceResults : let e : StoreEntry := { target := .bytes (Place.spad 0 0x100).key true, n := 8, data := 7, size := .b64, rel := true }
    let s := { small with cx := { me with storeQ := [e], regs := me.regs.set 21 (capOf 0x800000 0 0 64 0xFFF true) } }
    small.cx.storeQ = [] ∧ s.cx.storeQ ≠ [] ∧ (s.reg 5).tag = false ∧ ((s.reg 21).tag = true ∧ (s.bits 21).getLsbD 215 = true) ∧
    ((s.reg 3).tag = true ∧ (s.bits 3).getLsbD 215 = false ∧ (s.bits 3).extractLsb' 192 24 = e.handle ∧ e.marker = false) ∧
    (let c : Ctx := { second with run := .waiting, wait := .fence }
     (with2 c).slotOwner slot1 = some 2 ∧ (with2 c).boundAt slot1 = some 2 ∧ (with2 c).getCtx 2 = some c ∧ c.late = [] ∧
     c.storeQ = []) := by decide +kernel

/-- A refused address; a line of local DRAM; scratchpad; a line of host memory that is not aligned there; the stash. -/
theorem witness_CacheResults :
    let at_ (a : Reg) (need : BitVec 12) (eff : Word) (acc : Acc) (n : Nat) :=
      small.accessAt small.cx (small.reg a) need eff { acc := acc, n := n, size := .b256, free := true }
    bad (at_ 5 permR 5 .read 1) = true ∧
    bad (at_ 5 permW 0 .write 64) = true ∧
    good (at_ 18 permR 0x40 .read 1) (fun r => r.1 == .bytes 0x40 true) = true ∧
    good (at_ 18 permW 0x40 .write 1) (fun r => r.1 == .bytes 0x40 true) = true ∧
    good (at_ 15 permW 0x200 .write 64) (fun r => r.1 == .bytes (Place.spad 0 0x200).key true) = true ∧
    inSpad (Place.spad 0 0x200).key = true ∧
    good (at_ 20 permW 0 .write 64) (fun r => r.1 == .bytes (Place.host 0x20).key false) = true ∧
    (Place.host 0x20).key % 64 ≠ 0 ∧ inSpad (Place.host 0x20).key = false ∧
    good (at_ 14 permW 0 .write 1) (fun r => match r.1 with | .stash _ => true | _ => false) = true ∧
    (let inv (a : Reg) := small.accessAt small.cx (small.reg a) permW (small.cap a).offset { acc := .write, n := 1, size := .b8 }
     bad (inv 5) = true ∧ good (inv 18) (fun r => r.1 == .bytes 0x40 false || r.1 == .bytes 0x40 true) = true) ∧
    small.capCheck 0 (small.reg 5) permW 0 1 = some .capTag ∧
    (small.capCheck 0 (small.reg 4) permW (small.cap 4).offset 1 = none ∧ small.handleBase 0 (small.cap 4) = some (.raw 0 0)) := by
  decide +kernel

/-- A barrier in the scratchpad whose phase is 0: c5 and c17 name other phases, c0 names it. -/
theorem witness_BarrierResults :
    good (small.barTarget small.cx (small.reg 4) .write) (fun r => r.1 == (Place.spad 0 0x100).key &&
      (r.2.barBytes r.1).extractLsb' 0 4 != (small.bits 5).extractLsb' 0 4 &&
      (r.2.barBytes r.1).extractLsb' 0 4 == (small.bits 0).extractLsb' 0 4 && !(r.2.barBytes r.1).getLsbD 4) = true ∧
    good (small.barTarget small.cx (small.reg 4) .read) (fun r => r.1 == (Place.spad 0 0x100).key) = true ∧
    bad (small.barTarget small.cx (small.reg 5) .read) = true ∧
    (let s := waits (.bar 21 4 5)
     let f := s.focus 2 slot1
     s.boundAt slot1 = some 2 ∧ good (f.barTarget f.cx (f.reg 4) .read) (fun r =>
       (r.2.barBytes r.1).extractLsb' 0 4 != (f.bits 5).extractLsb' 0 4) = true) ∧
    (let e : StoreEntry := { target := .bytes (Place.spad 0 0x200).key true, n := 8, data := 7, size := .b64 }
     let s := { small with cx := { me with storeQ := [e] } }
     good (s.barTarget s.cx (s.reg 4) .write) (fun r => !r.2.cx.storeQ.isEmpty) = true) := by decide +kernel

/-- Two contexts of one gang, with a span and without; a round that is complete and one that is not. -/
theorem witness_GroupBarriers : let g : Gang := { id := 7, launch := 0, asid := 0, members := [1, 2] }
    let cx : Ctx := { me with gang := 7, count := 2 }
    let w : Ctx := { second with gang := 7, count := 2, run := .waiting, wait := .gang 21 }
    let s : State := { small with cx := cx, gangs := [g] }
    let full : State := { with2 w with cx := { cx with run := .waiting, wait := .gang 22 }
                                       gangs := [{ g with round := { arrived := [⟨1, none⟩, ⟨2, none⟩] } }] }
    let sp : State := { small with cx := { cx with span := 9 }, gangs := [{ g with span := 9 }]
                                   spans := [{ id := 9, gangs := [7] }] }
    (s.groupGangs (.gang 7) ≠ [] ∧ s.hasArrived (.gang 7) = false ∧ (s.round (.gang 7)).owed = [] ∧ s.cx.count ≠ 1 ∧
      s.cx.group = .gang 7) ∧
    (sp.groupGangs (.span 9) ≠ [] ∧ sp.hasArrived (.span 9) = false ∧ (sp.round (.span 9)).owed = [] ∧
      sp.cx.group = .span 9) ∧
    s.roundComplete (.gang 7) = false ∧ full.roundComplete (.gang 7) = true ∧
    ((full.round (.gang 7)).arrived.map (·.ctx)).Nodup ∧ (full.roundResult (.gang 7)).arrived < 2 ^ 16 ∧
    (∀ x ∈ (full.round (.gang 7)).arrived, x.ctx ≠ 0 ∧
      (full.getCtx x.ctx).any (fun c => match c.wait with | .gang _ => true | _ => false) = true) := by decide +kernel

/-- The bytes of a text at 0x200 of the scratchpad, and these registers beside those of the small state. -/
def text (t : String) (l : List (Reg × RegVal) := []) : State :=
  { holding l with mem := ((ascii t).zipIdx.map fun (b, i) => ⟨(Place.spad 0 (0x200 + i)).key, b⟩) }

/-- The path at c15, after its checks. -/
def path (s : State) (p : Option (List Byte) → State → Bool) : Bool := good (s.string 15) fun r => match r.1 with
    | .text x => p x r.2
    | .far .. => false

/-- What the walk of a path from the root comes to. -/
def walked (t : String) (p : WalkEnd → Bool) : Bool :=
  path (text t) fun x u => x.any fun x => good (parsePath x) fun cs =>
    (u.nodeAt 0 u.cx.root).any fun n => p (State.resolve u.cxCluster 0 cs 0 n 0xFFF u).1

/-- A bad operand; a bad string; a refused byte; a byte of another chip's page; tables that fault and that do not; a string without end (the registers of context 2, all ones); an absolute path with an operand; a bad path; a
root that is gone; a directory that nothing binds; a failing walk, a walk to a node, and one that leaves the chip. -/
theorem witness_WalkResults : let s := small
    (5 : Reg) ≠ 0 ∧ (s.nameOperand 5 permR [7, 6] true).isSome ∧ (s.nameOperand 10 permR [7, 6] true = none) ∧
    (s.stringOperand 5).isSome ∧ s.stringOperand 15 = none ∧
    bad ((holding [(15, capOf 0 0 0x40000 0x40000)]).string 15) = true ∧
    good ((holding [(15, capOf 8 0 0x10000 0x100000)]).string 15) (fun r =>
      r.1 == .far [] (.fabric 3 5 0 0x10000) && r.2.cx.storeQ.isEmpty) = true ∧
    (({ small with tableFault := true } : State).tables 0).isSome = true ∧ s.tables 0 = none ∧
    path { holding [(15, capOf 5 3 0x820 8192)] with
      ctxs := [{ other with regs := Vector.replicate 64 ⟨.allOnes 256, false⟩ }] } (fun x _ => x.isNone) = true ∧
    path (text "/x") (fun x _ => x.any absolute) = true ∧
    path (text "x/") (fun x _ => x.any fun x => bad (parsePath x)) = true ∧
    ({ small with cx := { me with root := 99 } } : State).nodeAt 0 99 = none ∧
    (let k := Cap.ofBits (capOf 10 7 0 0).val
     ((s.operandNode 0 k).any fun n => n.body.kind == 7 && (s.space 0).binds n.ix == 0 && n.ix != s.cx.root) = true) ∧
    walked "y" (fun r => match r with | .fail .unbound .. => true | _ => false) = true ∧
    walked "x" (fun r => match r with | .node n _ => n.ix == 0 | _ => false) = true ∧
    walked "p/z" (fun r => match r with | .peer 5 _ 1 => true | _ => false) = true := by decide +kernel

/-- A walk reference that is good, one of another ASID, one of a node that is gone; DUP of a handle and of a stale one.
(No small state has every handle slot taken.) -/
theorem witness_OpenResults : let s := holding [(21, capOf 0x800000 0 0 0 0xFFF true), (22, capOf 0x800000 0 7 0 0xFFF true),
      (23, capOf 0x800063 0 0 0 0xFFF true), (24, capOf 99 0 0 0)]
    (s.nameOperand 5 0 [] true).isSome ∧
    (s.nameOperand 21 0 [] true = none ∧ (s.cap 21).sealed_ = true ∧ (s.cap 21).isWalkRef = true ∧
      (s.cap 21).offset.setWidth 9 = s.cx.asid ∧ ((s.operandNode 0 (s.cap 21)).any fun n =>
        n.ix == 0 && !n.body.badFormat && n.body.remoteNode.isNone) = true) ∧
    (s.nameOperand 22 0 [] true = none ∧ (s.cap 22).offset.setWidth 9 ≠ s.cx.asid) ∧
    (s.nameOperand 23 0 [] true = none ∧ s.operandNode 0 (s.cap 23) = none) ∧
    (s.space 0).freeHandle ≤ 0x7FFFFF ∧ (s.nameOperand 5 permG [] false).isSome ∧
    (s.nameOperand 24 permG [] false = none ∧ s.openNode 0 (s.cap 24).handle (s.cap 24).gen = none) ∧
    (s.nameOperand 3 permG [] false = none ∧ (s.openNode 0 (s.cap 3).handle (s.cap 3).gen).any (fun n =>
      n.body.remoteNode.isNone) = true ∧ (s.cap 3).sealed_ = false) := by decide +kernel

theorem witness_RevocationResults : let s := holding [(24, capOf 99 0 0 0)]
    let rv : Revocation := { label := 4, asid := 0, handles := [7], waiting := [9], ctx := some 2 }
    let p : Pending := { pc := 0, left := 0, dst := [21], src := [3], wr := some 21, kind := .name 4 }
    let c : Ctx := { second with pend := [p] }
    let u : State := { with2 c with revocations := [{ rv with waiting := [] }] }
    (s.nameOperand 5 permC [] false).isSome ∧ (s.nameOperand 5 (permC ||| permG) [] false).isSome ∧
    (s.nameOperand 24 permC [] false = none ∧ s.handleAt 0 99 0 = none) ∧
    (s.nameOperand 3 (permC ||| permG) [] false = none ∧ (s.handleAt 0 0 0).any (fun h => h.node == some 0) = true) ∧
    (let v : State := { small with revocations := [rv] }
     v.revocations.find? (fun x => x.label == rv.label) = some rv ∧ 9 ∈ rv.waiting ∧ v.ctxsOf (some 0) (some 9) = []) ∧
    (u.getCtx 2 = some c ∧ u.revocations.find? (fun y => y.label == 4) = some { rv with waiting := [] } ∧ rv.closes = [] ∧
      rv.down = false) := by decide +kernel

/-- BIND and UNBIND of a name that is bound and of one that is not; STAT; MKNODE of a directory; EXPORT. -/
theorem witness_DirectoryResults : let s := holding [(21, capOf 1 7 0 0 0xBFF), (22, num 0x9F7), (23, num 5)]
    let entries (s : State) (p : List Binding → Bool) : Bool := path s fun x u => x.any nameOk &&
      (u.openNode 0 1 0).any fun d => match d.body with | .dir es => p es | _ => false
    (s.nameOperand 10 permM [7] false = none ∧ s.stringOperand 15 = none ∧ s.nameOperand 3 permG [] false = none ∧
      (s.handleAt 0 0 0).any (fun h => h.node == some 0) = true) ∧
    entries (text "x") (fun es => es.any fun e => e.name == ascii "x") = true ∧
    entries (text "q") (fun es => es.all fun e => e.name != ascii "q") = true ∧
    (s.nameOperand 3 0 [] true = none ∧ (s.operandNode 0 (s.cap 3)).isSome) ∧
    ((s.bits 22).extractLsb' 0 4 = 7 ∧ s.bits 22 >>> 16 = 0 ∧ (s.space 0).freeNode < 2 ^ 23 ∧
      (s.space 0).freeHandle ≤ 0x7FFFFF) ∧
    (s.nameOperand 21 (permG ||| permP) [] false = none ∧ (s.bits 23).extractLsb' 16 48 = 0 ∧
      (s.cap 21).has permL = false ∧
      path (text "q" [(21, capOf 1 7 0 0 0xBFF), (23, num 5)]) (fun x u => x.any nameOk && (u.openNode 0 1 0).isSome &&
        (u.handleAt 0 1 0).any (fun h => h.node == some 1) && u.bits 23 == s.bits 23 && u.exports.isEmpty) = true) := by
  decide +kernel

/-- The small state with a queue of these counts. -/
def queued (head tail : Nat) : State :=
  small.updNode 0 2 fun n => { n with body := .queue { handle := 0, gen := 0, off := 0x1000, log2 := 1, head := head, tail := tail } }

/-- Room for the last entry, none, the last entry, none; a queue that fails its check; a push that has waited. -/
theorem witness_QueueResults : let q (s : State) (p : Queue → Bool) : Bool := (s.queueAt 0 2).any p
    let ring (s : State) (i : Nat) (acc : Acc) : Bool := q s fun q => good (s.ringTarget 0 q i acc) fun r =>
      (match r.1 with | .bytes .. => true | _ => false) && (r.2.nodeAt 0 2).isSome
    (let s := holding [(24, capOf 99 1 0 0)]
     s.handleCheck 0 (s.reg 24) permW [1, 6] = some .capStale ∧ (s.cap 24).kind = 1) ∧
    small.handleCheck 0 (small.reg 11) permW [1, 6] = none ∧ small.handleCheck 0 (small.reg 11) permR [1, 6] = none ∧
    (small.openNode 0 0 0).isSome ∧
    q (queued 0 1) (fun q => decide (q.tail - q.head < 2 ^ q.log2) && (small.line q true).isEmpty) = true ∧
    ring (queued 0 1) 1 .write = true ∧ q (queued 0 2) (fun q => decide (2 ^ q.log2 ≤ q.tail - q.head)) = true ∧
    q (queued 1 2) (fun q => decide (q.head < q.tail) && !q.hostRing && (small.line q false).isEmpty) = true ∧
    ring (queued 1 2) 1 .read = true ∧ q (queued 2 2) (fun q => decide (q.tail ≤ q.head)) = true ∧
    ((waits (.queue true 5 11 none)).boundAt slot1 = some 2 ∧ (waits (.queue true 5 11 none)).ringPending (.queue 2) = false) := by
  decide +kernel

/-- A task word inside the text and one past its end; a pool with a descriptor, one without, and one that is to grow; YIELD with no gang. -/
theorem witness_TaskResults : let s := holding [(21, num 4092), (22, num 4096)]
    let p : Descriptor := ⟨0, 3, 0x8000, 0⟩
    let t : State := { s with pool := [p] }
    s.badSpawn (s.bits 22) = true ∧ s.badSpawn (s.bits 21) = false ∧
    s.pool.find? (fun p => p.asid == s.cx.asid && p.id != 0) = none ∧ s.poolGrows s.cx.asid = false ∧
    ({ s with agenda := [.poolGrow p] } : State).poolGrows s.cx.asid = true ∧
    t.pool.find? (fun p => p.asid == t.cx.asid && p.id != 0) = some p ∧ p.id ≠ t.cx.id ∧ t.cx.id ≠ 0 ∧
    (t.space 0).nodes.length + 3 ≤ 2 ^ 23 ∧ (t.space 0).handles.length + 2 ≤ 0x7FFFFF ∧
    (∀ k ∈ small.ctxs, k.id ≠ small.cx.id) ∧ small.boundAt ⟨small.cx.core, small.cx.slot⟩ = some small.cx.id ∧
    small.cx.storeQ = [] ∧ small.cx.stash = [] ∧ small.gangOf small.cx = none := by decide +kernel

/-- SLEEP with a wake, with a signal, with no time, and none of them; a timeout at its cycle and a cycle before; a
target that is awake and one that sleeps. -/
theorem witness_WakeResults : ({ me with woken := true } : Ctx).woken = true ∧ ({ me with sigPend := 1 } : Ctx).sigPend ≠ 0 ∧
    small.x 0 = 0 ∧ small.cx.woken = false ∧ small.cx.sigPend = 0 ∧ small.x 5 ≠ 0 ∧
    (let s : State := { waits (.sleep 21 (some 7)) with cycle := 7 }
     s.boundAt slot1 = some 2 ∧ (s.getCtx 2).map (·.wait) = some (.sleep 21 (some 7)) ∧ (7 : Word).toNat ≤ s.cycle.toNat ∧
     ¬ (7 : Word).toNat ≤ ({ s with cycle := 6 } : State).cycle.toNat) ∧
    small.handleCheck 0 (small.reg 5) permW [3] = some .capTag ∧ small.handleCheck 0 (small.reg 9) permW [3] = none ∧
    (small.targetCtx 9).any (fun t => t.id != small.cx.id && t.id != 0 && !t.asleep) = true ∧
    ((waits (.sleep 21 none)).targetCtx 9).any (fun t => t.wait == .sleep 21 none) = true := by decide +kernel

/-- A heap with entries of equal keys, and an empty one; a full SRAM, with a spill region that is mapped and one that is not;
a pop that has waited. -/
theorem witness_HeapResults : let s : State := { small with clusters := [(0, { heaps := [(0, 0, [1, 1, 2])] })] }
    small.handleCheck 0 (small.reg 5) permW [4] = some .capTag ∧ small.handleCheck 0 (small.reg 13) permW [4] = none ∧
    small.handleCheck 0 (small.reg 13) permR [4] = none ∧ (small.heap (small.targetHeap 13) 0).2 = [] ∧
    (small.cluster (small.targetHeap 13)).heapWait = [] ∧ small.sramUsed (small.targetHeap 13) < 4096 ∧
    small.spillOf (small.targetHeap 13) 0 = [] ∧
    (let full (tlb : List TlbEntry) : State := { small with clusters := [(0, { tlb := tlb, heaps := [(0, 0, List.replicate 4096 1)] })] }
     4096 ≤ (full pages).sramUsed 0 ∧ 4096 ≤ (full []).sramUsed 0 ∧ (full pages).spillOf 0 0 = [] ∧ (full []).spillOf 0 0 = [] ∧
     ((full pages).spillKey 0 0 0 .write).isSome = true ∧ ((full []).spillKey 0 0 0 .write).isNone = true) ∧
    (s.heap (s.targetHeap 13) 0).2 = [1, 1, 2] ∧
    ([1, 1, 2] : List W256).Pairwise (fun x y => heapKey x ≤ heapKey y) ∧
    (let u := waits (.heap 21 13)
     let f := u.focus 2 slot1
     u.boundAt slot1 = some 2 ∧ f.handleCheck f.cx.asid (f.reg 13) permR [4] = none) := by decide +kernel

/-- A queue with room for one record, a full one, one that holds a record of this key, and none. -/
theorem witness_EventResults : let r : W256 := 5 * 2 ^ 32
    let mine (r : W256) : Bool := r.extractLsb' 160 9 == small.cx.asid && r.extractLsb' 32 32 == (small.bits 5).extractLsb' 0 32
    (small.cluster small.cxCluster).evWait = [] ∧ (small.cluster small.cxCluster).evHeld = [] ∧
    (List.replicate 1023 r).length < 1024 ∧ 1024 ≤ (List.replicate 1024 r).length ∧ [0, r].find? mine = some r ∧
    ([] : List W256).find? mine = none ∧
    (let s : State := { small with cx := { me with run := .waiting, wait := .event 21 5 } }
     let u := s.updCluster s.cxCluster fun c => { c with evWait := [s.cx.id] }
     s.cx.id ≠ 0 ∧ u.boundAt ⟨0, 0⟩ = some s.cx.id) := by decide +kernel

theorem witness_ControlReads : small.cx.priv = true ∧ user.cx.priv = false ∧ 0x100 ≤ (0x100 : BitVec 12).toNat := by decide

theorem witness_ControlWrites : small.cx.priv = true ∧ (0x047 : BitVec 12).toNat < 0x100 ∧
    (small.ctlRead 0x042).and (~~~(copyMask 0x042)) = 0 ∧ (small.ctlRead 0x047).and (~~~(copyMask 0x047)) = 0 ∧
    (small.x 5).getLsbD 9 = false := by decide +kernel

/-- A capability of `size` bytes at the scratchpad's foot. -/
def area (size : Nat) : RegVal := capOf 0 0 0 (.ofNat 64 size)

/-- SAVE of a context that is bound, saved, given too small an area (a byte too few), and given enough; RESUME of one
that waits, is incomplete, is not saved, and whose image is the one that SAVE wrote with one register live. -/
theorem witness_SaveResults : let s := holding [(21, area 2111), (22, area 2112)]
    let t : Ctx := { other with run := .ready }
    let u : State := { s with ctxs := [t] }
    let h : ImageHead := ⟨1, 2, 1, 0, false, false, 0, 0x40, 0, 0⟩
    let img := toBytes h.toBits.toNat 64 ++ toBytes 7 32
    let saved : Ctx := { t with saveCnt := 1, save := { saved := true } }
    let v : State := State.homeWrite { s with ctxs := [saved] } (Place.spad 0 0).key img
    s.cx.preempt = false ∧ user.cx.priv = false ∧ s.cx.priv = true ∧ s.handleCheck 0 (s.reg 9) permW [3] = none ∧
    ((with2 second).targetCtx 9 = some second ∧ second.res = .bound) ∧
    (v.targetCtx 9 = some saved ∧ saved.res ≠ .bound ∧ saved.leaving = false) ∧
    (u.targetCtx 9 = some t ∧ t.save.saved = false ∧ u.saveCapBad t 21 = true ∧ u.saveCapBad t 22 = false ∧
      (match u.writeImage u.cxCluster 0 (u.reg 22) 2 true with
        | (.ok, w) => (w.getCtx 2).isSome && w.cx.id != 2
        | _ => false) = true) ∧
    (v.capCheck 0 (v.reg 22) permR 0 64 = none ∧ (v.cap 22).kind = 0 ∧ saved.savePending = false ∧
      saved.incomplete = false ∧ ({ saved with savePending := true } : Ctx).savePending = true ∧
      ({ saved with incomplete := true } : Ctx).incomplete = true ∧
      good (engRead v.cxCluster 0 (v.cap 22) 65 0 64 (v.clampScope .sys)) (fun r =>
        let g := ImageHead.ofBits (.ofNat 512 (ofBytes r.1))
        g == h && v.headOk saved g && g.cnt == saved.saveCnt && (imageRanges g.ranges).all (fun x => x.2 == 0) &&
          (r.2.capCheck 0 ⟨(v.cap 22).toBits, true⟩ permR 0 h.size).isNone &&
          good (engRead r.2.cxCluster 0 (v.cap 22) (h.size + 1) 64 (h.size - 64) r.2) fun w => w.1 == toBytes 7 32) = true) ∧
    (v.headOk saved { h with ctx := 3 } = false ∧ v.headOk saved { h with cnt := 2 } = true) ∧
    (let c : Ctx := { t with preempt := true, save := { imgCap := area 2112 }, fullSave := true, core := 0 }
     let w : State := { s with ctxs := [c] }
     c.leaving = true ∧ c.savePending = false ∧ c.storeQ = [] ∧
     (w.writeImage (clusterOf c.core) c.asid c.save.imgCap 2 c.fullSave).1 = .ok) := by decide +kernel

/-- Records in an inbox of one entry; a record that is held; a core with a buddy and one without; an interrupt. -/
theorem witness_HandlerResults : let r : TrapRec := ⟨0x13, 1, 1, 0, 3, 2, 0x10, 5, 0, 0, 0, 0, 0, 0, 0, false⟩
    let s : State := { small with cx := { me with handler := true } }
    let core (k : Core) : State := { s with cores := [(0, { k with bound := (Vector.replicate 8 none).set 0 (some 1) })] }
    let a := core { inbox := [r] }
    let b := core { held := [r], buddy := 0x1001 }
    (user.cx.priv = false ∧ small.cx.handler = false ∧ s.cx.handler = true ∧ (s.core 0).inbox = []) ∧
    ((a.core a.cx.core).inbox = [r] ∧ r.asid ≠ a.cx.asid ∧ (a.getCtx r.ctxId).isSome ∧ r.ctxId ≠ 0 ∧
      (a.space a.cx.asid).freeHandle ≤ 0x7FFFFF) ∧
    ((b.core 0).held = [r] ∧ b.recordReady r = true ∧ (b.core 0).buddy.getLsbD 12 = true ∧
      (core { held := [r] }).recordReady r = true ∧ ((core { held := [r] }).core 0).buddy.getLsbD 12 = false ∧
      (b.core ((b.core 0).buddy.extractLsb' 0 9)).inbox.length < 64 ∧
      b.boundAt ⟨(b.core 0).buddy.extractLsb' 0 9, (b.core 0).buddy.extractLsb' 9 3⟩ = none) ∧
    (let e : StoreEntry := { target := .bytes 0 true, n := 8, data := 7, size := .b64 }
     ({ b with ctxs := [{ other with storeQ := [e] }] } : State).recordReady r = false) ∧
    (let c : Ctx := { second with handler := true, ie := true }
     let u : State := { with2 c with cores := [(0, { (with2 c).core 0 with ints := 2 })] }
     (u.core 0).ints = 1#8 <<< slot1.slot.toNat ∧ u.boundAt slot1 = some 2 ∧ u.getCtx 2 = some c ∧ c.wait = .none ∧ c.pend = []) ∧
    (let u : State := { s with clusters := [(0, { barista := [r, { r with cause := 0x0A }] })] }
     (u.cluster 0).barista = [r, { r with cause := 0x0A }] ∧ (u.getCtx r.ctxId).any (fun c => c.run == .frozen) = true ∧
     r.cause ≠ 0x0A ∧ r.cause ≠ 0x0B ∧ r.cause ≠ 0x0C) ∧
    (let u : State := { with2 second with cycle := 0x4000000 }
     u.boundAt slot1 = some 2 ∧ (u.core 0).wdog.toNat ≠ 0 ∧ (u.core 0).wdog.toNat ≤ (u.cycle - second.retireCyc).toNat ∧
     ¬ (u.core 0).wdog.toNat ≤ (0x3FFFFFF - second.retireCyc).toNat ∧ second.run = .ready ∧ second.wait = .none ∧
     second.pend.any Pending.outside = false) := by decide +kernel

/-- A record that names the second context (handle 5, slot 1), and one that names none; a quantum that ends at this
cycle; a gang that is due to rise and one that is not; a forced save; an absent quad. -/
theorem witness_SchedulingResults : let c : Ctx := { other with run := .ready, stackHeld := true }
    let u : State := (beside c).setSlotRec slot1 { w0 := 5 ||| (1 <<< 57), w2 := 1 }
    (small.slotRec slot1).w2.getLsbD 0 = false ∧
    (u.slotRec slot1).w2.getLsbD 0 = true ∧ u.recordCtx slot1 (u.slotRec slot1) = some c ∧ u.getCtx c.id = some c ∧
    c.id ≠ 0 ∧ u.slotFree slot1 = true ∧ c.qcached = 0 ∧
    (let v := small.setSlotRec slot1 { w2 := 1 }
     (v.slotRec slot1).w2.getLsbD 0 = true ∧ v.recordCtx slot1 (v.slotRec slot1) = none) ∧
    (let k : Ctx := { second with quantum := 10, save := { imgCap := area 2112 } }
     let v : State := { with2 k with cycle := 10 }
     v.boundAt slot1 = some 2 ∧ v.getCtx 2 = some k ∧ k.id = 2 ∧ k.quantum ≠ 0 ∧ k.preempt = false ∧
     k.bindCyc.toNat + k.quantum.toNat ≤ v.cycle.toNat ∧
     ¬ k.bindCyc.toNat + k.quantum.toNat ≤ ({ v with cycle := 9 } : State).cycle.toNat ∧
     (let asked : Ctx := { k with save := { k.save with imgCap := k.nextImage } }
      let w := v.updCtx 2 fun _ => asked
      w.imageCapOk asked = true ∧ w.keyMissing asked = false)) ∧
    (let g : Gang := { id := 7, launch := 0, asid := 0, members := [2], cluster := some 0, level := 1, home := 1 }
     let v : State := { beside { c with gang := 7 } with gangs := [g], cycle := 0x100001 }
     v.gangs.find? (fun x => x.id == g.id) = some g ∧ v.agingDue g = true ∧
     ({ v with cycle := 0x100000 } : State).agingDue g = false) ∧
    (let k : Ctx := { second with preempt := true, run := .waiting, wait := .heap 21 13 }
     (with2 k).boundAt slot1 = some 2 ∧ (with2 k).getCtx 2 = some k ∧ slot1 = ⟨k.core, k.slot⟩ ∧ k.wait.stops = true ∧
     k.pend = [] ∧ k.storeQ = [] ∧ k.stash = []) ∧
    (let q : BitVec 4 := 15
     let c : Ctx := { second with pcCap := me.pcCap }
     let s := (with2 c).homeWrite (Place.spad 0 0).key (toBytes 0x00080F02 4)
     c.qcached &&& quadBit q = 0 ∧ c.qvalid &&& quadBit q = 0 ∧ (s.core c.core).lines.length < 16 ∧ c.wait = .none ∧
     s.boundAt slot1 = some 2 ∧ s.getCtx 2 = some c ∧ (s.focus 2 slot1).namesQuad q = true) := by decide +kernel

theorem witness_CompletionResults : let p : Pending := { pc := 0, left := 1, dst := [21], src := [15], wr := some 21
                                                         kind := .load (.bytes (Place.spad 0 0x200).key true) 8 .b64 false false }
    let c : Ctx := { second with pend := [p] }
    (with2 c).slotOwner slot1 = some 2 ∧ (with2 c).getCtx 2 = some c ∧ c.pend[0]? = some p ∧ p.wr = some 21 ∧
    (with2 c).memErr = false ∧ (0x1FF : Word).getLsbD 9 = false ∧ (0x200 : Word).getLsbD 9 = true := by decide +kernel

end Sys2Proof.Tests
end

