-- ==== Sys2Proof/Tests/WitnessEngines.lean ====
section
/-!
SUPPORT. Sys2Proof/Tests/WitnessEngines.lean: witnesses, as in Witness.lean, for the statements about engines, the
exchange, peers, the host and Kettle.
-/
namespace Sys2Proof.Tests
set_option Elab.async false
open Sys2Proof Sys2Proof.Machine

/-- A queued job. -/
def job (w : W256) (caps : List RegVal := []) : Job :=
  { id := 1, word := w, caps := caps, asid := 0, ctx := 1, launch := 0, cluster := 0 }

/-- An engine with these jobs; ASID 0 owns tile 0 of cluster 0, and launch 0 holds core 0's scratchpad. -/
def engined (e : EngineIx) (js : List Job) : State :=
  { small with
    engines := [(e.toNat, { jobs := js })]
    allotments := [⟨0, 0, 0, 0x40000⟩]
    clusters := [(0, { tlb := pages, own := (Vector.replicate 16 0).set 0 0x200 })] }

/-- The job is at the head of its engine, and may start. -/
def runs (s : State) (e : EngineIx) (kind : EngineKind) (j : Job) : Bool :=
  (s.engine e).head == some j && engineKind e == kind && !(kind.serial j.cmd && (s.engine e).oneBusy) && s.jobWait e j == .go

theorem runs_iff (s : State) (e : EngineIx) (kind : EngineKind) (j : Job) : runs s e kind j = true → Runs s e kind j := by
  simp only [runs, Bool.and_eq_true, beq_iff_eq, Bool.not_eq_true']
  exact fun ⟨⟨⟨a, b⟩, c⟩, d⟩ => ⟨a, b, c, d⟩

/-- An unmapped address of /mem. -/
def unmapped : RegVal := capOf 8 0 0x20000 0x100000

/-- A refused capability; too many extras for the registers left; a word of an unknown command; a NOP, with the queue
one short of full, and full; a running and a queued job; a job that has ended; a wait whose job is over, and one not. -/
theorem witness_JobResults : let s := { holding [(62, num 0x13)] with engines := (engined 0 [job 0, { job 0 with id := 2, stage := .running }]).engines }
    let full (n : Nat) : List Job := List.replicate n (job 0)
    let j : Job := { job 0 with stage := .ended }
    s.handleCheck 0 (s.reg 5) permE [2] = some .capTag ∧ s.handleCheck 0 (s.reg 12) permE [2] = none ∧
    s.targetEngine 12 = 0 ∧ ¬ 64 ≤ 62 + (extras (s.bits 62)).length ∧ 64 ≤ 63 + (extras (s.bits 62)).length ∧
    (s.commandBad 0 .matrix (s.bits 6) [] (fun _ => 0)).isSome ∧ s.commandBad 0 .matrix 0 [] (fun _ => 0) = none ∧
    wf 0 0 8 ≠ 0x52 ∧ (s.engine 0).turnTaken s.cycle s.cx.core = false ∧
    Engine.turnTaken { turn := some (s.cycle, 5) } s.cycle 3 = true ∧ (s.cluster 0).counters.length < 256 ∧
    (full 2).length < 256 ∧ EngineKind.matrix.depth - (full 2).length < 256 ∧ (full 63).length < EngineKind.matrix.depth ∧ EngineKind.matrix.depth ≤ (full 64).length ∧
    statusCode ((s.engine 0).statusOf 0 1) = 2 ∧ statusCode ((s.engine 0).statusOf 0 2) = 1 ∧
    statusCode ((s.engine 0).statusOf 0 3) ≠ 1 ∧ statusCode ((s.engine 0).statusOf 0 3) ≠ 2 ∧
    (s.jobOf 0 2).any (fun j => j.asid == 0 && j.stage != .queued) = true ∧
    (s.jobOf 0 1).any (fun j => j.asid == 0 && j.stage == .queued && !j.ev && !j.arrives && j.cq.isNone) = true ∧
    (s.engine 0).xfers = [] ∧ ((engined 0 [j]).jobOf 0 1 = some j ∧ j.ev = false ∧ j.cq = none ∧ j.counts = []) ∧
    (let u : State := { waits (.job 21 12 7) with engines := s.engines }
     u.boundAt slot1 = some 2 ∧ (u.getCtx 2).any (fun c => c.wait == .job 21 12 7 &&
       (u.handleCheck c.asid (c.reg 12) permE [2]).isNone) = true ∧
     (u.openNode 0 3 0).map Node.body = some (.engine 0) ∧ statusCode ((u.engine 0).statusOf 0 1) = 2) := by decide +kernel

/-- No job of the tile, with its owner and another; a job of the tile; a swap that waits for a job, and one that need
not. -/
theorem witness_SwapResults : let s := engined 0 []
    let m := job 0x10
    let w : Swap := ⟨2, 0, 0, [1], 1, [1]⟩
    small.handleCheck 0 (small.reg 5) permE [2] = some .capTag ∧ s.handleCheck 0 (s.reg 12) permE [2] = none ∧
    (s.targetEngine 12 = 0 ∧ engineKind 0 = .matrix ∧ engineKind 64 ≠ .matrix) ∧
    (s.ownsTile 0 0 0 = true ∧ small.ownsTile 0 0 0 = false ∧ (s.engine 0).jobs = [] ∧ (s.engine 0).swaps = []) ∧
    m.usesTile 0 = true ∧ (∀ k ∈ s.allCtxs, ∀ p ∈ k.pend, p.reads = []) ∧
    (let u : State := { waits (.aswap 0 21 12 0) with
       engines := [(0, { jobs := [m], swaps := [w] })], clusters := s.clusters }
     (u.engine ((0 : ClusterIx).setWidth 8)).swaps = [w] ∧ w.ctx ≠ 0 ∧ (u.getCtx 2).any (fun c => c.wait == .aswap 0 21 12 0) = true ∧
     w.waits.any (fun id => (u.jobOf 0 id).isSome) = true ∧
     (let v : State := { u with engines := [(0, { swaps := [w] })] }
      w.waits.all (fun id => (v.jobOf 0 id).isNone) = true ∧ v.ownsTile 0 w.tile.toNat w.asid = true)) := by decide +kernel

/-- One element of one byte from 0x200 to 0x400 of the scratchpad. -/
def copies : CopyRegs := { src := capOf 0 0 0x200 0x40000, dst := capOf 0 0 0x400 0x40000 }

/-- A transfer of those registers. -/
def xfer : Xfer := { id := 1, asid := 0, ctx := 1, launch := 0, core := 0, regs := copies, todo := [32, 33] }

/-- A bad source, a bad destination, an element outside, a good copy with a free entry and with none; a transfer whose
next sector is ready; a replay with nothing parked and with one sector; an abort. -/
theorem witness_CopyResults : let s (r : CopyRegs) : State := { small with cx := { me with copy := r } }
    let e := copyEngine 0
    let j : Job := job (0x30 + 2 ^ 64)
    let busy (x : Xfer) : State := { small with engines := [(e.toNat, { jobs := [j], xfers := [x] })] }
    (small.handleCheck 0 small.cx.copy.src permR [0]).isSome ∧
    ((s { copies with dst := {} }).handleCheck 0 copies.src permR [0] = none ∧
      ((s { copies with dst := {} }).handleCheck 0 {} permW [0]).isSome) ∧
    ((s copies).handleCheck 0 copies.dst permW [0] = none ∧ copies.mode.getLsbD 32 = false ∧
      ({ copies with src := capOf 0 0 0x40000 0x40000 } : CopyRegs).outOfBounds = some 0x040) ∧
    (good (s copies).copyCheck (fun u => u.cx == (s copies).cx && u.engines == (s copies).engines && u.mem == small.mem) = true ∧
      copies.sectors = [32] ∧ ((s copies).engine e).xfers = [] ∧ ((s copies).engine e).turnTaken 0 0 = false ∧
      Engine.turnTaken { turn := some (0, 1) } 0 0 = true ∧ 32 ≤ (List.replicate 32 xfer).length) ∧
    (let c : Ctx := { second with run := .waiting, wait := .cpyGo 21, copy := copies }
     (with2 c).boundAt slot1 = some 2 ∧ (with2 c).getCtx 2 = some c ∧ ((with2 c).engine (copyEngine (clusterOf c.core))).xfers = [] ∧
     c.copy.sectors ≠ []) ∧
    ((busy xfer).xferOf e 1 = some xfer ∧ xfer.todo.contains 32 = true ∧ ((busy xfer).engine e).xferReady xfer = true ∧
      good ((busy xfer).moveSector (engineCluster e) xfer 32) (fun r => r.2.isEmpty && r.1.engines == (busy xfer).engines) = true ∧
      xfer.todo.filter (· != 32) ≠ []) ∧
    runs (busy xfer) e .copy j = true ∧ ((engined e [j]).jobXfer e j = none) ∧
    ((busy xfer).jobXfer e j = some xfer ∧ xfer.parked = [] ∧ xfer.regs.bar.tag = false ∧ xfer.regs.mode.getLsbD 33 = false) ∧
    (let x : Xfer := { xfer with todo := [], parked := [32] }
     (busy x).jobXfer e j = some x ∧
     good ((busy x).moveSector (engineCluster e) x 32) (fun r => r.2.isEmpty && r.1.engines == (busy x).engines) = true) := by
  decide +kernel

/-- A job that waits for no barrier, one whose barrier is still in the phase before, one whose barrier is poisoned, and
one whose barrier lies outside the allotment. -/
theorem witness_JobStarts :
    (([0x14, 0x15, 0x50, 0x51, 0x53] : List (BitVec 8)).all fun c => ((engined 0 [job 0]).engine 0).paused c == none) = true ∧
    let wait (ph loc : Nat) : Job := job (.ofNat 256 (0x100 + loc * 2 ^ 32 + ph * 2 ^ 52))
    let s (j : Job) := engined 0 [j]
    ((s (job 0)).engine 0).head = some (job 0) ∧ (s (job 0)).jobWait 0 (job 0) = .go ∧
    (s (wait 1 0)).jobWait 0 (wait 1 0) = .wait ∧ (s (wait 0 0)).jobWait 0 (wait 0 0) = .go ∧
    State.jobWait { s (wait 1 1) with mem := [⟨(Place.spad 0 32).key, 0x10⟩] } 0 (wait 1 1) = .skip ∧
    (s (wait 1 0x1FFFF)).jobWait 0 (wait 1 0x1FFFF) = .fault ∧
    ((engined 128 [job 0x50]).engine 128).jobs.countP (fun j => j.stage != .queued) < 8 ∧
    ((engined 0 [job 0, { job 0 with id := 2, stage := .running }]).engine 0).oneBusy = true := by decide +kernel

/-- MZERO, MMA and MMAS of zero words: they start, and the index rows of zeros fail; a row of 0 to 7 thirty-two times is
one that passes. An owner of another tile is refused. -/
theorem witness_MatrixResults : let s (c : W256) := engined 0 [job c]
    let dense (c : W256) : List Locator :=
      let m := MmaSpec.ofWord c
      [⟨1, 0, operandBytes m.ta m.pa⟩, ⟨2, 0, operandBytes m.tb m.pb⟩]
    let sparse (c : W256) : List Locator :=
      let m := MmaSpec.ofWord c
      [⟨1, 0, operandBytes m.ta m.pa⟩, ⟨2, 0, 16 * operandBytes m.tb m.pb⟩, ⟨3, 0, 16384⟩]
    runs (s 0) 0 .matrix (job 0) = true ∧ runs (s 0x10) 0 .matrix (job 0x10) = true ∧ runs (s 0x11) 0 .matrix (job 0x11) = true ∧
    runs (s 0x12) 0 .matrix (job 0x12) = true ∧ (s 0x12).startBad 0 (job 0x12) [] [] = none ∧
    (s 0x10).startBad 0 (job 0x10) (dense 0x10) [] = none ∧ (s 0x11).startBad 0 (job 0x11) (sparse 0x11) [] = none ∧
    (s 0x1012).startBad 0 (job 0x1012) [] [] = some (Cause.capPerm.code, 6) ∧ (s 0x10).powerLimited = false ∧
    (s 0x10).memErr = false ∧ indexRowOk 8 (List.replicate 256 0) = false ∧
    indexRowOk 8 ((List.range 256).map fun i => .ofNat 8 (i % 8)) = true := by decide +kernel

/-- A job of each of the three moves with an extra register, and its state. -/
def moves (c : W256) (v : RegVal) : State := engined 0 [job c [v]]

/-- The three moves start; a stale extra register is refused. -/
theorem witness_BankMoves : let v := area 0x40000
    runs (moves 0x13 v) 0 .matrix (job 0x13 [v]) = true ∧ runs (moves 0x14 v) 0 .matrix (job 0x14 [v]) = true ∧
    runs (moves 0x15 v) 0 .matrix (job 0x15 [v]) = true ∧ (moves 0x13 v).startBad 0 (job 0x13 [v]) [] [4] = none ∧
    (moves 0x14 v).startBad 0 (job 0x14 [v]) [] [4] = none ∧ (moves 0x15 v).startBad 0 (job 0x15 [v]) [] [4] = none ∧
    ((moves 0x13 (capOf 99 0 0 64)).startBad 0 (job 0x13 [capOf 99 0 0 64]) [] [4]).isSome ∧
    (moves 0x13 v).capNear 0 (job 0x13 [v]) 0 = true ∧ (moves 0x13 v).powerLimited = false := by decide +kernel

/-- Reads from the scratchpad and from an unmapped address, and a write to the scratchpad. -/
theorem witness_BankMoves_transfers : let v := area 0x40000
    good (readSectors 0 0 (Cap.ofBits v.val) 4 0 0 (moves 0x13 v)) (fun r => r.1.length == 128) = true ∧
    bad (readSectors 0 0 (Cap.ofBits unmapped.val) 4 0x20000 0 (moves 0x13 unmapped)) = true ∧
    (engWrite 0 0 (Cap.ofBits v.val) 10 0 (List.replicate 64 7) 0 [] (moves 0x14 v)).2.2.1.isNone = true := by
  decide +kernel

/-- A write to an unmapped address. -/
theorem witness_BankMoves_fault :
    (engWrite 0 0 (Cap.ofBits unmapped.val) 10 0x20000 [7] 0 [] (moves 0x14 unmapped)).2.2.1.isSome = true := by
  decide +kernel

/-- MSTA and MCVT jobs that have paused with one sector left: it is stored, it fails, or the run pauses before it. -/
theorem witness_BankMoves_paused :
    (([(0x14, mstaPiece), (0x15, fun e j p s => mcvtPiece e j ((s.cvtRows e j).map (·.1)) p s)] :
        List (W256 × (EngineIx → Job → Piece → State → Except (Bad × Nat) (List Piece × List Ev × State)))).all fun (c, go) =>
      let j (v : RegVal) : Job := { job c [v] with stage := .running, todo := some [.move 0] }
      let s (v : RegVal) : State := engined 0 [j v]
      let at_ (v : RegVal) (slices : List Nat) := State.runPieces { s v with slices := slices } (go 0 (j v)) 1 [.move 0]
      ((s (area 0x40000)).engine 0).paused (j {}).cmd == some (j (area 0x40000)) &&
        (let m := at_ (area 0x40000) []
         m.bad.isNone && m.left.isEmpty && m.state.engines == (s (area 0x40000)).engines) &&
        (let m := at_ (area 0x40000) [0]
         m.bad.isNone && m.left == [.move 0]) &&
        (at_ unmapped []).bad.isSome) = true := by decide +kernel

/-- A witness slot: valid, with a header of one row and one column of f32 whose body is at 0. -/
def witnessed (c : W256) (hd : Nat) (gen : BitVec 24) : State :=
  let s := engined 0 [job c [area 0x40000, area 0x40000]]
  State.homeWrite (s.updWit 0 0 fun w => { w with valid := true, gen := gen }) (Place.spad 0 0).key (toBytes hd 32)

/-- RED of one f32 element; WREL; ADJB with a generation that is not the slot's, with a header that is out of range, and
with a good header whose number is in the group and whose is not. -/
theorem witness_WitnessResults : let red : W256 := 0x20 + 0x10 * 2 ^ 72
    let adj : W256 := 0x21 + 0x10 * 2 ^ 136
    let j (c : W256) : Job := job c [area 0x40000, area 0x40000]
    let hd := 0x10 * 2 ^ 32 + 2 ^ 144
    let s (c : W256) := witnessed c hd 0
    let tile : Locator := ⟨8, 0, witTileBytes (redShape red).bodyBytes⟩
    let h := adjShape adj 0
    runs (s red) 0 .matrix (j red) = true ∧ (s red).startBad 0 (j red) [tile] [4, 7] = none ∧ (redShape red).outputs = 1 ∧
    good (readSectorList 0 0 ((j red).extraCap 0) (sectorsOf (tileOffsets 0 1 1 4 4)) (s red)) (fun r => r.1.length == 1) = true ∧
    (writeSectorList 0 0 ((j red).extraCap 1) [(0, toBytes 0 4)] [0] 0 (s red)).2.1 = none ∧
    runs (s 0x22) 0 .matrix (j 0x22) = true ∧ (s 0x22).startBad 0 (j 0x22) [] [] = none ∧
    runs (s adj) 0 .matrix (j adj) = true ∧ (s adj).startBad 0 (j adj) [] [4, 7] = none ∧
    (s adj).nat (Place.spad 0 0).key 32 = hd ∧ ((s adj).witSlot 0 0).valid = true ∧ ((s adj).witSlot 0 0).gen = 0 ∧
    ((witnessed adj hd 1).witSlot 0 0).gen ≠ 0 ∧ headerOk hd h = true ∧ headerOk 0 h = false ∧
    bitsOf hd 64 24 = 0 ∧ bitsOf hd 0 4 = h.op ∧ bitsOf hd 6 1 = h.axis ∧ bitsOf hd 8 8 = h.g - 1 ∧
    bitsOf hd 16 8 = h.rows - 1 ∧ bitsOf hd 24 8 = h.cols - 1 ∧ (operandType adj 136).fmt.isSome ∧
    (adjRoute h [0] 0).isSome ∧ (adjRoute h [1] 0) = none ∧ (s red).powerLimited = false ∧ (s red).memErr = false := by
  decide +kernel

/-- Ports and a table; a member that completes its gang and one that does not; weight 1 and 0; a grant with the deficit,
and without; items of each kind at their cycle and before; the end of a phase. -/
theorem witness_ExchangeResults : let m : XMember := { ctx := 2, core := 0, entries := [], d := 10 }
    let r : XRequest := ⟨.gang 0, 0, [m], []⟩
    let item (k d : BitVec 8) : XItem := ⟨5, 0, 0, k, d, 0, 0, (Place.spad 0 0x200).key⟩
    let p (k d : BitVec 8) : Phase := { group := .gang 0, t0 := 100, dp := 10, members := [m], items := [item k d], flits := [] }
    let s (k d : BitVec 8) (cyc : Word) : State := { waits (.xgo 21) with phase := some (p k d), cycle := cyc }
    small.x 0 = 0 ∧ small.x 17 = .ofNat 64 ((1 : Fin 12).val + 1) ∧ 12 < (small.x 6).toNat ∧
    bad (small.xgoTable 5 1) = true ∧ good (small.xgoTable 15 0) (fun x => x.1.isEmpty && x.2.cx == small.cx) = true ∧
    (small.xarrived = [] ∧ small.cx.id ≠ 0 ∧ small.xComplete r = true ∧ small.xWeight 0 ≠ 0 ∧
      State.xWeight { small with pkg := { small.pkg with weights := Vector.replicate 65 0 } } 0 = 0) ∧
    (let g : Gang := { id := 7, launch := 0, asid := 0, members := [1, 2] }
     State.xComplete { small with gangs := [g] } ⟨.gang 7, 0, [m], []⟩ = false) ∧
    (small.farLed small.cx.group = false ∧
      (let u : State := { small with spans := [{ id := 1, gangs := [], chips := [3], lead := some 3 }] }
       u.farLed (.span 1) = true ∧ u.xComplete ⟨.span 1, 0, [m], []⟩ = true)) ∧
    (let u : State := { small with xqueue := [r], deficits := [(0, 1024)] }
     u.phase = none ∧ u.xHead u.xvisit = some r ∧ u.xWeight u.xvisit ≠ 0 ∧ r.length ≤ tget u.deficits u.xvisit.toNat 0 ∧
     (let r' : XRequest := ⟨.gang 0, 0, [{ m with d := 4096 }], []⟩
      0 + u.xWeight 0 * 1024 < r'.length)) ∧
    ((s 1 0 105).phase = some (p 1 0) ∧ (p 1 0).t0.toNat + (item 1 0).cycle ≤ (s 1 0 105).cycle.toNat ∧
      (s 1 0 104).cycle.toNat < (p 1 0).t0.toNat + (item 1 0).cycle ∧ (p 1 0).members[0]? = some m ∧
      ((s 1 0 105).getCtx m.ctx).isSome ∧ (item 1 3).dir.toNat < 4 ∧ (item 1 4).dir.toNat = (0 : Fin 12).val + 4) ∧
    (let f : Flit := ⟨0, 2, 4, 7⟩
     f.core = m.core ∧ f.dir = (item 2 2).dir ∧ f.cycle + 1 = (item 2 2).cycle) ∧
    (let q : Phase := { p 1 0 with items := [] }
     let u : State := { s 1 0 118 with phase := some q }
     q.t0.toNat + q.dp + 8 ≤ u.cycle.toNat ∧ (s 1 0 117).cycle.toNat < q.t0.toNat + q.dp + 8 ∧
     (u.getCtx m.ctx).any (fun c => c.wait == .xgo 21) = true) := by decide +kernel

/-- BCOPY and BFILL of 32 bytes in the scratchpad, and from an unmapped address; TCOUNT; a TRIG not seen, whose
threshold its counter meets and one it does not; a keyed access of an export and one without. -/
theorem witness_BulkResults : let len (n : Nat) : W256 := .ofNat 256 (n * 2 ^ 64)
    let cp := job (0x50 + len 32) [area 0x40000, capOf 0 0 0x1000 0x40000]
    let un := job (0x50 + len 32) [unmapped, area 0x40000]
    let fill := job (0x51 + len 32) [capOf 0 0 0x1000 0x40000]
    let tc := job (0x53 + len 1) [capOf 8 0 0x40 0x100000]
    let s (j : Job) := engined 128 [j]
    let run (j : Job) := BulkRun.of 128 j j.word j.caps []
    let loop (j : Job) := pieceLoop (bulkPiece (run j)) (9 * (run j).pieces.length) (run j).pieces [] (s j)
    let half : Job := { cp with stage := .running, todo := some (run cp).pieces }
    let late : Job := { job (.ofNat 256 0x52) [capOf 8 0 0x40 0x100000] with
      inner := some (cp.word, cp.caps), fired := true, stage := .running, todo := some [] }
    let trig (t : Nat) : Job := { job (.ofNat 256 (0x52 + t * 2 ^ 64)) [capOf 8 0 0x40 0x100000] with inner := some (0, []) }
    runs (s cp) 128 .bulk cp = true ∧ (s cp).jobOf 128 cp.id = some cp ∧ cp.inner = none ∧ (s cp).powerLimited = false ∧
    (let r := BulkRun.of 128 cp cp.word cp.caps []
     (r.src.map (·.remote (s cp))).getD false = false ∧ r.dst.remote (s cp) = false ∧ cp.word.getLsbD 98 = false) ∧
    (((s cp).engine 128).paused 0x50 = none ∧ ((s half).engine 128).paused 0x50 = some half ∧ (s half).jobOf 128 half.id = some half ∧
      ((s late).engine 128).paused late.cmd = some late) ∧
    ((loop cp).bad.isNone ∧ (loop cp).left = [] ∧ (loop cp).state.engines = (s cp).engines) ∧
    ((loop fill).bad.isNone ∧ (loop fill).left = []) ∧
    (let m := pieceLoop (bulkPiece (run cp)) (State.slice { s cp with slices := [0] } 9).1 (run cp).pieces [] (s cp)
     m.bad.isNone ∧ m.left ≠ []) ∧
    ((loop un).bad.any (fun x => x.local_ && x.bad.1 == .pageFault)) = true ∧
    (runs (s tc) 128 .bulk tc = true ∧ tc.word.getLsbD 128 = false ∧
      good ((s tc).engReach 0 0 (tc.extraCap 0) .write 0x40 8) (fun r => r.1 == .bytes 0x40 true && r.2.engines == (s tc).engines) = true) ∧
    ((s (trig 0)).engine 128 |>.jobs.find? (fun j => j.inner.isSome && !j.seen)) = some (trig 0) ∧
    (s (trig 0)).trigNext 128 (trig 0) = true ∧ (s (trig 1)).trigNext 128 (trig 1) = false ∧
    (∃ v0, ((s (trig 0)).bulkWork 128 (trig 0) 0 [] []).1 = .done v0) ∧
    (let x : Export := ⟨0, [], 0, 0, 0, 0, 0xFFF, 5, true⟩
     let u : State := { small with exports := [x] }
     let k : W256 := .ofNat 256 (5 * 2 ^ 48)
     bad (small.keyedExport (Key.ofBits k) permR 0 8) = true ∧ good (u.keyedExport (Key.ofBits k) permR 0 8) (fun y => y == x) = true ∧
     good (engRead 0 x.asid x.cap 9 0 8 u) (fun r => r.1.length == 8) = true) := by
  refine ⟨?_, ?_, ?_, ?_, ?_, ?_, ?_, ?_, ?_, ?_, ?_, ?_, ?_, ?_, ⟨0, ?_⟩, ?_⟩ <;> decide +kernel

/-- A tensor layout of one element on one device, and one of no type. -/
def layout (type : Nat) : Nat := type + 0x10100 + 2 ^ 64 + 2 ^ 256 + 2 ^ 336

/-- A Siphon job over layouts at 0x1000 and 0x2000, its control block at 0x3000. -/
def siphoned (cmd : Nat) (src dst : Nat) : State :=
  let at_ (n : Word) : RegVal := capOf 0 0 n 0x40000
  ((engined 156 [job (.ofNat 256 cmd) [at_ 0x1000, at_ 0x2000, at_ 0x3000]]).homeWrite (Place.spad 0 0x1000).key (toBytes src 44)).homeWrite
    (Place.spad 0 0x2000).key (toBytes dst 44)

/-- Operands that are read and pass; a layout of no type; operands at an unmapped address; a record whose digest is not
the layouts'. -/
theorem witness_SiphonResults : let s := siphoned 0x40 (layout 2) (layout 2)
    let j := (s.jobOf 156 1).getD (job 0)
    let un := engined 156 [job 0x40 [unmapped, unmapped, unmapped]]
    runs s 156 .siphon j = true ∧
    good (s.planOperands j) (fun r => (planBad r.1.1 r.1.2.1 0).isNone && r.2.engines == s.engines) = true ∧
    good ((siphoned 0x40 (layout 0) (layout 2)).planOperands j) (fun r => planBad r.1.1 r.1.2.1 0 == some (4, 0)) = true ∧
    bad (un.planOperands (job 0x40 [unmapped, unmapped, unmapped])) = true ∧
    good (readSectors 0 0 (j.extraCap 2) 2 0x3000 0 s) (fun r => numAt r.1 0 4 == 0) = true ∧ small.plan = none := by
  decide +kernel

/-- A plan with a row to move, whose progress record is written; a key that no export has; a query of the record. -/
theorem witness_SiphonResults_plan : let s := siphoned 0x42 (layout 2) (layout 2)
    let j := (s.jobOf 156 1).getD (job 0)
    let p : Plan := ⟨1, 1, 0, j.caps, toBytes (layout 2) 256, toBytes (layout 2) 256, [0], 0, 0, 0, 0, 0, []⟩
    let t : Tlr := Tlr.ofBytes p.src
    s.slices = [] ∧ p.ahead = [] ∧ good (s.writeRecord p 1 0) (fun v => v.engines == s.engines) = true ∧
    s.planNext { p with dcur := 1, scur := 1 } = none ∧ (s.planNext p).any (fun q => good (s.writeRecord q 1 0) fun v => v.engines == s.engines) = true ∧
    s.rowRemote p = false ∧ State.rowRemote { s with pkg := { s.pkg with chip := 3 } } p = true ∧
    (p.rowElems t t 0 0 0).length = 1 ∧
    (rowLoop 0 1 t.elemBytes (p.shard t 0).1 (p.shard t 0).1 (p.rowElems t t 0 0 0) [] s).1.isSome ∧
    (let x : Export := ⟨0, [], 0, 0, 0, 0, 0xFFF, 0, true⟩
     (rowLoop 0 1 t.elemBytes (p.shard t 0).1 (p.shard t 0).1 (p.rowElems t t 0 0 0) [] { s with exports := [x] }).1.isNone) ∧
    runs s 156 .siphon j = true ∧ good (s.progress j) (fun r => r.2.engines == s.engines) = true := by decide +kernel

/-- An export of node 0 as "x", and peer 5's remote handle on it. -/
def exported : State :=
  let x : Export := ⟨0, ascii "x", 0, 0, 0, 0, 0xFFF, 5, false⟩
  let r : RemoteHandle := ⟨1, 2, 5, 0, 0, 0, 0, 0, 3, 4, false, [], [(3, .ack)]⟩
  { small with exports := [x], remotes := [r], fabric := [⟨0, 5, 0x1F⟩] }

/-- A name that is exported and one that is not; a node's export; a remote handle, its next operation and one that has
been answered; a read and a write that reach bytes; a push that is held; the fabric pages of a local and a foreign
partition. -/
theorem witness_PeerServes : let s := exported
    s.exports.find? (fun e => e.part == 0 && e.name == ascii "y") = none ∧
    (s.exports.find? fun e => e.part == 0 && e.name == ascii "x").any (fun e => (s.nodeAt e.asid e.node).isSome) = true ∧
    s.exportFor 3 0 = none ∧ (s.exportFor 0 0).isSome ∧
    s.remotes.find? (fun r => r.ix == 1 && r.gen == 1 && r.chip == 5) = none ∧
    (s.remotes.find? fun r => r.ix == 1 && r.gen == 2 && r.chip == 5).any (fun r => decide (3 < r.next) &&
      (r.answered.lookup 3).isSome && r.next == 4 && r.early.isEmpty && !r.busy && s.remotes.all (fun x => x.ix != r.ix || x == r) &&
      (s.remoteNode r).any (fun (n : Node) => decide (n.body.kind = 0) &&
        good (s.reach { core := 0, asid := r.asid } r.asid 0x200 { acc := .read, n := 8, size := .b64 } 20 n.body 0x200 none)
          (fun t => match t.1 with | .bytes .. => !t.2.memErr && t.2.remotes == s.remotes | _ => false)) &&
      decide (r.mask &&& permR = permR) && decide (r.mask &&& permW = permW)) = true ∧
    (let u : State := queued 0 2
     (u.queueAt 0 2).any (fun q => (u.openNode 0 q.handle q.gen).isSome && !q.ready true) = true) ∧
    ((5 : ChipIx) ≠ s.pkg.chip ∧ (1 : BitVec 8) ≠ s.pkg.part ∧ s.fabric.all (fun e => e.part != 1) = true ∧
      (s.fabricPage 0 5 8 false false).isSome ∧ s.fabricPage 0 6 8 false false = none ∧
      s.ports.toList.all (fun p => p.frozen.isEmpty) = true) := by decide +kernel

/-- A load that waits for its reply, in time and late; a walk; a store; a push; a close. -/
theorem witness_PeerAnswers : let x (k : TxnKind) : Txn := { label := 4, ctx := 2, asid := 0, handle := 7, off := 8, chip := 5, sent := 0, kind := k }
    let p (k : PendKind) : Pending := ⟨0, 1, [21], [3], some 21, k⟩
    let on : Target := .peer 0 7 8
    let s (t : TxnKind) (k : PendKind) : State := { with2 { second with pend := [p k] } with txns := [x t] }
    small.txnOf 4 = none ∧
    (let u := s .load (.remote 4 .b64 false on)
     u.txnOf 4 = some (x .load) ∧ (u.getCtx 2).any (fun c => c.pendFor 4 == some 0 && c.pend[0]? == some (p (.remote 4 .b64 false on))) = true ∧
     (x .load).held = false ∧ ¬ u.pkg.lrp.toNat ≤ (u.cycle - (x .load).sent).toNat ∧
     u.pkg.lrp.toNat ≤ ((0x100000 : Word) - (x .load).sent).toNat ∧ u.slotOwner slot1 = some 2) ∧
    (let u := s (.walk 21 1) (.name 4)
     (u.getCtx 2).any (fun c => c.pendFor 4 == some 0 && c.peerNodes.isEmpty) = true ∧
     (((u.dropTxn 4).peerRoom 2 0).makePeerNode 0 5 3 0 0 64).isSome) ∧
    (let u := s (.open_ 21 0 7 3) (.name 4)
     (u.nodeAt 0 0).isSome ∧ ((u.space 0).handles.find? fun y => y.ix == 7).isSome ∧ (u.getCtx 2).any (fun c => c.pendFor 4 == some 0) = true) ∧
    (let u : State := { waits (.txn 4) with txns := [x (.push none)] }
     u.txnOf 4 = some (x (.push none)) ∧ (u.getCtx 2).any (fun c => c.wait == .txn 4 && c.pend.isEmpty && c.storeQ.isEmpty && c.stash.isEmpty) = true) ∧
    (let h : Txn := { x (.push none) with held := true }
     let v : State := { waits (.txn 4) with txns := [h] }
     let u := v.updSpace 0 fun y => { y with handles := y.handles.map fun k => if k.ix = 7 then { k with remote := some (5, 9, 3) } else k }
     u.txns = [h] ∧ ((u.space 0).handles.any fun k => k.ix == h.handle && k.remote == some (5, 9, 3)) = true ∧
     (u.getCtx h.ctx).any (fun c => c.wait == .txn h.label && c.pend.isEmpty && c.storeQ.isEmpty && c.stash.isEmpty) = true) ∧
    (let f : Txn := { x .load with fabric := true }
     let u : State := { with2 { second with pend := [p (.remote 4 .b64 false on)] } with txns := [f] }
     u.slotOwner slot1 = some f.ctx ∧ u.txnOf 4 = some f) ∧
    (∀ t ∈ small.txns, t.held = false) := by decide +kernel

/-- A write that ends at the last byte of DRAM and one that ends past it; a fault record and none; a function that is
frozen, one that is not, one that does not exist; a queue of another function; a tail within the ring and past it. -/
theorem witness_HostSteps : let r : FaultRec := { asid := 0, index := 3, bits := 0, written := true, waiter := .ctx 2 8 }
    let s : State := { small with faults := [r] }
    small.recovery = false ∧ ¬ 2 ^ 39 < 2 ^ 39 - 1 + [(0 : Byte)].length ∧ 2 ^ 39 < 2 ^ 39 + [(0 : Byte)].length ∧ small.dirty = [] ∧
    (0x8 : Word).getLsbD 0 = false ∧ 156 < ((157 : Word).extractLsb' 0 8 : EngineIx).toNat ∧
    ((156 : Word).extractLsb' 0 8 : EngineIx).toNat ≤ 156 ∧ (156 : Word).extractLsb' 17 47 = 0 ∧
    s.faults.find? (fun r => r.written && r.index == (3 : Word).extractLsb' 0 24) = some r ∧
    small.faults.find? (fun r => r.written && r.index == (3 : Word).extractLsb' 0 24) = none ∧
    (s.getCtx 2).any (fun c => c.run == .frozen) = true ∧ (3 : Word).getLsbD 63 = false ∧
    (small.pkg.vfs.toNat < (1 : FnIx).toNat ∧ ¬ small.pkg.vfs.toNat < (0 : FnIx).toNat ∧
      (1 : FnIx).toNat ≤ ({ small.pkg with vfs := 1 } : PkgRegs).vfs.toNat ∧ (small.kq 0).fn ≠ 1) ∧
    ((small.kq 0).size < ((0x20000 : BitVec 32) - (small.kq 0).tail).toNat ∧
      (.ofNat 32 (small.kq 0).size - (small.kq 0).tail : BitVec 32).toNat ≤ (small.kq 0).size) ∧
    small.fnFrozen 0 = false ∧ State.fnFrozen { small with pkg := { small.pkg with frozen := small.pkg.frozen.set 0 true } } 0 = true ∧
    (4 : BitVec 3).toNat < 5 ∧ small.tlbInvs = [] ∧ (∀ c ∈ small.allCtxs, c.storeQ = [] ∧ c.pend = []) := by decide +kernel

/-- A queue of function 0 whose ring begins at host address 0, with one packet of these fields: the low 16 bytes, the type and
`ORDER`. -/
def packeted (low ty order : Nat) (mem : List (Nat × List Byte) := []) : State :=
  let s := mem.foldl (fun s x => s.homeWrite x.1 x.2) { small with mem := [], clusters := [], queues := small.queues.set 0 { en := true, tail := 1 } }
  (s.homeWrite (2 ^ 64) (toBytes low 16)).homeWrite (2 ^ 64 + 252) [.ofNat 8 ty, .ofNat 8 order, 0, 1]

/-- The tables of ASID 0: page 1 of /mem is text, page 2 data. -/
def tables : List (Nat × List Byte) :=
  [(0, toBytes (1 + 0x1000 + 0xFFF * 2 ^ 96) 64), (0x1000, toBytes (0x101 + 0x20 * 2 ^ 56) 8),
    (0x2000, toBytes (0x101 + 0x30 * 2 ^ 56) 8), (0x3000, toBytes (0x101 + 0x40 * 2 ^ 56) 8),
    (0x4008, toBytes (0x1D + 1 * 2 ^ 16) 8), (0x4010, toBytes (0x1B + 2 * 2 ^ 16) 8)]

/-- An object at host address 0x1000: four bytes of text, 32 of data, one task. -/
def object : List (Nat × List Byte) :=
  [(2 ^ 64 + 0x1000, toBytes (0x424F5747 + 2 ^ 32 + 4 * 2 ^ 64 + 32 * 2 ^ 96 + 256 * 2 ^ 192 + 32 * 2 ^ 256 + 2 ^ 288 + 2 * 2 ^ 384) 64),
    (2 ^ 64 + 0x1000 + 148, [0xFF, 0xFF, 0xFF, 0xFF]), (2 ^ 64 + 0x1000 + 160, [0x61, 0])]

/-- Packets of each kind: none, a bad trailer, NOP, a WAIT whose word is there and one whose is not, a SIGNAL, a FENCE, a
launch of an ASID that is not live. -/
theorem witness_KettleResults : let at_ (s : State) (p : List Byte → Bool) : Bool := (s.packetAt 0).any p
    let addr := 0x2000 + 7 * 2 ^ 64
    small.packetAt 0 = none ∧ at_ (packeted 0 6 0) badTrailer = true ∧ at_ (packeted 0 5 2) badTrailer = true ∧
    at_ (packeted 0 5 0) (fun bs => !badTrailer bs && bs.getD 252 0 == 5) = true ∧ ((packeted 0 5 0).kq 0).open_ = [] ∧
    at_ (packeted addr 2 0) (fun bs => packetField bs 0 8 == 0x2000 && bs.getD 16 0 == 0 &&
      good (kettleRead 0 9 0x2000 8 (packeted addr 2 0)) fun r => !waitHolds 0 (.ofNat 64 (ofBytes r.1)) 7) = true ∧
    good (kettleRead 0 9 0x2000 8 (packeted addr 2 0 [(2 ^ 64 + 0x2000, [7])])) (fun r =>
      waitHolds 0 (.ofNat 64 (ofBytes r.1)) 7 && r.2.queues == (packeted addr 2 0).queues) = true ∧
    at_ (packeted (0xFF8 + 7 * 2 ^ 64) 3 0) (fun bs => packetField bs 0 8 % 4096 == 4088) = true ∧
    at_ (packeted 0 4 1) (fun bs => (bs.getD 253 0).toNat % 16 != 0) = true ∧
    (packeted (0x1000 + 0x2000 * 2 ^ 64) 1 0).asidLive 0 = false ∧ small.launches = [] ∧ small.allotments = [] ∧
    small.hostAbsent = [] := by decide +kernel

/-- A launch of a good object for a live ASID, and one of an object without a magic number; too many tiles; an event to
wait for; a gang that may be placed on cluster 0 and not on cluster 1. -/
theorem witness_KettleResults_launch : let s := packeted (0x1000 + 0x2000 * 2 ^ 64) 1 0 (tables ++ object)
    let bs := (s.packetAt 0).getD []
    let l : Launch := { id := 1, queue := 0, words := bs, asid := 0, fn := 0, deps := packetDeps bs, choice := ⟨0x10000, 0x20000, 0x20400⟩, fscope := 0 }
    let h := ObjHead.ofBytes (s.bytes (2 ^ 64 + 0x1000) 64)
    let o := Obj.ofBytes (s.bytes (2 ^ 64 + 0x1000) h.size)
    s.asidLive 0 = true ∧ l.tileReq ≤ 16 ∧ l.deps = [] ∧ l.replays = false ∧ l.objAddr = 0x1000 ∧ l.doneAddr = 0x2000 ∧
    s.nat (2 ^ 64 + 0x1000) 4 = 0x424F5747 ∧ s.nat (2 ^ 64 + 0x1004) 2 = 1 ∧ h.size = 162 ∧ o.ok = true ∧
    (o.tasks.map o.task).all (fun t => !t.flags.getLsbD 0) = true ∧ s.segmentOk 0 0x10000 h.textSz true = true ∧
    s.segmentOk 0 0x20000 h.dataSz false = true ∧ (relocate 0x20000 o.rels (o.data, o.spad)).isSome = true ∧ s.regionsNew l h = true ∧
    ((relocate 0x20000 o.rels (o.data, o.spad)).all fun images =>
      ((s.putSegment 0 0x10000 o.text true).bind fun u => u.putSegment 0 0x20000 images.1 false).isSome) = true ∧
    (packeted (0x1000 + 0x2000 * 2 ^ 64) 1 0 tables).nat (2 ^ 64 + 0x1000) 4 ≠ 0x424F5747 ∧
    16 < ({ l with words := List.replicate 256 17 } : Launch).tileReq ∧ packetDeps (List.replicate 256 1) ≠ [] ∧
    (let g : Gang := { id := 7, launch := 0, asid := 0, members := [] }
     let u : State := { small with gangs := [g] }
     u.gangs.find? (fun x => x.id == g.id) = some g ∧ u.placementOk g 0 = true ∧ u.placementOk g 1 = false ∧
     u.launchOf g.launch = none) := by decide +kernel

/-- Integer and floating lanes, with and without an enabled lane. -/
theorem witness_LaneResults : LaneType.s8.elem.fmt = none ∧ LaneType.f32.elem.fmt.isSome ∧ small.laneOn 0 3 = true ∧
    ({ small with cx := { me with regs := regs.set 57 {} } } : State).laneOn 1 0 = false := by decide +kernel

theorem witness_DivideResults : FloatLane.f32.lane.elem.fmt.isSome ∧ sextInt (small.lane IntLane.s32.lane 0 0) 32 = 0 := by
  decide +kernel

theorem witness_VectorOther : LaneType.s32.elem.fmt = none ∧ LaneType.f16.elem.fmt.isSome ∧
    ((List.range 8).filter fun i => small.laneOn 1 i) = [] ∧ ((List.range 8).filter fun i => small.laneOn 0 i) ≠ [] := by
  decide +kernel

/-- A gather of eight elements of 4 bytes from one address, one that its first check refuses, one whose capability is of
another kind, and one that leaves the bounds at its second element. -/
theorem witness_VectorMemory : let effs (o st : Nat) : List Word := (List.range 8).map fun i => .ofNat 64 (o + i * st)
    small.capCheck 0 (small.reg 5) permR 0 4 = some .capTag ∧ small.capCheck 0 (small.reg 15) permR 0x200 4 = none ∧
    (small.cap 15).kind = 0 ∧ (small.capCheck 0 (small.reg 11) permR 0 4 = none ∧ (small.cap 11).kind ≠ 0) ∧
    good (State.elementTargets .e32 15 .read (effs 0x200 4) small) (fun r => r.1.length == 8 &&
      r.1.all (fun t => match t with | .bytes .. => true | _ => false) && !r.2.memErr && r.2.cx.pend.isEmpty) = true ∧
    bad (State.elementTargets .e32 15 .read (effs 0x3FFFC 4) small) = true ∧ (1 : BitVec 4) ≠ 0 := by decide +kernel

/-- A step that fetches ADDI, one that fetches an undefined word, one of two words, a guard that is false, and one whose
fetch fails. -/
theorem witness_StepRunsDecoded : let s := State.reset.withFetchWord 32 0x00080F02
    let c := s.cx
    let f (s : State) : State := { s.tick with agenda := [], cur := ⟨0, 0⟩ }
    let fetch (s : State) (addr : Word) := (f s).accessAt s.cx ⟨s.cx.pcCap, s.cx.pcTag⟩ permX addr { acc := .fetch, n := 4, size := .b32, strong := true }
    (s.pkgWrites = [] ∧ (f s).firstSlot ((f s).allCtxs.filter fun k => k.ready && k.core == 0) = some ⟨0, 0⟩ ∧
      (c.handler = false ∨ c.ie = false ∨ (f s).interruptDue ⟨0, 0⟩ = false)) ∧
    s.agenda = [.turn ⟨0, 0⟩] ∧ s.boundAt ⟨0, 0⟩ = some c.id ∧ s.booted = true ∧ s.recovery = false ∧ c.res = .bound ∧
    c.wait = .none ∧ c.run = .ready ∧ c.freezeReq = false ∧ c.killReq = none ∧ c.preempt = false ∧ c.pend = [] ∧ c.late = [] ∧
    good (fetch s c.pc) (fun r => r.1 == .bytes (Place.spad 0 0).key true && r.2.cx == c && r.2.nat (Place.spad 0 0).key 4 == 0x00080F02) = true ∧
    (∃ i, decodeUnit [0x00080F02] = .done i ∧ i.guard = none) ∧ decodeUnit [0x2F] = .illegal 0x2F ∧
    bad (fetch s 4096) = true ∧
    (let t := State.reset.withFetchWord 64 (0x1BF + 0x1A804142 * 2 ^ 32)
     (f t).fetchUnit.1 = 2 ∧ (match (f t).fetchUnit.2.1 with | .unit _ => true | _ => false) = true) := by
  refine ⟨?_, ?_, ?_, ?_, ?_, ?_, ?_, ?_, ?_, ?_, ?_, ?_, ?_, ?_, ⟨⟨none, .addi 60 0 ⟨none, 2⟩⟩, ?_⟩, ?_⟩ <;> decide +kernel

/-- A well-formed unit with words, and a word with an instruction. -/
theorem witness_RoundTrip : let u : IUnit := ⟨some ⟨9, 3, true⟩, .ld {} .b64 false 0 5 3 ⟨some 8, 0⟩⟩
    u.wf = true ∧ encodeUnit u = some [0x0030327E, 0x23F, 0x000C3154] ∧ 0x060C9283 < 2 ^ 32 ∧
    decodeWord 0x060C9283 = some (.slli 10 9 48) := by decide +kernel

theorem witness_MemoryKept : State.MemoryOk (State.reset.withFetchWord 32 0x00080F02) ∧
    after (step (State.reset.withFetchWord 32 0x00080F02)) (fun _ => true) = true := by
  refine ⟨⟨?_, ?_⟩, ?_⟩ <;> decide +kernel

/-- Images that the boot ROM refuses; that it accepts some rests on their signatures. -/
theorem witness_BootResults : State.reset.recovery = false ∧ State.reset.booted = false := by decide

end Sys2Proof.Tests
end

section
/-!
Proofs of this sitting, MemoryKept: every operation of the machine keeps memory in its canonical form (O60).
-/
namespace Sys2Proof.Machine
set_option Elab.async false

/-! ## Memory keeps its canonical form: the vocabulary

`State.MemoryOk` is kept by each operation of the model, and each has one lemma here that says so, under the operation's own
name: `.foo h` reads "`foo` keeps it, given `h` for the state before". An operation that only changes fields other than
`mem` and `tags` needs none: there `h` itself is the proof. `OutOk` says the same of an outcome. -/

/-- A next state has its memory in canonical form; the other outcomes have none. -/
def OutOk : Out → Prop
  | .next t => t.MemoryOk
  | _ => True

theorem OutOk.next {t : State} (h : t.MemoryOk) : OutOk (.next t) := h

theorem OutOk.of_eq {o : Out} {t : State} (h : OutOk o) (e : o = .next t) : t.MemoryOk := by
  subst e; exact h

theorem State.MemoryOk.of_snd {α : Type} {p : α × State} {a : α} {t : State} (e : p = (a, t)) (h : p.2.MemoryOk) :
    t.MemoryOk := by
  subst e; exact h

theorem State.MemoryOk.of_snd2 {α β : Type} {p : α × β × State} {a : α} {b : β} {t : State} (e : p = (a, b, t))
    (h : p.2.2.MemoryOk) : t.MemoryOk := by
  subst e; exact h

theorem State.MemoryOk.of_snd3 {α β γ : Type} {p : α × β × γ × State} {a : α} {b : β} {c : γ} {t : State}
    (e : p = (a, b, c, t)) (h : p.2.2.2.MemoryOk) : t.MemoryOk := by
  subst e; exact h

theorem State.MemoryOk.of_fst {α : Type} {p : State × α} {a : α} {t : State} (e : p = (t, a)) (h : p.1.MemoryOk) :
    t.MemoryOk := by
  subst e; exact h

theorem map_eq_ok_iff {ε α β : Type} {r : Except ε α} {f : α → β} {y : β} :
    r.map f = .ok y ↔ ∃ x, r = .ok x ∧ f x = y := by
  cases r <;> simp [Except.map]

theorem mapError_eq_ok_iff {ε ε' α : Type} {r : Except ε α} {f : ε → ε'} {x : α} :
    r.mapError f = .ok x ↔ r = .ok x := by
  cases r <;> simp [Except.mapError]

/-- A fold over a pair whose second part is the state. -/
theorem foldl_snd_ok {α β : Type} (f : β × State → α → β × State)
    (hf : ∀ b s a, s.MemoryOk → (f (b, s) a).2.MemoryOk) (xs : List α) (b : β) (s : State) (h : s.MemoryOk) :
    (xs.foldl f (b, s)).2.MemoryOk :=
  List.foldlRecOn (motive := fun p => p.2.MemoryOk) xs f h fun p hp a _ => hf p.1 p.2 a hp

theorem State.MemoryOk.ite {c : Prop} [Decidable c] {s t : State} (hs : s.MemoryOk) (ht : t.MemoryOk) :
    (if c then s else t).MemoryOk := by
  split
  · exact hs
  · exact ht

theorem State.MemoryOk.iteSnd {α : Type} {c : Prop} [Decidable c] {p q : α × State} (hp : p.2.MemoryOk)
    (hq : q.2.MemoryOk) : (if c then p else q).2.MemoryOk := by
  split
  · exact hp
  · exact hq

theorem State.MemoryOk.getD {o : Option State} {t : State} (ho : ∀ s, o = some s → s.MemoryOk) (h : t.MemoryOk) :
    (o.getD t).MemoryOk := by
  cases o with
  | none => exact h
  | some s => exact ho s rfl

section
variable {ε α β : Type} {a a' : α} {b b' : β} {s t : State}

theorem State.MemoryOk.of_ok (e : (Except.ok s : Except ε State) = .ok t) (h : s.MemoryOk) : t.MemoryOk := by
  injection e with e; subst e; exact h
theorem State.MemoryOk.of_okPair (e : (Except.ok (a, s) : Except ε (α × State)) = .ok (a', t)) (h : s.MemoryOk) :
    t.MemoryOk := by
  injection e with e; injection e with _ e; subst e; exact h
theorem State.MemoryOk.of_okFst (e : (Except.ok (s, a) : Except ε (State × α)) = .ok (t, a')) (h : s.MemoryOk) :
    t.MemoryOk := by
  injection e with e; injection e with e; subst e; exact h
theorem State.MemoryOk.of_okTriple (e : (Except.ok (a, b, s) : Except ε (α × β × State)) = .ok (a', b', t))
    (h : s.MemoryOk) : t.MemoryOk := by
  injection e with e; injection e with _ e; injection e with _ e; subst e; exact h
theorem State.MemoryOk.of_some (e : some s = some t) (h : s.MemoryOk) : t.MemoryOk := by
  injection e with e; subst e; exact h
theorem State.MemoryOk.of_somePair (e : some (a, s) = some (a', t)) (h : s.MemoryOk) : t.MemoryOk := by
  injection e with e; injection e with _ e; subst e; exact h

theorem State.MemoryOk.of_someTriple (e : some (a, b, s) = some (a', b', t)) (h : s.MemoryOk) : t.MemoryOk := by
  injection e with e; injection e with _ e; injection e with _ e; subst e; exact h

end

/-! ### The lemmas of Laws/Memory and Laws/Kept in this form -/

section
variable {s : State} (h : s.MemoryOk)
include h

theorem State.MemoryOk.write {k : Nat} {b : List Byte} : (s.write k b).MemoryOk := s.write_ok k b h
theorem State.MemoryOk.homeWrite {k : Nat} {b : List Byte} : (s.homeWrite k b).MemoryOk := s.homeWrite_ok k b h
theorem State.MemoryOk.coreWrite {k : Nat} {b : List Byte} : (s.coreWrite k b).MemoryOk := s.coreWrite_ok k b h
theorem State.MemoryOk.focus {id : BitVec 32} {sl : SlotId} : (s.focus id sl).MemoryOk :=
  h.of_eq (s.focus_memory id sl).1 (s.focus_memory id sl).2
theorem State.MemoryOk.planeWrite {key p off : Nat} {ty : ElemType} {data : List Byte} :
    (s.planeWrite key ty p off data).1.MemoryOk := s.planeWrite_ok key ty p off data h
theorem State.MemoryOk.raiseFault {a : Asid} {src : BitVec 4} {cause : Cause} {wr m : Bool} {host : Option Nat}
    {id : BitVec 32} {va : Word} {w : FaultWaiter} : (s.raiseFault a src cause wr m host id va w).MemoryOk :=
  s.raiseFault_ok a src cause wr m host id va w h
theorem State.MemoryOk.flushFault {a : Asid} : (s.flushFault a).MemoryOk := s.flushFault_ok a h
theorem State.MemoryOk.raiseRing {cl : ClusterIx} {a : Asid} {id : BitVec 32} {va : Word} {wr : Bool} {w : FaultWaiter} :
    (s.raiseRing cl a id va wr w).MemoryOk := s.raiseRing_ok cl a id va wr w h
theorem State.MemoryOk.updBar {key : Nat} {f : Bar → Bar} : (s.updBar key f).MemoryOk := s.updBar_ok key f h
theorem State.MemoryOk.putQuads {c : Ctx} {quads : BitVec 16} {pa : Nat} : (s.putQuads c quads pa).MemoryOk :=
  s.putQuads_ok c quads pa h
theorem State.MemoryOk.countFor {id : BitVec 32} {evs : List Ev} : (s.countFor id evs).MemoryOk := s.countFor_ok id evs h
theorem State.MemoryOk.performAt {id : BitVec 32} {i : Nat} : (s.performAt id i).MemoryOk := s.performAt_ok id i h
theorem State.MemoryOk.drain {id : BitVec 32} : (s.drain id).MemoryOk := s.drain_ok id h
theorem State.MemoryOk.drainStash {id : BitVec 32} : (s.drainStash id).MemoryOk := s.drainStash_ok id h
theorem State.MemoryOk.resolvePend {i : Nat} : (s.resolvePend i).MemoryOk :=
  h.of_eq (s.resolvePend_memory i).1 (s.resolvePend_memory i).2
theorem State.MemoryOk.resolveAll : s.resolveAll.MemoryOk := s.resolveAll_ok h
theorem State.MemoryOk.completePend {i : Nat} : (s.completePend i).MemoryOk :=
  h.of_eq (s.completePend_memory i).1 (s.completePend_memory i).2
theorem State.MemoryOk.completeAll : s.completeAll.MemoryOk := h.of_eq s.completeAll_memory.1 s.completeAll_memory.2
theorem State.MemoryOk.writeQuads {id : BitVec 32} {src : BitVec 4} : (s.writeQuads id src).MemoryOk :=
  s.writeQuads_ok id src h
theorem State.MemoryOk.leaveSlot {id : BitVec 32} : (s.leaveSlot id).MemoryOk := s.leaveSlot_ok id h
theorem State.MemoryOk.stopWait {id : BitVec 32} : (s.stopWait id).MemoryOk :=
  h.of_eq (s.stopWait_memory id).1 (s.stopWait_memory id).2
theorem State.MemoryOk.leaveNow {id : BitVec 32} {why : Leaving} : (s.leaveNow id why).MemoryOk := s.leaveNow_ok id why h
theorem State.MemoryOk.leave {id : BitVec 32} {why : Leaving} : (s.leave id why).MemoryOk := s.leave_ok id why h
theorem State.MemoryOk.takeTrap {c : Cause} {v : Word} : (s.takeTrap c v).MemoryOk := s.takeTrap_ok c v h
theorem State.MemoryOk.pendWrite {p : Pending} {v : RegVal} : (s.pendWrite p v).MemoryOk :=
  h.of_eq (s.pendWrite_memory p v).1 (s.pendWrite_memory p v).2
theorem State.MemoryOk.joinLine {id : BitVec 32} {a : Asid} {node : BitVec 23} {q : Queue} {l : Nat} :
    (s.joinLine id a node q l).MemoryOk := s.joinLine_ok id a node q l h
theorem State.MemoryOk.askRing {id : BitVec 32} {a : Asid} {q : Queue} {e : StoreEntry} {l : Nat} :
    (s.askRing id a q e l).MemoryOk := s.askRing_ok id a q e l h

end

section
variable {s t : State}

theorem State.MemoryOk.translate {cl : ClusterIx} {a : Asid} {va : Nat} {acc : Acc} {x : Xlate}
    (e : s.translate cl a va acc = .ok (x, t)) (h : s.MemoryOk) : t.MemoryOk := s.translate_ok cl a va acc x t h e
theorem State.MemoryOk.coreTranslate {core : CoreIx} {a : Asid} {va : Nat} {acc : Acc} {x : Xlate}
    (e : s.coreTranslate core a va acc = .ok (x, t)) (h : s.MemoryOk) : t.MemoryOk := s.coreTranslate_ok core a va acc x t h e
theorem State.MemoryOk.reach {c : Ctx} {a : Asid} {eff : Word} {q : Access} {n : Nat} {body : NodeBody} {off : Nat}
    {hd : Option (BitVec 24)} {x : Target} (e : s.reach c a eff q n body off hd = .ok (x, t)) (h : s.MemoryOk) :
    t.MemoryOk := s.reach_ok c a eff q x t h n body off hd e
theorem State.MemoryOk.accessAt {c : Ctx} {v : RegVal} {need : BitVec 12} {eff : Word} {q : Access} {x : Target}
    (e : s.accessAt c v need eff q = .ok (x, t)) (h : s.MemoryOk) : t.MemoryOk := s.accessAt_ok c v need eff q x t h e
theorem State.MemoryOk.ringTarget {a : Asid} {q : Queue} {i : Nat} {acc : Acc} {x : Target}
    (e : s.ringTarget a q i acc = .ok (x, t)) (h : s.MemoryOk) : t.MemoryOk := s.ringTarget_ok a q i acc x t h e
theorem State.MemoryOk.qAppend {a : Asid} {node : BitVec 23} {q : Queue} {v : RegVal}
    (e : s.qAppend a node q v = .ok t) (h : s.MemoryOk) : t.MemoryOk := s.qAppend_ok a node q v t h e
theorem State.MemoryOk.cdReady {c : Ctx} {pa : Nat} (e : s.cdReady c = .ok (pa, t)) (h : s.MemoryOk) : t.MemoryOk :=
  s.cdReady_ok c pa t h e
theorem State.MemoryOk.performStore {id : BitVec 32} {x : StoreEntry} (e : s.performStore id x = some t) (h : s.MemoryOk) :
    t.MemoryOk := s.performStore_ok id x t h e

end

theorem OutOk.ite {c : Prop} [Decidable c] {o o' : Out} (h : OutOk o) (h' : OutOk o') : OutOk (if c then o else o') := by
  split
  · exact h
  · exact h'

/-- A form whose check fails traps; where it passes, what follows keeps memory in its canonical form. -/
theorem OutOk.orTrap {α : Type} {s : State} {r : Except Bad α} {f : α → State} (h : s.MemoryOk)
    (hf : ∀ x, r = .ok x → (f x).MemoryOk) : OutOk (s.orTrap r f) := by
  cases r with
  | error b => exact .next (.takeTrap h)
  | ok x => exact .next (hf x rfl)

/-- Whatever the checks of a form answer, where they pass, has the property. -/
def Gives {ε α : Type} (r : Except ε α) (P : α → Prop) : Prop := ∀ x, r = .ok x → P x

section
variable {ε α β : Type} {P : α → Prop}

theorem Gives.ok {x : α} (h : P x) : Gives (.ok x : Except ε α) P := by
  intro y e; injection e with e; exact e ▸ h
theorem Gives.pure {x : α} (h : P x) : Gives (Pure.pure x : Except ε α) P := .ok h
theorem Gives.error {b : ε} : Gives (.error b : Except ε α) P := nofun
theorem Gives.bind {r : Except ε β} {f : β → Except ε α} (h : ∀ x, r = .ok x → Gives (f x) P) : Gives (r >>= f) P := by
  cases r with
  | error b => exact nofun
  | ok x => exact h x rfl
theorem Gives.map {r : Except ε β} {f : β → α} (h : ∀ x, r = .ok x → P (f x)) : Gives (r.map f) P := by
  cases r with
  | error b => exact nofun
  | ok x => exact .ok (h x rfl)

end

/-- `OutOk.orTrap` where the check itself answers a state: the check keeps memory, and so does what follows it. -/
theorem OutOk.orTrapPair {α : Type} {s : State} {r : Except Bad (α × State)} {f : α × State → State} (h : s.MemoryOk)
    (hr : Gives r fun x => x.2.MemoryOk) (hf : ∀ x t, t.MemoryOk → (f (x, t)).MemoryOk) : OutOk (s.orTrap r f) :=
  .orTrap h fun x e => hf x.1 x.2 (hr x e)

theorem OutOk.orTrapState {s : State} {r : Except Bad State} {f : State → State} (h : s.MemoryOk)
    (hr : Gives r State.MemoryOk) (hf : ∀ t, t.MemoryOk → (f t).MemoryOk) : OutOk (s.orTrap r f) :=
  .orTrap h fun x e => hf x (hr x e)

/-! ### The operations of Machine/Base.lean -/

section
variable {s : State} {r : Reg} {id : BitVec 32} {sl : SlotId} {f : State → State}

theorem State.MemoryOk.updCore {c : CoreIx} {f : Core → Core} (h : s.MemoryOk) : (s.updCore c f).MemoryOk := h

theorem State.MemoryOk.updCluster {c : ClusterIx} {f : Cluster → Cluster} (h : s.MemoryOk) :
    (s.updCluster c f).MemoryOk := h

theorem State.MemoryOk.updSpace {a : Asid} {f : Space → Space} (h : s.MemoryOk) : (s.updSpace a f).MemoryOk := h

theorem State.MemoryOk.updEngine {en : EngineIx} {f : Engine → Engine} (h : s.MemoryOk) :
    (s.updEngine en f).MemoryOk := h

theorem State.MemoryOk.pick {k : Nat} (h : s.MemoryOk) : (s.pick k).2.MemoryOk := h
theorem State.MemoryOk.freeValue (h : s.MemoryOk) : (s.freeValue).2.MemoryOk := h

theorem State.MemoryOk.dropCtx (h : s.MemoryOk) : (s.dropCtx id).MemoryOk := by
  unfold State.dropCtx
  split <;> exact h

theorem State.MemoryOk.updCx {f : Ctx → Ctx} (h : s.MemoryOk) : (s.updCx f).MemoryOk := h
theorem State.MemoryOk.setBound {id : Option (BitVec 32)} (h : s.MemoryOk) : (s.setBound sl id).MemoryOk := .updCore h

theorem State.MemoryOk.asCtx (h : s.MemoryOk) (hf : ∀ s, s.MemoryOk → (f s).MemoryOk) : (s.asCtx id f).MemoryOk := by
  unfold State.asCtx
  split
  · exact h
  · exact .focus (hf _ (.focus h))

theorem State.MemoryOk.withSlot (h : s.MemoryOk) (hf : ∀ s, s.MemoryOk → (f s).MemoryOk) :
    (s.withSlot sl f).MemoryOk := by
  unfold State.withSlot
  split
  · exact h
  · exact .asCtx h (fun s h => hf _ h)

theorem State.MemoryOk.setReg {v : RegVal} (h : s.MemoryOk) : (s.setReg r v).MemoryOk := h
theorem State.MemoryOk.setBits {v : W256} (h : s.MemoryOk) : (s.setBits r v).MemoryOk := .setReg h
theorem State.MemoryOk.setX {v : Word} (h : s.MemoryOk) : (s.setX r v).MemoryOk := .setBits h
theorem State.MemoryOk.setBit {bit : Nat} {b : Bool} (h : s.MemoryOk) : (s.setBit r bit b).MemoryOk := .setBits h
theorem State.MemoryOk.setPc {w : Word} (h : s.MemoryOk) : (s.setPc w).MemoryOk := h
theorem State.MemoryOk.advance (h : s.MemoryOk) : (s.advance).MemoryOk := .setPc h
theorem State.MemoryOk.setCap {k : Cap} (h : s.MemoryOk) : (s.setCap r k).MemoryOk := .setReg h
theorem State.MemoryOk.writeBack {key : Nat} (h : s.MemoryOk) : (s.writeBack key).MemoryOk := h

end

/-! ### The operations of Machine/Translate.lean -/

section
end

/-! ### The operations of Machine/Access.lean -/

section
variable {s : State} {a : Asid} {node : BitVec 23} {q : Queue}

theorem State.MemoryOk.updNode {ix : BitVec 23} {f : Node → Node} (h : s.MemoryOk) : (s.updNode a ix f).MemoryOk :=
  .updSpace h

theorem State.MemoryOk.updHandle {ix : BitVec 24} {f : Handle → Handle} (h : s.MemoryOk) :
    (s.updHandle a ix f).MemoryOk := .updSpace h

theorem State.MemoryOk.cacheEntry {cl : ClusterIx} {en : NameEntry} (h : s.MemoryOk) :
    (s.cacheEntry cl en).MemoryOk := by
  unfold State.cacheEntry
  split
  · exact h
  · exact .updCluster h

theorem State.MemoryOk.setQueue (h : s.MemoryOk) : (s.setQueue a node q).MemoryOk := .updNode h

theorem State.MemoryOk.qTake {x : RegVal} {t : State} (e : s.qTake a node q = .ok (x, t)) (h : s.MemoryOk) :
    t.MemoryOk := by
  unfold State.qTake at e
  split at e
  · exact .of_okPair e (.setQueue h)
  split at e
  · cases e
  · rename_i e'
    exact .of_okPair e (.setQueue (.ringTarget e' h))
  · rename_i e'
    exact .of_okPair e (.setQueue (.ringTarget e' h))
  · rename_i e'
    exact .of_okPair e (.setQueue (.ringTarget e' h))
  · rename_i e'
    exact .of_okPair e (.setQueue (.ringTarget e' h))

end

/-! ### The operations of Machine/Ops.lean -/

section
variable {s : State} {a : Asid} {c : Ctx} {id : BitVec 32} {en : StoreEntry} {hs : List (BitVec 24)}

theorem State.MemoryOk.send {m : NetMsg} (h : s.MemoryOk) : (s.send m).MemoryOk := h
theorem State.MemoryOk.tell {m : HostMsg} (h : s.MemoryOk) : (s.tell m).MemoryOk := h
theorem State.MemoryOk.clampScope {scope : Scope} (h : s.MemoryOk) : (s.clampScope scope).MemoryOk := .clampFn h _ _

theorem State.MemoryOk.storeWaits {node : BitVec 23} (h : s.MemoryOk) : (s.storeWaits c a node en).2.MemoryOk := by
  unfold State.storeWaits
  split
  · exact h
  · exact .askRing (.joinLine h)

theorem State.MemoryOk.sendStore (h : s.MemoryOk) : (s.sendStore c en).2.MemoryOk := by
  unfold State.sendStore
  split
  · exact .storeWaits h
  · exact h
  split
  · split
    · exact .send h
    · exact h
  · exact .send h
  · exact h

theorem State.MemoryOk.drainSector {xx : StashSector} (h : s.MemoryOk) : (s.drainSector xx).MemoryOk := .write h

theorem State.MemoryOk.lateFault {cause : Cause} {val : Word} {handle : Option (BitVec 24)} (h : s.MemoryOk) :
    (s.lateFault cause val handle).MemoryOk := .updCx h

theorem State.MemoryOk.openWindow {p : Pending} (h : s.MemoryOk) : (s.openWindow p).MemoryOk := .updCx h

theorem State.MemoryOk.leaveEnd (h : s.MemoryOk) : (s.leaveEnd id).MemoryOk := by
  unfold State.leaveEnd
  split
  · exact .leaveNow h
  · exact h

theorem State.MemoryOk.trapBad {b : Bad} (h : s.MemoryOk) : (s.trapBad b).MemoryOk := .takeTrap h
theorem State.MemoryOk.returnHandler (h : s.MemoryOk) : (s.returnHandler).MemoryOk := .updCx (.setPc h)
theorem State.MemoryOk.thaw {pc : Word} (h : s.MemoryOk) : (s.thaw id pc).MemoryOk := .updCtx h _ _

theorem State.MemoryOk.freeNodes {n : Nat} {is : List (BitVec 23)} (h : s.MemoryOk) :
    (State.freeNodes a n is s).MemoryOk := by
  fun_induction State.freeNodes a n is s with
  | case1 | case2 => exact h
  | case3 | case4 | case5 =>
    rename_i e
    exact e h

theorem State.MemoryOk.freeIfUnused {ix : BitVec 23} (h : s.MemoryOk) : (s.freeIfUnused a ix).MemoryOk := .freeNodes h

theorem State.MemoryOk.closeHandle {hd : BitVec 24} (h : s.MemoryOk) : (s.closeHandle a hd).MemoryOk := by
  unfold State.closeHandle
  split
  · exact h
  split
  · refine foldl_ok _ (fun s _ h => ?_) _ _ h
    exact .updNode h
  · refine .freeIfUnused (foldl_ok _ (fun s _ h => ?_) _ _ h)
    exact .updNode h

theorem State.MemoryOk.startRevoke {closes : List Nat} {ctx : Option (BitVec 32)} (h : s.MemoryOk) :
    (s.startRevoke a hs closes ctx).2.MemoryOk := h

theorem State.MemoryOk.sendStale (h : s.MemoryOk) : (s.sendStale a hs).MemoryOk := by
  unfold State.sendStale
  refine foldl_ok _ (fun s _ h => ?_) _ _ (.updSpace h)
  exact .send h

theorem State.MemoryOk.dropCtxNode (h : s.MemoryOk) : (s.dropCtxNode c).MemoryOk := h

theorem State.MemoryOk.closeCtxHandle (h : s.MemoryOk) : (s.closeCtxHandle c).MemoryOk := by
  unfold State.closeCtxHandle
  simp only
  refine foldl_ok _ (fun s _ h => ?_) _ _ (.updCtx (.dropCtxNode (.closeHandle (.startRevoke (.sendStale h)))) _ _)
  exact .freeIfUnused h

theorem State.MemoryOk.tellSpan {span : BitVec 32} {m : SpanMsg} (h : s.MemoryOk) : (s.tellSpan span m).MemoryOk := by
  unfold State.tellSpan
  split
  · exact h
  refine foldl_ok _ (fun s _ h => ?_) _ _ h
  exact .send h

theorem State.MemoryOk.leaveGang {killed : Bool} (h : s.MemoryOk) : (s.leaveGang c killed).MemoryOk := .tellSpan h

theorem State.MemoryOk.endCtx {exit : Word} {cause : Option (BitVec 8)} (h : s.MemoryOk) :
    (s.endCtx id exit cause).MemoryOk := by
  unfold State.endCtx
  split
  · exact h
  · exact .freeIfUnused (.dropCtx (.of_eq (.leaveGang (.closeCtxHandle (.updCtx (.leaveSlot h) _ _))) rfl rfl))

theorem State.MemoryOk.block {w : Wait} (h : s.MemoryOk) : (s.block w).MemoryOk := .updCx h
theorem State.MemoryOk.unblock (h : s.MemoryOk) : (s.unblock).MemoryOk := .updCx h
theorem State.MemoryOk.finishWait (h : s.MemoryOk) : (s.finishWait).MemoryOk := .advance (.unblock h)

end

/-! ### The operations of Machine/Operands.lean -/

section
variable {s : State} {i : Instr} {la : BitVec 4}

theorem State.MemoryOk.window {kind : PendKind} {wr : Option Reg} (h : s.MemoryOk) :
    (s.window i la kind wr).MemoryOk := .openWindow h

theorem State.MemoryOk.windowDone (h : s.MemoryOk) : (s.windowDone i la).MemoryOk := by
  unfold State.windowDone
  split
  · exact h
  · exact .window h

theorem OutOk.withHandle {r : Reg} {need : BitVec 12} {kinds : List (BitVec 3)} {f : State} (h : s.MemoryOk)
    (hf : f.MemoryOk) : OutOk (s.withHandle r need kinds f) := by
  unfold State.withHandle
  split
  · exact .next (.takeTrap h)
  · exact .next hf

end

/-! ### The operations of Machine/Flags.lean -/

section
variable {s : State}

theorem State.MemoryOk.countOne {ev : Ev} (h : s.MemoryOk) : (s.countOne ev).MemoryOk := by
  unfold State.countOne
  split
  · exact h
  · exact .updCx h

theorem State.MemoryOk.countLanes {evs : List Ev} (h : s.MemoryOk) : (s.countLanes evs).MemoryOk := by
  unfold State.countLanes
  split
  · exact h
  · exact .updCx h

end

/-! ### The operations of Machine/Memory.lean -/

section
variable {s : State} {a d src b : Reg} {size : MemSize} {tg : Target} {la : BitVec 4} {sign strong : Bool}
    {scope : Scope} {n : Nat} {ord : MemOrder} {hd handle : BitVec 24} {i : Instr} {o : Order} {off eff : Word}

theorem State.MemoryOk.orderAccess (h : s.MemoryOk) : (s.orderAccess o scope).MemoryOk := by
  unfold State.orderAccess
  split
  · split
    · exact .drainStash (.resolveAll h)
    · exact h
  · split
    · exact .drainStash (.resolveAll (.clampScope h))
    · exact .clampScope h

theorem State.MemoryOk.newTxn {chip : ChipIx} {kind : TxnKind} {fabric : Bool} (h : s.MemoryOk) :
    (s.newTxn hd off chip kind fabric).2.MemoryOk := h

theorem State.MemoryOk.nextSeq {a : Asid} {x : ChipIx} {y : BitVec 24} {z : BitVec 24} {w : Nat} {t : State}
    (e : s.nextSeq a hd = some (x, y, z, w, t)) (h : s.MemoryOk) : t.MemoryOk := by
  unfold State.nextSeq at e
  split at e
  · cases e
    exact .updHandle h
  · cases e

theorem State.MemoryOk.awaitRemote {txn : Nat} (h : s.MemoryOk) : (s.awaitRemote i la d txn size sign tg).MemoryOk :=
  .advance (.window h)

theorem State.MemoryOk.resolveLoads (h : s.MemoryOk) : (s.resolveLoads tg n strong).MemoryOk := by
  unfold State.resolveLoads
  refine foldl_ok _ (fun s _ h => ?_) _ _ h
  split
  · split
    · simp only
      split
      · exact .resolvePend h
      · exact h
    · simp only
      split
      · exact .resolvePend h
      · exact h
  · exact h

theorem State.MemoryOk.issueLoad (h : s.MemoryOk) : (s.issueLoad i la d tg size sign strong handle).MemoryOk := by
  unfold State.issueLoad
  split
  · split
    · exact .takeTrap h
    rename_i e
    exact .awaitRemote (.send (.of_eq (.nextSeq e h) rfl rfl))
  · exact .awaitRemote (.send h)
  · split
    · exact .advance (.window (.resolveLoads h))
    simp only
    split
    · exact .advance (.lateFault (.of_eq (.resolveLoads h) rfl rfl))
    · exact .advance (.setReg (.resolveLoads h))

theorem OutOk.loadAt {o : MemOrder} (h : s.MemoryOk) : OutOk (s.loadAt i la d a size sign eff strong o) := by
  unfold State.loadAt
  refine .orTrap h (fun x e => ?_)
  refine .issueLoad ?_
  split
  · exact .drain (.orderAccess (.accessAt e h))
  · exact .orderAccess (.accessAt e h)

theorem execLd_ok {imm : Imm 6} (h : s.MemoryOk) : OutOk (Machine.execLd ord size sign la d a imm s) := .loadAt h
theorem execLdx_ok (h : s.MemoryOk) : OutOk (Machine.execLdx ord size sign la d a b s) := .loadAt h
theorem execLda_ok (h : s.MemoryOk) : OutOk (Machine.execLda size la d a scope s) := .loadAt h

theorem State.MemoryOk.stashSector {sector : Nat} {bs : List (Nat × Byte)} (h : s.MemoryOk) :
    (s.stashSector sector bs).MemoryOk := by
  unfold State.stashSector
  split
  · exact .updCx h
  refine .updCx ?_
  split
  · exact h
  split
  · exact .updCx (.drainSector h)
  · exact h

theorem State.MemoryOk.stashPut {key : Nat} {bs : List Byte} (h : s.MemoryOk) : (s.stashPut key bs).MemoryOk := by
  unfold State.stashPut
  refine foldl_ok _ (fun s _ h => ?_) _ _ h
  exact .stashSector h

theorem State.MemoryOk.unstash (h : s.MemoryOk) : (s.unstash tg n).MemoryOk := by
  unfold State.unstash
  split
  · exact h
  · exact h
  refine .updCx (foldl_ok _ (fun s _ h => ?_) _ _ h)
  exact .drainSector h

theorem State.MemoryOk.resolveFor (h : s.MemoryOk) : (s.resolveFor tg n).MemoryOk := by
  unfold State.resolveFor
  refine .unstash (foldl_ok _ (fun s _ h => ?_) _ _ h)
  split
  · split
    · exact .resolvePend h
    · exact h
  · exact h

theorem State.MemoryOk.enqueueStore {en : StoreEntry} (h : s.MemoryOk) : (s.enqueueStore en).MemoryOk :=
  .updCx (.resolveFor h)

theorem State.MemoryOk.awaitStores (h : s.MemoryOk) : (s.awaitStores).MemoryOk := by
  unfold State.awaitStores
  simp only
  split
  · exact .advance (.drain h)
  · exact .block (.drain h)

theorem State.MemoryOk.zeroPeer {a : Asid} (h : s.MemoryOk) : (s.zeroPeer a hd off handle).MemoryOk :=
  .enqueueStore (.enqueueStore h)

theorem State.MemoryOk.issueStore {v : RegVal} (h : s.MemoryOk) : (s.issueStore tg n size v handle o).MemoryOk := by
  unfold State.issueStore
  extract_lets scope s1 rel s2
  clear_value scope rel
  have h1 : s1.MemoryOk := by
    unfold s1
    split
    · exact .drainStash (.resolveAll (.clampScope h))
    · exact h
  have h2 : s2.MemoryOk := by
    unfold s2
    split
    · exact .ite (.stashPut (.resolveFor h1)) (.enqueueStore h1)
    · exact .ite (.zeroPeer h1) (.enqueueStore h1)
    · exact .enqueueStore h1
  exact .ite (.awaitStores h2) (.advance h2)

theorem OutOk.storeAt {o : MemOrder} (h : s.MemoryOk) : OutOk (s.storeAt src a size eff strong o) :=
  .orTrap h (fun _ e => .issueStore (.orderAccess (.accessAt e h)))

theorem execSt_ok {imm : Imm 10} (h : s.MemoryOk) : OutOk (Machine.execSt ord size src a imm s) := .storeAt h
theorem execStx_ok (h : s.MemoryOk) : OutOk (Machine.execStx ord size src a b s) := .storeAt h
theorem execStl_ok (h : s.MemoryOk) : OutOk (Machine.execStl size src a scope s) := .storeAt h

theorem execFence_ok {kind : FenceKind} (h : s.MemoryOk) : OutOk (Machine.execFence scope kind s) := by
  unfold Machine.execFence
  split
  · exact .next (.advance (.clampScope h))
  · simp only
    split
    · exact .next (.advance (.drainStash (.clampScope h)))
    · exact .next (.advance (.updCx (.drainStash (.clampScope h))))
  · exact .next (.awaitStores (.drainStash (.clampScope h)))

theorem execHfence_ok (h : s.MemoryOk) : OutOk (Machine.execHfence a s) := by
  unfold Machine.execHfence
  split
  · exact .next (.takeTrap h)
  simp only
  split
  · exact .next (.advance h)
  split
  · exact .next (.block (.drain h))
  · exact .next (.advance (.drain h))

theorem execPref_ok (h : s.MemoryOk) : OutOk (Machine.execPref a s) := by
  unfold Machine.execPref
  split
  · rename_i e
    exact .next (.advance (.accessAt e h))
  · exact .next (.advance h)

theorem State.MemoryOk.cleanLine (h : s.MemoryOk) : (s.cleanLine tg).MemoryOk := by
  unfold State.cleanLine
  split
  · split
    · exact .writeBack (.drain h)
    · exact .drain h
  · exact .drain h

theorem execClwb_ok (h : s.MemoryOk) : OutOk (Machine.execClwb a s) :=
  .orTrap h (fun _ e => .advance (.cleanLine (.accessAt e h)))

theorem execClinv_ok (h : s.MemoryOk) : OutOk (Machine.execClinv a s) :=
  .orTrap h (fun _ e => .advance (.cleanLine (.accessAt e h)))

theorem execClzero_ok (h : s.MemoryOk) : OutOk (Machine.execClzero a s) := by
  unfold Machine.execClzero
  refine .orTrapPair h ?_ (fun x t h => .issueStore h)
  refine .bind fun x e => ?_
  refine .bind fun x1 e1 => ?_
  exact .pure (.accessAt e h)

theorem OutOk.stashForm {f : Nat → State → State} (h : s.MemoryOk) (hf : ∀ a s, s.MemoryOk → (f a s).MemoryOk) :
    OutOk (s.stashForm a f) := by
  unfold State.stashForm
  refine .orTrapPair h ?_ (fun x t h => .advance (hf _ _ h))
  split
  · exact .error
  · split
    · rename_i e
      exact .ok (.accessAt e h)
    · exact .error
    · exact .error
  · exact .error
  · exact .error

theorem execStashfl_ok (h : s.MemoryOk) : OutOk (Machine.execStashfl a s) := by
  unfold Machine.execStashfl
  refine .stashForm h (fun a s h => ?_)
  split
  · exact .updCx (.drainSector h)
  · exact h

theorem execStashinv_ok (h : s.MemoryOk) : OutOk (Machine.execStashinv a s) :=
  .stashForm h (fun _ _ h => .updCx (.resolveFor h))

end

/-! ### The operations of Machine/Atomics.lean -/

section
variable {s : State} {la : BitVec 4} {d b a : Reg} {ord : AtomOrder} {i : Instr} {fn : AtomFn}

theorem State.MemoryOk.atomRefused (h : s.MemoryOk) : (s.atomRefused i la).MemoryOk :=
  .advance (.windowDone (.lateFault h))

theorem State.MemoryOk.atomAt {key n : Nat} (h : s.MemoryOk) : (s.atomAt fn i la d b key n).MemoryOk := by
  unfold State.atomAt
  split
  · exact .atomRefused h
  dsimp only
  split
  · split
    · split
      · exact .advance (.lateFault (.of_eq (.windowDone (.countOne (.coreWrite (.freeValue h)))) rfl rfl))
      · exact .advance (.setBits (.windowDone (.countOne (.coreWrite (.freeValue h)))))
    · split
      · exact .advance (.lateFault (.of_eq (.windowDone (.countOne (.coreWrite h))) rfl rfl))
      · exact .advance (.setBits (.windowDone (.countOne (.coreWrite h))))
  · split
    · split
      · exact .advance (.lateFault (.of_eq (.windowDone (.countOne (.freeValue h))) rfl rfl))
      · exact .advance (.setBits (.windowDone (.countOne (.freeValue h))))
    · split
      · exact .advance (.lateFault (.of_eq (.windowDone (.countOne h)) rfl rfl))
      · exact .advance (.setBits (.windowDone (.countOne h)))

theorem OutOk.atom {o : AtomOrder} (h : s.MemoryOk) : OutOk (s.atom fn i o la d a b) := by
  unfold State.atom
  generalize (if o.w32 then 4 else 8) = n
  generalize (if o.w32 then MemSize.b32 else .b64) = size
  refine .orTrapPair h ?_ fun x t h => ?_
  · dsimp only
    split
    · exact .bind nofun
    split
    · exact .bind nofun
    refine .bind fun x e => ?_
    have h1 := State.MemoryOk.accessAt e h
    split
    · exact .bind nofun
    split
    · split
      · exact .error
      · exact .pure h1
    · exact .pure h1
  · have h2 : (((t.orderAccess o.order o.scope).resolveFor x n).drain
        ((t.orderAccess o.order o.scope).resolveFor x n).cx.id).MemoryOk := .drain (.resolveFor (.orderAccess h))
    dsimp only
    split
    · exact .atomAt h2
    · exact .atomAt (.unstash h2)
    · exact .awaitRemote (.send (.newTxn h2))
    · exact .takeTrap h2

theorem execAadd_ok (h : s.MemoryOk) : OutOk (Machine.execAadd ord la d a b s) := .atom h
theorem execAand_ok (h : s.MemoryOk) : OutOk (Machine.execAand ord la d a b s) := .atom h
theorem execAor_ok (h : s.MemoryOk) : OutOk (Machine.execAor ord la d a b s) := .atom h
theorem execAxor_ok (h : s.MemoryOk) : OutOk (Machine.execAxor ord la d a b s) := .atom h
theorem execAmin_ok (h : s.MemoryOk) : OutOk (Machine.execAmin ord la d a b s) := .atom h
theorem execAmax_ok (h : s.MemoryOk) : OutOk (Machine.execAmax ord la d a b s) := .atom h
theorem execAminu_ok (h : s.MemoryOk) : OutOk (Machine.execAminu ord la d a b s) := .atom h
theorem execAmaxu_ok (h : s.MemoryOk) : OutOk (Machine.execAmaxu ord la d a b s) := .atom h
theorem execAxchg_ok (h : s.MemoryOk) : OutOk (Machine.execAxchg ord la d a b s) := .atom h
theorem execAcas_ok (h : s.MemoryOk) : OutOk (Machine.execAcas ord la d a b s) := .atom h
theorem execAfadd_ok (h : s.MemoryOk) : OutOk (Machine.execAfadd ord la d a b s) := .atom h
theorem execAincs_ok (h : s.MemoryOk) : OutOk (Machine.execAincs ord la d a b s) := .atom h

end

/-! ### The operations of Machine/Names.lean -/

section
variable {s t : State} {la : BitVec 4} {d a b r : Reg} {i : Instr} {w : Word} {c : Name} {cl : ClusterIx}
    {v : RegVal} {n extent form : Nat} {x : StringRead} {ctx : BitVec 32} {body : NodeBody} {dir ix : BitVec 23}

theorem State.MemoryOk.setNameStat (h : s.MemoryOk) : (s.setNameStat w).MemoryOk := .updCx h

theorem State.MemoryOk.nameEnd {res : Option (Reg × RegVal)} (h : s.MemoryOk) : (s.nameEnd i la w res).MemoryOk := by
  unfold State.nameEnd
  refine .advance ?_
  split
  · exact .setReg (.windowDone (.setNameStat h))
  · exact .windowDone (.setNameStat h)

theorem State.MemoryOk.nameWord (h : s.MemoryOk) : (s.nameWord i la d w).MemoryOk := .nameEnd h

theorem State.MemoryOk.stringByte {eff : Word} {x : Option Byte} {y : Target} (e : s.stringByte v eff = .ok (x, y, t))
    (h : s.MemoryOk) : t.MemoryOk := by
  unfold State.stringByte at e
  split at e
  · cases e
  split at e
  · split at e
    · rename_i e' _ _ _
      exact .of_okTriple e (.accessAt e' h)
    · cases e
    · rename_i e' _ _
      exact .of_okTriple e (.accessAt e' h)
  · rename_i e'
    exact .of_okTriple e (.accessAt e' h)
  · rename_i e' _ _ _
    exact .of_okTriple e (.accessAt e' h)

theorem State.MemoryOk.stringFrom {a1 : Word} {xs : List Byte} (e : State.stringFrom v n a1 xs s = .ok (x, t))
    (h : s.MemoryOk) : t.MemoryOk := by
  induction n generalizing a1 xs s with
  | zero => exact .of_okPair e h
  | succ n ih =>
    unfold State.stringFrom at e
    split at e
    · cases e
    · rename_i e'
      exact .of_okPair e (.stringByte e' h)
    · split at e
      · rename_i e' _
        exact .of_okPair e (.stringByte e' h)
      · rename_i e' _
        exact ih e (.stringByte e' h)

theorem State.MemoryOk.string (e : s.string r = .ok (x, t)) (h : s.MemoryOk) : t.MemoryOk := by
  unfold State.string at e
  dsimp only at e
  split at e
  · refine .of_okPair e ?_
    split
    · exact h
    · exact .updCx h
  · refine .stringFrom e ?_
    split
    · exact h
    · exact .updCx h

theorem State.MemoryOk.askByte {handle : BitVec 24} {got : List Byte} {tg : Target} (h : s.MemoryOk) :
    (s.askByte i handle got tg).MemoryOk := by
  unfold State.askByte
  split
  · exact .block h
  split
  · split
    · exact .block h
    split
    · exact .takeTrap h
    rename_i e
    exact .block (.send (.of_eq (.nextSeq e h) rfl rfl))
  · exact .block (.send h)
  · exact h

theorem State.MemoryOk.withString {f : Option (List Byte) → State → Except Bad State} (h : s.MemoryOk)
    (hf : ∀ p t, t.MemoryOk → Gives (f p t) State.MemoryOk) : Gives (s.withString i r f) State.MemoryOk := by
  unfold State.withString
  split
  · exact .error
  · rename_i e
    exact .ok (.askByte (.string e h))
  · rename_i e
    exact hf _ _ (.string e h)

theorem State.MemoryOk.byteArrives {txn : Nat} {b : Byte} (h : s.MemoryOk) : (s.byteArrives ctx txn b).MemoryOk :=
  .updCtx h _ _

theorem State.MemoryOk.makeNode {a : Asid} {x : BitVec 23} (e : s.makeNode a body extent = some (x, t))
    (h : s.MemoryOk) : t.MemoryOk := by
  unfold State.makeNode at e
  dsimp only at e
  split at e
  · cases e
  · exact .of_somePair e (.updSpace h)

theorem State.MemoryOk.openHandle {a : Asid} {node : Option (BitVec 23)} {foreign : Option (BitVec 32)}
    {x : BitVec 24} {y : BitVec 24} (e : s.openHandle a node foreign = some (x, y, t)) (h : s.MemoryOk) :
    t.MemoryOk := by
  unfold State.openHandle at e
  dsimp only at e
  split at e
  · cases e
  · exact .of_someTriple e (.updSpace h)

theorem State.MemoryOk.bindEntry {a : Asid} {en : Binding} (h : s.MemoryOk) : (s.bindEntry a dir en).MemoryOk :=
  .updNode h

theorem State.MemoryOk.bindingOf {a : Asid} {dir : Node} {x : Binding} (e : s.bindingOf a dir c = some (x, t))
    (h : s.MemoryOk) : t.MemoryOk := by
  unfold State.bindingOf at e
  split at e
  · exact .of_somePair e h
  obtain ⟨⟨x1, x2⟩, e1, e⟩ := Option.bind_eq_some_iff.1 e
  dsimp only at e
  obtain ⟨⟨x3, x4, x5⟩, e2, e⟩ := Option.bind_eq_some_iff.1 e
  obtain ⟨⟨x6, s1⟩, e3, e⟩ := Option.map_eq_some_iff.1 e
  exact .of_snd e (.bindEntry (.makeNode e3 h))

theorem State.MemoryOk.lookup {a : Asid} {dir : Node} {x : Binding} (e : s.lookup cl a dir c = some (x, t))
    (h : s.MemoryOk) : t.MemoryOk := by
  unfold State.lookup at e
  obtain ⟨⟨x1, s1⟩, e1, e⟩ := Option.map_eq_some_iff.1 e
  dsimp only at e
  exact .of_snd e (.cacheEntry (.bindingOf e1 h))

theorem State.MemoryOk.forgetBinding {a : Asid} (h : s.MemoryOk) : (s.forgetBinding a dir c).MemoryOk := h

theorem State.MemoryOk.resolve {a : Asid} {xs : List Name} {a1 : Node} {b1 : BitVec 12} (h : s.MemoryOk) :
    (State.resolve cl a xs n a1 b1 s).2.MemoryOk := by
  induction xs generalizing n a1 b1 s with
  | nil => exact h
  | cons x1 xs ih =>
    unfold State.resolve
    split
    · exact h
    split
    · exact h
    split
    · exact h
    split
    · exact h
    split
    · rename_i e _ _
      exact .lookup e h
    · rename_i e _ _ _
      exact ih (.lookup e h)

theorem State.MemoryOk.nameWait {d : Option Reg} {label : Nat} (h : s.MemoryOk) :
    (s.nameWait i la d label).MemoryOk := .advance (.window h)

theorem execWalk_ok (h : s.MemoryOk) : OutOk (Machine.execWalk la d a b s) := by
  unfold Machine.execWalk
  extract_lets i asid fail walk
  have hwalk (u : Unit) : Gives (walk u) State.MemoryOk := by
    refine .bind fun _ _ => State.MemoryOk.withString h fun p s h => .bind fun _ _ => ?_
    extract_lets start k0
    clear_value k0 start
    have hfail (c : NameCode) (comp : BitVec 8) (kind : BitVec 3) : Gives (pure
        (fail c comp kind s) : Except Bad State) State.MemoryOk :=
      .pure (.nameWord h)
    split
    · exact hfail _ _ _
    split
    · exact hfail _ _ _
    split
    · exact hfail _ _ _
    split
    · exact hfail _ _ _
    extract_lets detached
    split
    · exact .error
    split
    rename_i e
    have h1 := State.MemoryOk.of_snd e (.resolve h)
    split
    · exact .pure (.nameWord h1)
    · exact .pure (.nameEnd h1)
    · exact .pure (.nameWait (.send (.newTxn h1)))
  refine .orTrapState h ?_ fun t h => h
  split
  · exact .bind fun u _ => hwalk u
  · exact hwalk ()

theorem State.MemoryOk.opened {a : Asid} (h : s.MemoryOk) : (s.opened a ix).MemoryOk := h

theorem State.MemoryOk.openOn {n : Node} {perm : BitVec 12} {view : Cap} (h : s.MemoryOk) :
    (s.openOn i la d a form n perm view).MemoryOk := by
  unfold State.openOn
  split
  · exact .nameWord h
  split
  · rename_i e _ _ _ _ _
    exact .nameWait (.send (.of_eq (.openHandle e h) rfl rfl))
  · rename_i e _ _
    exact .nameEnd (.cacheHandle (.opened (.openHandle e h)) _ _ _ _)

theorem execOpen_ok (h : s.MemoryOk) : OutOk (Machine.execOpen la d a b s) := by
  unfold Machine.execOpen
  refine .orTrapState h ?_ (fun t h => h)
  refine .bind fun x e => ?_
  dsimp only
  split
  · exact .bind nofun
  refine .bind fun x1 e1 => ?_
  split
  · exact .pure (.nameWord h)
  split
  · exact .pure (.nameWord h)
  split
  · exact .pure (.nameWord h)
  · exact .pure (.openOn h)

theorem execDup_ok (h : s.MemoryOk) : OutOk (Machine.execDup la d a b s) := by
  unfold Machine.execDup
  refine .orTrapState h ?_ (fun t h => h)
  refine .bind fun x e => ?_
  refine .bind fun x1 e1 => ?_
  split
  · exact .pure (.nameWord h)
  · exact .pure (.openOn h)

theorem State.MemoryOk.revokeHandles {hs : List (BitVec 24)} (h : s.MemoryOk) :
    (s.revokeHandles i form la d hs).MemoryOk := by
  unfold State.revokeHandles
  refine .nameWait (foldl_ok _ (fun s _ h => ?_) _ _ (.sendStale (foldl_snd_ok _ (fun b s a h => ?_) _ _ _ h)))
  · exact .closeHandle h
  · dsimp only
    split
    · exact .send (.newTxn h)
    · exact h

theorem execClose_ok (h : s.MemoryOk) : OutOk (Machine.execClose la d a s) := by
  unfold Machine.execClose
  refine .orTrapState h ?_ (fun t h => h)
  refine .bind fun x e => ?_
  refine .bind fun x1 e1 => ?_
  split
  · exact .pure (.nameWord h)
  · exact .pure (.revokeHandles h)

theorem execRevoke_ok (h : s.MemoryOk) : OutOk (Machine.execRevoke la d a s) := by
  unfold Machine.execRevoke
  refine .orTrapState h ?_ (fun t h => h)
  refine .bind fun x e => ?_
  refine .bind fun x1 e1 => ?_
  split
  · exact .pure (.nameWord h)
  dsimp only
  exact .pure (.revokeHandles (.updNode h))

theorem execBind_ok (h : s.MemoryOk) : OutOk (Machine.execBind la d a b s) := by
  unfold Machine.execBind
  refine .orTrapState h ?_ (fun t h => h)
  refine .bind fun x e => ?_
  refine .bind fun x1 e1 => ?_
  refine .bind fun x2 e2 => ?_
  refine State.MemoryOk.withString h (fun p t h => ?_)
  refine .bind fun x3 e3 => ?_
  dsimp only
  split
  · exact .pure (.nameEnd h)
  split
  · split
    · exact .pure (.nameEnd h)
    · exact .pure (.nameEnd (.bindEntry h))
  · exact .pure (.nameEnd h)

theorem execUnbind_ok (h : s.MemoryOk) : OutOk (Machine.execUnbind la d a b s) := by
  unfold Machine.execUnbind
  refine .orTrapState h ?_ (fun t h => h)
  refine .bind fun x e => ?_
  refine .bind fun x1 e1 => ?_
  refine State.MemoryOk.withString h (fun p t h => ?_)
  refine .bind fun x2 e2 => ?_
  dsimp only
  split
  · exact .pure (.nameWord h)
  split
  · exact .pure (.nameWord h)
  split
  · exact .pure (.nameWord h)
  · exact .pure (.nameWord (.freeIfUnused (.forgetBinding (.updNode h))))

theorem execStat_ok (h : s.MemoryOk) : OutOk (Machine.execStat la d a s) := by
  unfold Machine.execStat
  refine .orTrapState h ?_ (fun t h => h)
  refine .bind fun x e => ?_
  refine .bind fun x1 e1 => ?_
  split <;> exact .pure (.nameEnd h)

theorem State.MemoryOk.madeNode {sp : NodeSpec} (h : s.MemoryOk) : (s.madeNode i la d sp body extent).MemoryOk := by
  unfold State.madeNode
  split
  · exact .nameWord h
  split
  · exact .nameWord h
  rename_i e _ _ _ _ e1
  exact .nameEnd (.cacheHandle (.openHandle e1 (.makeNode e h)) _ _ _ _)

theorem State.MemoryOk.ringPlace {q : Queue} (h : s.MemoryOk) : (s.ringPlace q).2.MemoryOk := by
  unfold State.ringPlace
  split
  · rename_i e
    exact .ringTarget e h
  · rename_i e
    exact .ringTarget e h
  · rename_i e
    exact .ringTarget e h
  · rename_i e
    exact .ringTarget e h
  · exact h
  · exact h

theorem execMknode_ok (h : s.MemoryOk) : OutOk (Machine.execMknode la d a b s) := by
  unfold Machine.execMknode
  extract_lets i sp k bad
  have hbad (c : NameCode) : (bad c).MemoryOk := .nameWord h
  refine .ite (.next (hbad _)) (.ite (.ite (.next (hbad _)) (.next (.madeNode h))) (.orTrapState h ?_ fun _ h => h))
  refine .bind fun _ _ => .bind fun _ _ => ?_
  split
  · exact .pure (hbad _)
  split
  · exact .pure (hbad _)
  split
  · exact .pure (hbad _)
  split
  · exact .pure (.madeNode h)
  split
  · rename_i e
    exact .pure (.madeNode (.of_snd e (.ringPlace h)))
  · exact .pure (hbad _)

theorem State.MemoryOk.absentPage {a : Asid} {a1 : PinRange} (h : s.MemoryOk) :
    (State.absentPage s cl a a1).2.MemoryOk := by
  unfold State.absentPage
  split
  · exact h
  · refine foldl_snd_ok _ (fun b s a h => ?_) _ _ _ h
    dsimp only
    split
    · exact h
    split
    · rename_i e
      exact .translate e h
    · exact h
  · exact h

theorem State.MemoryOk.addExport {name : Name} (h : s.MemoryOk) : (s.addExport d b name ix).MemoryOk := .updNode h

theorem State.MemoryOk.exportStep {p : Option (List Byte)} (h : s.MemoryOk) : (s.exportStep d b p).2.MemoryOk := by
  unfold State.exportStep
  split
  · exact h
  split
  · exact .addExport h
  dsimp only
  split
  · exact .addExport (.absentPage h)
  · exact .raiseFault (.absentPage h)

theorem execExport_ok (h : s.MemoryOk) : OutOk (Machine.execExport la d a b s) := by
  unfold Machine.execExport
  refine .orTrapState h ?_ (fun t h => h)
  refine .bind fun x e => ?_
  refine .bind fun x1 e1 => ?_
  refine State.MemoryOk.withString h (fun p t h => ?_)
  refine .bind fun x2 e2 => ?_
  split
  · rename_i e
    exact .pure (.nameEnd (.of_snd e (.exportStep h)))
  · rename_i e
    exact .pure (.advance (.window (.of_snd e (.exportStep h))))

theorem State.MemoryOk.exportAnswer {serviced : Bool} (h : s.MemoryOk) : (s.exportAnswer ctx serviced).MemoryOk := by
  unfold State.exportAnswer
  refine .asCtx h (fun s h => ?_)
  split
  · exact h
  split
  · split
    · exact .updCx (.setNameStat h)
    split
    · rename_i e
      exact .updCx (.setNameStat (.of_snd e (.exportStep h)))
    · rename_i e
      exact .of_snd e (.exportStep h)
  · exact h

end

/-! ### The operations of Machine/Tasks.lean -/

section
variable {s t : State} {cl : ClusterIx} {d a b : Reg} {r x : W256} {n slot : Nat} {sl : SlotId}

theorem State.MemoryOk.newContext {n : NewCtx} {x : Ctx} (e : s.newContext n = some (x, t)) (h : s.MemoryOk) :
    t.MemoryOk := by
  unfold State.newContext at e
  dsimp only at e
  obtain ⟨⟨x1, s1⟩, e1, e⟩ := Option.bind_eq_some_iff.1 e
  obtain ⟨⟨x2, x3, s2⟩, e2, e⟩ := Option.bind_eq_some_iff.1 e
  obtain ⟨⟨x4, s3⟩, e3, e⟩ := Option.bind_eq_some_iff.1 e
  obtain ⟨⟨x5, x6, s4⟩, e4, e⟩ := Option.bind_eq_some_iff.1 e
  obtain ⟨⟨x7, s5⟩, e5, e⟩ := Option.map_eq_some_iff.1 e
  exact .of_snd e (.of_eq (.makeNode e5 (.openHandle e4 (.makeNode e3 (.openHandle e2 (.makeNode e1 h))))) rfl rfl)

theorem State.MemoryOk.bindCtxNode {a : Asid} {root : BitVec 23} {c : Ctx} (h : s.MemoryOk) :
    (s.bindCtxNode a root c).MemoryOk := by
  unfold State.bindCtxNode
  split
  · exact .bindEntry h
  · exact h

theorem State.MemoryOk.postEvent (h : s.MemoryOk) : (s.postEvent cl r).2.MemoryOk := by
  unfold State.postEvent
  split
  · exact h
  · exact .updCluster h

theorem State.MemoryOk.postHeld (h : s.MemoryOk) : (Machine.postHeld cl n s).MemoryOk := by
  induction n generalizing s with
  | zero => exact h
  | succ n ih =>
    unfold Machine.postHeld
    split
    · exact h
    split
    · rename_i e
      exact ih (.updCluster (.of_snd e (.postEvent h)))
    · rename_i e
      exact .of_snd e (.postEvent h)

theorem State.MemoryOk.postHeldAll (h : s.MemoryOk) : (s.postHeldAll cl).MemoryOk := .postHeld h
theorem State.MemoryOk.postUnit (h : s.MemoryOk) : (s.postUnit cl r).MemoryOk := .postHeldAll (.updCluster h)
theorem State.MemoryOk.takeEvent (h : s.MemoryOk) : (s.takeEvent cl r).MemoryOk := .postHeldAll (.updCluster h)

theorem State.MemoryOk.noteReady {was : State} {gang : BitVec 32} (h : s.MemoryOk) :
    (s.noteReady was gang).MemoryOk := h

theorem State.MemoryOk.setHeap {a : Asid} {es : List W256} (h : s.MemoryOk) : (s.setHeap cl a n es).MemoryOk :=
  .updCluster h

theorem State.MemoryOk.spillKey {a : Asid} {acc : Acc} {x : Nat} (e : s.spillKey cl a slot acc = some (x, t))
    (h : s.MemoryOk) : t.MemoryOk := by
  unfold State.spillKey at e
  split at e
  · rename_i e'
    exact .of_somePair e (.translate e' h)
  · rename_i e'
    exact .of_somePair e (.translate e' h)
  · cases e
  · cases e

theorem State.MemoryOk.heapPush {a : Asid} {en : W256} (e : s.heapPush cl a en = some t) (h : s.MemoryOk) :
    t.MemoryOk := by
  unfold State.heapPush at e
  dsimp only at e
  split at e
  · exact .of_some e (.setHeap h)
  obtain ⟨⟨x, s1⟩, e1, e⟩ := Option.map_eq_some_iff.1 e
  subst e
  exact .updCluster (.setHeap (.homeWrite (.spillKey e1 h)))

theorem State.MemoryOk.unspill {a : Asid} (e : s.unspill cl a slot = some t) (h : s.MemoryOk) : t.MemoryOk := by
  unfold State.unspill at e
  obtain ⟨⟨x, s1⟩, e1, e⟩ := Option.map_eq_some_iff.1 e
  dsimp only at e
  subst e
  exact .updCluster (.spillKey e1 h)

theorem State.MemoryOk.heapRefill {a : Asid} (e : Machine.heapRefill cl a n s = some t) (h : s.MemoryOk) :
    t.MemoryOk := by
  induction n generalizing s with
  | zero => exact .of_some e h
  | succ n ih =>
    unfold Machine.heapRefill at e
    split at e
    · split at e
      · exact .of_some e h
      obtain ⟨s1, e1, e⟩ := Option.bind_eq_some_iff.1 e
      dsimp only at e
      exact ih e (.setHeap (.unspill e1 h))
    · exact .of_some e h

theorem State.MemoryOk.heapPop {a : Asid} (e : s.heapPop cl a = .entry x t) (h : s.MemoryOk) : t.MemoryOk := by
  unfold State.heapPop at e
  dsimp only at e
  split at e
  · cases e
  split at e
  · rename_i e2
    injection e with _ e
    subst e
    obtain ⟨s1, e1, e2⟩ := Option.bind_eq_some_iff.1 e2
    refine .heapRefill e2 ?_
    split at e1
    · obtain ⟨s2, e3, e4⟩ := Option.map_eq_some_iff.1 e1
      subst e4
      exact .setHeap (.unspill e3 (.pick h))
    · exact .of_some e1 (.setHeap (.pick h))
  · cases e

theorem State.MemoryOk.heapServe (e : s.heapServe cl = .entry x t) (h : s.MemoryOk) : t.MemoryOk := by
  unfold State.heapServe at e
  dsimp only at e
  split at e <;> split at e
  · cases e
  · exact .heapPop e h
  · cases e
  · exact .heapPop e h

theorem execSpawn_ok (h : s.MemoryOk) : OutOk (Machine.execSpawn d a b s) := by
  unfold Machine.execSpawn
  simp only
  split
  · exact .next (.finishWait (.setX h))
  split
  · split
    · exact .next (.block h)
    · exact .next (.finishWait (.setX h))
  · rename_i e
    obtain ⟨desc, -, e⟩ := Option.bind_eq_some_iff.1 e
    exact .next (.finishWait (.of_eq (.bindCtxNode (.updNode (.clampScope (.newContext e h)))) rfl rfl))

theorem execRetire_ok (h : s.MemoryOk) : OutOk (Machine.execRetire a s) := .next (.endCtx (.clampScope h))

theorem State.MemoryOk.sleepEnd (h : s.MemoryOk) : (s.sleepEnd d).MemoryOk := by
  unfold State.sleepEnd
  refine .finishWait (.setBits (.updCx ?_))
  split
  · exact h
  · exact .clampScope h

theorem execSleep_ok (h : s.MemoryOk) : OutOk (Machine.execSleep d a s) := by
  unfold Machine.execSleep
  simp only
  split
  · exact .next (.sleepEnd h)
  · exact .next (.block h)

theorem State.MemoryOk.rouse {id : BitVec 32} (h : s.MemoryOk) : (s.rouse id).MemoryOk := by
  unfold State.rouse
  refine .asCtx h (fun s h => ?_)
  split
  · exact .sleepEnd h
  · exact h

theorem State.MemoryOk.reachOut {tg : Ctx} (h : s.MemoryOk) : (s.reachOut tg).MemoryOk := .updCtx (.clampScope h) _ _

theorem execWake_ok (h : s.MemoryOk) : OutOk (Machine.execWake d a s) := by
  unfold Machine.execWake
  refine .withHandle h ?_
  split
  · exact .takeTrap h
  · exact .advance (.setX (.rouse (.updCtx (.reachOut h) _ _)))

theorem execSignal_ok (h : s.MemoryOk) : OutOk (Machine.execSignal d a b s) := by
  unfold Machine.execSignal
  refine .withHandle h ?_
  split
  · exact .takeTrap h
  · exact .advance (.setX (.rouse (.updCtx (.reachOut h) _ _)))

theorem execSelf_ok (h : s.MemoryOk) : OutOk (Machine.execSelf d s) := .next (.advance (.setCap h))

theorem execHpush_ok (h : s.MemoryOk) : OutOk (Machine.execHpush a b s) := by
  unfold Machine.execHpush
  refine .withHandle h ?_
  simp only
  split
  · rename_i e
    exact .advance (.heapPush e (.clampScope h))
  · exact .takeTrap h

theorem State.MemoryOk.hpop (h : s.MemoryOk) : (s.hpop d a).MemoryOk := by
  unfold State.hpop
  simp only
  split
  · exact .takeTrap h
  · rename_i e
    exact .finishWait (.setBits (.clampScope (.updCluster (.heapServe e h))))
  · exact .block (.updCluster h)

theorem execHpop_ok (h : s.MemoryOk) : OutOk (Machine.execHpop d a s) := .withHandle h (.hpop h)

theorem execHtry_ok (h : s.MemoryOk) : OutOk (Machine.execHtry d a s) := by
  unfold Machine.execHtry
  refine .withHandle h ?_
  split
  · rename_i e
    exact .advance (.setBits (.clampScope (.heapServe e h)))
  · exact .takeTrap h
  · exact .advance (.setBits h)

theorem execHpopReturn_ok (h : s.MemoryOk) : OutOk (Machine.execHpopReturn sl s) := by
  unfold Machine.execHpopReturn
  refine .next (.withSlot h (fun s h => ?_))
  split
  · split
    · exact .takeTrap h
    · exact .hpop h
  · exact h

theorem execEvpost_ok (h : s.MemoryOk) : OutOk (Machine.execEvpost d a b s) := by
  unfold Machine.execEvpost
  dsimp only
  exact .next (.advance (.setX (.postEvent (.clampScope h))))

theorem execEvwait_ok (h : s.MemoryOk) : OutOk (Machine.execEvwait d a s) := by
  unfold Machine.execEvwait
  simp only
  split
  · exact .next (.advance (.setBits (.takeEvent (.clampScope (.updCluster h)))))
  · exact .next (.postHeldAll (.block (.updCluster (.updCluster h))))

theorem execEvwaitConsume_ok (h : s.MemoryOk) : OutOk (Machine.execEvwaitConsume sl s) := by
  unfold Machine.execEvwaitConsume
  refine .next (.withSlot h (fun s h => ?_))
  split
  · simp only
    split
    · exact .finishWait (.setBits (.takeEvent (.clampScope (.updCluster h))))
    · exact h
  · exact h

theorem execSleepTimeout_ok (h : s.MemoryOk) : OutOk (Machine.execSleepTimeout sl s) := by
  unfold Machine.execSleepTimeout
  refine .next (.withSlot h (fun s h => ?_))
  split
  · split
    · exact .sleepEnd h
    · exact h
  · exact h

end

/-! ### The operations of Machine/Engine.lean -/

section
variable {s t : State} {a : Asid} {cl : ClusterIx} {n x off i m id : Nat} {en : EngineIx} {k : Cap} {acc : Acc}
    {v : RegVal} {tg : Target} {bs : List Byte}

theorem State.MemoryOk.barTarget {c : Ctx} (e : s.barTarget c v acc = .ok (x, t)) (h : s.MemoryOk) : t.MemoryOk := by
  unfold State.barTarget at e
  generalize hp : (if acc = .write then permW else permR) = perm at e
  extract_lets k eff at e
  split at e
  · cases e
  split at e
  · cases e
  split at e
  · cases e
  split at e
  iterate 3
    · split at e
      · cases e
      · split at e
        · rename_i e1 _
          exact .of_okPair e (.accessAt e1 h)
        · cases e
      · cases e
  all_goals cases e

theorem State.MemoryOk.engReach {x : Target} (e : s.engReach cl a k acc off n = .ok (x, t)) (h : s.MemoryOk) :
    t.MemoryOk := by
  unfold State.engReach at e
  split at e
  · cases e
  · exact .reach e h

theorem State.MemoryOk.freeBytes (h : s.MemoryOk) : (Machine.freeBytes n s).2.MemoryOk := by
  induction n generalizing s with
  | zero => exact h
  | succ n ih =>
    unfold Machine.freeBytes
    dsimp only
    exact ih (.freeValue h)

theorem State.MemoryOk.meetError (h : s.MemoryOk) : (s.meetError).2.MemoryOk := by
  unfold State.meetError
  split
  · dsimp only
    exact .pick h
  · exact h

theorem State.MemoryOk.engGet {x : List Byte} (e : s.engGet a tg n = .ok (x, t)) (h : s.MemoryOk) : t.MemoryOk := by
  unfold State.engGet at e
  dsimp only at e
  split at e
  · cases e
  split at e
  · split at e
    · split at e
      · exact .of_okPair e (.meetError h)
      · cases e
    · split at e
      · cases e
      injection e with e
      exact .of_snd e (.freeBytes (.meetError h))
  · exact .of_okPair e (.meetError h)

theorem State.MemoryOk.engPut {x : List Ev} (e : s.engPut a tg bs = .ok (t, x)) (h : s.MemoryOk) : t.MemoryOk := by
  unfold State.engPut at e
  split at e
  · exact .of_okFst e (.homeWrite h)
  · exact .of_okFst e (.homeWrite h)
  · injection e with e
    exact .of_fst e (.planeWrite h)
  · exact .of_okFst e h
  · split at e
    · split at e
      · exact .of_okFst e (.homeWrite h)
      · cases e
    · split at e
      · cases e
      · exact .of_okFst e (.send h)
  · exact .of_okFst e h
  · exact .of_okFst e h
  · exact .of_okFst e h
  · exact .of_okFst e h

theorem State.MemoryOk.engRead {x : List Byte} (e : Machine.engRead cl a k n i m s = .ok (x, t)) (h : s.MemoryOk) :
    t.MemoryOk := by
  induction n generalizing i m s x t with
  | zero => exact .of_okPair e h
  | succ n ih =>
    unfold Machine.engRead at e
    split at e
    · exact .of_okPair e h
    split at e
    · cases e
    rename_i e1
    dsimp only at e
    split at e
    · cases e
    rename_i e2
    split at e
    · cases e
    rename_i e3
    exact .of_okPair e (ih e3 (.engGet e2 (.engReach e1 h)))

theorem State.MemoryOk.engWriteSector {x : List Ev} (e : s.engWriteSector cl a k off bs = .ok (t, x))
    (h : s.MemoryOk) : t.MemoryOk := by
  unfold State.engWriteSector at e
  dsimp only at e
  split at e
  · cases e
  split at e
  · cases e
  split at e
  · rename_i e' _
    exact .engPut e (.engReach e' h)
  · split at e
    · cases e
    split at e
    · cases e
    obtain ⟨⟨s1, x1⟩, e1, e⟩ := map_eq_ok_iff.1 e
    cases e
    rename_i e2 _ _ _ _ e3 _ _ _ e4
    exact .engPut e1 (.engPut e4 (.engReach e3 (.engReach e2 h)))

theorem State.MemoryOk.engWrite {xs : List Byte} {ys : List Ev} (h : s.MemoryOk) :
    (Machine.engWrite cl a k n i xs m ys s).2.2.2.MemoryOk := by
  induction n generalizing i xs m ys s with
  | zero => exact h
  | succ n ih =>
    unfold Machine.engWrite
    split
    · exact h
    simp only
    split
    · exact h
    rename_i e
    exact ih (.engWriteSector e h)

theorem State.MemoryOk.engFault {id : BitVec 32} {b : Bad} {wr : Bool} (h : s.MemoryOk) :
    (s.engFault en a id b wr).MemoryOk := by
  unfold State.engFault
  extract_lets cl s1 s2
  have h1 : s1.MemoryOk := .ite (h.of_eq rfl rfl) h
  have h2 : s2.MemoryOk := .ite (.updEngine h1) h1
  split
  · exact h2
  · exact .raiseFault h2

theorem State.MemoryOk.addrKey {addr : Word} (e : s.addrKey cl a addr acc = .ok (x, t)) (h : s.MemoryOk) :
    t.MemoryOk := by
  unfold State.addrKey at e
  split at e
  · split at e
    · cases e
    · rename_i e'
      exact .of_okPair e (.translate e' h)
    · rename_i e'
      exact .of_okPair e (.translate e' h)
    · cases e
  · split at e
    · cases e
    · exact .of_okPair e h

theorem State.MemoryOk.updLaunch {f : Launch → Launch} (h : s.MemoryOk) : (s.updLaunch id f).MemoryOk := h

theorem State.MemoryOk.flushRecord (h : s.MemoryOk) : (Machine.flushRecord id n s).MemoryOk := by
  induction n generalizing s with
  | zero => exact h
  | succ n ih =>
    unfold Machine.flushRecord
    split
    · exact h
    split
    · exact h
    split
    · exact h
    split
    · exact .raiseFault h
    rename_i e
    exact ih (.updLaunch (.homeWrite (.addrKey e h)))

theorem State.MemoryOk.writeOut {c : CounterSet} (h : s.MemoryOk) : (s.writeOut cl c).MemoryOk := by
  unfold State.writeOut
  split
  · exact h
  split
  · exact h
  simp only
  split
  · exact .updLaunch h
  · exact .flushRecord (.updLaunch h)

theorem State.MemoryOk.addEngineCounts {launch : Nat} {tid : BitVec 16} {ns : List Nat} (h : s.MemoryOk) :
    (s.addEngineCounts cl launch tid ns).MemoryOk := by
  unfold State.addEngineCounts
  simp only
  split
  · exact .updCluster h
  split
  · exact .updCluster h
  split
  · exact h
  · exact .updCluster (.writeOut h)

theorem State.MemoryOk.updJob {id : BitVec 16} {f : Job → Job} (h : s.MemoryOk) : (s.updJob en id f).MemoryOk :=
  .updEngine h

theorem State.MemoryOk.endJob {id : BitVec 16} {code cause : BitVec 8} {v0 v1 : BitVec 32} {counts : List Nat}
    (h : s.MemoryOk) : (s.endJob en id code cause v0 v1 counts).MemoryOk := .updJob h

theorem State.MemoryOk.pushStatus {w : W256} (e : s.pushStatus a v w = some t) (h : s.MemoryOk) : t.MemoryOk := by
  unfold State.pushStatus at e
  dsimp only at e
  split at e
  · exact .of_some e h
  split at e
  · split at e
    · cases e
    split at e
    · rename_i e'
      exact .of_some e (.qAppend e' h)
    · cases e
  · exact .of_some e h

theorem State.MemoryOk.flushCq (h : s.MemoryOk) : (s.flushCq en).MemoryOk := by
  unfold State.flushCq
  split
  · exact h
  split
  · rename_i e
    exact .updEngine (.pushStatus e h)
  · exact h

theorem State.MemoryOk.completeJob {j : Job} (h : s.MemoryOk) : (s.completeJob en j).MemoryOk := by
  unfold State.completeJob
  extract_lets cl s1 s2 s3 s4
  have h1 : s1.MemoryOk := .ite (.addEngineCounts h) h
  have h2 : s2.MemoryOk := by
    unfold s2
    split
    · split
      · exact .updBar h1
      · exact h1
    · exact h1
  have h3 : s3.MemoryOk := .updEngine h2
  have h4 : s4.MemoryOk := .ite (.postUnit h3) h3
  split
  · exact .flushCq (.updEngine h4)
  · exact h4

theorem State.MemoryOk.idle (h : s.MemoryOk) : (s.idle).2.MemoryOk := by
  unfold State.idle
  split <;> exact h

theorem State.MemoryOk.jobCycles {xx : Nat} (h : s.MemoryOk) : (s.jobCycles xx).2.MemoryOk := by
  unfold State.jobCycles
  dsimp only
  exact .idle h

theorem State.MemoryOk.farLatency (h : s.MemoryOk) : (s.farLatency).2.MemoryOk := h

end

/-! ### The operations of Machine/Barriers.lean -/

section
variable {s t : State} {a d b : Reg} {g : Group} {id : BitVec 32} {r : RoundResult}

theorem State.MemoryOk.barOperand {acc : Acc} {x : Nat} (e : s.barOperand a acc = .ok (x, t)) (h : s.MemoryOk) :
    t.MemoryOk := by
  unfold State.barOperand at e
  split at e
  · cases e
    rename_i e
    exact .barTarget e h
  · cases e

theorem OutOk.barStore {op : BarOp} (h : s.MemoryOk) : OutOk (s.barStore a op) := by
  unfold State.barStore
  refine .orTrap h (fun x e => ?_)
  refine .advance ?_
  split
  · exact .updBar (.drainStash (.resolveAll (.clampScope (.barOperand e h))))
  · exact .enqueueStore (.drainStash (.resolveAll (.clampScope (.barOperand e h))))

theorem execBarinit_ok (h : s.MemoryOk) : OutOk (Machine.execBarinit a b s) := .barStore h
theorem execBarexp_ok (h : s.MemoryOk) : OutOk (Machine.execBarexp a b s) := .barStore h
theorem execBarpois_ok (h : s.MemoryOk) : OutOk (Machine.execBarpois a s) := .barStore h

theorem execBararv_ok (h : s.MemoryOk) : OutOk (Machine.execBararv d a s) :=
  .orTrap h (fun _ e => .advance (.setBits (.updBar (.resolveFor (.clampScope (.barOperand e h))))))

theorem execBartest_ok (h : s.MemoryOk) : OutOk (Machine.execBartest d a b s) := by
  unfold Machine.execBartest
  refine .orTrap h (fun x e => ?_)
  refine .advance (.setBits ?_)
  split
  · exact .clampScope (.barOperand e h)
  · exact .barOperand e h

theorem execBarrd_ok (h : s.MemoryOk) : OutOk (Machine.execBarrd d a s) :=
  .orTrap h (fun _ e => .advance (.setBits (.barOperand e h)))

theorem State.MemoryOk.barwait (h : s.MemoryOk) : (s.barwait d a b).MemoryOk := by
  unfold State.barwait
  split
  · exact .trapBad h
  simp only
  split
  · rename_i e _
    exact .finishWait (.setBits (.clampScope (.barOperand e h)))
  · rename_i e _
    exact .block (.barOperand e h)

theorem execBarwait_ok (h : s.MemoryOk) : OutOk (Machine.execBarwait d a b s) := .next (.barwait h)

theorem execBarwaitRelease_ok {sl : SlotId} (h : s.MemoryOk) : OutOk (Machine.execBarwaitRelease sl s) := by
  unfold Machine.execBarwaitRelease
  refine .next (.withSlot h (fun s h => ?_))
  split
  · exact .barwait h
  · exact h

theorem State.MemoryOk.updGang {f : Gang → Gang} (h : s.MemoryOk) : (s.updGang id f).MemoryOk := h
theorem State.MemoryOk.updSpan {f : Span → Span} (h : s.MemoryOk) : (s.updSpan id f).MemoryOk := h

theorem State.MemoryOk.updRound {f : Round → Round} (h : s.MemoryOk) : (s.updRound g f).MemoryOk := by
  unfold State.updRound
  split
  · exact .updGang h
  · exact .updSpan h

theorem State.MemoryOk.recordTarget {x : Target} (e : s.recordTarget a = .ok (x, t)) (h : s.MemoryOk) :
    t.MemoryOk := by
  unfold State.recordTarget at e
  dsimp only at e
  split at e
  · cases e
  split at e
  · cases e
  split at e
  · cases e
  · exact .accessAt e h

theorem State.MemoryOk.putRecord {tg : Target} {handle : BitVec 24} {v : BitVec 512} (h : s.MemoryOk) :
    (s.putRecord tg handle v).MemoryOk := by
  unfold State.putRecord
  split
  · exact .stashPut (.resolveFor h)
  · exact .drain (.enqueueStore (.enqueueStore h))

theorem State.MemoryOk.sumcolEnd (h : s.MemoryOk) : (s.sumcolEnd d a r).MemoryOk := by
  unfold State.sumcolEnd
  split
  · exact .finishWait (.setBits (.clampScope h))
  split
  · exact .trapBad h
  rename_i e
  exact .finishWait (.setBits (.clampScope (.putRecord (.recordTarget e h))))

theorem State.MemoryOk.giveResult (h : s.MemoryOk) : (s.giveResult g r id).MemoryOk := by
  unfold State.giveResult
  split
  · exact .asCtx h (fun s h => .finishWait (.setBits (.clampScope h)))
  · exact .asCtx h (fun s h => .finishWait (.setBits (.clampScope h)))
  · exact .asCtx h (fun s h => .sumcolEnd h)
  · exact .updRound h
  · exact h

theorem State.MemoryOk.releaseRound (h : s.MemoryOk) : (s.releaseRound g).MemoryOk := by
  unfold State.releaseRound
  split
  · exact h
  refine foldl_ok _ (fun s _ h => ?_) _ _ (.updRound h)
  exact .giveResult h

theorem State.MemoryOk.takeOwed {x : RoundResult} (e : s.takeOwed g = some (x, t)) (h : s.MemoryOk) : t.MemoryOk := by
  unfold State.takeOwed at e
  obtain ⟨⟨x1, x2⟩, e1, e⟩ := Option.map_eq_some_iff.1 e
  cases e
  exact .updRound h

theorem State.MemoryOk.arriveRound {counts : Option (List Nat)} (h : s.MemoryOk) :
    (s.arriveRound g counts).MemoryOk := by
  unfold State.arriveRound
  split
  · exact .updRound h
  · exact .tellSpan (.updRound h)

theorem State.MemoryOk.groupBar {scope : Scope} {w : Wait} (h : s.MemoryOk) : (s.groupBar g scope d w).MemoryOk := by
  unfold State.groupBar
  split
  · rename_i e
    exact .finishWait (.setBits (.clampScope (.takeOwed e h)))
  · split
    · exact .block h
    have h1 : ((s.clampScope scope).arriveRound g none).MemoryOk := .arriveRound (.clampScope h)
    exact .ite (.releaseRound (.block h1)) (.block h1)

theorem execGangbar_ok (h : s.MemoryOk) : OutOk (Machine.execGangbar d s) := .next (.groupBar h)
theorem execSpanbar_ok (h : s.MemoryOk) : OutOk (Machine.execSpanbar d s) := .next (.groupBar h)

theorem execGangbarRelease_ok {gang : BitVec 32} (h : s.MemoryOk) : OutOk (Machine.execGangbarRelease gang s) :=
  .next (.releaseRound h)

theorem execSpanbarRelease_ok {span : BitVec 32} (h : s.MemoryOk) : OutOk (Machine.execSpanbarRelease span s) :=
  .next (.releaseRound h)

theorem execSumcol_ok (h : s.MemoryOk) : OutOk (Machine.execSumcol d a b s) := by
  unfold Machine.execSumcol
  extract_lets g clear w go
  have hgo (s : State) (h : s.MemoryOk) : (go s).MemoryOk := by
    unfold go
    split
    · rename_i e
      exact .sumcolEnd (.takeOwed e h)
    refine .ite (.block h) ?_
    extract_lets counts s1 s2
    have h1 : s1.MemoryOk := .arriveRound (.clampScope h)
    have h2 : s2.MemoryOk := .ite (.updCx h1) h1
    exact .ite (.releaseRound (.block h2)) (.block h2)
  exact .ite (.next (hgo s h)) (.orTrapPair h (fun _ e => .recordTarget e h) fun _ t h => hgo t h)

end

/-! ### The operations of Machine/Fetch.lean -/

section
variable {s : State}

theorem State.MemoryOk.fetchWord {addr : Word} {x : Nat} {t : State} (e : s.fetchWord addr = .ok (x, t))
    (h : s.MemoryOk) : t.MemoryOk := by
  unfold State.fetchWord at e
  split at e
  · cases e
  · split at e
    · rename_i e' _ _ _
      exact .of_okPair e (.accessAt e' h)
    · dsimp only at e
      split at e
      · cases e
      rename_i e' _ _ _
      exact .of_okPair e (.freeValue (.accessAt e' h))
  · rename_i e'
    exact .of_okPair e (.accessAt e' h)

theorem State.MemoryOk.fetchFrom {n : Nat} {a1 : Word} {xs : List Nat} (h : s.MemoryOk) :
    (State.fetchFrom n a1 xs s).2.2.MemoryOk := by
  induction n generalizing a1 xs s with
  | zero => exact h
  | succ n ih =>
    unfold State.fetchFrom
    split
    · exact h
    simp only
    split
    · rename_i e _ _ _
      exact .fetchWord e h
    · rename_i e _ _ _
      exact .fetchWord e h
    · rename_i e _ _
      exact ih (.fetchWord e h)

theorem State.MemoryOk.fetchUnit (h : s.MemoryOk) : (s.fetchUnit).2.2.MemoryOk := .fetchFrom h

end

/-! ### The operations of Machine/Copy.lean -/

section
variable {s t : State} {en : EngineIx} {xx : Xfer} {cl : ClusterIx} {k : Nat} {id : BitVec 16} {b : Bad}
    {wr : Bool} {code : BitVec 8} {d : Reg} {a : Asid} {x : List Ev}

theorem State.MemoryOk.copyBarCheck {v : RegVal} (e : s.copyBarCheck v = .ok t) (h : s.MemoryOk) : t.MemoryOk := by
  unfold State.copyBarCheck at e
  split at e
  · exact .of_ok e h
  split at e
  · rename_i e'
    exact .of_ok e (.barTarget e' h)
  · split at e <;> cases e

theorem State.MemoryOk.copyCheck (e : s.copyCheck = .ok t) (h : s.MemoryOk) : t.MemoryOk := by
  unfold State.copyCheck at e
  dsimp only at e
  split at e
  · cases e
  · cases e
  split at e
  · cases e
  split at e
  · cases e
  split at e
  · cases e
  rename_i e' _ _
  exact .of_ok e (.copyBarCheck e' h)

theorem State.MemoryOk.updXfer {f : Xfer → Xfer} (h : s.MemoryOk) : (s.updXfer en id f).MemoryOk := .updEngine h
theorem State.MemoryOk.xferEvent (h : s.MemoryOk) : (s.xferEvent en xx code).MemoryOk := .ite (.postUnit h) h

theorem State.MemoryOk.endXfer {cause : BitVec 8} (h : s.MemoryOk) : (s.endXfer en xx code cause).MemoryOk :=
  .xferEvent (.updEngine h)

theorem State.MemoryOk.settleXfer (h : s.MemoryOk) : (s.settleXfer en id).MemoryOk := by
  unfold State.settleXfer
  split
  · exact h
  · exact .ite h (.ite (.endXfer h) (.ite h (.xferEvent (.updXfer h))))

theorem State.MemoryOk.acceptCopy (h : s.MemoryOk) : (s.acceptCopy d).MemoryOk :=
  .ite (.block h) (.settleXfer (.finishWait (.setBits (.updEngine h))))

theorem execCpyGo_ok (h : s.MemoryOk) : OutOk (Machine.execCpyGo d s) := by
  unfold Machine.execCpyGo
  split
  · exact .next (.trapBad h)
  rename_i e
  exact .next (.acceptCopy (.clampScope (.copyCheck e h)))

theorem execTransferAccept_ok {sl : SlotId} (h : s.MemoryOk) : OutOk (Machine.execTransferAccept sl s) := by
  unfold Machine.execTransferAccept
  refine .next (.withSlot h (fun s h => ?_))
  split
  · exact .acceptCopy h
  · exact h

theorem State.MemoryOk.readElems {k : Cap} {n : Nat} {xs : List (Nat × Nat)} {x : List (Nat × List Byte)}
    (e : Machine.readElems cl a k n xs s = .ok (x, t)) (h : s.MemoryOk) : t.MemoryOk := by
  induction xs generalizing s x t with
  | nil => exact .of_okPair e h
  | cons x1 xs ih =>
    unfold Machine.readElems at e
    split at e
    · cases e
    split at e
    · cases e
    rename_i e1 _ _ _ e2
    exact .of_okPair e (ih e2 (.engRead e1 h))

theorem State.MemoryOk.writeRuns {k : Cap} {xs : List (Nat × List Byte)} {ys : List Ev}
    (e : Machine.writeRuns cl a k xs ys s = .ok (t, x)) (h : s.MemoryOk) : t.MemoryOk := by
  induction xs generalizing ys s x t with
  | nil => exact .of_okFst e h
  | cons x1 xs ih =>
    unfold Machine.writeRuns at e
    split at e
    · cases e
    rename_i e'
    exact ih e (.engWriteSector e' h)

theorem State.MemoryOk.moveSector (e : s.moveSector cl xx k = .ok (t, x)) (h : s.MemoryOk) : t.MemoryOk := by
  unfold State.moveSector at e
  split at e
  · cases e
  split at e
  · cases e
  cases e
  rename_i e _ e1
  exact .writeRuns e1 (.readElems e h)

theorem State.MemoryOk.xferBar {f : Bar → Bar} (e : s.xferBar cl xx f = .ok t) (h : s.MemoryOk) : t.MemoryOk := by
  unfold State.xferBar at e
  split at e
  · exact .of_ok e h
  split at e
  · rename_i e'
    exact .of_ok e (.updBar (.barTarget e' h))
  · cases e

theorem State.MemoryOk.recordFault (h : s.MemoryOk) : (s.recordFault en xx b wr).MemoryOk := .raiseFault h

theorem State.MemoryOk.recordSector (h : s.MemoryOk) : (s.recordSector en xx k b wr).MemoryOk := by
  unfold State.recordSector
  split
  · exact h
  split
  · exact .recordFault h
  refine foldl_ok _ (fun s _ h => ?_) _ _ h
  simp only
  split
  · exact h
  · exact .updXfer (.recordFault h)

theorem State.MemoryOk.sectorFault (h : s.MemoryOk) : (s.sectorFault en xx k b wr).MemoryOk := by
  unfold State.sectorFault
  extract_lets cl s1
  have h1 : s1.MemoryOk := .ite (h.of_eq rfl rfl) h
  split
  · exact .endXfer h1
  rename_i e
  have h2 := @State.MemoryOk.recordSector _ en xx k b wr (.xferBar e h1)
  refine .ite (.updXfer h2) (.endXfer ?_)
  split
  · rename_i e1
    exact .xferBar e1 (.ite (.updEngine h2) h2)
  · exact .ite (.updEngine h2) h2

theorem State.MemoryOk.trySector (h : s.MemoryOk) : (s.trySector en id k).MemoryOk := by
  unfold State.trySector
  split
  · exact h
  split
  · simp only
    split
    · exact .sectorFault (.updXfer h)
    split
    · rename_i e2 _ _ e3
      exact .xferBar e3 (.countFor (.updXfer (.moveSector e2 (.updXfer h))))
    · rename_i e _ _ _
      exact .endXfer (.countFor (.updXfer (.moveSector e (.updXfer h))))
  · simp only
    split
    · exact .sectorFault (.updXfer h)
    split
    · rename_i e1 _ _ e2
      exact .xferBar e2 (.countFor (.updXfer (.moveSector e1 (.updXfer h))))
    · rename_i e _ _ _
      exact .endXfer (.countFor (.updXfer (.moveSector e (.updXfer h))))

theorem execCopySector_ok {cluster : ClusterIx} {xid : BitVec 16} {sector : Nat} (h : s.MemoryOk) :
    OutOk (Machine.execCopySector cluster xid sector s) := by
  unfold Machine.execCopySector
  simp only
  split
  · exact .next h
  split
  · exact .next h
  · exact .next (.settleXfer (.trySector h))

end

/-! ### The operations of Machine/Eng.lean -/

section
variable {s t : State} {a d b : Reg} {en : EngineIx} {la : BitVec 4} {w : W256} {cl : ClusterIx} {k : Cap}
    {n : Nat} {caps : List RegVal} {kept : Option (W256 × List RegVal)} {id : BitVec 16}

theorem OutOk.eng {f : EngineIx → State} (h : s.MemoryOk) (hf : ∀ a, (f a).MemoryOk) : OutOk (s.eng a f) :=
  .withHandle h (hf _)

theorem State.MemoryOk.dramKey {a : Asid} {acc : Acc} {off : Nat} {x : Nat}
    (e : s.dramKey cl a k acc off n = .ok (x, t)) (h : s.MemoryOk) : t.MemoryOk := by
  unfold State.dramKey at e
  split at e
  · cases e
  · split at e
    · rename_i e' _
      exact .of_okPair e (.engReach e' h)
    · cases e
  · cases e

theorem State.MemoryOk.readBlock {a : Asid} {xs : List Nat} {x : List RegVal}
    (e : State.readBlock s cl a k xs = .ok (x, t)) (h : s.MemoryOk) : t.MemoryOk := by
  induction xs generalizing s x t with
  | nil => exact .of_okPair e h
  | cons x1 xs ih =>
    unfold State.readBlock at e
    split at e
    · cases e
    split at e
    · cases e
    rename_i e1 _ _ _ e2
    exact .of_okPair e (ih e2 (.dramKey e1 h))

theorem State.MemoryOk.trigInner {vs : List RegVal} {x : (W256 × List RegVal)} (e : s.trigInner en vs = .ok (x, t))
    (h : s.MemoryOk) : t.MemoryOk := by
  unfold State.trigInner at e
  dsimp only at e
  split at e
  · cases e
  split at e
  · cases e
  split at e
  · split at e
    · cases e
    · cases e
    rename_i e1 _ _ _ e2 _ _ _ _
    exact .of_okPair e (.readBlock e2 (.dramKey e1 h))
  · split at e
    · cases e
    · cases e
    rename_i e1 _ _ _ e2 _ _ _ _
    exact .of_okPair e (.readBlock e2 (.dramKey e1 h))
  · split at e
    · cases e
    · cases e
    rename_i e1 _ _ _ e2 _ _ _ _
    exact .of_okPair e (.readBlock e2 (.dramKey e1 h))
  · cases e

theorem State.MemoryOk.acceptJob {inner : Option (W256 × List RegVal)} (h : s.MemoryOk) :
    (s.acceptJob en w caps inner).2.MemoryOk := .updEngine h

theorem State.MemoryOk.enqInner {x : Option (W256 × List RegVal)} (e : s.enqInner en w caps kept = .ok (x, t))
    (h : s.MemoryOk) : t.MemoryOk := by
  unfold State.enqInner at e
  split at e
  · exact .of_okPair e h
  split at e
  · exact .of_okPair e h
  obtain ⟨⟨⟨x1, x2⟩, s1⟩, e1, e⟩ := map_eq_ok_iff.1 e
  dsimp only at e
  cases e
  exact .trigInner e1 h

theorem State.MemoryOk.enqueue (h : s.MemoryOk) : (s.enqueue en la d a b kept).MemoryOk := by
  unfold State.enqueue
  simp only
  split
  · exact .takeTrap h
  split
  · exact .trapBad h
  split
  · exact .trapBad h
  split
  · rename_i e _
    exact .block (.enqInner e h)
  · rename_i e _
    exact .finishWait (.windowDone (.setBits (.acceptJob (.clampScope (.enqInner e h)))))

theorem execEnq_ok (h : s.MemoryOk) : OutOk (Machine.execEnq la d a b s) := .eng h (fun _ => .enqueue h)

theorem State.MemoryOk.takeStatus (h : s.MemoryOk) : (s.takeStatus en d w).MemoryOk :=
  .setBits (.ite (.clampScope h) h)

theorem State.MemoryOk.jwait (h : s.MemoryOk) : (s.jwait en d a b).MemoryOk :=
  .ite (.block h) (.finishWait (.takeStatus h))

theorem execJwait_ok (h : s.MemoryOk) : OutOk (Machine.execJwait d a b s) := .eng h (fun _ => .jwait h)

theorem execJwaitReturn_ok {sl : SlotId} (h : s.MemoryOk) : OutOk (Machine.execJwaitReturn sl s) := by
  unfold Machine.execJwaitReturn
  refine .next (.withSlot h (fun s h => ?_))
  split
  · split
    · exact .takeTrap h
    · exact .jwait h
  · exact h

theorem execJtest_ok (h : s.MemoryOk) : OutOk (Machine.execJtest la d a b s) :=
  .eng h (fun _ => .advance (.windowDone (.takeStatus h)))

theorem State.MemoryOk.count8 (h : s.MemoryOk) : (s.count8 n).2.MemoryOk := by
  unfold State.count8
  split
  · exact h
  dsimp only
  exact .freeValue h

theorem execJstat_ok (h : s.MemoryOk) : OutOk (Machine.execJstat la d a s) :=
  .eng h fun _ => .advance (.windowDone (.setBits (.count8 (.count8 h))))

theorem State.MemoryOk.cancel (h : s.MemoryOk) : (s.cancel en id).MemoryOk := by
  unfold State.cancel
  split
  · exact .ite (.completeJob h) h
  · split
    · exact h
    refine .endXfer ?_
    split
    · rename_i e
      exact .xferBar e h
    · exact h
  · exact h

theorem execJcancel_ok (h : s.MemoryOk) : OutOk (Machine.execJcancel la d a b s) :=
  .eng h (fun _ => .advance (.windowDone (.setBits (.cancel h))))

theorem execJobCompletion_ok (h : s.MemoryOk) : OutOk (Machine.execJobCompletion en id s) := by
  unfold Machine.execJobCompletion
  split
  · exact .next (.ite (.completeJob h) h)
  · exact .next h

theorem State.MemoryOk.settleAcc {key : Nat} (h : s.MemoryOk) : (s.settleAcc key).MemoryOk := by
  unfold State.settleAcc
  refine foldl_ok _ (fun s _ h => ?_) _ _ h
  refine .asCtx h (fun s h => ?_)
  refine foldl_ok _ (fun s _ h => ?_) _ _ h
  exact .ite (.resolvePend h) h

theorem State.MemoryOk.exchangeBanks {a : Asid} {tile : BitVec 4} {last : BitVec 16} (h : s.MemoryOk) :
    (s.exchangeBanks cl a tile last).2.MemoryOk := by
  unfold State.exchangeBanks
  split
  · exact .updCluster (.settleAcc h)
  · exact h

theorem State.MemoryOk.aswapEnd (h : s.MemoryOk) : (s.aswapEnd la d a b w).MemoryOk :=
  .finishWait (.windowDone (.setBits (.clampScope h)))

theorem execAswap_ok (h : s.MemoryOk) : OutOk (Machine.execAswap la d a b s) := by
  unfold Machine.execAswap
  refine .eng h (fun a => ?_)
  split
  · exact .takeTrap h
  simp only
  exact .ite (.aswapEnd (.exchangeBanks h)) (.block (.updEngine h))

theorem execAswapExchange_ok {cluster : ClusterIx} (h : s.MemoryOk) :
    OutOk (Machine.execAswapExchange cluster s) := by
  unfold Machine.execAswapExchange
  simp only
  split
  · exact .next (.updEngine h)
  refine .next (.asCtx (.updEngine (.updEngine h)) (fun s h => ?_))
  split
  · exact .aswapEnd (.exchangeBanks h)
  · exact h

end

/-! ### The operations of Machine/Save.lean -/

section
variable {s : State} {id : BitVec 32} {d a b : Reg} {tg : Ctx} {cl : ClusterIx} {hd : ImageHead}

theorem State.MemoryOk.saveFault {a : Asid} {b : Bad} (h : s.MemoryOk) : (s.saveFault cl a id b).MemoryOk :=
  .raiseFault (.updCtx h _ _)

theorem State.MemoryOk.writeImage {a : Asid} {v : RegVal} {full : Bool} (h : s.MemoryOk) :
    (s.writeImage cl a v id full).2.MemoryOk := by
  unfold State.writeImage
  extract_lets s1
  have h1 : s1.MemoryOk := .writeQuads h
  split
  · exact h1
  split
  · exact h1
  split
  · exact h1
  extract_lets bs
  split
  rename_i e
  have h2 := State.MemoryOk.of_snd3 e (.engWrite h1)
  split
  · exact h2
  split
  · exact .saveFault h2
  · exact .ite (h2.of_eq rfl rfl) h2

theorem State.MemoryOk.dropLines (h : s.MemoryOk) : (s.dropLines id).MemoryOk := h
theorem State.MemoryOk.setSaved (h : s.MemoryOk) : (s.setSaved id).MemoryOk := .updCtx (.dropLines h) _ _

theorem State.MemoryOk.saveLost {cause : BitVec 8} (h : s.MemoryOk) : (s.saveLost id cause).MemoryOk :=
  .endCtx (.updGang (.updCtx h _ _))

theorem execSaveComplete_ok {ctx : BitVec 32} (h : s.MemoryOk) : OutOk (Machine.execSaveComplete ctx s) := by
  unfold Machine.execSaveComplete
  split
  · exact .next h
  split
  · exact .next h
  split
  · rename_i e
    exact .next (.setSaved (.of_snd e (.writeImage h)))
  · rename_i e
    exact .next (.of_snd e (.writeImage h))
  · rename_i e
    exact .next (.saveLost (.of_snd e (.writeImage h)))

theorem State.MemoryOk.requestPreempt (h : s.MemoryOk) : (s.requestPreempt id).2.MemoryOk := by
  unfold State.requestPreempt
  split
  · exact h
  split
  · exact h
  simp only
  split
  · exact .updCtx h _ _
  · exact .updCtx (.updCtx h _ _) _ _

theorem execPhint_ok (h : s.MemoryOk) : OutOk (Machine.execPhint a b s) :=
  .next (.ite (.leave (.advance (.updCx h))) (.advance (.updCx h)))

theorem State.MemoryOk.askWithdraw {label : Nat} (h : s.MemoryOk) : (s.askWithdraw label).MemoryOk := by
  unfold State.askWithdraw
  split
  · exact h
  · exact .ite h (.send h)

theorem execForcedSave_ok {sl : SlotId} (h : s.MemoryOk) : OutOk (Machine.execForcedSave sl s) := by
  unfold Machine.execForcedSave
  refine .next (.withSlot h (fun s h => ?_))
  simp only
  split
  · exact .leave (.completeAll h)
  split
  · exact .askWithdraw h
  · exact h

theorem OutOk.sysForm {i : Instr} {f : Ctx → State} (h : s.MemoryOk) (hf : ∀ a, (f a).MemoryOk) :
    OutOk (s.sysForm i a f) := by
  unfold State.sysForm
  split
  · exact .next (.takeTrap h)
  refine .withHandle h ?_
  split
  · exact .takeTrap h
  · exact hf _

theorem State.MemoryOk.sysStatus {v : Nat} (h : s.MemoryOk) : (s.sysStatus d v).MemoryOk := .finishWait (.setX h)

theorem State.MemoryOk.saveForm (h : s.MemoryOk) : (s.saveForm d a b tg).MemoryOk := by
  unfold State.saveForm
  split
  · exact .sysStatus h
  split
  · exact .sysStatus h
  split
  · exact .sysStatus h
  split
  · rename_i e
    exact .sysStatus (.setSaved (.of_snd e (.writeImage h)))
  · rename_i e
    exact .block (.of_snd e (.writeImage h))
  · rename_i e
    exact .sysStatus (.of_snd e (.writeImage h))

theorem execSave_ok (h : s.MemoryOk) : OutOk (Machine.execSave d a b s) := .sysForm h (fun _ => .saveForm h)

theorem State.MemoryOk.putRanges {core : CoreIx} {xs : List (Nat × Nat)} {ys : List Byte} (h : s.MemoryOk) :
    (State.putRanges s tg core xs ys).MemoryOk := by
  induction xs generalizing ys s with
  | nil => exact h
  | cons x1 xs ih => exact ih (.ite h (.homeWrite h))

theorem State.MemoryOk.holdStack {t : State} (e : s.holdStack id = some t) (h : s.MemoryOk) : t.MemoryOk := by
  unfold State.holdStack at e
  obtain ⟨x, e1, e⟩ := Option.bind_eq_some_iff.1 e
  split at e
  · exact .of_some e h
  obtain ⟨x1, e2, e⟩ := Option.map_eq_some_iff.1 e
  subst e
  exact .updCtx h _ _

theorem State.MemoryOk.restore {body : List Byte} (h : s.MemoryOk) : (s.restore d tg hd body).MemoryOk := by
  unfold State.restore
  dsimp only
  split
  · exact .sysStatus h
  rename_i s1 e
  have h1 : s1.MemoryOk := by
    split at e
    · exact .holdStack e h
    · exact .of_some e h
  exact .sysStatus (.noteReady (.updCtx (.writeQuads (.updCtx (.dropLines (.putRanges h1)) _ _)) _ _))

theorem State.MemoryOk.resumeBody {k : Cap} {head : List Byte} (h : s.MemoryOk) :
    (s.resumeBody d tg k hd head).MemoryOk := by
  unfold State.resumeBody
  split
  · simp only
    split
    · exact .takeTrap h
    split
    · exact .trapBad h
    rename_i e
    exact .restore (.engRead e h)
  · simp only
    split
    · exact .takeTrap h
    split
    · exact .trapBad h
    split
    · rename_i e _ _
      exact .sysStatus (.engRead e h)
    · rename_i e _ _ _
      exact .restore (.engRead e h)

theorem State.MemoryOk.resumeForm (h : s.MemoryOk) : (s.resumeForm d b tg).MemoryOk := by
  unfold State.resumeForm
  extract_lets k s1
  have h1 : s1.MemoryOk := .clampScope h
  split
  · exact .takeTrap h
  refine .ite (.takeTrap h) (.ite (.sysStatus h) (.ite (.sysStatus h) (.ite (.sysStatus h) ?_)))
  split
  · exact .trapBad h1
  rename_i e
  have h2 := State.MemoryOk.engRead e h1
  exact .ite (.sysStatus h2) (.ite (.sysStatus h2) (.resumeBody h2))

theorem execResume_ok (h : s.MemoryOk) : OutOk (Machine.execResume d a b s) := .sysForm h (fun _ => .resumeForm h)

end

/-! ### The operations of Machine/Sys.lean -/

section
variable {s : State} {d a b : Reg} {id : BitVec 32} {r : TrapRec} {core : CoreIx} {sl : SlotId}

theorem execTrap_ok {imm : BitVec 12} (h : s.MemoryOk) : OutOk (Machine.execTrap imm s) := .next (.takeTrap h)
theorem execBkpt_ok (h : s.MemoryOk) : OutOk (Machine.execBkpt s) := .next (.takeTrap h)

theorem execEret_ok (h : s.MemoryOk) : OutOk (Machine.execEret s) := by
  unfold Machine.execEret
  split
  · exact .next (.returnHandler h)
  · exact .next (.takeTrap h)

theorem State.MemoryOk.killFrom {xs : List StoreEntry} {ys : List StoreEntry} (h : s.MemoryOk) :
    (Machine.killFrom id xs ys s).MemoryOk := by
  induction xs generalizing ys s with
  | nil => exact h
  | cons x1 xs ih =>
    unfold Machine.killFrom
    split
    · exact ih h
    dsimp only
    split
    · exact ih (.pick h)
    split
    · rename_i e
      exact ih (.performStore e (.pick h))
    · exact ih (.pick h)
    · split
      · exact .pick h
      · exact ih (.sendStore (.pick h))

theorem State.MemoryOk.killCtx {exit : Word} {cause : Option (BitVec 8)} (h : s.MemoryOk) :
    (s.killCtx id exit cause).MemoryOk := by
  unfold State.killCtx
  split
  · exact h
  · exact .endCtx (.updGang (.updCtx (.killFrom (.stopWait h)) _ _))

theorem State.MemoryOk.freezeQuiet (h : s.MemoryOk) : (s.freezeQuiet id).MemoryOk := by
  unfold State.freezeQuiet
  split
  · exact h
  · exact .ite (.updCtx h _ _) (.leave (.asCtx h (fun s h => .completeAll h)))

theorem State.MemoryOk.tryStop (h : s.MemoryOk) : (s.tryStop id).MemoryOk := by
  unfold State.tryStop
  split
  · exact h
  split
  · split
    · exact h
    split
    · exact .killCtx h
    split
    · exact .askWithdraw h
    · exact .ite (.killCtx h) h
    · exact .ite h (.killCtx h)
  · split
    · exact h
    split
    · exact .freezeQuiet h
    split
    · exact .askWithdraw h
    · exact .ite (.freezeQuiet h) h
    · exact .ite h (.freezeQuiet h)

theorem execFreeze_ok (h : s.MemoryOk) : OutOk (Machine.execFreeze d a s) :=
  .sysForm h (fun _ => .ite (.sysStatus h) (.tryStop (.updCtx (.sysStatus h) _ _)))

theorem execThaw_ok (h : s.MemoryOk) : OutOk (Machine.execThaw d a b s) :=
  .sysForm h (fun _ => .ite (.sysStatus (.noteReady (.thaw h))) (.sysStatus h))

theorem execKill_ok (h : s.MemoryOk) : OutOk (Machine.execKill d a b s) :=
  .sysForm h (fun _ => .ite (.sysStatus h) (.tryStop (.updCtx (.sysStatus h) _ _)))

theorem State.MemoryOk.openRecordCtx {x : BitVec 24} {y : BitVec 24} {t : State}
    (e : s.openRecordCtx r = some (x, y, t)) (h : s.MemoryOk) : t.MemoryOk := by
  unfold State.openRecordCtx at e
  dsimp only at e
  split at e
  · split at e <;> exact .openHandle e h
  · exact .openHandle e h

theorem State.MemoryOk.takeRecord {target : Option Target} (h : s.MemoryOk) :
    (s.takeRecord d a target r).MemoryOk := by
  unfold State.takeRecord
  split
  · simp only
    split
    · rename_i e
      exact .finishWait (.setCap (.openRecordCtx e (.updCx (.putRecord (.clampScope h)))))
    · exact .finishWait (.setBits (.updCx (.putRecord (.clampScope h))))
  · simp only
    split
    · rename_i e
      exact .finishWait (.setCap (.openRecordCtx e (.updCx (.clampScope h))))
    · exact .finishWait (.setBits (.updCx (.clampScope h)))

theorem State.MemoryOk.waitev (h : s.MemoryOk) : (s.waitev d a).MemoryOk := by
  unfold State.waitev
  split
  · simp only
    split
    · exact .block h
    · exact .takeRecord (.updCore h)
  · split
    · exact .trapBad h
    simp only
    split
    · rename_i e _ _
      exact .block (.recordTarget e h)
    · rename_i e _ _ _ _
      exact .takeRecord (.updCore (.recordTarget e h))

theorem execWaitev_ok (h : s.MemoryOk) : OutOk (Machine.execWaitev d a s) := by
  unfold Machine.execWaitev
  split
  · exact .next (.waitev h)
  · exact .next (.takeTrap h)

theorem State.MemoryOk.recordArrived {slot : SlotIx} (h : s.MemoryOk) : (s.recordArrived core slot).MemoryOk := by
  unfold State.recordArrived
  simp only
  split
  · exact h
  split
  · exact h
  split
  · exact .asCtx h (fun s h => .waitev h)
  · exact .ite (.updCore h) h

theorem execTrapRecordDelivery_ok (h : s.MemoryOk) : OutOk (Machine.execTrapRecordDelivery core s) := by
  unfold Machine.execTrapRecordDelivery
  simp only
  split
  · exact .next h
  split
  · exact .next h
  split
  · exact .next (.updCluster (.updCore h))
  split
  · exact .next h
  · exact .next (.recordArrived (.updCore (.updCore h)))

theorem State.MemoryOk.interruptSlot (h : s.MemoryOk) : (s.interruptSlot sl).MemoryOk := by
  unfold State.interruptSlot
  split
  · exact .updCore h
  · exact .ite (.updCore h) (.ite h (.asCtx (.updCore h) (fun s h => .updCx (.completeAll h))))

theorem execHandlerInterrupt_ok (h : s.MemoryOk) : OutOk (Machine.execHandlerInterrupt core s) := by
  unfold Machine.execHandlerInterrupt
  refine .next (foldl_ok _ (fun s _ h => ?_) _ _ h)
  exact .ite (.interruptSlot h) h

theorem execWatchdog_ok (h : s.MemoryOk) : OutOk (Machine.execWatchdog sl s) :=
  .next (.withSlot h (fun _ h => .ite h (.takeTrap (.ite (.updCx h) h))))

theorem State.MemoryOk.baristaFault {cause : Cause} (h : s.MemoryOk) : (s.baristaFault r cause).MemoryOk :=
  .raiseFault h

theorem execBaristaTrapRecord_ok {cluster : ClusterIx} (h : s.MemoryOk) :
    OutOk (Machine.execBaristaTrapRecord cluster s) := by
  unfold Machine.execBaristaTrapRecord
  split
  · exact .next h
  split
  · simp only
    split
    · exact .next (.updCluster h)
    split
    · exact .next (.updCluster h)
    · exact .next (.baristaFault (.updCluster h))
  · simp only
    split
    · exact .next (.updCluster h)
    split
    · exact .next (.updCluster h)
    · exact .next (.killCtx (.updCluster h))

end

/-! ### The operations of Machine/Sched.lean -/

section
variable {s : State} {sl : SlotId} {i txn : Nat} {c : Ctx} {core : CoreIx} {q : BitVec 4} {r : BindRec}
    {cl : ClusterIx} {l : BitVec 32 × BitVec 4}

theorem State.MemoryOk.dropLine (h : s.MemoryOk) : (s.dropLine core l).MemoryOk := .updCtx (.updCore h) _ _

theorem State.MemoryOk.replaceLine (h : s.MemoryOk) : (s.replaceLine core l).2.MemoryOk := by
  unfold State.replaceLine
  split
  · exact .dropLine h
  split
  · exact .dropLine h
  split
  · rename_i e
    exact .dropLine (.updCtx (.putQuads (.cdReady e h)) _ _)
  · exact .raiseFault (.updCtx h _ _)

theorem State.MemoryOk.makeRoom {set : Nat} {n : Nat} (h : s.MemoryOk) :
    (State.makeRoom core set n s).2.MemoryOk := by
  induction n generalizing s with
  | zero => exact h
  | succ n ih =>
    unfold State.makeRoom
    simp only
    split
    · exact h
    split
    · exact h
    split
    · rename_i e
      exact .of_snd e (.replaceLine h)
    · rename_i e
      exact ih (.of_snd e (.replaceLine h))

theorem State.MemoryOk.cdPresent (h : s.MemoryOk) : (s.cdPresent c).2.MemoryOk := by
  unfold State.cdPresent
  split
  · rename_i e
    exact .coreTranslate e h
  · rename_i e
    exact .coreTranslate e h
  · exact h

theorem State.MemoryOk.fillQuad (h : s.MemoryOk) : (s.fillQuad q).MemoryOk := by
  unfold State.fillQuad
  simp only
  split
  · exact h
  split
  · split
    · rename_i e
      exact .of_snd e (.makeRoom h)
    · rename_i e
      exact .updCx (.updCore (.of_snd e (.makeRoom h)))
  · split
    · split
      · rename_i e _ _ e1
        exact .of_snd e1 (.makeRoom (.of_snd e (.cdPresent h)))
      · rename_i e _ _ e1
        exact .updCx (.updCore (.of_snd e1 (.makeRoom (.of_snd e (.cdPresent h)))))
    · rename_i e
      exact .takeTrap (.of_snd e (.cdPresent h))

theorem execQuadFill_ok (h : s.MemoryOk) : OutOk (Machine.execQuadFill sl q s) := by
  unfold Machine.execQuadFill
  refine .next (.withSlot h fun s h => ?_)
  split
  · exact h
  split
  rename_i e
  exact .fillQuad (.updCx (.of_snd2 e (.fetchUnit h)))

theorem State.MemoryOk.useQuad (h : s.MemoryOk) : (s.useQuad q).MemoryOk := .updCore h
theorem State.MemoryOk.setSlotRec (h : s.MemoryOk) : (s.setSlotRec sl r).MemoryOk := .updCore h
theorem State.MemoryOk.clearValid (h : s.MemoryOk) : (s.clearValid sl).MemoryOk := .setSlotRec h

theorem State.MemoryOk.moveOff (h : s.MemoryOk) : (s.moveOff c).2.MemoryOk := by
  unfold State.moveOff
  simp only
  split
  · exact .writeQuads h
  · exact .updCtx (.dropLines (.writeQuads h)) _ _

theorem State.MemoryOk.enterSlot (h : s.MemoryOk) : (s.enterSlot sl r c).MemoryOk := by
  unfold State.enterSlot
  split
  · exact h
  rename_i e
  exact .updLaunch (.updGang (.clearValid (.setBound (.updCtx (.holdStack e (.updCtx h _ _)) _ _))))

theorem State.MemoryOk.bindSlot (h : s.MemoryOk) : (s.bindSlot sl r c).MemoryOk := by
  unfold State.bindSlot
  split
  · exact .enterSlot h
  split
  · rename_i e
    exact .enterSlot (.of_snd e (.moveOff h))
  · rename_i e
    exact .of_snd e (.moveOff h)

theorem State.MemoryOk.carryOut (h : s.MemoryOk) : (s.carryOut sl).MemoryOk := by
  unfold State.carryOut
  extract_lets r
  refine .ite h ?_
  split
  · exact .clearValid h
  refine .ite (.bindSlot h) (.ite h ?_)
  split
  · exact h
  split <;> rename_i e
  · exact .of_snd e (.requestPreempt h)
  · exact .clearValid (.of_snd e (.requestPreempt h))

theorem execSlotBind_ok (h : s.MemoryOk) : OutOk (Machine.execSlotBind sl s) := .next (.carryOut h)

theorem execBindRecord_ok {w0 w1 w2 w3 : Word} (h : s.MemoryOk) : OutOk (Machine.execBindRecord sl w0 w1 w2 w3 s) :=
  .next (.carryOut (.setSlotRec h))

theorem execQuantumExpiry_ok (h : s.MemoryOk) : OutOk (Machine.execQuantumExpiry sl s) := by
  unfold Machine.execQuantumExpiry
  split
  · exact .next h
  split
  · exact .next h
  split
  · rename_i e
    exact .next (.of_snd e (.requestPreempt h))
  · rename_i e
    exact .next (.updCtx (.of_snd e (.requestPreempt h)) _ _)

theorem execAgingIntervalExpiry_ok {gang : BitVec 32} (h : s.MemoryOk) :
    OutOk (Machine.execAgingIntervalExpiry gang s) := by
  unfold Machine.execAgingIntervalExpiry
  split
  · exact .next h
  · exact .next (.ite (.updGang h) h)

theorem State.MemoryOk.baristaBind (h : s.MemoryOk) : (s.baristaBind cl).MemoryOk := by
  unfold State.baristaBind
  split
  · exact h
  refine foldl_ok _ (fun s _ h => ?_) _ _ h
  exact .carryOut (.setSlotRec h)

theorem State.MemoryOk.baristaRejoin (h : s.MemoryOk) : (s.baristaRejoin cl).MemoryOk := by
  unfold State.baristaRejoin
  split
  · exact h
  split
  · exact .carryOut (.setSlotRec h)
  · exact h

theorem State.MemoryOk.preemptGang {g : Gang} (h : s.MemoryOk) : (s.preemptGang g).MemoryOk := by
  unfold State.preemptGang
  refine foldl_ok _ (fun s _ h => ?_) _ _ h
  exact .requestPreempt h

theorem State.MemoryOk.baristaPreempt (h : s.MemoryOk) : (s.baristaPreempt cl).MemoryOk := by
  unfold State.baristaPreempt
  split
  · exact h
  split
  · exact .ite h (.preemptGang h)
  · exact .ite h h

theorem execYield_ok (h : s.MemoryOk) : OutOk (Machine.execYield s) := by
  unfold Machine.execYield
  simp only
  split
  · split
    · exact .next (.of_eq (.leaveSlot (.advance h)) rfl rfl)
    · exact .next (.advance h)
  · exact .next (.advance h)

theorem State.MemoryOk.dropTxn {label : Nat} (h : s.MemoryOk) : (s.dropTxn label).MemoryOk := h

theorem State.MemoryOk.storeAcked {id : BitVec 32} (h : s.MemoryOk) : (s.storeAcked id txn).MemoryOk :=
  .dropTxn (.updCtx h _ _)

theorem execStorePerform_ok (h : s.MemoryOk) : OutOk (Machine.execStorePerform sl i s) := by
  unfold Machine.execStorePerform
  split
  · exact .next h
  split
  · exact .next (.ite h (.storeAcked h))
  · exact .next (.performAt h)

theorem State.MemoryOk.takeLate {p : LateFault → Bool} {t : State} (e : s.takeLate p = some t) (h : s.MemoryOk) :
    t.MemoryOk := by
  unfold State.takeLate at e
  obtain ⟨x, e1, e⟩ := Option.map_eq_some_iff.1 e
  subst e
  exact .takeTrap (.updCx h)

theorem State.MemoryOk.fenceEnd (h : s.MemoryOk) : (s.fenceEnd).MemoryOk := by
  unfold State.fenceEnd
  extract_lets s1
  have h1 : s1.MemoryOk := .drain h
  split
  · exact .getD (fun _ e => .takeLate e h1) (.ite (.finishWait h1) h1)
  · exact .getD (fun _ e => .takeLate e h1) (.ite h1 (.finishWait h1))
  · exact h1

theorem execFenceComplete_ok (h : s.MemoryOk) : OutOk (Machine.execFenceComplete sl s) :=
  .next (.withSlot h (fun _ h => .fenceEnd h))

theorem State.MemoryOk.pendAnswer {v : RegVal} (h : s.MemoryOk) : (s.pendAnswer i v).MemoryOk := by
  unfold State.pendAnswer
  split
  · exact h
  · exact .updCx (.pendWrite h)

theorem State.MemoryOk.pendFail {cause : Cause} {val : Word} {handle : Option (BitVec 24)} (h : s.MemoryOk) :
    (s.pendFail i cause val handle).MemoryOk := by
  unfold State.pendFail
  split
  · exact h
  · exact .lateFault (.updCx h)

theorem State.MemoryOk.atomEvents {old : W256} (h : s.MemoryOk) : (s.atomEvents txn old).MemoryOk := by
  unfold State.atomEvents
  split
  · exact .countOne h
  · exact h

theorem State.MemoryOk.laneAnswer {data : W256} (h : s.MemoryOk) : (s.laneAnswer i txn data).MemoryOk := by
  unfold State.laneAnswer
  split
  · exact .ite (.pendAnswer h) (.updCx h)
  · exact h

theorem execLoadDataReturn_ok {r : LoadReply} (h : s.MemoryOk) : OutOk (Machine.execLoadDataReturn sl i r s) := by
  unfold Machine.execLoadDataReturn
  split
  · exact .next h
  refine .next (.asCtx h (fun s h => ?_))
  split
  · exact h
  split
  · exact .resolvePend h
  · exact .pendFail h
  · exact .pendFail h
  · exact .pendFail h
  · exact .dropTxn (.pendFail h)
  · exact .dropTxn (.pendAnswer (.atomEvents h))
  · exact .pendFail h
  · exact .dropTxn (.laneAnswer h)
  · exact h

theorem execLongLatencyCompletion_ok (h : s.MemoryOk) : OutOk (Machine.execLongLatencyCompletion sl i s) := by
  unfold Machine.execLongLatencyCompletion
  split
  · exact .next h
  · exact .next (.asCtx h (fun s h => .completePend h))

end

/-! ### The operations of Machine/Jobs.lean -/

section
variable {s : State} {en : EngineIx} {j : Job} {kind : EngineKind} {cmd : BitVec 8} {place : Bool}
    {ps : List Piece} {all : Nat}

theorem State.MemoryOk.moveTime {near : Bool} {least sectors : Nat} (h : s.MemoryOk) :
    (s.moveTime near least sectors).2.MemoryOk := by
  unfold State.moveTime
  split
  · exact h
  dsimp only
  exact .farLatency h

theorem State.MemoryOk.jobWork (h : s.MemoryOk) : (s.jobWork en j).2.MemoryOk := by
  unfold State.jobWork
  split
  · exact h
  split
  · exact h
  split
  · exact h
  · exact .moveTime h

theorem State.MemoryOk.idleValue0 (h : s.MemoryOk) : (s.idleValue0 en j).2.MemoryOk := by
  unfold State.idleValue0
  split
  · dsimp only
    exact .jobCycles (.jobWork h)
  · split <;> exact h

theorem State.MemoryOk.endAtStart {code cause : BitVec 8} {place : BitVec 32} (h : s.MemoryOk) :
    (s.endAtStart en j code cause place).MemoryOk := .endJob (.idleValue0 h)

theorem OutOk.runHead {run : Job → State → State} (h : s.MemoryOk) (hrun : ∀ a s, s.MemoryOk → (run a s).MemoryOk) :
    OutOk (s.runHead en kind cmd place run) := by
  unfold State.runHead
  generalize (if place then faultPlace 10 0 else 0) = pos
  extract_lets g
  split
  · exact .next h
  split
  · exact .next h
  split
  · exact .next h
  · exact .next (.endAtStart h)
  · exact .next (.endAtStart h)
  · exact .next (hrun _ _ h)

theorem OutOk.runMoves {start go : Job → State → State} (h : s.MemoryOk)
    (hstart : ∀ a s, s.MemoryOk → (start a s).MemoryOk) (hgo : ∀ a s, s.MemoryOk → (go a s).MemoryOk) :
    OutOk (s.runMoves en kind cmd place start go) := by
  unfold State.runMoves
  split
  · exact .next (hgo _ _ h)
  · exact .runHead h (fun a s h => hstart _ _ h)

theorem State.MemoryOk.pieceLoop {β : Type} {go : Piece → State → Except β (List Piece × List Ev × State)} {n : Nat}
    {evs : List Ev} (h : s.MemoryOk) (hgo : ∀ p s, s.MemoryOk → Gives (go p s) fun x => x.2.2.MemoryOk) :
    (Machine.pieceLoop go n ps evs s).state.MemoryOk := by
  induction n generalizing ps evs s with
  | zero => exact h
  | succ n ih =>
    unfold Machine.pieceLoop
    split
    rename_i e
    have h1 := State.MemoryOk.of_snd e (.iteSnd h (.pick h))
    split
    · exact h1
    split
    · exact h1
    rename_i e1
    exact ih (hgo _ _ h1 _ e1)

theorem State.MemoryOk.slice (h : s.MemoryOk) : (s.slice all).2.MemoryOk := by
  unfold State.slice
  split <;> exact h

theorem State.MemoryOk.runPieces {β : Type} {go : Piece → State → Except β (List Piece × List Ev × State)}
    (h : s.MemoryOk) (hgo : ∀ p s, s.MemoryOk → Gives (go p s) fun x => x.2.2.MemoryOk) :
    (s.runPieces go all ps).state.MemoryOk := .pieceLoop (.slice h) hgo

theorem execNop_ok (h : s.MemoryOk) : OutOk (Machine.execNop en s) := .runHead h (fun _ _ h => .endJob h)

theorem State.MemoryOk.replayPiece {id : BitVec 16} {p : Piece} {x : List Piece} {y : List Ev} {t : State}
    (e : Machine.replayPiece en id p s = .ok (x, y, t)) (h : s.MemoryOk) : t.MemoryOk := by
  unfold Machine.replayPiece at e
  split at e
  · exact .of_okTriple e (.trySector h)
  · exact .of_okTriple e h

theorem execCreplay_ok (h : s.MemoryOk) : OutOk (Machine.execCreplay en s) := by
  unfold Machine.execCreplay
  refine .runHead h fun j s h => ?_
  split
  · exact .endJob h
  refine .ite (.endJob (.updJob h)) ?_
  rename_i x _
  extract_lets s1 s2
  have h2 : s2.MemoryOk :=
    .pieceLoop (.updXfer (.updJob h)) fun _ _ h ⟨_, _, _⟩ e => .replayPiece e h
  split
  · exact .endJob (.settleXfer h2)
  · exact .endJob h2

theorem execCabort_ok (h : s.MemoryOk) : OutOk (Machine.execCabort en s) := by
  unfold Machine.execCabort
  refine .runHead h (fun a s h => ?_)
  split
  · exact .endJob h
  refine .endJob (.endXfer ?_)
  split
  · rename_i e
    exact .xferBar e (.updJob h)
  · exact .updJob h

end

/-! ### The operations of Machine/Matrix.lean -/

section
variable {s t : State} {en : EngineIx} {j : Job} {x : List Piece} {y : List Ev} {run : State → State}
    {bs : List Byte} {xx : Nat} {p : Piece}

theorem State.MemoryOk.started {locs : List Locator} {extras : List Nat} (h : s.MemoryOk)
    (hrun : ∀ s, s.MemoryOk → (run s).MemoryOk) : (s.started en j locs extras run).MemoryOk := by
  unfold State.started
  split
  · exact .endAtStart h
  · exact hrun _ h

theorem State.MemoryOk.commitBank (h : s.MemoryOk) : (s.commitBank en j bs).MemoryOk := .write h

theorem State.MemoryOk.accessFault {b : Bad} {wr : Bool} {opnd pos : Nat} {v0 : BitVec 32} (h : s.MemoryOk) :
    (s.accessFault en j b wr opnd pos v0).MemoryOk := .endJob (.engFault h)

theorem State.MemoryOk.cleanRead {parts : List (Nat × Nat)} (h : s.MemoryOk)
    (hrun : ∀ s, s.MemoryOk → (run s).MemoryOk) : (s.cleanRead en j parts xx run).MemoryOk := by
  unfold State.cleanRead
  split
  · dsimp only
    split
    · exact hrun _ (.pick h)
    · exact .accessFault (.jobCycles (.pick (.pick h)))
  · exact hrun _ h

theorem State.MemoryOk.mmaCommit {outs : List (Nat × Ev)} {trunc : List Ev} (h : s.MemoryOk) :
    (s.mmaCommit en j outs trunc xx).MemoryOk := .endJob (.commitBank (State.MemoryOk.jobCycles h : (s.jobCycles xx).2.MemoryOk))

theorem execMma_ok (h : s.MemoryOk) : OutOk (Machine.execMma en s) :=
  .runHead h (fun _ _ h => .started h (fun _ h => .cleanRead h (fun _ h => .mmaCommit h)))

theorem execMmas_ok (h : s.MemoryOk) : OutOk (Machine.execMmas en s) := by
  unfold Machine.execMmas
  refine .runHead h (fun a s h => ?_)
  refine .started h (fun s h => ?_)
  refine .cleanRead h (fun s h => ?_)
  split
  split
  split
  simp only
  split
  · rename_i e _ _ _ _ _ _ _ _ _ _ _
    exact .endJob (.of_snd e (.jobCycles h))
  · exact .mmaCommit h

theorem execMzero_ok (h : s.MemoryOk) : OutOk (Machine.execMzero en s) := by
  unfold Machine.execMzero
  refine .runHead h fun j s h => .started h fun s h => ?_
  have h1 : (s.jobCycles 64).2.MemoryOk := .jobCycles h
  exact .endJob (.ite (.write (.commitBank h1)) (.commitBank h1))

theorem State.MemoryOk.readSectors {cl : ClusterIx} {a : Asid} {k : Cap} {n : Nat} {i : Nat} {m : Nat} {x : List Byte}
    (e : Machine.readSectors cl a k n i m s = .ok (x, t)) (h : s.MemoryOk) : t.MemoryOk := by
  induction n generalizing i m s x t with
  | zero => exact .of_okPair e h
  | succ n ih =>
    unfold Machine.readSectors at e
    split at e
    · cases e
    split at e
    · cases e
    rename_i e1 _ _ _ e2
    exact .of_okPair e (ih e2 (.engRead e1 h))

theorem execMlda_ok (h : s.MemoryOk) : OutOk (Machine.execMlda en s) := by
  unfold Machine.execMlda
  refine .runHead h (fun a s h => ?_)
  refine .started h (fun s h => ?_)
  split
  split
  simp only
  split
  · rename_i e _ _ _ e1 _ _ _ _
    exact .accessFault (.of_snd e1 (.jobCycles (.of_snd e (.moveTime h))))
  · rename_i e _ _ _ e1 _ _ _ e2
    exact .endJob (.commitBank (.readSectors e2 (.of_snd e1 (.jobCycles (.of_snd e (.moveTime h))))))

theorem State.MemoryOk.writeJob {total : Nat} {own : List Ev} {counts : Bool}
    {go : Piece → State → Except (Bad × Nat) (List Piece × List Ev × State)} (h : s.MemoryOk)
    (hgo : ∀ p s, s.MemoryOk → Gives (go p s) fun x => x.2.2.MemoryOk) :
    (s.writeJob en j total own counts go).MemoryOk := by
  unfold State.writeJob
  extract_lets todo m sum n
  have h1 : m.state.MemoryOk := .runPieces h hgo
  split
  · exact .accessFault h1
  · exact .ite (.endJob h1) (.updJob h1)

theorem State.MemoryOk.storeSector {at_ : Nat} (e : s.storeSector en j at_ bs = .ok (x, y, t)) (h : s.MemoryOk) :
    t.MemoryOk := by
  unfold State.storeSector at e
  dsimp only at e
  split at e
  · cases e
  split at e
  · cases e
  rename_i e'
  exact .of_okTriple e (.engWriteSector e' (.meetError h))

theorem State.MemoryOk.mstaPiece (e : Machine.mstaPiece en j p s = .ok (x, y, t)) (h : s.MemoryOk) : t.MemoryOk := by
  unfold Machine.mstaPiece at e
  split at e
  · exact .storeSector e h
  · exact .of_okTriple e h

theorem State.MemoryOk.runMsta (h : s.MemoryOk) : (s.runMsta en j).MemoryOk :=
  .writeJob h fun _ _ h ⟨_, _, _⟩ e => .mstaPiece e h

theorem execMsta_ok (h : s.MemoryOk) : OutOk (Machine.execMsta en s) :=
  .runMoves h (fun _ _ h => .started h (fun _ h => .runMsta (.idle h))) (fun _ _ h => .runMsta h)

theorem State.MemoryOk.mcvtPiece {rows : List (List Byte)} (e : Machine.mcvtPiece en j rows p s = .ok (x, y, t))
    (h : s.MemoryOk) : t.MemoryOk := by
  unfold Machine.mcvtPiece at e
  split at e
  · dsimp only at e
    exact .storeSector e h
  · exact .of_okTriple e h

theorem State.MemoryOk.runMcvt (h : s.MemoryOk) : (s.runMcvt en j).MemoryOk :=
  .writeJob h fun _ _ h ⟨_, _, _⟩ e => .mcvtPiece e h

theorem execMcvt_ok (h : s.MemoryOk) : OutOk (Machine.execMcvt en s) :=
  .runMoves h (fun _ _ h => .started h (fun _ h => .runMcvt (.idle h))) (fun _ _ h => .runMcvt h)

end

/-! ### The operations of Machine/Witness.lean -/

section
variable {s t : State} {cl : ClusterIx} {en : EngineIx} {n : BitVec 4} {value : Word} {a : Asid} {k : Cap}
    {xs : List Nat} {j : Job}

theorem State.MemoryOk.updWit {f : WitSlot → WitSlot} (h : s.MemoryOk) : (s.updWit cl n f).MemoryOk := .updCluster h
theorem State.MemoryOk.setOwner (h : s.MemoryOk) : (s.setOwner cl n value).MemoryOk := .updWit (.updCluster h)

theorem State.MemoryOk.writeOwner (h : s.MemoryOk) : (s.writeOwner cl n value).MemoryOk :=
  .ite (.setOwner h) (.setOwner (.write (.write h)))

theorem execMxOwnWrite_ok {cluster : ClusterIx} (h : s.MemoryOk) : OutOk (Machine.execMxOwnWrite cluster n value s) :=
  .next (.writeOwner h)

theorem State.MemoryOk.readSectorList {x : List (Nat × List Byte)}
    (e : Machine.readSectorList cl a k xs s = .ok (x, t)) (h : s.MemoryOk) : t.MemoryOk := by
  induction xs generalizing s x t with
  | nil => exact .of_okPair e h
  | cons x1 xs ih =>
    unfold Machine.readSectorList at e
    split at e
    · cases e
    split at e
    · cases e
    rename_i e1 _ _ _ e2
    exact .of_okPair e (ih e2 (.engRead e1 h))

theorem State.MemoryOk.mergeSector {c : Nat} {bs : List (Option Byte)} {x : List (Option Byte)}
    (e : s.mergeSector cl a k c bs = .ok (x, t)) (h : s.MemoryOk) : t.MemoryOk := by
  unfold State.mergeSector at e
  split at e
  · exact .of_okPair e h
  split at e
  · cases e
  dsimp only at e
  rename_i e'
  exact .of_okPair e (.engReach e' h)

theorem State.MemoryOk.writeSectorList {es : List (Nat × List Byte)} {n : Nat} (h : s.MemoryOk) :
    (Machine.writeSectorList cl a k es xs n s).2.2.MemoryOk := by
  induction xs generalizing n s with
  | nil => exact h
  | cons x1 xs ih =>
    unfold Machine.writeSectorList
    split
    · exact h
    split
    · rename_i e _ _ _
      exact .mergeSector e h
    · rename_i e _ _ _ e1
      exact ih (.writeRuns e1 (.mergeSector e h))

theorem State.MemoryOk.runRed (h : s.MemoryOk) : (s.runRed en j).MemoryOk := by
  unfold State.runRed
  simp only
  split
  · exact .accessFault (.idle (.updWit h))
  split
  · rename_i e _ _ _ _ _ e1
    exact .accessFault (.of_snd2 e1 (.writeSectorList (.readSectorList e (.idle (.updWit h)))))
  · rename_i e _ _ _ e1
    exact .endJob (.updWit (.homeWrite (.of_snd2 e1 (.writeSectorList (.readSectorList e (.idle (.updWit h)))))))

theorem execRed_ok (h : s.MemoryOk) : OutOk (Machine.execRed en s) :=
  .runHead h (fun _ _ h => .started h (fun _ h => .runRed h))

theorem State.MemoryOk.runAdjb (h : s.MemoryOk) : (s.runAdjb en j).MemoryOk := by
  unfold State.runAdjb
  extract_lets cl w slot key hd hs wgen
  split
  rename_i s1 e1
  have h1 : s1.MemoryOk := .of_snd e1 (.idle h)
  split
  rename_i met s2 e2
  have h2 : s2.MemoryOk := .of_snd e2 (.iteSnd (.meetError h1) h1)
  refine .ite (.accessFault h2) (.ite (.endJob h2) (.ite (.endJob h2) ?_))
  extract_lets
  split
  · exact .accessFault h2
  rename_i e3
  have h3 := State.MemoryOk.readSectorList e3 h2
  split
  · exact .accessFault h3
  rename_i e4
  have h4 := State.MemoryOk.readSectorList e4 h3
  split
  · exact .endJob h4
  split
  · exact .endJob h4
  extract_lets out cells
  split <;> rename_i e5
  · exact .accessFault (.of_snd2 e5 (.writeSectorList h4))
  · exact .endJob (.of_snd2 e5 (.writeSectorList h4))

theorem execAdjb_ok (h : s.MemoryOk) : OutOk (Machine.execAdjb en s) :=
  .runHead h (fun _ _ h => .started h (fun _ h => .runAdjb h))

theorem execWrel_ok (h : s.MemoryOk) : OutOk (Machine.execWrel en s) :=
  .runHead h fun _ _ h => .started h fun _ h => .endJob (.updWit (.idle h))

end

/-! ### The operations of Machine/Ctl.lean -/

section
variable {s : State} {num : BitVec 12} {n : Nat} {v : Word} {r : Reg}

theorem OutOk.ctlForm {i : Instr} {f : Out} (h : s.MemoryOk) (hf : OutOk f) : OutOk (s.ctlForm i num f) := by
  unfold State.ctlForm
  split
  · exact .next (.takeTrap h)
  · exact hf

theorem execCtlr_ok {d : Reg} (h : s.MemoryOk) : OutOk (Machine.execCtlr d num s) := by
  unfold Machine.execCtlr
  refine .ctlForm h ?_
  split
  · exact execCpyGo_ok h
  split
  · exact .next (.advance (.setBits h))
  · exact .next (.advance (.setX h))

theorem State.MemoryOk.coreCtlWrite (h : s.MemoryOk) : (s.coreCtlWrite n v).MemoryOk := by
  unfold State.coreCtlWrite
  split
  · exact .ite (.carryOut (.setSlotRec h)) (.setSlotRec h)
  · exact .ite (.updCore h) (.ite (.updCore h) h)

theorem State.MemoryOk.dropNames {cl : ClusterIx} {a : Asid} (h : s.MemoryOk) : (s.dropNames cl a).MemoryOk :=
  .updCluster h

theorem State.MemoryOk.clusterCtlWrite (h : s.MemoryOk) : (s.clusterCtlWrite n v).MemoryOk :=
  .ite (.updCluster h) (.ite (.updCluster h) (.ite (.dropNames h) (.ite (.setOwner h) h)))

theorem State.MemoryOk.ctlWrite (h : s.MemoryOk) : (s.ctlWrite n v).MemoryOk :=
  .ite (.updCx h) (.ite (.coreCtlWrite h) (.clusterCtlWrite h))

theorem execCtlw_ok (h : s.MemoryOk) : OutOk (Machine.execCtlw r num s) := by
  unfold Machine.execCtlw
  refine .ctlForm h ?_
  split
  · exact .next (.advance (.updCx h))
  split
  · exact .next (.advance (.updCx h))
  · exact .next (.ctlWrite (.advance h))

theorem execCtls_ok (h : s.MemoryOk) : OutOk (Machine.execCtls r num s) := by
  unfold Machine.execCtls
  refine .ctlForm h ?_
  split
  · exact .next (.advance (.updCx h))
  · exact .next (.ctlWrite (.advance h))

theorem execCtlc_ok (h : s.MemoryOk) : OutOk (Machine.execCtlc r num s) := by
  unfold Machine.execCtlc
  refine .ctlForm h ?_
  exact .next (.ctlWrite (.advance h))

theorem execCluNcinv_ok {cluster : ClusterIx} {value : Word} (h : s.MemoryOk) :
    OutOk (Machine.execCluNcinv cluster value s) := .next (.dropNames h)

end

/-! ### The operations of Machine/Kettle.lean -/

section
variable {s t : State} {q : BitVec 5} {fn : FnIx} {n : Nat} {value a1 : Word} {a : Asid}

theorem State.MemoryOk.kettleRead {i : Nat} {x : List Byte} (e : Machine.kettleRead a n a1 i s = .ok (x, t))
    (h : s.MemoryOk) : t.MemoryOk := by
  fun_induction Machine.kettleRead a n a1 i s generalizing x t with
  | case1 | case2 => exact .of_okPair e h
  | case3 | case4 => cases e
  | case5 =>
    rename_i e1 _ _ _ e2 ih
    exact .of_okPair e (ih e2 (.addrKey e1 h))

theorem State.MemoryOk.kettleWrite {acc : Acc} {xs : List Byte} (e : Machine.kettleWrite a acc n a1 xs s = .ok t)
    (h : s.MemoryOk) : t.MemoryOk := by
  fun_induction Machine.kettleWrite a acc n a1 xs s with
  | case1 | case2 => exact .of_ok e h
  | case3 => cases e
  | case4 _ _ _ _ _ _ _ e1 _ ih => exact ih e (.homeWrite (.addrKey e1 h))

theorem OutOk.answering {o : Out} (h : s.MemoryOk) (ho : OutOk o) : OutOk (s.answering o) := by
  unfold State.answering
  split
  · exact .next h
  · exact ho

theorem State.MemoryOk.updKq {f : KQueue → KQueue} (h : s.MemoryOk) : (s.updKq q f).MemoryOk := h

theorem State.MemoryOk.setFrozen {b : Bool} (h : s.MemoryOk) : (s.setFrozen fn b).MemoryOk := by
  unfold State.setFrozen
  split <;> exact h

theorem State.MemoryOk.freezeFn (h : s.MemoryOk) : (s.freezeFn fn).MemoryOk := .of_eq (.setFrozen h) rfl rfl

theorem State.MemoryOk.releaseFn (h : s.MemoryOk) : (s.releaseFn fn).MemoryOk :=
  .ite h (.of_eq (.setFrozen h) rfl rfl)

theorem execVfUnfreeze_ok {f : FnIx} (h : s.MemoryOk) : OutOk (Machine.execVfUnfreeze f s) := by
  unfold Machine.execVfUnfreeze
  refine .answering h ?_
  exact .next (.releaseFn h)

theorem execKqTailWrite_ok (h : s.MemoryOk) : OutOk (Machine.execKqTailWrite fn q value s) := by
  unfold Machine.execKqTailWrite
  refine .answering h ?_
  split
  · exact .next h
  split
  · exact .next (.freezeFn h)
  split
  · exact .next (.tell (.updKq h))
  · exact .next (.updKq h)

theorem execKqEnable_ok (h : s.MemoryOk) : OutOk (Machine.execKqEnable q value s) := by
  unfold Machine.execKqEnable
  refine .answering h ?_
  exact .next (.updKq h)

theorem execRegisterWrite_ok {num : BitVec 12} (h : s.MemoryOk) : OutOk (Machine.execRegisterWrite num value s) := by
  have hpkg (p : PkgRegs) : State.MemoryOk { s with pkg := p } := h.of_eq rfl rfl
  unfold Machine.execRegisterWrite
  extract_lets n pkg
  refine .answering h ?_
  iterate 5
    split
    · exact .next (hpkg _)
  split
  · exact .next (hpkg _)
  split
  · exact .next (.updKq h)
  split
  · exact .next (.ite (.releaseFn (hpkg _)) (hpkg _))
  · exact .next h

theorem execMeasExtend_ok {k : BitVec 3} {digest : BitVec 384} (h : s.MemoryOk) :
    OutOk (Machine.execMeasExtend fn k digest s) := by
  unfold Machine.execMeasExtend
  split <;> exact .next h

theorem OutOk.startPacket {ty : Nat} {run : List Byte → State → State} (h : s.MemoryOk)
    (hrun : ∀ a s, s.MemoryOk → (run a s).MemoryOk) : OutOk (s.startPacket q ty run) := by
  unfold State.startPacket
  split
  · exact .next h
  split
  · exact .next (.updKq h)
  split
  · exact .next h
  split
  · exact .next h
  · exact .next (hrun _ _ (.updKq h))

theorem State.MemoryOk.packetDone {scope : BitVec 4} (h : s.MemoryOk) : (s.packetDone q scope).MemoryOk :=
  .clampFn h _ _

theorem State.MemoryOk.settleFences (h : s.MemoryOk) : (Machine.settleFences q n s).MemoryOk := by
  induction n generalizing s with
  | zero => exact h
  | succ n ih =>
    unfold Machine.settleFences
    split
    · exact ih (.packetDone (.updKq h))
    · exact h

theorem State.MemoryOk.closePacket (h : s.MemoryOk) : (s.closePacket q n).MemoryOk := .settleFences (.updKq h)

theorem State.MemoryOk.openPacket {fence : Option (BitVec 4)} (h : s.MemoryOk) : (s.openPacket q fence).2.MemoryOk :=
  .updKq h

theorem execWaitPacket_ok (h : s.MemoryOk) : OutOk (Machine.execWaitPacket q s) := by
  unfold Machine.execWaitPacket
  refine .startPacket h (fun a s h => ?_)
  simp only
  split
  · exact .updKq h
  split
  · exact .freezeFn h
  split
  · rename_i e _
    exact .packetDone (.kettleRead e h)
  · rename_i e _
    exact .updKq (.kettleRead e h)

theorem execWaitPacketSatisfied_ok (h : s.MemoryOk) : OutOk (Machine.execWaitPacketSatisfied q s) := by
  unfold Machine.execWaitPacketSatisfied
  split
  · exact .next h
  split
  · exact .next h
  split
  · exact .next (.freezeFn h)
  split
  · rename_i e _
    exact .next (.packetDone (.updKq (.kettleRead e h)))
  · rename_i e _
    exact .next (.kettleRead e h)

theorem execSignalPacket_ok (h : s.MemoryOk) : OutOk (Machine.execSignalPacket q s) := by
  unfold Machine.execSignalPacket
  refine .startPacket h (fun a s h => ?_)
  simp only
  split
  · exact .updKq h
  split
  · exact .freezeFn h
  split
  · rename_i e _ _ _
    exact .freezeFn (.kettleRead e h)
  · rename_i e _ _ e1
    exact .packetDone (.kettleWrite e1 (.kettleRead e h))

theorem execFencePacket_ok (h : s.MemoryOk) : OutOk (Machine.execFencePacket q s) :=
  .startPacket h (fun _ _ h => .settleFences (.openPacket h))

theorem execNopPacket_ok (h : s.MemoryOk) : OutOk (Machine.execNopPacket q s) :=
  .startPacket h (fun _ _ h => .packetDone h)

end

/-! ### The operations of Machine/Boot.lean -/

section
variable {s : State} {cfg : BootConfig} {nonce : List Byte}

theorem State.MemoryOk.bootImages {n : Nat} {xs : List BootImage} (h : s.MemoryOk) :
    (Machine.bootImages cfg n xs s).2.MemoryOk := by
  induction xs generalizing n s with
  | nil => exact h
  | cons b bs ih => exact .iteSnd h (.iteSnd h (ih h))

theorem State.MemoryOk.configure {c : BootConfig} (h : s.MemoryOk) : (s.configure c).MemoryOk := h

theorem State.MemoryOk.afterReset (h : s.MemoryOk) : (s.afterReset).MemoryOk := 
  ⟨s.mem.filter_wf _ h.1, .nil⟩

theorem execPackageReset_ok {imgs : List BootImage} (h : s.MemoryOk) :
    OutOk (Machine.execPackageReset imgs cfg s) := by
  unfold Machine.execPackageReset
  simp only
  split
  · rename_i e
    exact .next (.configure (.of_snd e (.bootImages (.of_eq (.afterReset h) rfl rfl))))
  · rename_i e
    exact .next (.of_eq (.of_snd e (.bootImages (.of_eq (.afterReset h) rfl rfl))) rfl rfl)

theorem execGetVersion_ok (h : s.MemoryOk) : OutOk (Machine.execGetVersion s) := .next (.tell h)
theorem execGetCapabilities_ok (h : s.MemoryOk) : OutOk (Machine.execGetCapabilities s) := .next (.tell h)
theorem execNegotiateAlgorithms_ok (h : s.MemoryOk) : OutOk (Machine.execNegotiateAlgorithms s) := .next (.tell h)
theorem execGetDigests_ok (h : s.MemoryOk) : OutOk (Machine.execGetDigests s) := .next (.tell h)

theorem execGetCertificate_ok {off len : Nat} (h : s.MemoryOk) : OutOk (Machine.execGetCertificate off len s) :=
  .next (.tell h)

theorem execChallenge_ok (h : s.MemoryOk) : OutOk (Machine.execChallenge nonce s) := .next (.tell h)
theorem execGetMeasurements_ok (h : s.MemoryOk) : OutOk (Machine.execGetMeasurements nonce s) := .next (.tell h)

end

/-! ### The operations of Machine/Bulk.lean -/

section
variable {s t : State} {en : EngineIx} {r : BulkRun} {off : Nat} {j : Job} {remote x bs : List Byte}
    {op : KeyedOp} {a : Asid} {k : Key} {w : W256} {caps : List RegVal} {id : BitVec 16}

theorem State.MemoryOk.counterAdd {cl : ClusterIx} {k : Cap} {v : Word} {host : Bool}
    (e : s.counterAdd cl a k off v host = .ok t) (h : s.MemoryOk) : t.MemoryOk := by
  unfold State.counterAdd at e
  split at e
  · cases e
  · split at e
    · cases e
    split at e
    · cases e
    rename_i e' _ _
    exact .of_ok e (.homeWrite (.engReach e' h))
  · split at e
    · split at e
      · rename_i e' _ _ _ _
        exact .of_ok e (.homeWrite (.engReach e' h))
      · cases e
    · split at e
      · cases e
      rename_i e' _ _
      exact .of_ok e (.send (.engReach e' h))
  · cases e

theorem State.MemoryOk.keyedStep (e : s.keyedStep k off op = .ok (x, t)) (h : s.MemoryOk) : t.MemoryOk := by
  unfold State.keyedStep at e
  split at e
  · split at e
    · cases e
    · exact .engRead (mapError_eq_ok_iff.1 e) h
  · split at e
    · cases e
    split at e
    · cases e
    rename_i e1
    exact .of_okPair e (.of_snd3 e1 (.engWrite h))
  · split at e
    · cases e
    obtain ⟨s1, e1, e⟩ := map_eq_ok_iff.1 (mapError_eq_ok_iff.1 e)
    cases e
    exact .counterAdd e1 h

theorem execKeyedAccess_ok {chip : ChipIx} {txn : Nat} {key : W256} {off : Word} (h : s.MemoryOk) :
    OutOk (Machine.execKeyedAccess chip txn key off op s) := by
  unfold Machine.execKeyedAccess
  split
  · rename_i e
    exact .next (.send (.keyedStep e h))
  · exact .next (.send h)

theorem State.MemoryOk.sendKeyed {job : BitVec 16} (h : s.MemoryOk) : (s.sendKeyed en a job k off op).MemoryOk :=
  .send (.updEngine h)

theorem State.MemoryOk.bulkRead {n : Nat} (e : s.bulkRead r off n = .ok (x, t)) (h : s.MemoryOk) : t.MemoryOk := by
  unfold State.bulkRead at e
  split at e
  · dsimp only at e
    exact .of_okPair e h
  · exact .engRead e h
  · split at e
    · replace e := mapError_eq_ok_iff.1 e
      exact .keyedStep e h
    · dsimp only at e
      exact .of_okPair e (.freeBytes (.sendKeyed h))

theorem State.MemoryOk.bulkPut {m : Nat} (e : s.bulkPut r m off bs = .ok t) (h : s.MemoryOk) : t.MemoryOk := by
  unfold State.bulkPut at e
  split at e
  · cases e
  dsimp only at e
  split at e
  · cases e
  · split at e
    · cases e
    split at e
    · cases e
    rename_i e' _ _ _ _
    exact .of_ok e (.homeWrite (.engReach e' h))
  · cases e

theorem State.MemoryOk.bulkWrite {x : List Ev} (e : s.bulkWrite r off bs = .ok (t, x)) (h : s.MemoryOk) :
    t.MemoryOk := by
  unfold State.bulkWrite at e
  split at e
  · exact .engWriteSector e h
  split at e
  · replace e := mapError_eq_ok_iff.1 e
    obtain ⟨⟨x1, s1⟩, e1, e⟩ := map_eq_ok_iff.1 e
    cases e
    exact .keyedStep e1 h
  · exact .of_okFst e (.sendKeyed h)

theorem State.MemoryOk.bulkPiece {p : Piece} {x : List Piece} {y : List Ev}
    (e : Machine.bulkPiece r p s = .ok (x, y, t)) (h : s.MemoryOk) : t.MemoryOk := by
  unfold Machine.bulkPiece at e
  split at e
  · split at e
    · cases e
    rename_i e'
    exact .of_okTriple e (.bulkPut e' h)
  · dsimp only at e
    split at e
    · cases e
    split at e
    · split at e
      · cases e
      rename_i e1 _ _ _ _ e2
      exact .of_okTriple e (.bulkWrite e2 (.bulkRead e1 h))
    · rename_i e' _
      exact .of_okTriple e (.bulkRead e' h)

theorem State.MemoryOk.peerRefusal (h : s.MemoryOk) : (s.peerRefusal).2.MemoryOk := by
  have h1 : (s.pick 5).2.MemoryOk := .pick h
  unfold State.peerRefusal
  dsimp only
  split <;> exact h1

theorem State.MemoryOk.peerAnswer (h : s.MemoryOk) : (s.peerAnswer r).2.MemoryOk := by
  unfold State.peerAnswer
  split
  · split
    rename_i e
    exact .of_snd e (.peerRefusal h)
  · split
    · split
      rename_i e
      exact .of_snd e (.peerRefusal h)
    · exact h

theorem State.MemoryOk.bulkCounter (h : s.MemoryOk) : (s.bulkCounter r).2.MemoryOk := by
  unfold State.bulkCounter
  split
  · exact h
  split
  · simp only
    split
    · exact h
    split
    · exact .ite h h
    rename_i e
    exact .counterAdd e h
  · split
    · simp only
      split
      · exact h
      rename_i e
      exact .keyedStep e h
    · refine .sendKeyed ?_
      exact .peerRefusal h

theorem State.MemoryOk.bulkStop {v0 : Nat} {left : List Piece} {xx : BulkStop} {pos : Nat} (h : s.MemoryOk) :
    (s.bulkStop r v0 left xx pos).2.MemoryOk := .iteSnd (.raiseFault h) (.engFault h)

theorem State.MemoryOk.bulkCopy {todo : List Piece} (h : s.MemoryOk) : (s.bulkCopy r todo).2.MemoryOk := by
  unfold State.bulkCopy
  split
  rename_i answer s1 e1
  split
  rename_i cut s2 e2
  have h2 : s2.MemoryOk :=
    have h1 : s1.MemoryOk := .of_snd e1 (.peerAnswer h)
    .of_snd e2 (.iteSnd (.pick h1) h1)
  split
  rename_i e3
  extract_lets m s3
  have h3 : s3.MemoryOk :=
    .countFor (.pieceLoop (.of_snd e3 (.slice h2)) fun _ _ h ⟨_, _, _⟩ e => .bulkPiece e h)
  split
  · exact .bulkStop h3
  split
  · split
    rename_i e4
    exact .of_snd e4 (.pick h3)
  · split
    · exact h3
    split
    · rename_i e
      exact .bulkStop (.of_snd e (.bulkCounter h3))
    · rename_i e
      exact .of_snd e (.bulkCounter h3)

theorem State.MemoryOk.bulkCount (h : s.MemoryOk) : (s.bulkCount en j w caps).2.MemoryOk := by
  unfold State.bulkCount
  extract_lets v o r
  clear_value r o
  split
  · split
    · exact .bulkStop h
    rename_i e
    exact .counterAdd e h
  · split
    · split
      · exact h
      rename_i e
      exact .keyedStep e h
    · split
      rename_i s1 e
      have h1 := State.MemoryOk.of_snd e (.peerRefusal h)
      split <;> exact .sendKeyed h1

theorem State.MemoryOk.bulkWork (h : s.MemoryOk) : (s.bulkWork en j w caps remote).2.MemoryOk :=
  .iteSnd (.bulkCount h) (.bulkCopy h)

theorem State.MemoryOk.subtractThresh (h : s.MemoryOk) : (s.subtractThresh en j).MemoryOk := by
  unfold State.subtractThresh
  split
  · rename_i e
    exact .counterAdd e h
  · exact h

theorem State.MemoryOk.settleBulk {r : BulkEnd} (h : s.MemoryOk) : (s.settleBulk en j r).MemoryOk := by
  unfold State.settleBulk
  split
  · exact .endJob (.updJob (.ite (.subtractThresh h) h))
  · exact .endJob h
  · exact .updJob h
  · exact .updJob h

theorem State.MemoryOk.runBulk (h : s.MemoryOk) : (s.runBulk en j remote).MemoryOk := .settleBulk (.bulkWork h)
theorem State.MemoryOk.fireTrig (h : s.MemoryOk) : (s.fireTrig en j).MemoryOk := .runBulk (.updJob h)

theorem execTrig_ok (h : s.MemoryOk) : OutOk (Machine.execTrig en s) := by
  unfold Machine.execTrig
  split
  · exact .next h
  · exact .next (.ite (.fireTrig (.updJob h)) (.updJob h))

theorem execTrigFire_ok (h : s.MemoryOk) : OutOk (Machine.execTrigFire en id s) := by
  unfold Machine.execTrigFire
  split
  · exact .next h
  split
  · exact .next (.fireTrig h)
  split
  · exact .next (.runBulk h)
  · exact .next h

theorem OutOk.runBulkHead {cmd : BitVec 8} (h : s.MemoryOk) : OutOk (s.runBulkHead en cmd remote) := by
  unfold State.runBulkHead
  split
  · exact .next (.runBulk h)
  split
  · exact .next h
  · exact .runHead h (fun a s h => .runBulk h)

theorem execBcopy_ok (h : s.MemoryOk) : OutOk (Machine.execBcopy en remote s) := .runBulkHead h
theorem execBfill_ok (h : s.MemoryOk) : OutOk (Machine.execBfill en s) := .runBulkHead h
theorem execTcount_ok (h : s.MemoryOk) : OutOk (Machine.execTcount en s) := .runBulkHead h

theorem State.MemoryOk.answerJob {serviced : Bool} {cause : BitVec 8} (h : s.MemoryOk) :
    (s.answerJob en id serviced cause).MemoryOk := by
  unfold State.answerJob
  split
  · exact h
  · exact .ite h (.ite (.runBulk (.updJob h)) (.settleBulk h))

end

/-! ### The operations of Machine/Control.lean -/

section
variable {s : State} {a d b : Reg} {imm : Imm 11}

theorem OutOk.branchIf {tg : Bool} {disp : Word} (h : s.MemoryOk) : OutOk (s.branchIf tg disp) :=
  .next (.ite (.setPc h) (.advance h))

theorem execBcc_ok {cond : Cond} (h : s.MemoryOk) : OutOk (Machine.execBcc cond a b imm s) := .branchIf h

theorem execBb_ok {sense : Bool} {bit : BitVec 8} (h : s.MemoryOk) : OutOk (Machine.execBb sense a bit imm s) :=
  .branchIf h

theorem execJ_ok {imm : BitVec 26} (h : s.MemoryOk) : OutOk (Machine.execJ imm s) := .branchIf h
theorem execJal_ok {imm : BitVec 26} (h : s.MemoryOk) : OutOk (Machine.execJal imm s) := .next (.setPc (.setX h))

theorem execJalr_ok {imm : Imm 14} (h : s.MemoryOk) : OutOk (Machine.execJalr d a imm s) := by
  unfold Machine.execJalr
  simp only
  split
  · exact .next (.takeTrap h)
  · exact .next (.setPc (.setX h))

theorem execDbnz_ok {imm : Imm 20} (h : s.MemoryOk) : OutOk (Machine.execDbnz a imm s) :=
  .next (.ite (.setPc (.setX h)) (.advance (.setX h)))

theorem OutOk.getter {v : Word} (h : s.MemoryOk) : OutOk (s.getter d v) := .next (.advance (.setX h))
theorem execCgetoff_ok (h : s.MemoryOk) : OutOk (Machine.execCgetoff d a s) := .getter h
theorem execCgetbase_ok (h : s.MemoryOk) : OutOk (Machine.execCgetbase d a s) := .getter h
theorem execCgetlim_ok (h : s.MemoryOk) : OutOk (Machine.execCgetlim d a s) := .getter h
theorem execCgetperm_ok (h : s.MemoryOk) : OutOk (Machine.execCgetperm d a s) := .getter h
theorem execCgethnd_ok (h : s.MemoryOk) : OutOk (Machine.execCgethnd d a s) := .getter h
theorem execCgetgen_ok (h : s.MemoryOk) : OutOk (Machine.execCgetgen d a s) := .getter h
theorem execCgetkind_ok (h : s.MemoryOk) : OutOk (Machine.execCgetkind d a s) := .getter h

theorem OutOk.derive {f : Cap → Except Bad Cap} (h : s.MemoryOk) : OutOk (s.derive d a f) := by
  unfold State.derive
  split
  · exact .next (.takeTrap h)
  split
  · exact .next (.takeTrap h)
  · exact .orTrap h (fun x e => .advance (.setCap h))

theorem execCcur_ok (h : s.MemoryOk) : OutOk (Machine.execCcur d a b s) := .derive h
theorem execCstep_ok (h : s.MemoryOk) : OutOk (Machine.execCstep d a b s) := .derive h
theorem execCnarrow_ok (h : s.MemoryOk) : OutOk (Machine.execCnarrow d a b s) := .derive h
theorem execCdrop_ok (h : s.MemoryOk) : OutOk (Machine.execCdrop d a b s) := .derive h

theorem execCcover_ok (h : s.MemoryOk) : OutOk (Machine.execCcover d a b s) := by
  unfold Machine.execCcover
  split
  · exact .next (.trapBad h)
  split
  · exact .next (.takeTrap h)
  · exact .next (.advance (.setCap h))

theorem execCuncover_ok (h : s.MemoryOk) : OutOk (Machine.execCuncover d a b s) := by
  unfold Machine.execCuncover
  split
  · exact .next (.trapBad h)
  · exact .next (.advance (.setCap h))

theorem execCplain_ok (h : s.MemoryOk) : OutOk (Machine.execCplain d a s) := .next (.advance (.setBits h))
theorem execCprobe_ok (h : s.MemoryOk) : OutOk (Machine.execCprobe d a s) := .getter h

theorem execCdist_ok (h : s.MemoryOk) : OutOk (Machine.execCdist d a b s) := by
  unfold Machine.execCdist
  split
  · exact .next (.takeTrap h)
  split
  · exact .next (.takeTrap h)
  simp only
  split
  · exact .next (.takeTrap h)
  · exact .getter h

theorem execCinci_ok {imm : Imm 14} (h : s.MemoryOk) : OutOk (Machine.execCinci d a imm s) := .derive h

end

/-! ### The operations of Machine/Siphon.lean -/

section
variable {s t : State} {en : EngineIx} {p : Plan} {j : Job} {state opnd : Nat} {a : Asid} {remote : List Byte}

theorem State.MemoryOk.writeRecord {cause : Nat} (e : s.writeRecord p state cause = .ok t) (h : s.MemoryOk) :
    t.MemoryOk := by
  unfold State.writeRecord at e
  dsimp only at e
  split at e
  · cases e
  rename_i e'
  exact .of_ok e (.of_snd3 e' (.engWrite h))

theorem State.MemoryOk.siphonFault {id : BitVec 16} {b : Bad} {wr : Bool} {pos sectors : Nat} (h : s.MemoryOk) :
    (s.siphonFault en a id b wr opnd pos sectors).MemoryOk := .of_eq (.engFault h) rfl rfl

theorem State.MemoryOk.planDone (h : s.MemoryOk) : (s.planDone en p).MemoryOk := by
  unfold State.planDone
  dsimp only
  split
  · rename_i e
    exact .of_eq (.writeRecord e (.freeValue h)) rfl rfl
  · exact .siphonFault (.freeValue h)

theorem State.MemoryOk.planBegin (h : s.MemoryOk) : (s.planBegin en p).MemoryOk := by
  unfold State.planBegin
  split
  · exact .siphonFault h
  split
  · rename_i e _ _
    exact .planDone (.writeRecord e h)
  · rename_i e _ _ _
    exact .of_eq (.writeRecord e h) rfl rfl

theorem State.MemoryOk.planGo (h : s.MemoryOk) : (s.planGo en p).MemoryOk := by
  unfold State.planGo
  split
  · exact .planDone h
  split
  · rename_i e
    exact .of_eq (.writeRecord e h) rfl rfl
  · exact .siphonFault h

theorem State.MemoryOk.planOperands {x : (List Byte × List Byte × List (BitVec 128))}
    (e : s.planOperands j = .ok (x, t)) (h : s.MemoryOk) : t.MemoryOk := by
  unfold State.planOperands at e
  dsimp only at e
  split at e
  · cases e
  split at e
  · cases e
  split at e
  · cases e
  rename_i e1 _ _ _ e2 _ _ _ e3
  exact .of_okPair e (.engRead e3 (.readSectors e2 (.readSectors e1 h)))

theorem State.MemoryOk.startPlan {resume : Bool} (h : s.MemoryOk) : (s.startPlan en j resume).MemoryOk := by
  unfold State.startPlan
  split
  · exact .siphonFault h
  split
  · rename_i e _ _ _ _
    exact .endJob (.planOperands e h)
  · split
    · rename_i e _ _ _
      exact .planBegin (.updJob (.planOperands e h))
    · split
      · rename_i e _ _ _ _ _ _ _
        exact .siphonFault (.planOperands e h)
      · split
        · rename_i e _ _ _ _ _ _ e2 _
          exact .endJob (.readSectors e2 (.planOperands e h))
        · split
          · rename_i e _ _ _ _ _ _ e2 _ _
            exact .endJob (.readSectors e2 (.planOperands e h))
          · rename_i e _ _ _ _ _ _ e2 _ _
            exact .planGo (.updJob (.readSectors e2 (.planOperands e h)))

theorem execReshard_ok (h : s.MemoryOk) : OutOk (Machine.execReshard en s) := .runHead h (fun _ _ h => .startPlan h)
theorem execRsresume_ok (h : s.MemoryOk) : OutOk (Machine.execRsresume en s) := .runHead h (fun _ _ h => .startPlan h)

theorem State.MemoryOk.progress {x : List Byte} (e : s.progress j = .ok (x, t)) (h : s.MemoryOk) : t.MemoryOk := by
  unfold State.progress at e
  split at e
  · dsimp only at e
    split at e
    · exact .of_okPair e h
    · exact .engRead e h
  · exact .engRead e h

theorem execRsquery_ok (h : s.MemoryOk) : OutOk (Machine.execRsquery en s) := by
  unfold Machine.execRsquery
  refine .runHead h (fun a s h => ?_)
  split
  · exact .endJob (.engFault h)
  rename_i e
  exact .endJob (.progress e h)

theorem State.MemoryOk.rowLoop {job : BitVec 16} {es : Nat} {se de : KeyEntry} {xs : List (Nat × Nat)}
    {ys : List Byte} (h : s.MemoryOk) : (Machine.rowLoop a job es se de xs ys s).2.MemoryOk := by
  induction xs generalizing ys s with
  | nil => exact h
  | cons x1 xs ih =>
    unfold Machine.rowLoop
    split
    · exact h
    rename_i bs s1 e
    have h1 : s1.MemoryOk := by
      split at e
      · obtain ⟨⟨x1, x2⟩, e1, e⟩ := map_eq_ok_iff.1 e
        cases e
        exact .keyedStep e1 h
      · exact .of_okPair e (.freeBytes (.sendKeyed h))
    split
    · split
      · exact h1
      rename_i e2
      exact ih (.keyedStep e2 h1)
    · exact ih (.sendKeyed h1)

theorem State.MemoryOk.planStop {cause : BitVec 8} (h : s.MemoryOk) :
    (s.planStop en p state cause opnd).MemoryOk := by
  unfold State.planStop
  split
  · rename_i e
    exact .of_eq (.writeRecord e h) rfl rfl
  · exact h

theorem State.MemoryOk.moveRow (h : s.MemoryOk) : (s.moveRow p remote).2.2.MemoryOk := .rowLoop h

theorem State.MemoryOk.rowsAhead {n : Nat} {a1 : Plan} {b1 : Plan} (h : s.MemoryOk) :
    (Machine.rowsAhead n a1 b1 s).2.MemoryOk := by
  induction n generalizing a1 b1 s with
  | zero => exact h
  | succ n ih =>
    unfold Machine.rowsAhead
    split
    · exact h
    split
    · exact ih h
    split
    · rename_i e
      exact ih (.of_snd2 e (.moveRow h))
    · rename_i e
      exact ih (.of_snd2 e (.moveRow h))

theorem State.MemoryOk.rowSlice (h : s.MemoryOk) : (s.rowSlice).2.MemoryOk := by
  unfold State.rowSlice
  split <;> exact h

theorem State.MemoryOk.completeRow (h : s.MemoryOk) : (s.completeRow en p remote).MemoryOk := by
  unfold State.completeRow
  split
  · simp only
    split
    · exact .planGo h
    rename_i e _ _
    exact .planStop (.of_snd2 e (.moveRow h))
  · simp only
    split
    · exact .planGo h
    rename_i e _ _
    exact .planGo (.of_snd2 e (.moveRow h))

theorem execBoxRowComplete_ok {o : RowOutcome} (h : s.MemoryOk) : OutOk (Machine.execBoxRowComplete o s) := by
  unfold Machine.execBoxRowComplete
  split
  · exact .next h
  extract_lets e opnd
  split
  rename_i n s1 e1
  split
  rename_i p s2 e2
  have h2 : s2.MemoryOk := .of_snd e2 (.rowsAhead (.of_snd e1 (.rowSlice h)))
  split
  · exact .next (.completeRow h2)
  · exact .next (.ite (.planStop h2) (.completeRow h2))
  · exact .next (.ite (.planStop h2) (.completeRow h2))

end

/-! ### The operations of Machine/Exchange.lean -/

section
variable {s t : State} {m : XMember} {a d : Reg} {r : XRequest} {span : BitVec 32} {p : Phase} {n : Nat}
    {x : List XEntry} {xx : XItem}

theorem State.MemoryOk.readEntries {v : RegVal} {a : Word} (e : State.readEntries v n a s = .ok (x, t))
    (h : s.MemoryOk) : t.MemoryOk := by
  induction n generalizing a s x t with
  | zero => exact .of_okPair e h
  | succ n ih =>
    unfold State.readEntries at e
    split at e
    · cases e
    rename_i e1
    have h1 := State.MemoryOk.accessAt e1 h
    extract_lets far at e
    have hfar : far.2.2.MemoryOk := .freeValue (.freeValue h1)
    split at e
    rename_i e2
    have h2 := State.MemoryOk.of_snd2 e2 (by
      split
      · split
        · exact h1
        · exact h1
        · split
          · exact h1
          · exact hfar
      · exact hfar
      · exact h1)
    split at e
    · cases e
    split at e
    · cases e
    rename_i e3
    exact .of_okPair e (ih e3 h2)

theorem State.MemoryOk.xgoTable (e : s.xgoTable a n = .ok (x, t)) (h : s.MemoryOk) : t.MemoryOk := by
  unfold State.xgoTable at e
  dsimp only at e
  split at e
  · exact .of_okPair e h
  split at e
  · cases e
  split at e
  · cases e
  split at e
  · cases e
  · exact .readEntries e h

theorem State.MemoryOk.xgoEnd {word : W256} (h : s.MemoryOk) : (s.xgoEnd m word).MemoryOk := by
  unfold State.xgoEnd
  split
  · exact .asCtx h (fun s h => .finishWait (.updCx (.setBits (.clampScope h))))
  · exact h

theorem State.MemoryOk.tellGroup {g : Group} {m : SpanMsg} (h : s.MemoryOk) : (s.tellGroup g m).MemoryOk := by
  unfold State.tellGroup
  split
  · exact h
  · exact .tellSpan h

theorem State.MemoryOk.xRefuse (h : s.MemoryOk) : (s.xRefuse r).MemoryOk := by
  unfold State.xRefuse
  refine .tellGroup (foldl_ok _ (fun s _ h => ?_) _ _ h)
  exact .xgoEnd h

theorem State.MemoryOk.xJoin (h : s.MemoryOk) : (s.xJoin).MemoryOk := by
  unfold State.xJoin
  refine foldl_ok _ (fun s _ h => ?_) _ _ h
  exact .ite (.xRefuse h) h

theorem State.MemoryOk.xArrive (h : s.MemoryOk) : (s.xArrive m).MemoryOk :=
  .ite (.of_eq (.tellGroup h) rfl rfl) (.of_eq (.tellGroup h) rfl rfl)

theorem execXgo_ok {b : Reg} (h : s.MemoryOk) : OutOk (Machine.execXgo d a b s) :=
  .orTrap h (fun _ e => .xJoin (.xArrive (.block (.clampScope (.xgoTable e h)))))

theorem execXstat_ok (h : s.MemoryOk) : OutOk (Machine.execXstat d a s) := .next (.advance (.setBits h))
theorem State.MemoryOk.beginPhase {t0 : Word} {dp : Nat} (h : s.MemoryOk) : (s.beginPhase r t0 dp).MemoryOk := h
theorem State.MemoryOk.startPhase (h : s.MemoryOk) : (s.startPhase r).MemoryOk := .tellGroup (.beginPhase h)
theorem State.MemoryOk.xPop {f : FnIx} {deficit : Nat} (h : s.MemoryOk) : (s.xPop f deficit).MemoryOk := h

theorem State.MemoryOk.xTry (h : s.MemoryOk) : (s.xTry).MemoryOk := by
  unfold State.xTry
  simp only
  split
  · exact h
  · exact .ite (.xPop (.xRefuse h)) (.ite (.xPop (.startPhase h)) h)

theorem State.MemoryOk.xVisit (h : s.MemoryOk) : (s.xVisit).MemoryOk := h

theorem execExchangeGrant_ok (h : s.MemoryOk) : OutOk (Machine.execExchangeGrant s) :=
  .next (.ite (.xJoin h) (.ite (.xTry (.xJoin h)) (.xTry (.xVisit (.xJoin h)))))

theorem State.MemoryOk.xFar {m d : Nat} (h : s.MemoryOk) : (s.xFar span m d).MemoryOk := .xJoin (.ite h h)

theorem State.MemoryOk.xTake {x : XRequest} (e : s.xTake span = some (x, t)) (h : s.MemoryOk) : t.MemoryOk := by
  unfold State.xTake at e
  obtain ⟨x1, e1, e⟩ := Option.map_eq_some_iff.1 e
  cases e
  exact h

theorem State.MemoryOk.spanTold {m : SpanMsg} (h : s.MemoryOk) : (s.spanTold span m).MemoryOk := by
  unfold State.spanTold
  split
  · exact .releaseRound (.updSpan h)
  · exact .xJoin (.releaseRound (.updSpan h))
  · exact .xFar h
  · split
    · rename_i e
      split at e
      · cases e
      · exact .beginPhase (.xTake e h)
    · exact h
  · split
    · rename_i e
      exact foldl_ok _ (fun _ _ h => .xgoEnd h) _ _ (.xTake e h)
    · exact h

theorem State.MemoryOk.placeFlit {core : CoreIx} {dir : BitVec 8} {cycle : Nat} {v : W256} (h : s.MemoryOk) :
    (s.placeFlit p core dir cycle v).2.MemoryOk := by
  unfold State.placeFlit
  split
  · dsimp only
    exact h
  · exact .send h

theorem State.MemoryOk.xSend (h : s.MemoryOk) : (s.xSend p m xx).2.MemoryOk := .placeFlit h

theorem State.MemoryOk.xRecv (h : s.MemoryOk) : (s.xRecv p m xx).2.MemoryOk := by
  unfold State.xRecv
  split
  · split
    · simp only
      split
      · exact h
      · exact .placeFlit (.homeWrite h)
    · simp only
      split
      · exact h
      · exact .homeWrite h
  · split
    · simp only
      split
      · exact h
      · exact .placeFlit (.homeWrite h)
    · simp only
      split
      · exact h
      · exact .homeWrite h

theorem State.MemoryOk.xItem {kind : BitVec 8} (h : s.MemoryOk) : (s.xItem kind).MemoryOk := by
  unfold State.xItem
  split
  · exact h
  split
  · exact h
  split
  · exact h
  split
  · simp only
    split
    · exact h
    · exact .ite h (.of_eq (.xSend h) rfl rfl)
  · simp only
    split
    · exact h
    · exact .ite h (.of_eq (.xRecv h) rfl rfl)

theorem execSend_ok (h : s.MemoryOk) : OutOk (Machine.execSend s) := .next (.xItem h)
theorem execRecv_ok (h : s.MemoryOk) : OutOk (Machine.execRecv s) := .next (.xItem h)
theorem execRecvadd_ok (h : s.MemoryOk) : OutOk (Machine.execRecvadd s) := .next (.xItem h)
theorem execRecvaddsend_ok (h : s.MemoryOk) : OutOk (Machine.execRecvaddsend s) := .next (.xItem h)

theorem execXgoReturn_ok (h : s.MemoryOk) : OutOk (Machine.execXgoReturn s) := by
  unfold Machine.execXgoReturn
  split
  · exact .next h
  split
  · exact .next h
  refine .next (foldl_ok _ (fun s _ h => ?_) _ _ h)
  exact .xgoEnd h

end

/-! ### The operations of Machine/Launch.lean -/

section
variable {s t : State} {l : Launch} {a : Asid} {x std dev : List Binding} {va : Word} {status detail : BitVec 8}
    {id n : Nat} {bases : List (CoreIx × Nat)} {hd : BitVec 24} {perm : BitVec 12} {img : Option Nat}

theorem State.MemoryOk.closeAll {hs : List (BitVec 24)} (h : s.MemoryOk) : (s.closeAll a hs).MemoryOk := by
  unfold State.closeAll
  refine foldl_ok _ (fun s _ h => ?_) _ _ h
  refine .closeHandle ?_
  split
  · exact .send h
  · exact h

theorem State.MemoryOk.writeCompletion {exit : BitVec 32} (h : s.MemoryOk) :
    (s.writeCompletion l status detail exit).MemoryOk := by
  unfold State.writeCompletion
  refine .closePacket ?_
  split
  · rename_i e
    exact .of_eq (.kettleWrite e (.clampFn h _ _)) rfl rfl
  · exact .of_eq (.setFrozen (.clampFn h _ _)) rfl rfl

theorem State.MemoryOk.releaseLaunch (h : s.MemoryOk) : (s.releaseLaunch l).MemoryOk := by
  unfold State.releaseLaunch
  refine foldl_ok _ (fun s _ h => ?_) _ _ h
  refine foldl_ok _ (fun s _ h => ?_) _ _ h
  exact .writeOwner h

theorem State.MemoryOk.unmakeCtx {id : BitVec 32} (h : s.MemoryOk) : (s.unmakeCtx id).MemoryOk := by
  unfold State.unmakeCtx
  split
  · exact h
  rename_i c _
  extract_lets s1 s2
  have h2 : s2.MemoryOk := .dropCtx (.dropCtxNode (.closeAll h))
  have h3 : State.MemoryOk { s2 with pool := s2.pool ++ [⟨c.asid, c.id, c.cdva, c.stkOvf⟩] } := h2.of_eq rfl rfl
  exact .freeIfUnused h3

theorem State.MemoryOk.failLaunch (h : s.MemoryOk) : (s.failLaunch l status detail).MemoryOk := by
  unfold State.failLaunch
  refine .writeCompletion (.releaseLaunch (.closeAll (foldl_ok _ (fun s _ h => ?_) _ _ (.closeAll h))))
  exact .unmakeCtx h

theorem State.MemoryOk.writeSets (h : s.MemoryOk) : (s.writeSets l).MemoryOk := by
  unfold State.writeSets
  refine foldl_ok _ (fun s _ h => ?_) _ _ h
  simp only
  split
  · exact h
  refine .updCluster (foldl_ok _ (fun s _ h => ?_) _ _ h)
  exact .writeOut h

theorem State.MemoryOk.writeLog (h : s.MemoryOk) : (s.writeLog l).MemoryOk := by
  unfold State.writeLog
  split
  · rename_i e
    exact .of_eq (.kettleWrite e h) rfl rfl
  · exact .freezeFn h

theorem State.MemoryOk.endLaunch (h : s.MemoryOk) : (s.endLaunch id).MemoryOk := by
  unfold State.endLaunch
  split
  · exact h
  refine .ite h ?_
  extract_lets s1 s2
  have h2 : s2.MemoryOk := .flushRecord (.writeSets h)
  split
  · exact h2
  rename_i l _
  refine .ite h2 (.ite (.flushRecord (.updLaunch h2)) ?_)
  extract_lets s3 s4
  have h4 : s4.MemoryOk := .releaseLaunch (.ite (.writeLog h2) h2)
  split <;> exact .writeCompletion h4

theorem State.MemoryOk.allot {core : CoreIx} {base : Nat} (h : s.MemoryOk) : (s.allot l core base).MemoryOk :=
  .of_eq (.write (.write h)) rfl rfl

theorem State.MemoryOk.reserve (h : s.MemoryOk) : (s.reserve l bases).MemoryOk := by
  unfold State.reserve
  refine foldl_ok _ (fun s _ h => ?_) _ _ h
  split
  · exact h
  split
  · exact .allot h
  · exact h

theorem State.MemoryOk.allotTiles (h : s.MemoryOk) : (s.allotTiles l).MemoryOk := by
  unfold State.allotTiles
  extract_lets cls
  refine foldl_ok _ (fun s _ h => ?_) _ _ h
  split
  · exact h
  refine .ite h ?_
  extract_lets free n want
  clear_value want
  split
  · exact h
  · exact .updLaunch (foldl_ok _ (fun _ _ h => .writeOwner h) _ _ h)

theorem State.MemoryOk.mkLeaves {xs : List (Name × NodeBody × Nat × BitVec 12)}
    (e : Machine.mkLeaves a xs s = some (x, t)) (h : s.MemoryOk) : t.MemoryOk := by
  induction xs generalizing s x t with
  | nil => exact .of_somePair e h
  | cons x1 xs ih =>
    unfold Machine.mkLeaves at e
    obtain ⟨⟨x2, s1⟩, e1, e⟩ := Option.bind_eq_some_iff.1 e
    dsimp only at e
    obtain ⟨⟨x3, s2⟩, e2, e⟩ := Option.map_eq_some_iff.1 e
    cases e
    exact ih e2 (.makeNode e1 h)

theorem State.MemoryOk.mkDir {name : Name} {bs : List Binding} {x : Binding}
    (e : Machine.mkDir a name bs s = some (x, t)) (h : s.MemoryOk) : t.MemoryOk := by
  unfold Machine.mkDir at e
  obtain ⟨⟨x1, s1⟩, e1, e⟩ := Option.map_eq_some_iff.1 e
  dsimp only at e
  cases e
  exact .makeNode e1 h

theorem State.MemoryOk.mkDirs {xs : List (Name × List (Name × NodeBody × Nat × BitVec 12))}
    (e : Machine.mkDirs a xs s = some (x, t)) (h : s.MemoryOk) : t.MemoryOk := by
  induction xs generalizing s x t with
  | nil => exact .of_somePair e h
  | cons x1 xs ih =>
    unfold Machine.mkDirs at e
    obtain ⟨⟨x2, s1⟩, e1, e⟩ := Option.bind_eq_some_iff.1 e
    dsimp only at e
    obtain ⟨⟨x3, s2⟩, e2, e⟩ := Option.bind_eq_some_iff.1 e
    obtain ⟨⟨x4, s3⟩, e3, e⟩ := Option.map_eq_some_iff.1 e
    cases e
    exact ih e3 (.mkDir e2 (.mkLeaves e1 h))

theorem State.MemoryOk.mkSpads {xs : List Allotment} (e : Machine.mkSpads a xs s = some (x, t)) (h : s.MemoryOk) :
    t.MemoryOk := by
  induction xs generalizing s x t with
  | nil => exact .of_somePair e h
  | cons x1 xs ih =>
    unfold Machine.mkSpads at e
    obtain ⟨⟨x2, s1⟩, e1, e⟩ := Option.bind_eq_some_iff.1 e
    dsimp only at e
    obtain ⟨⟨x3, s2⟩, e2, e⟩ := Option.bind_eq_some_iff.1 e
    obtain ⟨⟨x4, s3⟩, e3, e⟩ := Option.map_eq_some_iff.1 e
    cases e
    exact ih e3 (.updNode (.mkDir e2 (.mkLeaves e1 h)))

theorem State.MemoryOk.standardNodes {mem : BitVec 23} (e : s.standardNodes l mem = some (x, t)) (h : s.MemoryOk) :
    t.MemoryOk := by
  unfold State.standardNodes at e
  dsimp only at e
  obtain ⟨⟨x1, s1⟩, e1, e⟩ := Option.bind_eq_some_iff.1 e
  obtain ⟨⟨x2, s2⟩, e2, e⟩ := Option.bind_eq_some_iff.1 e
  obtain ⟨⟨x3, s3⟩, e3, e⟩ := Option.bind_eq_some_iff.1 e
  obtain ⟨⟨x4, s4⟩, e4, e⟩ := Option.bind_eq_some_iff.1 e
  obtain ⟨⟨x5, s5⟩, e5, e⟩ := Option.bind_eq_some_iff.1 e
  obtain ⟨⟨x6, s6⟩, e6, e⟩ := Option.bind_eq_some_iff.1 e
  obtain ⟨⟨x7, s7⟩, e7, e⟩ := Option.bind_eq_some_iff.1 e
  obtain ⟨⟨x8, s8⟩, e8, e⟩ := Option.bind_eq_some_iff.1 e
  obtain ⟨⟨x9, s9⟩, e9, e⟩ := Option.bind_eq_some_iff.1 e
  obtain ⟨⟨x10, s10⟩, e10, e⟩ := Option.bind_eq_some_iff.1 e
  obtain ⟨⟨x11, s11⟩, e11, e⟩ := Option.bind_eq_some_iff.1 e
  obtain ⟨⟨x12, s12⟩, e12, e⟩ := Option.bind_eq_some_iff.1 e
  obtain ⟨⟨x13, s13⟩, e13, e⟩ := Option.map_eq_some_iff.1 e
  cases e
  exact .mkDir e13 (.mkDir e12 (.mkDir e11 (.mkDir e10 (.mkDir e9 (.mkDir e8 (.mkLeaves e7 (.mkLeaves e6 (.mkLeaves e5
      (.mkLeaves e4 (.mkDirs e3 (.mkDirs e2 (.mkSpads e1 h))))))))))))

theorem State.MemoryOk.devNode (e : s.devNode l = some (x, t)) (h : s.MemoryOk) : t.MemoryOk := by
  unfold State.devNode at e
  split at e
  · exact .of_somePair e h
  obtain ⟨⟨x1, s1⟩, e1, e⟩ := Option.bind_eq_some_iff.1 e
  dsimp only at e
  obtain ⟨⟨x2, s2⟩, e2, e⟩ := Option.map_eq_some_iff.1 e
  cases e
  exact .mkDir e2 (.mkLeaves e1 h)

theorem State.MemoryOk.makeTask {n : NewCtx} {tg : TaskEnt} {x : BitVec 32}
    (e : s.makeTask l std dev n tg = some (x, t)) (h : s.MemoryOk) : t.MemoryOk := by
  unfold State.makeTask at e
  obtain ⟨⟨x1, s1⟩, e1, e⟩ := Option.bind_eq_some_iff.1 e
  dsimp only at e
  obtain ⟨x2, e2, e⟩ := Option.bind_eq_some_iff.1 e
  obtain ⟨⟨x3, s2⟩, e3, e⟩ := Option.map_eq_some_iff.1 e
  cases e
  exact .updGang (.updCtx (.updNode (.mkDir e3 (.newContext e1 h))) _ _)

theorem State.MemoryOk.makeTasks {xs : List TaskEnt} {x : List (BitVec 32)}
    (e : State.makeTasks l std dev n xs s = some (x, t)) (h : s.MemoryOk) : t.MemoryOk := by
  induction xs generalizing n s x t with
  | nil => exact .of_somePair e h
  | cons x1 xs ih =>
    unfold State.makeTasks at e
    dsimp only at e
    obtain ⟨g, -, e⟩ := Option.bind_eq_some_iff.1 e
    obtain ⟨n, -, e⟩ := Option.bind_eq_some_iff.1 e
    obtain ⟨⟨id, s1⟩, e1, e⟩ := Option.bind_eq_some_iff.1 e
    obtain ⟨⟨ids, s2⟩, e2, e⟩ := Option.map_eq_some_iff.1 e
    cases e
    exact ih e2 (.makeTask e1 h)

theorem State.MemoryOk.loaderNode {g : BitVec 24} {size : Nat} {x : Cap}
    (e : s.loaderNode a hd g va size perm = some (x, t)) (h : s.MemoryOk) : t.MemoryOk := by
  unfold State.loaderNode at e
  dsimp only at e
  obtain ⟨⟨x1, s1⟩, e1, e⟩ := Option.bind_eq_some_iff.1 e
  obtain ⟨⟨x2, x3, s2⟩, e2, e⟩ := Option.map_eq_some_iff.1 e
  cases e
  exact .openHandle e2 (.makeNode e1 h)

theorem State.MemoryOk.buildTasks (e : s.buildTasks l = some t) (h : s.MemoryOk) : t.MemoryOk := by
  unfold State.buildTasks at e
  obtain ⟨⟨x, s1⟩, e1, e⟩ := Option.bind_eq_some_iff.1 e
  dsimp only at e
  obtain ⟨⟨x1, x2, s2⟩, e2, e⟩ := Option.bind_eq_some_iff.1 e
  obtain ⟨⟨x3, s3⟩, e3, e⟩ := Option.bind_eq_some_iff.1 e
  obtain ⟨⟨x4, s4⟩, e4, e⟩ := Option.bind_eq_some_iff.1 e
  obtain ⟨⟨x5, s5⟩, e5, e⟩ := Option.bind_eq_some_iff.1 e
  obtain ⟨⟨x6, s6⟩, e6, e⟩ := Option.map_eq_some_iff.1 e
  subst e
  exact .updLaunch (.makeTasks e6 (.devNode e5 (.standardNodes e4 (.loaderNode e3 (.openHandle e2
      (.makeNode e1 h))))))

theorem State.MemoryOk.bindGot {v : RegVal} (h : s.MemoryOk) : (s.bindGot l img v).MemoryOk := by
  unfold State.bindGot
  refine .updLaunch ?_
  split
  · split
    · exact .updCtx h _ _
    · exact h
  · exact .updLaunch h

theorem State.MemoryOk.loaderTxn {chip : ChipIx} {kind : TxnKind} (h : s.MemoryOk) :
    (s.loaderTxn l hd chip kind).2.MemoryOk := .updLaunch h

theorem State.MemoryOk.bindOpen {n : Node} (h : s.MemoryOk) : (s.bindOpen l img n perm).MemoryOk := by
  unfold State.bindOpen
  split
  · exact .failLaunch h
  split
  · exact .failLaunch h
  split
  · exact .failLaunch h
  split
  · rename_i e _ _ _ _ _
    exact .send (.updLaunch (.of_eq (.openHandle e h) rfl rfl))
  · rename_i e _ _
    exact .bindGot (.openHandle e h)

theorem State.MemoryOk.bindNext (h : s.MemoryOk) : (s.bindNext l).MemoryOk := by
  unfold State.bindNext
  split
  · exact .updLaunch h
  split
  · exact .failLaunch h
  simp only
  split
  · exact .failLaunch h
  · exact .failLaunch h
  split
  · rename_i e
    exact .failLaunch (.of_snd e (.resolve h))
  · rename_i e
    exact .bindOpen (.of_snd e (.resolve h))
  · rename_i e
    exact .send (.loaderTxn (.of_snd e (.resolve h)))

theorem State.MemoryOk.writeArgs {xs : List (Nat × List Byte × Bool)} (e : Machine.writeArgs a va xs s = some t)
    (h : s.MemoryOk) : t.MemoryOk := by
  induction xs generalizing s t with
  | nil => exact .of_some e h
  | cons x1 xs ih =>
    unfold Machine.writeArgs at e
    split at e
    · cases e
    split at e
    · cases e
    dsimp only at e
    refine ih e ?_
    split
    · rename_i e' _ _
      exact .setTag (.homeWrite (.addrKey e' h)) _ _
    · rename_i e' _ _
      exact .homeWrite (.addrKey e' h)

theorem State.MemoryOk.startTasks (h : s.MemoryOk) : (s.startTasks l).MemoryOk := by
  unfold State.startTasks
  simp only
  split
  · exact .failLaunch h
  split
  · exact h
  split
  · exact h
  rename_i e _ _ _ e1
  refine .updLaunch (foldl_ok _ (fun s _ h => ?_) _ _ (foldl_ok _ (fun s _ h => ?_) _ _ (.loaderNode e1
      (.writeArgs e h))))
  · exact .updGang h
  · exact .updCtx h _ _

theorem State.MemoryOk.putSegment {bs : List Byte} {text : Bool} (e : s.putSegment a va bs text = some t)
    (h : s.MemoryOk) : t.MemoryOk := by
  unfold State.putSegment at e
  split at e
  · rename_i e'
    exact .of_some e (.kettleWrite e' h)
  · cases e

theorem State.MemoryOk.makeGangs (h : s.MemoryOk) : (s.makeGangs l).MemoryOk := .updLaunch h

theorem State.MemoryOk.loadObject (h : s.MemoryOk) : (s.loadObject l).MemoryOk := by
  unfold State.loadObject
  extract_lets lost
  have hlost {s : State} (h : s.MemoryOk) : (lost s).MemoryOk := .freezeFn (.closePacket (h.of_eq rfl rfl))
  split
  · exact hlost h
  rename_i e1
  have h1 := State.MemoryOk.kettleRead e1 h
  extract_lets hd
  refine .ite (.failLaunch h1) ?_
  split
  · exact hlost h1
  rename_i e2
  have h2 := State.MemoryOk.kettleRead e2 h1
  extract_lets o tasks
  refine .ite (.failLaunch h2) (.ite (.failLaunch h2) (.ite h2 ?_))
  split
  · exact h2
  all_goals
    rename_i e3 _
    obtain ⟨s1, e4, e5⟩ := Option.bind_eq_some_iff.1 e3
    have h3 := State.MemoryOk.putSegment e5 (.putSegment e4 h2)
  · exact .failLaunch h3
  · exact .ite (.failLaunch h3) (.makeGangs (.updLaunch h3))

theorem State.MemoryOk.consumeDeps {xs : List (ClusterIx × BitVec 32)} (h : s.MemoryOk) :
    (Machine.consumeDeps a xs s).2.MemoryOk := by
  induction xs generalizing s with
  | nil => exact h
  | cons x1 xs ih =>
    unfold Machine.consumeDeps
    split
    · exact ih (.takeEvent h)
    dsimp only
    exact ih h

theorem State.MemoryOk.launchStage (h : s.MemoryOk) : (s.launchStage l).MemoryOk := by
  unfold State.launchStage
  split
  · exact .updLaunch (.consumeDeps h)
  · exact .loadObject h
  · extract_lets s1
    have h1 : s1.MemoryOk := .allotTiles (.reserve h)
    split
    · split
      · exact .getD (fun _ e => .buildTasks e h1) h1
      · exact h1
    · exact h1
  · exact .ite h (.ite (.startTasks h) (.bindNext h))
  · exact .ite (.updLaunch (.allotTiles h)) (.allotTiles h)
  · exact .endLaunch h

theorem State.MemoryOk.advanceLaunch (h : s.MemoryOk) : (Machine.advanceLaunch id n s).MemoryOk := by
  induction n generalizing s with
  | zero => exact h
  | succ n ih =>
    unfold Machine.advanceLaunch
    split
    · exact h
    simp only
    split
    · exact .launchStage h
    · exact .ite (.launchStage h) (ih (.launchStage h))

theorem execLaunch_ok {q : BitVec 5} {ch : LoaderChoice} (h : s.MemoryOk) : OutOk (Machine.execLaunch q ch s) :=
  .startPacket h (fun _ _ h => .ite (.failLaunch h) (.ite (.failLaunch h) (.advanceLaunch h)))

theorem execGangPlacement_ok {gang : BitVec 32} {cluster : ClusterIx} (h : s.MemoryOk) :
    OutOk (Machine.execGangPlacement gang cluster bases s) := by
  unfold Machine.execGangPlacement
  split
  · exact .next h
  split
  · exact .next h
  refine .next (.advanceLaunch ?_)
  split
  · exact .reserve h
  · exact h

end

/-! ### The operations of Machine/Queues.lean -/

section
variable {s : State} {data a preg : Reg} {nb : Option (Reg × BitVec 6)} {push : Bool} {node : BitVec 23}
    {q : Queue} {bit : BitVec 6} {chip : ChipIx} {txn : Nat} {r : AccessReply}

theorem State.MemoryOk.nbResult {ok : Bool} (h : s.MemoryOk) : (s.nbResult nb ok).MemoryOk := by
  unfold State.nbResult
  split
  · exact .setBit h
  · exact h

theorem State.MemoryOk.queueWait (h : s.MemoryOk) : (s.queueWait node q push data a nb).MemoryOk :=
  .block (.setQueue h)

theorem State.MemoryOk.ringFault {b : Bad} (h : s.MemoryOk) : (s.ringFault b push data a nb).MemoryOk :=
  .ite (.block (.raiseRing h)) (.takeTrap h)

theorem State.MemoryOk.queueServe (h : s.MemoryOk) : (s.queueServe node q push data a nb).MemoryOk := by
  unfold State.queueServe
  split
  · simp only
    split
    · exact .ringFault h
    rename_i e
    exact .finishWait (.nbResult (.clampScope (.qAppend e h)))
  · simp only
    split
    · exact .ringFault h
    rename_i e
    exact .finishWait (.nbResult (.setReg (.clampScope (.qTake e h))))

theorem State.MemoryOk.queueForward {hd : BitVec 24} (h : s.MemoryOk) :
    (s.queueForward hd push data a nb).MemoryOk := by
  unfold State.queueForward
  split
  · exact .takeTrap h
  split
  · split
    · rename_i e _ _
      exact .updCx (.block (.send (.of_eq (.clampScope (.nextSeq e h)) rfl rfl)))
    · rename_i e _ _
      exact .block (.send (.of_eq (.clampScope (.nextSeq e h)) rfl rfl))
  · split
    · rename_i e _ _
      exact .updCx (.block (.send (.of_eq (.nextSeq e h) rfl rfl)))
    · rename_i e _ _
      exact .block (.send (.of_eq (.nextSeq e h) rfl rfl))

theorem State.MemoryOk.queueForm (h : s.MemoryOk) : (s.queueForm push data a nb).MemoryOk := by
  unfold State.queueForm
  split
  · exact .ite (.takeTrap h) (.takeTrap h)
  split
  · simp only
    split
    · exact .takeTrap h
    split
    · exact .ite (.takeTrap h) (.ite (.queueServe h) (.finishWait (.nbResult h)))
    · exact .ite (.takeTrap h) (.queueForward h)
    · exact .takeTrap h
  · simp only
    split
    · exact .takeTrap h
    split
    · exact .ite (.takeTrap h) (.ite (.queueServe h) (.queueWait h))
    · exact .ite (.takeTrap h) (.queueForward h)
    · exact .takeTrap h

theorem execQpush_ok (h : s.MemoryOk) : OutOk (Machine.execQpush data a s) := .next (.queueForm h)
theorem execQpop_ok (h : s.MemoryOk) : OutOk (Machine.execQpop data a s) := .next (.queueForm h)
theorem execQpushNb_ok (h : s.MemoryOk) : OutOk (Machine.execQpushNb data a preg bit s) := .next (.queueForm h)
theorem execQpopNb_ok (h : s.MemoryOk) : OutOk (Machine.execQpopNb data a preg bit s) := .next (.queueForm h)

theorem execQueueWaitComplete_ok {sl : SlotId} (h : s.MemoryOk) : OutOk (Machine.execQueueWaitComplete sl s) := by
  unfold Machine.execQueueWaitComplete
  refine .next (.withSlot h (fun s h => ?_))
  split
  · exact .ite h (.queueForm h)
  · exact h

theorem State.MemoryOk.answerHeld {handle : BitVec 24} (h : s.MemoryOk) : (s.answerHeld chip txn handle r).MemoryOk :=
  .send h

theorem State.MemoryOk.endHeld (h : s.MemoryOk) : (s.endHeld chip txn r).MemoryOk := by
  unfold State.endHeld
  simp only
  split
  · exact h
  · exact .answerHeld h

theorem State.MemoryOk.peerTake {a : Asid} {entry : W256} {x : AccessReply} {t : State}
    (e : s.peerTake a node q push entry = .ok (x, t)) (h : s.MemoryOk) : t.MemoryOk := by
  unfold State.peerTake at e
  split at e
  · obtain ⟨s1, e1, e⟩ := map_eq_ok_iff.1 e
    cases e
    exact .qAppend e1 h
  · obtain ⟨⟨x1, s1⟩, e1, e⟩ := map_eq_ok_iff.1 e
    dsimp only at e
    cases e
    exact .qTake e1 h

theorem State.MemoryOk.servePeer {a : Asid} (h : s.MemoryOk) : (s.servePeer a node).MemoryOk := by
  unfold State.servePeer
  split
  · exact h
  extract_lets serve try_
  have hserve (w : QWaiter) (t : State) (e : serve w = some t) : t.MemoryOk := by
    unfold serve at e
    split at e
    · split at e
      · cases e
      · split at e
        · rename_i e1
          exact .of_some e (.answerHeld (.peerTake e1 h))
        · exact .of_some e (.raiseRing h)
        · exact .of_some e (.endHeld h)
    · cases e
    · cases e
  have htry (push : Bool) (t : State) (e : try_ push = some t) : t.MemoryOk := by
    unfold try_ at e
    split at e
    · obtain ⟨w, -, e⟩ := Option.bind_eq_some_iff.1 e
      exact hserve w t e
    · cases e
  refine .getD (fun t e => ?_) h
  cases e1 : try_ true with
  | none => exact htry false t (by simpa [e1] using e)
  | some t1 => exact htry true t (by simpa [e1] using e)

end

/-! ### The operations of Machine/Peer.lean -/

section
variable {s : State} {txn seq rev label : Nat} {chip : ChipIx} {tg : Txn} {gen handle ix : BitVec 24}
    {cause : Cause} {part : BitVec 8} {r : RemoteHandle} {port : BitVec 4} {off w : Word} {size : MemSize}
    {acc : PeerAccess} {ctx : BitVec 32} {a : Asid} {node : BitVec 23} {n : Node} {push : Bool} {entry : W256}
    {data : Option W256} {page : BitVec 28} {op : FabricOp}

theorem execNwalk_ok {comps : List Name} {used : Nat} (h : s.MemoryOk) :
    OutOk (Machine.execNwalk chip txn part comps used s) := by
  unfold Machine.execNwalk
  refine .next (.send ?_)
  split
  · exact h
  split
  · exact h
  split
  · exact h
  split
  · rename_i e
    exact .of_snd e (.resolve h)
  · rename_i e
    exact .of_snd e (.resolve h)
  · rename_i e
    exact .of_snd e (.resolve h)

theorem execNopen_ok {mask : BitVec 12} (h : s.MemoryOk) : OutOk (Machine.execNopen chip txn node gen mask s) := by
  unfold Machine.execNopen
  split <;> exact .next (.send h)

theorem State.MemoryOk.peerQueue {q : Queue} {told : Bool} (h : s.MemoryOk) :
    (s.peerQueue r n q txn push told entry).2.MemoryOk := by
  unfold State.peerQueue
  split
  · split
    · exact .send (.setQueue h)
    split
    · rename_i e
      exact .peerTake e h
    · exact .send (.setQueue (.raiseRing h))
    · exact h
  · split
    · exact .setQueue h
    split
    · rename_i e
      exact .peerTake e h
    · exact .setQueue (.raiseRing h)
    · exact h

theorem State.MemoryOk.peerBytes (h : s.MemoryOk) : (s.peerBytes r n off size data).2.MemoryOk := by
  unfold State.peerBytes
  extract_lets acc
  split
  · exact h
  rename_i e1
  have h1 := State.MemoryOk.reach e1 h
  split
  · split
    · rename_i e2
      have h2 := State.MemoryOk.engGet e2 h1
      exact .iteSnd (h2.of_eq rfl rfl) h2
    · exact h1
  · split
    · rename_i e2
      exact .engPut e2 h1
    · exact h1

theorem State.MemoryOk.peerStep (h : s.MemoryOk) : (s.peerStep r txn acc).2.MemoryOk := by
  unfold State.peerStep
  split
  · exact h
  extract_lets need stale
  refine .iteSnd h (.iteSnd h ?_)
  split
  · exact .peerQueue h
  · exact .iteSnd h (.peerQueue h)
  · exact .iteSnd h h
  · exact h
  · exact .peerBytes h
  · exact .peerBytes h

theorem State.MemoryOk.updRemote {f : RemoteHandle → RemoteHandle} (h : s.MemoryOk) : (s.updRemote ix f).MemoryOk := h

theorem State.MemoryOk.peerServe (h : s.MemoryOk) : (s.peerServe r txn seq acc).MemoryOk := by
  unfold State.peerServe
  simp only
  split
  · rename_i e
    exact .of_snd e (.peerStep (.updRemote h))
  · rename_i e
    exact .send (.updRemote (.of_snd e (.peerStep (.updRemote h))))

theorem State.MemoryOk.drainEarly {n : Nat} (h : s.MemoryOk) : (Machine.drainEarly ix n s).MemoryOk := by
  induction n generalizing s with
  | zero => exact h
  | succ n ih =>
    unfold Machine.drainEarly
    split
    · exact h
    split
    · exact h
    split
    · exact h
    · exact ih (.peerServe (.updRemote h))

theorem State.MemoryOk.drainRemotes (h : s.MemoryOk) : (s.drainRemotes).MemoryOk := by
  unfold State.drainRemotes
  refine foldl_ok _ (fun s _ h => ?_) _ _ h
  exact .ite h (.drainEarly h)

theorem State.MemoryOk.peerArrive (h : s.MemoryOk) : (s.peerArrive chip txn handle gen seq acc).MemoryOk := by
  unfold State.peerArrive
  split
  · exact .send h
  split
  · split
    · exact .send h
    · exact h
  · exact .drainEarly (.ite h (.updRemote h))

theorem execNread_ok (h : s.MemoryOk) : OutOk (Machine.execNread chip txn handle gen seq off size s) :=
  .next (.peerArrive h)

theorem execNwrite_ok {data : W256} (h : s.MemoryOk) :
    OutOk (Machine.execNwrite chip txn handle gen seq off size data s) := .next (.peerArrive h)

theorem execNqop_ok (h : s.MemoryOk) : OutOk (Machine.execNqop chip txn handle gen seq push entry s) :=
  .next (.peerArrive h)

theorem execNclose_ok (h : s.MemoryOk) : OutOk (Machine.execNclose chip txn handle gen s) := by
  unfold Machine.execNclose
  refine .next (.send (foldl_ok _ (fun s _ h => ?_) _ _ h))
  exact .updSpace h

theorem State.MemoryOk.withdrawAt (h : s.MemoryOk) : (s.withdrawAt chip txn).MemoryOk := .endHeld h

theorem State.MemoryOk.nameResult {v : RegVal} (h : s.MemoryOk) : (s.nameResult ctx label w v).MemoryOk := by
  unfold State.nameResult
  refine .asCtx h (fun s h => ?_)
  split
  · exact .pendAnswer (.setNameStat h)
  · exact h

theorem State.MemoryOk.nameFails (h : s.MemoryOk) : (s.nameFails ctx label w).MemoryOk := .nameResult h

theorem State.MemoryOk.loadFails (h : s.MemoryOk) : (s.loadFails tg cause).MemoryOk := by
  unfold State.loadFails
  refine .asCtx h (fun s h => ?_)
  split
  · exact .pendFail h
  · exact h

theorem State.MemoryOk.storeFails (h : s.MemoryOk) : (s.storeFails tg cause).MemoryOk := .updCtx (.dropTxn h) _ _

theorem State.MemoryOk.inQop {f : State → State} (h : s.MemoryOk) (hf : ∀ s, s.MemoryOk → (f s).MemoryOk) :
    (s.inQop tg f).MemoryOk := .asCtx h (fun _ h => .ite (hf _ h) h)

theorem State.MemoryOk.qopFails (h : s.MemoryOk) : (s.qopFails tg cause).MemoryOk := .inQop h (fun _ h => .takeTrap h)

theorem State.MemoryOk.byteFails (h : s.MemoryOk) : (s.byteFails tg cause).MemoryOk := by
  unfold State.byteFails
  refine .asCtx h (fun s h => ?_)
  split
  · exact .ite (.takeTrap h) h
  · exact h

theorem State.MemoryOk.txnFails (h : s.MemoryOk) : (s.txnFails tg cause).MemoryOk := by
  unfold State.txnFails
  generalize tg.kind = k
  cases k with
  | load | atom => exact .dropTxn (.loadFails h)
  | store => exact .dropTxn (.storeFails h)
  | push | pop => exact .dropTxn (.qopFails h)
  | byte => exact .dropTxn (.byteFails h)
  | _ => exact .dropTxn h

theorem execNstale_ok (h : s.MemoryOk) : OutOk (Machine.execNstale chip handle s) := by
  unfold Machine.execNstale
  refine .next (foldl_ok _ (fun s _ h => ?_) _ _ h)
  exact .txnFails h

theorem State.MemoryOk.makePeerNode {kind : BitVec 3} {extent : Word} {x : BitVec 23} {t : State}
    (e : s.makePeerNode a chip node gen kind extent = some (x, t)) (h : s.MemoryOk) : t.MemoryOk := by
  unfold State.makePeerNode at e
  exact .makeNode e h

theorem State.MemoryOk.peerRoom (h : s.MemoryOk) : (s.peerRoom ctx a).MemoryOk := by
  unfold State.peerRoom
  split
  · exact h
  · exact .freeIfUnused (.updCtx h _ _)

theorem execNwalkReply_ok {r : WalkReply} (h : s.MemoryOk) : OutOk (Machine.execNwalkReply txn r s) := by
  unfold Machine.execNwalkReply
  split
  · exact .next h
  split
  · exact .next (.nameFails (.dropTxn h))
  · simp only
    split
    · exact .next (.dropTxn h)
    split
    · exact .next (.nameFails (.peerRoom (.dropTxn h)))
    rename_i e
    exact .next (.nameResult (.updCtx (.makePeerNode e (.peerRoom (.dropTxn h))) _ _))
  · simp only
    split
    · exact .next (.dropTxn h)
    split
    · exact .next (.failLaunch (.updLaunch (.dropTxn h)))
    · split
      · exact .next (.failLaunch (.updLaunch (.dropTxn h)))
      split
      · rename_i e _ _ _
        exact .next (.advanceLaunch (.bindOpen (.makePeerNode e (.updLaunch (.dropTxn h)))))
      · rename_i e _ _
        exact .next (.makePeerNode e (.updLaunch (.dropTxn h)))
    · exact .next (.updLaunch (.dropTxn h))
  · exact .next (.dropTxn h)

theorem State.MemoryOk.gotRemote {hd : BitVec 24} {rh rg : BitVec 24} (h : s.MemoryOk) :
    (s.gotRemote a hd chip rh rg).MemoryOk := .updHandle h

theorem execNopenReply_ok {r : OpenReply} (h : s.MemoryOk) : OutOk (Machine.execNopenReply txn r s) := by
  unfold Machine.execNopenReply
  split
  · exact .next h
  split
  · exact .next (.nameResult (.gotRemote (.dropTxn h)))
  · exact .next (.nameFails (.closeHandle (.dropTxn h)))
  · exact .next (.nameResult (.gotRemote (.dropTxn h)))
  · exact .next (.nameFails (.closeHandle (.dropTxn h)))
  · split
    · simp only
      split
      · exact .next (.closeHandle (.dropTxn h))
      · exact .next (.failLaunch (.closeHandle (.updLaunch (.dropTxn h))))
    · simp only
      split
      · exact .next (.closeHandle (.dropTxn h))
      · exact .next (.advanceLaunch (.bindGot (.gotRemote (.updLaunch (.dropTxn h)))))
  · exact .next (.dropTxn h)

theorem State.MemoryOk.closeAnswered {down : Bool} (h : s.MemoryOk) : (s.closeAnswered rev txn down).MemoryOk := h

theorem execNcloseReply_ok {r : AccessReply} (h : s.MemoryOk) : OutOk (Machine.execNcloseReply txn r s) := by
  unfold Machine.execNcloseReply
  split
  · exact .next h
  split
  · exact .next (.closeAnswered (.dropTxn h))
  · exact .next h

theorem State.MemoryOk.dataArrives {v : W256} (h : s.MemoryOk) : (s.dataArrives tg v).MemoryOk := by
  unfold State.dataArrives
  refine .dropTxn ?_
  split
  · exact .byteArrives h
  refine .asCtx h (fun s h => ?_)
  split
  · exact h
  split
  · exact .pendAnswer (.atomEvents h)
  · exact .laneAnswer h
  · exact h

theorem execNreadReply_ok {r : AccessReply} (h : s.MemoryOk) : OutOk (Machine.execNreadReply txn r s) := by
  unfold Machine.execNreadReply
  split
  · exact .next h
  split
  · exact .next (.dataArrives h)
  · exact .next (.txnFails h)
  · exact .next h
  · exact .next h

theorem execNwriteReply_ok {r : AccessReply} (h : s.MemoryOk) : OutOk (Machine.execNwriteReply txn r s) := by
  unfold Machine.execNwriteReply
  split
  · exact .next h
  split
  · exact .next (.storeAcked h)
  · exact .next (.txnFails h)
  · exact .next h
  · exact .next h

theorem State.MemoryOk.qopWithdrawn {nb : Option (Reg × BitVec 6)} (h : s.MemoryOk) :
    (s.qopWithdrawn tg nb).MemoryOk := by
  unfold State.qopWithdrawn
  split
  · exact .inQop h (fun s h => .finishWait (.nbResult h))
  simp only
  split
  · exact .inQop h (fun s h => .unblock h)
  split
  · exact .leave (.inQop h (fun s h => .unblock h))
  · exact .tryStop (.inQop h (fun s h => .unblock h))

theorem execNqopReply_ok {r : AccessReply} (h : s.MemoryOk) : OutOk (Machine.execNqopReply txn r s) := by
  unfold Machine.execNqopReply
  split
  · exact .next h
  dsimp only
  split
  · exact .next (.ite (.askWithdraw h) h)
  · exact .next (.ite (.dropTxn (.qopWithdrawn h)) (.txnFails h))
  · exact .next (.dropTxn (.inQop h (fun s h => .finishWait (.nbResult h))))
  refine .next (.dropTxn (.inQop h (fun s h => ?_)))
  refine .finishWait (.nbResult ?_)
  split
  · exact .setReg (.clampScope h)
  · exact .clampScope h

theorem State.MemoryOk.fabricStep {off : BitVec 16} (h : s.MemoryOk) :
    (s.fabricStep part page off op).2.MemoryOk := by
  unfold State.fabricStep
  split
  · split <;> exact h
  · split
    · exact .homeWrite h
    · exact h
  · split
    · exact h
    split
    · simp only
      split
      · exact .homeWrite h
      · exact h
    · simp only
      split
      · exact .homeWrite h
      · exact h

theorem execFabricAccess_ok {off : BitVec 16} (h : s.MemoryOk) :
    OutOk (Machine.execFabricAccess chip txn part page off op s) := by
  unfold Machine.execFabricAccess
  split
  simp only
  split
  · exact .next h
  split
  · exact .next h
  rename_i e _ _
  exact .next (.send (.of_snd e (.fabricStep h)))

theorem State.MemoryOk.fabricAnswer (h : s.MemoryOk) : (s.fabricAnswer txn data).MemoryOk := by
  unfold State.fabricAnswer
  split
  · exact h
  split
  · exact .storeAcked h
  · exact .dataArrives h
  · exact .txnFails h

theorem execFabricRefusal_ok {sl : SlotId} {store : Bool} {i : Nat} (h : s.MemoryOk) :
    OutOk (Machine.execFabricRefusal sl store i s) := by
  unfold Machine.execFabricRefusal
  split
  · exact .next h
  split
  · simp only
    split
    · exact .next (.ite (.txnFails h) h)
    · exact .next h
  · simp only
    split
    · exact .next (.ite (.txnFails h) h)
    · exact .next h

theorem execLinkRecoveryExpiry_ok (h : s.MemoryOk) : OutOk (Machine.execLinkRecoveryExpiry txn s) := by
  have hbind (id : Nat) (u : State) (h : u.MemoryOk) : (match u.launchOf id with
      | some l => u.failLaunch l 2 NameCode.peerdown.code
      | none => u).MemoryOk := by
    split
    · exact .failLaunch h
    · exact h
  have h1 : (s.dropTxn txn).MemoryOk := .dropTxn h
  unfold Machine.execLinkRecoveryExpiry
  split
  · exact .next h
  rename_i t _
  refine .ite (.next h) ?_
  dsimp only
  cases t.kind with
  | walk => exact .next (.nameFails h1)
  | open_ | dup => exact .next (.nameFails (.closeHandle h1))
  | close => exact .next (.closeAnswered h1)
  | bindWalk => exact .next (hbind _ _ h1)
  | bindOpen => exact .next (hbind _ _ (.closeHandle h1))
  | job => exact .next h1
  | load | atom | store | byte | push | pop => exact .next (.txnFails h1)

theorem State.MemoryOk.updPort {f : Port → Port} (h : s.MemoryOk) : (s.updPort port f).MemoryOk := by
  unfold State.updPort
  split <;> exact h

theorem execPortLinkLoss_ok (h : s.MemoryOk) : OutOk (Machine.execPortLinkLoss port s) := by
  unfold Machine.execPortLinkLoss
  split
  · refine .next (foldl_ok _ (fun s _ h => ?_) _ _ (.updPort h))
    exact .txnFails h
  · exact .next h

theorem execPortLinkRestored_ok {lat : BitVec 32} {peer : ChipIx} {exmode : Bool} (h : s.MemoryOk) :
    OutOk (Machine.execPortLinkRestored port lat peer exmode s) := .next (.updPort h)

theorem execPortReset_ok (h : s.MemoryOk) : OutOk (Machine.execPortReset port part s) := .next (.updPort h)

theorem State.MemoryOk.settle {ids : List (BitVec 32)} (h : s.MemoryOk) : (s.settle ids).MemoryOk := by
  unfold State.settle
  refine foldl_ok _ (fun s _ h => ?_) _ _ h
  exact .drain (.asCtx h (fun s h => .resolveAll h))

theorem execNameInvalidation_ok {cluster : ClusterIx} (h : s.MemoryOk) :
    OutOk (Machine.execNameInvalidation rev cluster s) := by
  unfold Machine.execNameInvalidation
  split
  · exact .next h
  split
  · exact .next h
  simp only
  split
  · exact .next (.settle (.updCluster h))
  · exact .next (.of_eq (.settle (.updCluster h)) rfl rfl)

theorem execRevocationComplete_ok (h : s.MemoryOk) : OutOk (Machine.execRevocationComplete rev s) := by
  unfold Machine.execRevocationComplete
  split
  · exact .next h
  split
  · exact .next h
  split
  · exact .next h
  · exact .next (.nameFails (.asCtx h (fun s h => .clampScope h)))

end

/-! ### The operations of Machine/Host.lean -/

section
variable {s : State} {value : Word} {target id : BitVec 32} {ok : Bool} {pa : Nat}

theorem State.MemoryOk.retrySaves (h : s.MemoryOk) : (s.retrySaves target).MemoryOk := by
  unfold State.retrySaves
  refine foldl_ok _ (fun s _ h => ?_) _ _ h
  split
  · refine .asCtx h (fun s h => ?_)
    split
    · exact .ite (.saveForm h) h
    · exact .takeTrap h
  · exact h

theorem State.MemoryOk.endSaves (h : s.MemoryOk) : (s.endSaves target).MemoryOk := by
  unfold State.endSaves
  refine foldl_ok _ (fun s _ h => ?_) _ _ h
  split
  · exact .asCtx h (fun s h => .ite (.sysStatus h) h)
  · exact h

theorem State.MemoryOk.saveAnswered {cause : BitVec 8} (h : s.MemoryOk) : (s.saveAnswered id cause ok).MemoryOk := by
  unfold State.saveAnswered
  split
  · exact .saveLost (.endSaves h)
  refine .retrySaves ?_
  split
  · exact .ite (.updCtx h _ _) (.writeQuads (.updCtx h _ _))
  · exact .updCtx h _ _

theorem State.MemoryOk.storeLost {label : Nat} (h : s.MemoryOk) : (s.storeLost id label).MemoryOk := .updCtx h _ _

theorem State.MemoryOk.faultAnswered {r : FaultRec} (h : s.MemoryOk) : (s.faultAnswered r ok).MemoryOk := by
  unfold State.faultAnswered
  split
  · exact h
  · split
    · exact h
    · exact .ite h (.ite (.noteReady (.thaw h)) (.killCtx h))
  · exact .saveAnswered h
  · exact .ite (.updCtx h _ _) (.saveLost h)
  · exact .answerJob h
  · exact .exportAnswer h
  · refine .asCtx h (fun s h => ?_)
    split
    · exact .ite (.queueForm h) (.takeTrap h)
    · exact h
  · exact .ite h (.storeLost h)
  · exact .ite h (.endHeld h)
  · exact .flushRecord (.ite h (.updLaunch h))

theorem execFqDone_ok (h : s.MemoryOk) : OutOk (Machine.execFqDone value s) := by
  unfold Machine.execFqDone
  refine .answering h ?_
  split
  · exact .next h
  · exact .next (.faultAnswered h)

theorem execTlbInv_ok (h : s.MemoryOk) : OutOk (Machine.execTlbInv value s) := by
  unfold Machine.execTlbInv
  refine .answering h ?_
  exact .next h

theorem execTlbInvComplete_ok (h : s.MemoryOk) : OutOk (Machine.execTlbInvComplete s) := by
  unfold Machine.execTlbInvComplete
  split
  · exact .next h
  extract_lets keep s1 ids s2
  have h2 : s2.MemoryOk := .settle (h.of_eq rfl rfl)
  split
  · exact .next h2
  · exact .next (h2.of_eq rfl rfl)

theorem execEngThaw_ok (h : s.MemoryOk) : OutOk (Machine.execEngThaw value s) := by
  unfold Machine.execEngThaw
  refine .answering h ?_
  split
  · exact .next h
  · exact .next (.updEngine h)

theorem execPrgResponse_ok {fn : FnIx} {prg : BitVec 9} (h : s.MemoryOk) : OutOk (Machine.execPrgResponse fn prg s) :=
  .next h

theorem execHostWriteToPackage_ok {bytes : List Byte} (h : s.MemoryOk) :
    OutOk (Machine.execHostWriteToPackage pa bytes s) := by
  unfold Machine.execHostWriteToPackage
  refine .answering h ?_
  split
  · trivial
  · exact .next (.homeWrite h)

theorem execHostReadOfPackage_ok {n : Nat} (h : s.MemoryOk) : OutOk (Machine.execHostReadOfPackage pa n s) := by
  unfold Machine.execHostReadOfPackage
  refine .answering h ?_
  split
  · trivial
  · exact .next (.tell h)

theorem execPowerLimitExceeded_ok (h : s.MemoryOk) : OutOk (Machine.execPowerLimitExceeded s) := .next h
theorem execPowerUnderLimit_ok (h : s.MemoryOk) : OutOk (Machine.execPowerUnderLimit s) := .next h

end

/-! ### The operations of Machine/Scalar.lean -/

section
variable {s : State} {d a b : Reg} {la : BitVec 4} {bit : BitVec 8} {imm : Imm 11} {v : Word} {cond : Cond}

theorem OutOk.scalar (h : s.MemoryOk) : OutOk (s.scalar d v) := .next (.advance (.setX h))
theorem OutOk.int2 {f : Word → Word → Word} (h : s.MemoryOk) : OutOk (s.int2 d a b f) := .scalar h
theorem execAdd_ok (h : s.MemoryOk) : OutOk (Machine.execAdd d a b s) := .int2 h
theorem execSub_ok (h : s.MemoryOk) : OutOk (Machine.execSub d a b s) := .int2 h
theorem execAnd_ok (h : s.MemoryOk) : OutOk (Machine.execAnd d a b s) := .int2 h
theorem execOr_ok (h : s.MemoryOk) : OutOk (Machine.execOr d a b s) := .int2 h
theorem execXor_ok (h : s.MemoryOk) : OutOk (Machine.execXor d a b s) := .int2 h
theorem execAndn_ok (h : s.MemoryOk) : OutOk (Machine.execAndn d a b s) := .int2 h
theorem execSll_ok (h : s.MemoryOk) : OutOk (Machine.execSll d a b s) := .int2 h
theorem execSrl_ok (h : s.MemoryOk) : OutOk (Machine.execSrl d a b s) := .int2 h
theorem execSra_ok (h : s.MemoryOk) : OutOk (Machine.execSra d a b s) := .int2 h
theorem execRol_ok (h : s.MemoryOk) : OutOk (Machine.execRol d a b s) := .int2 h
theorem execRor_ok (h : s.MemoryOk) : OutOk (Machine.execRor d a b s) := .int2 h
theorem execMin_ok (h : s.MemoryOk) : OutOk (Machine.execMin d a b s) := .int2 h
theorem execMax_ok (h : s.MemoryOk) : OutOk (Machine.execMax d a b s) := .int2 h
theorem execMinu_ok (h : s.MemoryOk) : OutOk (Machine.execMinu d a b s) := .int2 h
theorem execMaxu_ok (h : s.MemoryOk) : OutOk (Machine.execMaxu d a b s) := .int2 h
theorem execAddw_ok (h : s.MemoryOk) : OutOk (Machine.execAddw d a b s) := .int2 h
theorem execSubw_ok (h : s.MemoryOk) : OutOk (Machine.execSubw d a b s) := .int2 h
theorem execIdx2_ok (h : s.MemoryOk) : OutOk (Machine.execIdx2 d a b s) := .int2 h
theorem execIdx4_ok (h : s.MemoryOk) : OutOk (Machine.execIdx4 d a b s) := .int2 h
theorem execIdx8_ok (h : s.MemoryOk) : OutOk (Machine.execIdx8 d a b s) := .int2 h
theorem execIdx32_ok (h : s.MemoryOk) : OutOk (Machine.execIdx32 d a b s) := .int2 h
theorem execClead_ok (h : s.MemoryOk) : OutOk (Machine.execClead d a s) := .scalar h
theorem execCtrail_ok (h : s.MemoryOk) : OutOk (Machine.execCtrail d a s) := .scalar h
theorem execCones_ok (h : s.MemoryOk) : OutOk (Machine.execCones d a s) := .scalar h
theorem execByterev_ok (h : s.MemoryOk) : OutOk (Machine.execByterev d a s) := .scalar h
theorem execExts_ok (h : s.MemoryOk) : OutOk (Machine.execExts d a b s) := .int2 h
theorem execExtz_ok (h : s.MemoryOk) : OutOk (Machine.execExtz d a b s) := .int2 h
theorem execMov_ok (h : s.MemoryOk) : OutOk (Machine.execMov d a s) := .next (.advance (.setReg h))

theorem OutOk.copyBit {n : Nat} {b : Bool} (h : s.MemoryOk) : OutOk (s.copyBit d a n b) :=
  .next (.advance (.setBits h))

theorem execBset_ok (h : s.MemoryOk) : OutOk (Machine.execBset d a b s) := .copyBit h
theorem execBclr_ok (h : s.MemoryOk) : OutOk (Machine.execBclr d a b s) := .copyBit h
theorem execBinv_ok (h : s.MemoryOk) : OutOk (Machine.execBinv d a b s) := .copyBit h
theorem execBext_ok (h : s.MemoryOk) : OutOk (Machine.execBext d a b s) := .scalar h
theorem execAddi_ok {imm : Imm 14} (h : s.MemoryOk) : OutOk (Machine.execAddi d a imm s) := .scalar h
theorem execAndi_ok (h : s.MemoryOk) : OutOk (Machine.execAndi d a imm s) := .scalar h
theorem execOri_ok (h : s.MemoryOk) : OutOk (Machine.execOri d a imm s) := .scalar h
theorem execXori_ok (h : s.MemoryOk) : OutOk (Machine.execXori d a imm s) := .scalar h
theorem execSlli_ok {imm : BitVec 11} (h : s.MemoryOk) : OutOk (Machine.execSlli d a imm s) := .scalar h
theorem execSrli_ok {imm : BitVec 11} (h : s.MemoryOk) : OutOk (Machine.execSrli d a imm s) := .scalar h
theorem execSrai_ok {imm : BitVec 11} (h : s.MemoryOk) : OutOk (Machine.execSrai d a imm s) := .scalar h
theorem execAddwi_ok (h : s.MemoryOk) : OutOk (Machine.execAddwi d a imm s) := .scalar h
theorem execRori_ok {imm : BitVec 11} (h : s.MemoryOk) : OutOk (Machine.execRori d a imm s) := .scalar h
theorem execMovh_ok {imm : BitVec 20} (h : s.MemoryOk) : OutOk (Machine.execMovh d imm s) := .scalar h
theorem execOrsh_ok {imm : BitVec 20} (h : s.MemoryOk) : OutOk (Machine.execOrsh d imm s) := .scalar h
theorem execBseti_ok (h : s.MemoryOk) : OutOk (Machine.execBseti d a bit s) := .copyBit h
theorem execBclri_ok (h : s.MemoryOk) : OutOk (Machine.execBclri d a bit s) := .copyBit h
theorem execBinvi_ok (h : s.MemoryOk) : OutOk (Machine.execBinvi d a bit s) := .copyBit h
theorem execBexti_ok (h : s.MemoryOk) : OutOk (Machine.execBexti d a bit s) := .scalar h
theorem execBdepi_ok (h : s.MemoryOk) : OutOk (Machine.execBdepi d a bit s) := .copyBit h
theorem execBndepi_ok (h : s.MemoryOk) : OutOk (Machine.execBndepi d a bit s) := .copyBit h
theorem execCmp_ok {bit : BitVec 5} (h : s.MemoryOk) : OutOk (Machine.execCmp cond d a b bit s) := .copyBit h

theorem execCmpi_ok {bit : BitVec 5} {imm : Imm 6} (h : s.MemoryOk) : OutOk (Machine.execCmpi cond d a bit imm s) :=
  .copyBit h

theorem OutOk.muldiv {i : Instr} {ev : Ev} (h : s.MemoryOk) : OutOk (s.muldiv i la d v ev) :=
  .next (.advance (.setX (.windowDone (.countOne h))))

theorem execMul_ok (h : s.MemoryOk) : OutOk (Machine.execMul la d a b s) := .muldiv h
theorem execMulh_ok (h : s.MemoryOk) : OutOk (Machine.execMulh la d a b s) := .muldiv h
theorem execMulhu_ok (h : s.MemoryOk) : OutOk (Machine.execMulhu la d a b s) := .muldiv h
theorem execMulhsn_ok (h : s.MemoryOk) : OutOk (Machine.execMulhsn la d a b s) := .muldiv h
theorem execDiv_ok (h : s.MemoryOk) : OutOk (Machine.execDiv la d a b s) := .muldiv h
theorem execDivu_ok (h : s.MemoryOk) : OutOk (Machine.execDivu la d a b s) := .muldiv h
theorem execRem_ok (h : s.MemoryOk) : OutOk (Machine.execRem la d a b s) := .muldiv h
theorem execRemu_ok (h : s.MemoryOk) : OutOk (Machine.execRemu la d a b s) := .muldiv h
theorem execMulw_ok (h : s.MemoryOk) : OutOk (Machine.execMulw la d a b s) := .muldiv h

end

/-! ### The operations of Machine/Vector.lean -/

section
variable {s : State} {d a b : Reg} {mask : BitVec 3} {lane tg : LaneType} {la : BitVec 4} {target : ElemType}
    {f : Nat → Nat × Ev} {gi : Int → Int → Bool} {ty : FloatLane} {max : Bool}

theorem OutOk.lanewise (h : s.MemoryOk) : OutOk (s.lanewise tg mask d f) :=
  .next (.advance (.setBits (.countLanes h)))

theorem OutOk.lane2 {gi : Nat → Nat → Int} {gf : Num → Num → Num × Ev} (h : s.MemoryOk) :
    OutOk (s.lane2 tg mask d a b gi gf) := .lanewise h

theorem execVadd_ok (h : s.MemoryOk) : OutOk (Machine.execVadd lane mask d a b s) := .lane2 h
theorem execVsub_ok (h : s.MemoryOk) : OutOk (Machine.execVsub lane mask d a b s) := .lane2 h
theorem execVmul_ok (h : s.MemoryOk) : OutOk (Machine.execVmul lane mask d a b s) := .lane2 h
theorem execVfma_ok (h : s.MemoryOk) : OutOk (Machine.execVfma lane mask d a b s) := .lanewise h

theorem OutOk.laneExtreme {g : Num → Num → Num} (h : s.MemoryOk) : OutOk (s.laneExtreme tg mask d a b gi g) :=
  .lanewise h

theorem execVmin_ok (h : s.MemoryOk) : OutOk (Machine.execVmin lane mask d a b s) := .laneExtreme h
theorem execVmax_ok (h : s.MemoryOk) : OutOk (Machine.execVmax lane mask d a b s) := .laneExtreme h
theorem execVabs_ok (h : s.MemoryOk) : OutOk (Machine.execVabs lane mask d a s) := .lanewise h
theorem execVneg_ok (h : s.MemoryOk) : OutOk (Machine.execVneg lane mask d a s) := .lanewise h
theorem OutOk.laneBits {g : W256 → W256 → W256} (h : s.MemoryOk) : OutOk (s.laneBits tg mask d a b g) := .lanewise h
theorem execVand_ok (h : s.MemoryOk) : OutOk (Machine.execVand lane mask d a b s) := .laneBits h
theorem execVor_ok (h : s.MemoryOk) : OutOk (Machine.execVor lane mask d a b s) := .laneBits h
theorem execVxor_ok (h : s.MemoryOk) : OutOk (Machine.execVxor lane mask d a b s) := .laneBits h
theorem execVandn_ok (h : s.MemoryOk) : OutOk (Machine.execVandn lane mask d a b s) := .laneBits h
theorem OutOk.laneInt {g : Nat → Nat → Int} (h : s.MemoryOk) : OutOk (s.laneInt tg mask d a b g) := .lanewise h
theorem execVsll_ok (h : s.MemoryOk) : OutOk (Machine.execVsll lane mask d a b s) := .laneInt h
theorem execVsrl_ok (h : s.MemoryOk) : OutOk (Machine.execVsrl lane mask d a b s) := .laneInt h
theorem execVsra_ok (h : s.MemoryOk) : OutOk (Machine.execVsra lane mask d a b s) := .laneInt h

theorem execVmulh_ok (h : s.MemoryOk) : OutOk (Machine.execVmulh lane mask d a b s) := by
  unfold Machine.execVmulh
  exact .laneInt h

theorem OutOk.divideUnit {i : Instr} (h : s.MemoryOk) : OutOk (s.divideUnit i la tg d f) :=
  .next (.advance (.windowDone (.setBits (.countLanes h))))

theorem execVdiv_ok (h : s.MemoryOk) : OutOk (Machine.execVdiv ty la d a b s) := .divideUnit h
theorem execVsqrt_ok (h : s.MemoryOk) : OutOk (Machine.execVsqrt ty la d a s) := .divideUnit h
theorem execVidiv_ok {ty : IntLane} (h : s.MemoryOk) : OutOk (Machine.execVidiv ty la d a b s) := .divideUnit h
theorem execVirem_ok {ty : IntLane} (h : s.MemoryOk) : OutOk (Machine.execVirem ty la d a b s) := .divideUnit h

theorem OutOk.laneCompare {quiet : Bool} {onNan : Bool} {gf : Num → Num → Bool} (h : s.MemoryOk) :
    OutOk (s.laneCompare tg mask d a b quiet onNan gi gf) := .next (.advance (.setBits (.countLanes h)))

theorem execVcmpeq_ok (h : s.MemoryOk) : OutOk (Machine.execVcmpeq lane mask d a b s) := .laneCompare h
theorem execVcmplt_ok (h : s.MemoryOk) : OutOk (Machine.execVcmplt lane mask d a b s) := .laneCompare h
theorem execVcmple_ok (h : s.MemoryOk) : OutOk (Machine.execVcmple lane mask d a b s) := .laneCompare h
theorem execVcmpun_ok (h : s.MemoryOk) : OutOk (Machine.execVcmpun lane mask d a b s) := .laneCompare h

theorem OutOk.convert {rm : Rounding} {sat : Bool} (h : s.MemoryOk) :
    OutOk (s.convert tg target mask d a rm sat) := by
  unfold State.convert
  split <;> exact .next (.advance (.setBits (.countLanes h)))

theorem execVcvt_ok (h : s.MemoryOk) : OutOk (Machine.execVcvt lane target mask d a s) := .convert h
theorem execVcvtz_ok (h : s.MemoryOk) : OutOk (Machine.execVcvtz lane target mask d a s) := .convert h
theorem execVcvts_ok (h : s.MemoryOk) : OutOk (Machine.execVcvts lane target mask d a s) := .convert h
theorem execVcvtr_ok (h : s.MemoryOk) : OutOk (Machine.execVcvtr lane target mask d a s) := .convert h
theorem execVshuf_ok (h : s.MemoryOk) : OutOk (Machine.execVshuf lane mask d a b s) := .lanewise h
theorem execVbcast_ok (h : s.MemoryOk) : OutOk (Machine.execVbcast lane mask d a b s) := .lanewise h
theorem execVslide_ok (h : s.MemoryOk) : OutOk (Machine.execVslide lane mask d a b s) := .lanewise h
theorem execVzip_ok (h : s.MemoryOk) : OutOk (Machine.execVzip lane mask d a b s) := .lanewise h

theorem OutOk.reduced {v : Nat} {evs : List Ev} (h : s.MemoryOk) : OutOk (s.reduced d v evs) :=
  .next (.advance (.setBits (.countLanes h)))

theorem execVrsum_ok (h : s.MemoryOk) : OutOk (Machine.execVrsum lane mask d a s) := by
  unfold Machine.execVrsum
  split <;> exact .reduced h

theorem OutOk.reduceExtreme (h : s.MemoryOk) : OutOk (s.reduceExtreme tg mask d a max) := by
  unfold State.reduceExtreme
  split <;> exact .reduced h

theorem execVrmax_ok (h : s.MemoryOk) : OutOk (Machine.execVrmax lane mask d a s) := .reduceExtreme h
theorem execVrmin_ok (h : s.MemoryOk) : OutOk (Machine.execVrmin lane mask d a s) := .reduceExtreme h

theorem execVrdot_ok (h : s.MemoryOk) : OutOk (Machine.execVrdot lane mask d a b s) := by
  unfold Machine.execVrdot
  split <;> exact .reduced h

theorem OutOk.pairwise {f : Nat → Nat → Nat → Nat → Nat × Nat × Ev} (h : s.MemoryOk) :
    OutOk (s.pairwise tg mask d a f) := .next (.advance (.setBits (.countLanes h)))

theorem OutOk.witnessExtreme (h : s.MemoryOk) : OutOk (s.witnessExtreme tg mask d a b max) := by
  unfold State.witnessExtreme
  exact .pairwise h

theorem execVmaxw_ok (h : s.MemoryOk) : OutOk (Machine.execVmaxw lane mask d a b s) := .witnessExtreme h
theorem execVminw_ok (h : s.MemoryOk) : OutOk (Machine.execVminw lane mask d a b s) := .witnessExtreme h

theorem execVclmpw_ok (h : s.MemoryOk) : OutOk (Machine.execVclmpw lane mask d a b s) := by
  unfold Machine.execVclmpw
  exact .pairwise h

theorem execVadjb_ok (h : s.MemoryOk) : OutOk (Machine.execVadjb lane mask d a b s) := by
  unfold Machine.execVadjb
  exact .pairwise h

theorem execVsel_ok (h : s.MemoryOk) : OutOk (Machine.execVsel lane mask d a b s) := .next (.advance (.setBits h))
theorem execViota_ok (h : s.MemoryOk) : OutOk (Machine.execViota lane mask d s) := .lanewise h
theorem execVdup_ok (h : s.MemoryOk) : OutOk (Machine.execVdup lane mask d a s) := .lanewise h
theorem execVext_ok (h : s.MemoryOk) : OutOk (Machine.execVext lane d a b s) := .scalar h

end

/-! ### The operations of Machine/VectorMem.lean -/

section
variable {s t : State} {esz : ElemSize} {a b d src : Reg} {la : BitVec 4} {acc : Acc} {handle : BitVec 24}
    {ts : List Target}

theorem State.MemoryOk.elementTarget {eff : Word} {x : Target} (e : s.elementTarget esz a acc eff = .ok (x, t))
    (h : s.MemoryOk) : t.MemoryOk := by
  unfold State.elementTarget at e
  dsimp only at e
  split at e
  · cases e
  split at e
  · cases e
  split at e
  · cases e
    rename_i e'
    exact .accessAt e' h
  · cases e

theorem State.MemoryOk.elementTargets {xs : List Word} {x : List Target}
    (e : State.elementTargets esz a acc xs s = .ok (x, t)) (h : s.MemoryOk) : t.MemoryOk := by
  induction xs generalizing s x t with
  | nil => exact .of_okPair e h
  | cons x1 xs ih =>
    unfold State.elementTargets at e
    split at e
    · cases e
    split at e
    · cases e
    rename_i e1 _ _ _ e2
    exact .of_okPair e (ih e2 (.elementTarget e1 h))

theorem State.MemoryOk.askElements {n : Nat} {xs : List (Target × Nat)} (h : s.MemoryOk) :
    (State.askElements handle n xs s).2.2.MemoryOk := by
  induction xs generalizing s with
  | nil => exact h
  | cons x xs ih =>
    unfold State.askElements
    split
    · exact ih (.send (.newTxn h))
    · exact ih h

theorem State.MemoryOk.gather {i : Instr} (h : s.MemoryOk) : (s.gather i la d a esz ts).MemoryOk := by
  unfold State.gather
  extract_lets n far s1
  have h1 : s1.MemoryOk := foldl_ok _ (fun _ _ h => .resolveLoads h) _ _ h
  refine .ite (.advance (.window h1)) (.ite (.advance (.windowDone (.lateFault (h1.of_eq rfl rfl)))) ?_)
  refine .ite ?_ (.advance (.windowDone (.setBits h1)))
  split
  rename_i e
  exact .advance (.window (.of_snd2 e (.askElements h1)))

theorem execVgath_ok (h : s.MemoryOk) : OutOk (Machine.execVgath esz la d a b s) :=
  .orTrap h (fun _ e => .gather (.elementTargets e h))

theorem execVlds_ok (h : s.MemoryOk) : OutOk (Machine.execVlds esz la d a b s) :=
  .orTrap h (fun _ e => .gather (.elementTargets e h))

theorem State.MemoryOk.scatterOne {label : Nat} {tg : Target} {v : Nat} (h : s.MemoryOk) :
    (s.scatterOne label handle esz tg v).MemoryOk := by
  unfold State.scatterOne
  split
  · exact .stashPut (.resolveFor h)
  · exact .enqueueStore h

theorem State.MemoryOk.scatter (h : s.MemoryOk) : (s.scatter src a esz ts).MemoryOk := by
  unfold State.scatter
  refine .advance (foldl_ok _ (fun s _ h => ?_) _ _ h)
  exact .scatterOne h

theorem execVscat_ok (h : s.MemoryOk) : OutOk (Machine.execVscat esz src a b s) :=
  .orTrap h (fun _ e => .scatter (.elementTargets e h))

theorem execVsts_ok (h : s.MemoryOk) : OutOk (Machine.execVsts esz src a b s) :=
  .orTrap h (fun _ e => .scatter (.elementTargets e h))

end

/-! ### The operations of Machine/Dispatch.lean -/

section
/-- Every instruction and machine step keeps memory in its canonical form. -/
theorem exec_ok {i : Instr} {s : State} (h : s.MemoryOk) : OutOk (exec i s) := by
  cases i with
  | add => exact execAdd_ok h
  | sub => exact execSub_ok h
  | and_ => exact execAnd_ok h
  | or_ => exact execOr_ok h
  | xor => exact execXor_ok h
  | andn => exact execAndn_ok h
  | sll => exact execSll_ok h
  | srl => exact execSrl_ok h
  | sra => exact execSra_ok h
  | rol => exact execRol_ok h
  | ror => exact execRor_ok h
  | min => exact execMin_ok h
  | max => exact execMax_ok h
  | minu => exact execMinu_ok h
  | maxu => exact execMaxu_ok h
  | addw => exact execAddw_ok h
  | subw => exact execSubw_ok h
  | idx2 => exact execIdx2_ok h
  | idx4 => exact execIdx4_ok h
  | idx8 => exact execIdx8_ok h
  | idx32 => exact execIdx32_ok h
  | clead => exact execClead_ok h
  | ctrail => exact execCtrail_ok h
  | cones => exact execCones_ok h
  | byterev => exact execByterev_ok h
  | exts => exact execExts_ok h
  | extz => exact execExtz_ok h
  | mov => exact execMov_ok h
  | bset => exact execBset_ok h
  | bclr => exact execBclr_ok h
  | binv => exact execBinv_ok h
  | bext => exact execBext_ok h
  | addi => exact execAddi_ok h
  | andi => exact execAndi_ok h
  | ori => exact execOri_ok h
  | xori => exact execXori_ok h
  | slli => exact execSlli_ok h
  | srli => exact execSrli_ok h
  | srai => exact execSrai_ok h
  | addwi => exact execAddwi_ok h
  | rori => exact execRori_ok h
  | movh => exact execMovh_ok h
  | orsh => exact execOrsh_ok h
  | bseti => exact execBseti_ok h
  | bclri => exact execBclri_ok h
  | binvi => exact execBinvi_ok h
  | bexti => exact execBexti_ok h
  | bdepi => exact execBdepi_ok h
  | bndepi => exact execBndepi_ok h
  | cmp => exact execCmp_ok h
  | cmpi => exact execCmpi_ok h
  | mul => exact execMul_ok h
  | mulh => exact execMulh_ok h
  | mulhu => exact execMulhu_ok h
  | mulhsn => exact execMulhsn_ok h
  | div => exact execDiv_ok h
  | divu => exact execDivu_ok h
  | rem => exact execRem_ok h
  | remu => exact execRemu_ok h
  | mulw => exact execMulw_ok h
  | bcc => exact execBcc_ok h
  | bb => exact execBb_ok h
  | j => exact execJ_ok h
  | jal => exact execJal_ok h
  | jalr => exact execJalr_ok h
  | dbnz => exact execDbnz_ok h
  | cgetoff => exact execCgetoff_ok h
  | cgetbase => exact execCgetbase_ok h
  | cgetlim => exact execCgetlim_ok h
  | cgetperm => exact execCgetperm_ok h
  | cgethnd => exact execCgethnd_ok h
  | cgetgen => exact execCgetgen_ok h
  | cgetkind => exact execCgetkind_ok h
  | ccur => exact execCcur_ok h
  | cstep => exact execCstep_ok h
  | cnarrow => exact execCnarrow_ok h
  | cdrop => exact execCdrop_ok h
  | ccover => exact execCcover_ok h
  | cuncover => exact execCuncover_ok h
  | cplain => exact execCplain_ok h
  | cprobe => exact execCprobe_ok h
  | cdist => exact execCdist_ok h
  | cinci => exact execCinci_ok h
  | walk => exact execWalk_ok h
  | open_ => exact execOpen_ok h
  | close => exact execClose_ok h
  | bind => exact execBind_ok h
  | unbind => exact execUnbind_ok h
  | revoke => exact execRevoke_ok h
  | stat => exact execStat_ok h
  | dup => exact execDup_ok h
  | mknode => exact execMknode_ok h
  | export_ => exact execExport_ok h
  | qpush => exact execQpush_ok h
  | qpop => exact execQpop_ok h
  | qpushNb => exact execQpushNb_ok h
  | qpopNb => exact execQpopNb_ok h
  | ld => exact execLd_ok h
  | st => exact execSt_ok h
  | ldx => exact execLdx_ok h
  | stx => exact execStx_ok h
  | aadd => exact execAadd_ok h
  | aand => exact execAand_ok h
  | aor => exact execAor_ok h
  | axor => exact execAxor_ok h
  | amin => exact execAmin_ok h
  | amax => exact execAmax_ok h
  | aminu => exact execAminu_ok h
  | amaxu => exact execAmaxu_ok h
  | axchg => exact execAxchg_ok h
  | acas => exact execAcas_ok h
  | afadd => exact execAfadd_ok h
  | aincs => exact execAincs_ok h
  | fence => exact execFence_ok h
  | hfence => exact execHfence_ok h
  | lda => exact execLda_ok h
  | stl => exact execStl_ok h
  | pref => exact execPref_ok h
  | clwb => exact execClwb_ok h
  | clinv => exact execClinv_ok h
  | clzero => exact execClzero_ok h
  | stashfl => exact execStashfl_ok h
  | stashinv => exact execStashinv_ok h
  | barinit => exact execBarinit_ok h
  | bararv => exact execBararv_ok h
  | barexp => exact execBarexp_ok h
  | barwait => exact execBarwait_ok h
  | bartest => exact execBartest_ok h
  | barpois => exact execBarpois_ok h
  | gangbar => exact execGangbar_ok h
  | spanbar => exact execSpanbar_ok h
  | barrd => exact execBarrd_ok h
  | spawn => exact execSpawn_ok h
  | retire => exact execRetire_ok h
  | yield => exact execYield_ok h
  | sleep => exact execSleep_ok h
  | wake => exact execWake_ok h
  | self => exact execSelf_ok h
  | hpush => exact execHpush_ok h
  | hpop => exact execHpop_ok h
  | evpost => exact execEvpost_ok h
  | evwait => exact execEvwait_ok h
  | signal => exact execSignal_ok h
  | htry => exact execHtry_ok h
  | enq => exact execEnq_ok h
  | jwait => exact execJwait_ok h
  | jtest => exact execJtest_ok h
  | jstat => exact execJstat_ok h
  | aswap => exact execAswap_ok h
  | jcancel => exact execJcancel_ok h
  | vadd => exact execVadd_ok h
  | vsub => exact execVsub_ok h
  | vmul => exact execVmul_ok h
  | vfma => exact execVfma_ok h
  | vmin => exact execVmin_ok h
  | vmax => exact execVmax_ok h
  | vabs => exact execVabs_ok h
  | vneg => exact execVneg_ok h
  | vand => exact execVand_ok h
  | vor => exact execVor_ok h
  | vxor => exact execVxor_ok h
  | vandn => exact execVandn_ok h
  | vsll => exact execVsll_ok h
  | vsrl => exact execVsrl_ok h
  | vsra => exact execVsra_ok h
  | vmulh => exact execVmulh_ok h
  | vdiv => exact execVdiv_ok h
  | vsqrt => exact execVsqrt_ok h
  | vidiv => exact execVidiv_ok h
  | virem => exact execVirem_ok h
  | vcmpeq => exact execVcmpeq_ok h
  | vcmplt => exact execVcmplt_ok h
  | vcmple => exact execVcmple_ok h
  | vcmpun => exact execVcmpun_ok h
  | vcvt => exact execVcvt_ok h
  | vcvtz => exact execVcvtz_ok h
  | vcvts => exact execVcvts_ok h
  | vcvtr => exact execVcvtr_ok h
  | vshuf => exact execVshuf_ok h
  | vbcast => exact execVbcast_ok h
  | vslide => exact execVslide_ok h
  | vzip => exact execVzip_ok h
  | vrsum => exact execVrsum_ok h
  | vrmax => exact execVrmax_ok h
  | vrmin => exact execVrmin_ok h
  | vrdot => exact execVrdot_ok h
  | vmaxw => exact execVmaxw_ok h
  | vminw => exact execVminw_ok h
  | vclmpw => exact execVclmpw_ok h
  | vadjb => exact execVadjb_ok h
  | vgath => exact execVgath_ok h
  | vscat => exact execVscat_ok h
  | vlds => exact execVlds_ok h
  | vsts => exact execVsts_ok h
  | vsel => exact execVsel_ok h
  | viota => exact execViota_ok h
  | vdup => exact execVdup_ok h
  | vext => exact execVext_ok h
  | ctlr => exact execCtlr_ok h
  | ctlw => exact execCtlw_ok h
  | ctls => exact execCtls_ok h
  | ctlc => exact execCtlc_ok h
  | trap => exact execTrap_ok h
  | eret => exact execEret_ok h
  | phint => exact execPhint_ok h
  | save => exact execSave_ok h
  | resume => exact execResume_ok h
  | freeze => exact execFreeze_ok h
  | thaw => exact execThaw_ok h
  | waitev => exact execWaitev_ok h
  | bkpt => exact execBkpt_ok h
  | kill => exact execKill_ok h
  | xgo => exact execXgo_ok h
  | xstat => exact execXstat_ok h
  | sumcol => exact execSumcol_ok h
  | nwalk => exact execNwalk_ok h
  | nopen => exact execNopen_ok h
  | nread => exact execNread_ok h
  | nwrite => exact execNwrite_ok h
  | nqop => exact execNqop_ok h
  | nclose => exact execNclose_ok h
  | nstale => exact execNstale_ok h
  | fqDone => exact execFqDone_ok h
  | tlbInv => exact execTlbInv_ok h
  | engThaw => exact execEngThaw_ok h
  | kqTailWrite => exact execKqTailWrite_ok h
  | kqEnable => exact execKqEnable_ok h
  | registerWrite => exact execRegisterWrite_ok h
  | loadDataReturn => exact execLoadDataReturn_ok h
  | storePerform => exact execStorePerform_ok h
  | fenceComplete => exact execFenceComplete_ok h
  | quadFill => exact execQuadFill_ok h
  | bindRecord => exact execBindRecord_ok h
  | slotBind => exact execSlotBind_ok h
  | trapRecordDelivery => exact execTrapRecordDelivery_ok h
  | baristaTrapRecord => exact execBaristaTrapRecord_ok h
  | jobCompletion => exact execJobCompletion_ok h
  | copySector => exact execCopySector_ok h
  | transferAccept => exact execTransferAccept_ok h
  | nameInvalidation => exact execNameInvalidation_ok h
  | revocationComplete => exact execRevocationComplete_ok h
  | queueWaitComplete => exact execQueueWaitComplete_ok h
  | launch => exact execLaunch_ok h
  | gangPlacement => exact execGangPlacement_ok h
  | quantumExpiry => exact execQuantumExpiry_ok h
  | agingIntervalExpiry => exact execAgingIntervalExpiry_ok h
  | forcedSave => exact execForcedSave_ok h
  | saveComplete => exact execSaveComplete_ok h
  | watchdog => exact execWatchdog_ok h
  | handlerInterrupt => exact execHandlerInterrupt_ok h
  | tlbInvComplete => exact execTlbInvComplete_ok h
  | mxOwnWrite => exact execMxOwnWrite_ok h
  | cluNcinv => exact execCluNcinv_ok h
  | vfUnfreeze => exact execVfUnfreeze_ok h
  | measExtend => exact execMeasExtend_ok h
  | cpyGo => exact execCpyGo_ok h
  | barwaitRelease => exact execBarwaitRelease_ok h
  | gangbarRelease => exact execGangbarRelease_ok h
  | spanbarRelease => exact execSpanbarRelease_ok h
  | jwaitReturn => exact execJwaitReturn_ok h
  | aswapExchange => exact execAswapExchange_ok h
  | hpopReturn => exact execHpopReturn_ok h
  | evwaitConsume => exact execEvwaitConsume_ok h
  | sleepTimeout => exact execSleepTimeout_ok h
  | nwalkReply => exact execNwalkReply_ok h
  | nopenReply => exact execNopenReply_ok h
  | nreadReply => exact execNreadReply_ok h
  | nwriteReply => exact execNwriteReply_ok h
  | nqopReply => exact execNqopReply_ok h
  | ncloseReply _ r => exact (execNcloseReply_ok h : OutOk (execNcloseReply _ r _))
  | linkRecoveryExpiry => exact execLinkRecoveryExpiry_ok h
  | portLinkLoss => exact execPortLinkLoss_ok h
  | fabricRefusal => exact execFabricRefusal_ok h
  | hostWriteToPackage => exact execHostWriteToPackage_ok h
  | hostReadOfPackage => exact execHostReadOfPackage_ok h
  | exchangeGrant => exact execExchangeGrant_ok h
  | send => exact execSend_ok h
  | recv => exact execRecv_ok h
  | recvadd => exact execRecvadd_ok h
  | recvaddsend => exact execRecvaddsend_ok h
  | xgoReturn => exact execXgoReturn_ok h
  | nop => exact execNop_ok h
  | mma => exact execMma_ok h
  | mmas => exact execMmas_ok h
  | mzero => exact execMzero_ok h
  | mlda => exact execMlda_ok h
  | msta => exact execMsta_ok h
  | mcvt => exact execMcvt_ok h
  | red => exact execRed_ok h
  | adjb => exact execAdjb_ok h
  | wrel => exact execWrel_ok h
  | creplay => exact execCreplay_ok h
  | cabort => exact execCabort_ok h
  | reshard => exact execReshard_ok h
  | rsresume => exact execRsresume_ok h
  | rsquery => exact execRsquery_ok h
  | boxRowComplete => exact execBoxRowComplete_ok h
  | bcopy => exact execBcopy_ok h
  | bfill => exact execBfill_ok h
  | trig => exact execTrig_ok h
  | trigFire => exact execTrigFire_ok h
  | tcount => exact execTcount_ok h
  | waitPacket => exact execWaitPacket_ok h
  | waitPacketSatisfied => exact execWaitPacketSatisfied_ok h
  | signalPacket => exact execSignalPacket_ok h
  | fencePacket => exact execFencePacket_ok h
  | nopPacket => exact execNopPacket_ok h
  | powerLimitExceeded => exact execPowerLimitExceeded_ok h
  | packageReset => exact execPackageReset_ok h
  | getVersion => exact execGetVersion_ok h
  | getCapabilities => exact execGetCapabilities_ok h
  | negotiateAlgorithms => exact execNegotiateAlgorithms_ok h
  | getDigests => exact execGetDigests_ok h
  | getCertificate => exact execGetCertificate_ok h
  | challenge => exact execChallenge_ok h
  | getMeasurements => exact execGetMeasurements_ok h
  | longLatencyCompletion => exact execLongLatencyCompletion_ok h
  | fabricAccess => exact execFabricAccess_ok h
  | keyedAccess => exact execKeyedAccess_ok h
  | prgResponse => exact execPrgResponse_ok h
  | portReset => exact execPortReset_ok h
  | portLinkRestored => exact execPortLinkRestored_ok h
  | powerUnderLimit => exact execPowerUnderLimit_ok h

end

/-! ### The operations of Machine/Issue.lean -/

section
variable {s : State} {i : Instr}

theorem State.MemoryOk.closeFrom {n : Nat} {i : Nat} (h : s.MemoryOk) : (Machine.closeFrom n i s).2.MemoryOk := by
  induction n generalizing i s with
  | zero => exact h
  | succ n ih =>
    unfold Machine.closeFrom
    split
    · exact h
    · exact .iteSnd (ih h) (.iteSnd h (ih (.completePend h)))

theorem State.MemoryOk.closeWindows (h : s.MemoryOk) : (s.closeWindows).2.MemoryOk := .closeFrom h

theorem State.MemoryOk.settleWrites {dst : List Nat} (h : s.MemoryOk) : (s.settleWrites dst).MemoryOk := by
  unfold State.settleWrites
  refine foldl_ok _ (fun s _ h => ?_) _ _ h
  split
  · exact .ite (.resolvePend h) h
  · exact h

theorem State.MemoryOk.countUnit (h : s.MemoryOk) : (s.countUnit).MemoryOk := .updCore (.updCx h)

theorem State.MemoryOk.prepare (h : s.MemoryOk) : (s.prepare i).2.MemoryOk := by
  unfold State.prepare
  extract_lets dst s1 s2 s3 s4
  have h1 : s1.MemoryOk := .ite (.completeAll h) h
  have h2 : s2.MemoryOk := .settleWrites h1
  have h3 : s3.MemoryOk := .ite (.resolveAll h2) h2
  have h4 : s4.MemoryOk := .ite (.drainStash (.resolveAll h3)) h3
  exact .iteSnd h4 (.iteSnd (.drain h4) h4)

theorem State.MemoryOk.passOver (h : s.MemoryOk) : (s.passOver i).MemoryOk := .advance (.windowDone (.countUnit h))

theorem OutOk.precisely {o : Out} (h : s.MemoryOk) (ho : OutOk o) : OutOk (s.precisely o) := by
  unfold State.precisely
  split
  · split
    · exact .next h
    · exact ho
  · exact ho

theorem OutOk.issueUnit {u : IUnit} (h : s.MemoryOk) : OutOk (s.issueUnit u) := by
  unfold State.issueUnit
  split
  · exact .next (.takeTrap h)
  split
  · exact .next (.fillQuad h)
  split
  · exact .next (.passOver (foldl_ok _ (fun _ _ h => .useQuad h) _ _ h))
  split
  · exact .next (.fillQuad h)
  extract_lets s1
  have h1 : s1.MemoryOk := foldl_ok _ (fun _ _ h => .useQuad h) _ _ h
  split
  · rename_i e
    exact .next (.takeLate e h1)
  · split
    · rename_i e
      exact .next (.of_snd e (.prepare h1))
    · rename_i e
      exact exec_ok (.countUnit (.of_snd e (.prepare h1)))

theorem OutOk.issue (h : s.MemoryOk) : OutOk s.issue := by
  unfold State.issue
  extract_lets c
  refine .ite (.next (.tryStop h)) (.ite (execForcedSave_ok h) (.ite (.next (.interruptSlot h)) ?_))
  split
  rename_i e1
  extract_lets s1
  have h1 : s1.MemoryOk := .updCx (.of_snd2 e1 (.fetchUnit h))
  split <;> rename_i e2 <;> have h2 := State.MemoryOk.of_snd e2 (.closeWindows h1)
  · exact .next h2
  refine .precisely h2 ?_
  split
  · rename_i e3
    exact .next (.takeLate e3 h2)
  split
  · exact .next (.takeTrap h2)
  · exact .next (.takeTrap h2)
  · exact .issueUnit h2

end

/-! ### The operations of Machine/Run.lean -/

section
variable {s : State} {sl : SlotId} {f : State → Out} {cl : ClusterIx}

theorem OutOk.turn (h : s.MemoryOk) : OutOk (s.turn sl) := by
  unfold State.turn
  split
  · exact .next h
  simp only
  split
  · exact .issue (.focus h)
  · exact .next (.focus h)

theorem OutOk.turnDue (h : s.MemoryOk) : OutOk (s.turnDue sl) := by
  unfold State.turnDue
  split
  · exact .next h
  · exact .turn h

theorem State.MemoryOk.joinSpan {gs : List (BitVec 32)} {chips : List ChipIx} {far : List Nat} {lead : Option ChipIx}
    (h : s.MemoryOk) : (s.joinSpan gs chips far lead).MemoryOk := .ite h h

theorem State.MemoryOk.growPool {d : Descriptor} (h : s.MemoryOk) : (s.growPool d).MemoryOk := .ite h h

theorem State.MemoryOk.setHostPage {page : Nat} {present : Bool} (h : s.MemoryOk) :
    (s.setHostPage page present).MemoryOk := h

theorem State.MemoryOk.flitArrives {f : Flit} (h : s.MemoryOk) : (s.flitArrives f).MemoryOk := by
  unfold State.flitArrives
  split <;> exact h

theorem State.MemoryOk.softError {corrected : Bool} (h : s.MemoryOk) : (s.softError corrected).MemoryOk := .ite h h

theorem State.MemoryOk.setHostRegion {a : Asid} {name : Name} {addr size : Nat} {mask : BitVec 12} (h : s.MemoryOk) :
    (s.setHostRegion a name addr size mask).MemoryOk := h

theorem OutOk.runItem {xx : AgendaItem} (h : s.MemoryOk) : OutOk (s.runItem xx) := by
  unfold State.runItem
  split
  · exact exec_ok h
  · exact .turnDue h
  · exact .next (.growPool h)
  · exact .next (.updCluster h)
  · exact .next (.updCore h)
  · exact .next (.writeBack h)
  · exact .next (.homeWrite h)
  · exact .next (.setHostPage h)
  · exact .next (.flitArrives h)
  · exact .next (.updCore h)
  · exact .next h
  · exact .next (.joinSpan h)
  · exact .next (.spanTold h)
  · exact .next (.setHostRegion h)
  · exact .next (.withdrawAt h)
  · exact .next (.updKq h)
  · exact .next (.softError h)
  · exact .next h
  · exact .next h

theorem OutOk.replyArrives {txn : Nat} {r : AccessReply} (h : s.MemoryOk) : OutOk (s.replyArrives txn r) := by
  unfold State.replyArrives
  split
  · exact execNreadReply_ok h
  · exact execNreadReply_ok h
  · exact execNwriteReply_ok h
  · exact execNqopReply_ok h
  · exact execNqopReply_ok h
  · exact execNcloseReply_ok h
  · exact .next h

theorem OutOk.deliver {m : NetMsg} (h : s.MemoryOk) : OutOk (s.deliver m) := by
  unfold State.deliver
  split
  · exact exec_ok h
  · exact execNwalkReply_ok h
  · exact execNopenReply_ok h
  · exact .replyArrives h
  · exact execFabricAccess_ok h
  · exact .next (.fabricAnswer h)
  · exact execKeyedAccess_ok h
  · exact .next (.withdrawAt h)
  · exact .next (.spanTold h)
  · exact .next h
  · exact .next h

theorem State.MemoryOk.doing (h : s.MemoryOk) (hf : ∀ s, s.MemoryOk → OutOk (f s)) : (s.doing f).MemoryOk := by
  unfold State.doing
  split
  · rename_i e
    exact (hf s h).of_eq e
  · exact h
  · exact h

theorem State.MemoryOk.forEach {α : Type} {xs : List α} {f : α → State → State} (h : s.MemoryOk)
    (hf : ∀ a s, s.MemoryOk → (f a s).MemoryOk) : (State.forEach xs f s).MemoryOk := by
  unfold State.forEach
  refine foldl_ok _ (fun s _ h => ?_) _ _ h
  exact hf _ _ h

theorem State.MemoryOk.forEachMem {α : Type} {xs : List α} {f : α → State → State} (h : s.MemoryOk)
    (hf : ∀ a ∈ xs, ∀ s, s.MemoryOk → (f a s).MemoryOk) : (State.forEach xs f s).MemoryOk :=
  
  List.foldlRecOn (motive := State.MemoryOk) xs _ h fun s hs a ha => hf a ha s hs

theorem State.MemoryOk.again (h : s.MemoryOk) (hf : ∀ s, s.MemoryOk → OutOk (f s)) : (State.again f s).MemoryOk :=
  .doing h fun s h => .precisely h (hf s h)

theorem State.MemoryOk.acceptAgain (h : s.MemoryOk) : (State.acceptAgain sl s).MemoryOk := by
  unfold State.acceptAgain
  refine .withSlot h (fun s h => ?_)
  split
  · exact .again h (fun s h => .eng h (fun a => .enqueue h))
  · exact .again h (fun s h => execTransferAccept_ok h)
  · exact .ite h (.waitev h)
  · exact .again (.unblock h) (fun s h => execSpawn_ok h)
  · exact .again (.ite (.updCx h) h) (fun s h => exec_ok h)
  · exact h

theorem State.MemoryOk.tendCtx {id : BitVec 32} (h : s.MemoryOk) : (State.tendCtx id s).MemoryOk := by
  unfold State.tendCtx
  split
  · exact h
  extract_lets sl s1 s2 steps
  have h2 : s2.MemoryOk := .leaveEnd (.tryStop (.doing (.drain h) fun _ h => execSaveComplete_ok h))
  have hsteps : ∀ f ∈ steps, ∀ s, s.MemoryOk → OutOk (f sl s) := by
    simp only [steps, List.forall_mem_cons]
    exact ⟨fun _ h => execFenceComplete_ok h, fun _ h => execBarwaitRelease_ok h, fun _ h => execJwaitReturn_ok h,
      fun _ h => execQueueWaitComplete_ok h, fun _ h => execHpopReturn_ok h, fun _ h => execEvwaitConsume_ok h,
      fun _ h => execSleepTimeout_ok h, fun _ h => execQuantumExpiry_ok h, fun _ h => execForcedSave_ok h, nofun⟩
  refine .ite h2 (.doing (.forEachMem h2 fun f hf s h => ?_) fun _ h => execWatchdog_ok h)
  exact .withSlot h fun s h => .again h (hsteps f hf)

theorem State.MemoryOk.tendEngine {en : EngineIx} (h : s.MemoryOk) : (State.tendEngine en s).MemoryOk := by
  unfold State.tendEngine
  extract_lets ended s1 cmds s2 trigs
  have h1 : s1.MemoryOk := .forEach h fun _ _ h => .doing h fun _ h => execJobCompletion_ok h
  have hcmds : ∀ f ∈ cmds, ∀ s, s.MemoryOk → OutOk (f en s) := by
    simp only [cmds, List.forall_mem_cons]
    exact ⟨fun _ h => execNop_ok h, fun _ h => execMma_ok h, fun _ h => execMmas_ok h, fun _ h => execMzero_ok h,
      fun _ h => execMlda_ok h, fun _ h => execMsta_ok h, fun _ h => execMcvt_ok h, fun _ h => execRed_ok h,
      fun _ h => execAdjb_ok h, fun _ h => execWrel_ok h, fun _ h => execCreplay_ok h, fun _ h => execCabort_ok h,
      fun _ h => execReshard_ok h, fun _ h => execRsresume_ok h, fun _ h => execRsquery_ok h,
          fun _ h => execBcopy_ok h,
      fun _ h => execBfill_ok h, fun _ h => execTcount_ok h, fun _ h => execTrig_ok h, nofun⟩
  have h2 : s2.MemoryOk := .forEachMem h1 fun f hf s h => .doing h (hcmds f hf)
  exact .flushCq (.forEach h2 fun _ _ h => .doing h fun _ h => execTrigFire_ok h)

theorem State.MemoryOk.tendCopies (h : s.MemoryOk) : (State.tendCopies cl s).MemoryOk :=
  .forEach h (fun _ _ h => .forEach h (fun _ _ h => .doing h (fun _ h => execCopySector_ok h)))

theorem State.MemoryOk.tendEngines (h : s.MemoryOk) : (s.tendEngines).MemoryOk := by
  unfold State.tendEngines
  simp only
  split
  · split
    · exact .forEach (.forEach (.forEach h (fun a s h => .tendEngine h)) (fun a s h => .tendCopies h)) (fun a s h =>
          .doing h (fun s h => execAswapExchange_ok h))
    · exact .doing (.forEach (.forEach (.forEach h (fun a s h => .tendEngine h)) (fun a s h => .tendCopies h))
          (fun a s h => .doing h (fun s h => execAswapExchange_ok h))) (fun s h => execBoxRowComplete_ok h)
  · exact .forEach (.forEach (.forEach h (fun a s h => .tendEngine h)) (fun a s h => .tendCopies h)) (fun a s h =>
        .doing h (fun s h => execAswapExchange_ok h))

theorem State.MemoryOk.tendQueues (h : s.MemoryOk) : (s.tendQueues).MemoryOk :=
  .drainRemotes (.forEach h (fun _ _ h => .servePeer h))

theorem State.MemoryOk.tendCores (h : s.MemoryOk) : (s.tendCores).MemoryOk :=
  .forEach h (fun _ _ h => .forEach (.doing (.doing h (fun _ h => execTrapRecordDelivery_ok h))
      (fun _ h => execHandlerInterrupt_ok h)) (fun _ _ h => .carryOut h))

theorem State.MemoryOk.tendRounds (h : s.MemoryOk) : (s.tendRounds).MemoryOk :=
  .forEach (.forEach h (fun _ _ h => .doing h (fun _ h => execGangbarRelease_ok h))) (fun _ _ h => .doing h
      (fun _ h => execSpanbarRelease_ok h))

theorem State.MemoryOk.tendBarista (h : s.MemoryOk) : (State.tendBarista cl s).MemoryOk := by
  unfold State.tendBarista
  simp only
  split
  · exact .forEach h (fun a s h => .doing h (fun s h => execBaristaTrapRecord_ok h))
  · exact .baristaPreempt (.baristaRejoin (.baristaBind (.forEach (.forEach (.forEach h (fun a s h => .doing h
        (fun s h => execBaristaTrapRecord_ok h))) (fun a s h => .ite (.preemptGang h) h)) (fun a s h => .ite (.doing h
            (fun s h => execAgingIntervalExpiry_ok h)) h))))

theorem State.MemoryOk.phaseItems {n : Nat} (h : s.MemoryOk) : (Machine.phaseItems n s).MemoryOk := by
  induction n generalizing s with
  | zero => exact h
  | succ n ih =>
    unfold Machine.phaseItems
    split
    · exact h
    · exact .ite h (ih (.xItem h))

theorem State.MemoryOk.tendExchange (h : s.MemoryOk) : (s.tendExchange).MemoryOk :=
  .doing (.doing (.phaseItems h) (fun _ h => execXgoReturn_ok h)) (fun _ h => execExchangeGrant_ok h)

theorem State.MemoryOk.tendNames (h : s.MemoryOk) : (s.tendNames).MemoryOk :=
  .forEach (.doing (.forEach h (fun _ _ h => .doing (.forEach h (fun _ _ h => .doing h
      (fun _ h => execNameInvalidation_ok h))) (fun _ h => execRevocationComplete_ok h)))
          (fun _ h => execTlbInvComplete_ok h)) (fun _ _ h => .doing h (fun _ h => execLinkRecoveryExpiry_ok h))

theorem State.MemoryOk.tendFaults (h : s.MemoryOk) : (s.tendFaults).MemoryOk :=
  .forEach h (fun _ _ h => .flushFault h)

theorem State.MemoryOk.tendLaunches (h : s.MemoryOk) : (s.tendLaunches).MemoryOk :=
  .forEach (.forEach h (fun _ _ h => .advanceLaunch h)) (fun _ _ h => .doing h (fun _ h => execGangPlacement_ok h))

theorem State.MemoryOk.tendKettle (h : s.MemoryOk) : (s.tendKettle).MemoryOk := by
  unfold State.tendKettle
  extract_lets used steps
  have hsteps : ∀ f ∈ steps, ∀ q s, s.MemoryOk → OutOk (f q s) := by
    simp only [steps, List.forall_mem_cons]
    exact ⟨fun _ _ h => execWaitPacketSatisfied_ok h, fun _ _ h => execWaitPacket_ok h,
      fun _ _ h => execSignalPacket_ok h, fun _ _ h => execFencePacket_ok h, fun _ _ h => execNopPacket_ok h, nofun⟩
  exact .forEach h fun q _ h => .forEachMem h fun f hf _ h => .doing h (hsteps f hf q)

theorem State.MemoryOk.background (h : s.MemoryOk) : (s.background).MemoryOk := by
  unfold State.background
  split
  · exact h
  · exact .forEach (.tendKettle (.tendLaunches (.tendFaults (.tendNames (.tendExchange (.tendRounds (.tendCores
        (.tendEngines (.tendQueues (.forEach (.forEach h (fun a s h => .tendCtx h)) (fun a s h =>
            .acceptAgain h))))))))))) (fun a s h => .tendBarista h)

theorem State.MemoryOk.tick (h : s.MemoryOk) : (s.tick).MemoryOk := by
  unfold State.tick
  split <;> exact h

theorem OutOk.onward (h : s.MemoryOk) : OutOk (s.onward) := by
  unfold State.onward
  split
  · exact .deliver h
  split
  · split
    · exact .turn h
    · exact .next (.of_eq (.background h) rfl rfl)
  · exact .next (.of_eq (.background h) rfl rfl)

theorem OutOk.proceed (h : s.MemoryOk) : OutOk (s.proceed) := by
  unfold State.proceed
  split
  · exact exec_ok h
  · exact .runItem h
  · exact .onward h

end

/-! ### The operations of Machine/Step.lean -/

section
theorem memoryOk_reset : State.reset.MemoryOk := ⟨rfl, .nil⟩

/-- Settles O60: the state after reset by evaluation; every step since each operation keeps the canonical form. -/
theorem memoryKept : Obligations.MemoryKept := by
  unfold Obligations.MemoryKept
  refine ⟨⟨memoryOk_reset, rfl, rfl, rfl, rfl, rfl, rfl, rfl, rfl, rfl, rfl, by decide, by decide⟩, fun s t h e => ?_⟩
  exact (OutOk.proceed h.tick).of_eq e

end

end Sys2Proof.Machine
end

section
/-!
Proofs of this sitting, CapabilityChecks: the checks of a dereference, cause by cause (O13).
-/
namespace Sys2Proof.Machine
set_option Elab.async false

/-! ### The checks of a dereference: an equation for each cause, and when none applies (R22, R120, R121) -/

section
variable {s : State} {a : Asid} {v : RegVal} {need : BitVec 12} {eff : Word} {n : Nat} {kinds : List (BitVec 3)}

theorem Cap.has_ofBits {x : W256} : (Cap.ofBits x).has need = true ↔ x.extractLsb' 240 12 &&& need = need :=
  beq_iff_eq

theorem State.capCheck_untagged (ht : v.tag = false) : s.capCheck a v need eff n = some .capTag := by
  simp [State.capCheck, ht]

theorem State.handleCheck_untagged (ht : v.tag = false) : s.handleCheck a v need kinds = some .capTag := by
  simp [State.handleCheck, ht]

section
variable (ht : v.tag = true)
include ht

theorem State.capCheck_sealed (hs : v.val.getLsbD 255 = true) : s.capCheck a v need eff n = some .capSealed := by
  simp only [State.capCheck, ht, show (Cap.ofBits v.val).sealed_ = true from hs]; rfl

theorem State.handleCheck_sealed (hs : v.val.getLsbD 255 = true) : s.handleCheck a v need kinds = some .capSealed := by
  simp only [State.handleCheck, ht, show (Cap.ofBits v.val).sealed_ = true from hs]; rfl

variable (hs : v.val.getLsbD 255 = false)
include hs

/-- What a tagged value that is not sealed must still pass. -/
theorem State.capCheck_plain : s.capCheck a v need eff n =
    if ¬ v.val.extractLsb' 240 12 &&& need = need then some .capPerm
    else if ¬ ((v.val.extractLsb' 64 64).toNat ≤ eff.toNat ∧ eff.toNat + n ≤ (v.val.extractLsb' 128 64).toNat) then
      some .capBounds
    else if s.openNode a (v.val.extractLsb' 192 24) (v.val.extractLsb' 216 24) = none then some .capStale else none := by
  have hb : (!(decide ((Cap.ofBits v.val).base.toNat ≤ eff.toNat) && decide (eff.toNat + n ≤ (Cap.ofBits v.val).limit.toNat)))
      = true ↔ ¬ ((v.val.extractLsb' 64 64).toNat ≤ eff.toNat ∧ eff.toNat + n ≤ (v.val.extractLsb' 128 64).toNat) := by
    rw [Bool.not_eq_true', ← Bool.not_eq_true, Bool.and_eq_true, decide_eq_true_iff, decide_eq_true_iff]; rfl
  simp only [State.capCheck, ht, show (Cap.ofBits v.val).sealed_ = false from hs, hb, ← Cap.has_ofBits, Bool.not_true,
    Bool.false_eq_true, if_false, Bool.not_eq_true', Bool.not_eq_true, Option.isNone_iff_eq_none]
  rfl

/-- What a tagged value that is not sealed must still pass in a form without bounds. -/
theorem State.handleCheck_plain : s.handleCheck a v need kinds =
    if ¬ (v.val.extractLsb' 240 12 &&& need = need ∧ v.val.extractLsb' 252 3 ∈ kinds) then some .capPerm
    else if s.openNode a (v.val.extractLsb' 192 24) (v.val.extractLsb' 216 24) = none then some .capStale else none := by
  simp only [State.handleCheck, ht, show (Cap.ofBits v.val).sealed_ = false from hs, ← Cap.has_ofBits, Bool.not_true,
    Bool.false_eq_true, if_false, Bool.or_eq_true, Bool.not_eq_true', List.contains_eq_mem, Bool.not_eq_true,
    decide_eq_false_iff_not, not_and_or, Option.isNone_iff_eq_none]
  rfl

end

theorem State.capCheck_eq_none : s.capCheck a v need eff n = none ↔
    v.tag = true ∧ v.val.getLsbD 255 = false ∧ v.val.extractLsb' 240 12 &&& need = need ∧
      ((v.val.extractLsb' 64 64).toNat ≤ eff.toNat ∧ eff.toNat + n ≤ (v.val.extractLsb' 128 64).toNat) ∧
      s.openNode a (v.val.extractLsb' 192 24) (v.val.extractLsb' 216 24) ≠ none := by
  cases ht : v.tag with
  | false => simp [State.capCheck_untagged ht]
  | true =>
    cases hs : v.val.getLsbD 255 with
    | true => simp [State.capCheck_sealed ht hs]
    | false =>
      rw [State.capCheck_plain ht hs]
      split_ifs <;> simp_all

theorem State.handleCheck_eq_none : s.handleCheck a v need kinds = none ↔
    v.tag = true ∧ v.val.getLsbD 255 = false ∧ v.val.extractLsb' 240 12 &&& need = need ∧
      v.val.extractLsb' 252 3 ∈ kinds ∧ s.openNode a (v.val.extractLsb' 192 24) (v.val.extractLsb' 216 24) ≠ none := by
  cases ht : v.tag with
  | false => simp [State.handleCheck_untagged ht]
  | true =>
    cases hs : v.val.getLsbD 255 with
    | true => simp [State.handleCheck_sealed ht hs]
    | false =>
      rw [State.handleCheck_plain ht hs]
      split_ifs <;> simp_all

end

/-- Settles O13: the two checks are chains of their conditions, in the order of R22. -/
theorem capabilityChecks : Obligations.CapabilityChecks := by
  unfold Obligations.CapabilityChecks
  intro s a v need eff n kinds right within live kindOk
  have hlive (hl : ¬ live) : s.openNode a (v.val.extractLsb' 192 24) (v.val.extractLsb' 216 24) = none := not_not.1 hl
  refine ⟨State.capCheck_eq_none, fun ht => ⟨State.capCheck_untagged ht, State.handleCheck_untagged ht⟩,
    fun ht hs => ⟨State.capCheck_sealed ht hs, State.handleCheck_sealed ht hs⟩, fun ht hs hr => ?_, fun ht hs hr hw => ?_,
    fun ht hs hr hw hl => ?_, State.handleCheck_eq_none, fun ht hs hk => ?_, fun ht hs hr hk hl => ?_⟩
  · rw [State.capCheck_plain ht hs, if_pos hr]
  · rw [State.capCheck_plain ht hs, if_neg (not_not.2 hr), if_pos hw]
  · rw [State.capCheck_plain ht hs, if_neg (not_not.2 hr), if_neg (not_not.2 hw), if_pos (hlive hl)]
  · rw [State.handleCheck_plain ht hs, if_pos hk]
  · rw [State.handleCheck_plain ht hs, if_neg (not_not.2 ⟨hr, hk⟩), if_pos (hlive hl)]

end Sys2Proof.Machine
end

section
/-!
Proofs of this sitting, StepRunsDecoded: a turn issues the unit that the words at the program counter decode to (O57).
-/
namespace Sys2Proof.Machine
set_option Elab.async false

/-! ### The turn of a slot and the unit it issues (R10, R11, R76, R80, R150) -/

section
variable {s : State} {sl : SlotId}

theorem State.tick_eq (s : State) : ∃ cycle pace, s.tick = { s with cycle := cycle, pace := pace } := by
  unfold State.tick
  split
  · rename_i h
    exact ⟨_, [], by rw [← h]⟩
  · exact ⟨_, _, rfl⟩

theorem State.proceed_turn (rest : List AgendaItem) (hwrites : s.pkgWrites = []) (hagenda : s.agenda = .turn sl :: rest) :
    s.proceed = State.turnDue { s with agenda := rest } sl := by
  unfold State.proceed
  rw [hwrites, hagenda]
  rfl

theorem State.turnDue_of_first (h : s.firstSlot (s.allCtxs.filter fun k => k.ready && k.core == sl.core) = some sl) :
    s.turnDue sl = s.turn sl := by
  unfold State.turnDue
  rw [h]
  simp

theorem State.turn_current (hbound : s.boundAt sl = some s.cx.id) (hrun : s.coresRun = true) (hready : s.cx.ready = true) :
    s.turn sl = State.issue { s with cur := sl } := by
  unfold State.turn
  rw [hbound]
  dsimp only
  rw [State.focus_current]
  exact if_pos (by simp [hready, show State.coresRun { s with cur := sl } = true from hrun])

/-- A turn that the environment gives to the ready slot which comes first in its core's round is that slot's issue. -/
theorem step_eq_issue {rest : List AgendaItem} (hagenda : s.agenda = .turn sl :: rest) (hwrites : s.pkgWrites = [])
    (hbound : s.boundAt sl = some s.cx.id) (hrun : s.coresRun = true) (hready : s.cx.ready = true)
    (hfirst : State.firstSlot { s.tick with agenda := rest } ((State.allCtxs { s.tick with agenda := rest }).filter
      fun k => k.ready && k.core == sl.core) = some sl) :
    step s = State.issue { s.tick with agenda := rest, cur := sl } := by
  obtain ⟨cycle, pace, htick⟩ := s.tick_eq
  unfold step
  rw [State.proceed_turn rest (by rw [htick]; exact hwrites) (by rw [htick]; exact hagenda),
    State.turnDue_of_first hfirst, State.turn_current]
  all_goals rw [htick]; assumption

theorem State.precisely_of_no_window {o : Out} (h : s.cx.pend = []) : s.precisely o = o := by
  unfold State.precisely
  split
  · simp [h]
  · rfl

theorem State.conflict_nil {i : IUnit} (h : s.cx.pend = []) : s.conflict i = none := by
  unfold State.conflict
  simp [h]

theorem State.missingQuad_eq_none {qs : List (BitVec 4)} (h : qs.all (fun q => s.cx.qcached &&& quadBit q != 0) = true) :
    s.missingQuad qs = none := by
  unfold State.missingQuad
  simpa [bne] using h

theorem guardQuads_subset_unitQuads {i : IUnit} {q : BitVec 4} (h : q ∈ guardQuads i.guard) : q ∈ unitQuads i := by
  unfold guardQuads at h
  obtain ⟨r, hr, rfl⟩ := List.mem_map.1 h
  have hlt : r < 64 := by
    cases hg : i.guard with
    | none => simp [hg, guardRegs] at hr
    | some g =>
      rw [hg, guardRegs, List.mem_singleton] at hr
      exact hr ▸ g.reg.isLt
  unfold unitQuads
  rw [List.mem_eraseDups]
  exact List.mem_map.2 ⟨r, List.mem_filter.2 ⟨by simp [hr], by simpa using hlt⟩, rfl⟩

theorem State.cx_useQuads {qs : List (BitVec 4)} : (qs.foldl State.useQuad s).cx = s.cx := by
  induction qs generalizing s with
  | nil => rfl
  | cons q qs ih => exact ih

theorem State.issueUnit_off {i : IUnit} (hpend : s.cx.pend = []) (hguard : s.guardHolds i.guard = false)
    (hquads : (guardQuads i.guard).all (fun q => s.cx.qcached &&& quadBit q != 0) = true) :
    s.issueUnit i = .next (((guardQuads i.guard).foldl State.useQuad s).passOver i.instr) := by
  unfold State.issueUnit
  simp only [State.conflict_nil hpend, State.missingQuad_eq_none hquads, hguard, Bool.not_false, if_true]

theorem State.issueUnit_on {i : IUnit} {go : State} (hpend : s.cx.pend = []) (hlate : s.cx.late = [])
    (hguard : s.guardHolds i.guard = true)
    (hquads : (unitQuads i).all (fun q => s.cx.qcached &&& quadBit q != 0) = true)
    (hgo : ((unitQuads i).foldl State.useQuad s).prepare i.instr = (true, go)) :
    s.issueUnit i = exec i.instr go.countUnit := by
  have hguards : (guardQuads i.guard).all (fun q => s.cx.qcached &&& quadBit q != 0) = true :=
    List.all_eq_true.2 fun q hq => List.all_eq_true.1 hquads q (guardQuads_subset_unitQuads hq)
  have hlate' : ((unitQuads i).foldl State.useQuad s).cx.late = [] := by rw [State.cx_useQuads, hlate]
  unfold State.issueUnit
  simp only [State.conflict_nil hpend, State.missingQuad_eq_none hguards, hguard, Bool.not_true, Bool.false_eq_true, if_false,
    State.missingQuad_eq_none hquads, State.takeLate_nil _ _ hlate', hgo]

/-! ### What is fetched (R76, R157) -/

theorem State.readTarget_bytes_plain {key n : Nat} {tags : Bool} : (s.readTarget {} (.bytes key tags) n).1 = s.bytes key n := by
  simp [State.readTarget, overlay]

theorem State.fetchWord_error {pc v : Word} {cause : Cause} (h : s.accessAt s.cx ⟨s.cx.pcCap, s.cx.pcTag⟩ permX pc
    { acc := .fetch, n := 4, size := .b32, strong := true } = .error (cause, v)) : s.fetchWord pc = .error cause := by
  unfold State.fetchWord
  rw [h]

theorem State.fetchWord_bytes {pc : Word} {key : Nat} {tags : Bool} {u : State} (h : s.accessAt s.cx
    ⟨s.cx.pcCap, s.cx.pcTag⟩ permX pc { acc := .fetch, n := 4, size := .b32, strong := true } = .ok (.bytes key tags, u)) :
    s.fetchWord pc = .ok (u.nat key 4, u) := by
  unfold State.fetchWord
  rw [h]
  simp only [State.readTarget_bytes_plain]
  rfl

theorem State.fetchUnit_fault {cause : Cause} (h : s.fetchWord s.cx.pc = .error cause) :
    s.fetchUnit = (1, .fault cause s.cx.pc, s) := by
  unfold State.fetchUnit State.fetchFrom
  rw [h]
  rfl

section
variable {w : Nat} {u : State} (h : s.fetchWord s.cx.pc = .ok (w, u))
include h

theorem State.fetchUnit_illegal {x : Nat} (hw : decodeUnit [w] = .illegal x) : s.fetchUnit = (1, .illegal x, u) := by
  unfold State.fetchUnit State.fetchFrom
  rw [h]
  simp [hw]

theorem State.fetchUnit_done {i : IUnit} (hw : decodeUnit [w] = .done i) : s.fetchUnit = (1, .unit i, u) := by
  unfold State.fetchUnit State.fetchFrom
  rw [h]
  simp [hw]

end

/-- The state in which a unit of `n` words that starts at the program counter is noted (R76). -/
def State.noted (u : State) (n : Nat) (x : Fetched) : State := u.updCx fun c => { c with unit := unitInfo c.pc n x }

/-- What the fetched words of a unit lead to once nothing else comes first: a trap, or the unit's issue (R76, R157). -/
def State.runFetched (s : State) : Fetched → Out
  | .fault c addr => .next (s.takeTrap c addr)
  | .illegal w => .next (s.takeTrap .illegal (.ofNat 64 w))
  | .unit i => s.issueUnit i

/-- With nothing to serve first, no window open and no late fault, the slot goes on to what it has fetched. -/
theorem State.issue_eq {n : Nat} {x : Fetched} {u : State} (hfreeze : s.cx.freezeReq = false) (hkill : s.cx.killReq = none)
    (hpreempt : s.cx.preempt = false) (hint : s.cx.handler = false ∨ s.cx.ie = false ∨ s.interruptDue s.cur = false)
    (hfetch : s.fetchUnit = (n, x, u)) (hpend : u.cx.pend = []) (hlate : u.cx.late = []) :
    s.issue = (u.noted n x).runFetched x := by
  have hint' : (s.cx.handler && s.cx.ie && s.interruptDue s.cur) = false := by
    rcases hint with h | h | h <;> simp [h]
  have hpend' : (u.noted n x).cx.pend = [] := hpend
  have hlate' (p : LateFault → Bool) : (u.noted n x).takeLate p = none := State.takeLate_nil _ p hlate
  unfold State.issue
  simp only [hfreeze, hkill, hpreempt, hint', hfetch, Option.isSome_none, Bool.or_false, Bool.false_and, Bool.false_eq_true,
    if_false]
  change (match (u.noted n x).closeWindows with
    | (false, s) => _
    | (true, s) => _) = _
  rw [State.closeWindows_nil _ hpend']
  dsimp only
  rw [State.precisely_of_no_window hpend', hlate']
  cases x <;> rfl

end

/-- Settles O57: the step is the issue of the slot that has its turn, and the issue runs what its words decode to. -/
theorem stepRunsDecoded : Obligations.StepRunsDecoded := by
  unfold Obligations.StepRunsDecoded
  intro s sl rest c hagenda hbound hbooted hrecovery hres hwait hrun hfreeze hkill hpreempt hpend hlate hwrites g f hfirst hint
    pc noted fetch
  have hready : s.cx.ready = true := by
    show (c.res == .bound && c.wait == .none && c.run == .ready) = true
    rw [hres, hwait, hrun]
    rfl
  have hcores : s.coresRun = true := by simp [State.coresRun, hbooted, hrecovery]
  have hcx : f.cx = c := by
    obtain ⟨cycle, pace, htick⟩ := s.tick_eq
    show s.tick.cx = s.cx
    rw [htick]
  have hstep {n : Nat} {x : Fetched} {u : State} (hfetch : f.fetchUnit = (n, x, u)) (hu : u.cx = c) :
      step s = (noted u n x).runFetched x := by
    refine (step_eq_issue hagenda hwrites hbound hcores hready hfirst).trans
      ((State.issue_eq ?_ ?_ ?_ ?_ hfetch ?_ ?_).trans ?_)
    · rw [hcx]; exact hfreeze
    · rw [hcx]; exact hkill
    · rw [hcx]; exact hpreempt
    · rw [hcx]; exact hint
    · rw [hu]; exact hpend
    · rw [hu]; exact hlate
    · show (u.updCx fun k => { k with unit := unitInfo u.cx.pc n x }).runFetched x = _
      rw [hu]
      rfl
  have hunit {n : Nat} {i : IUnit} {u : State} (hfetch : f.fetchUnit = (n, .unit i, u)) (hu : u.cx = c) :
      ((noted u n (.unit i)).guardHolds i.guard = false →
        (guardQuads i.guard).all (fun q => c.qcached &&& quadBit q != 0) = true →
        step s = .next (((guardQuads i.guard).foldl State.useQuad (noted u n (.unit i))).passOver i.instr)) ∧
      ((noted u n (.unit i)).guardHolds i.guard = true → (unitQuads i).all (fun q => c.qcached &&& quadBit q != 0) = true →
        ∀ go, ((unitQuads i).foldl State.useQuad (noted u n (.unit i))).prepare i.instr = (true, go) →
        step s = exec i.instr go.countUnit) := by
    have hp : (noted u n (.unit i)).cx.pend = [] := by show u.cx.pend = []; rw [hu]; exact hpend
    have hl : (noted u n (.unit i)).cx.late = [] := by show u.cx.late = []; rw [hu]; exact hlate
    have hq : (noted u n (.unit i)).cx.qcached = c.qcached := by show u.cx.qcached = _; rw [hu]
    rw [hstep hfetch hu]
    exact ⟨fun hg hquads => State.issueUnit_off hp hg (by rw [hq]; exact hquads),
      fun hg hquads go hgo => State.issueUnit_on hp hl hg (by rw [hq]; exact hquads) hgo⟩
  have hpc : f.cx.pc = pc := by rw [hcx]
  have haccess {r : Except Bad (Target × State)} (hf : fetch pc = r) : f.accessAt f.cx ⟨f.cx.pcCap, f.cx.pcTag⟩ permX
      f.cx.pc { acc := .fetch, n := 4, size := .b32, strong := true } = r := by
    rw [hcx]
    exact hf
  refine ⟨fun cause v hf => ?_, fun key tags u hf hu => ⟨fun x hw => ?_, fun i hw => ?_⟩,
    fun n u i hfetch hu => ⟨rfl, ?_⟩⟩
  · have hfault := State.fetchUnit_fault (State.fetchWord_error (haccess hf))
    rw [hpc] at hfault
    exact hstep hfault hcx
  · exact hstep (State.fetchUnit_illegal (State.fetchWord_bytes (haccess hf)) hw) hu
  · exact hunit (State.fetchUnit_done (State.fetchWord_bytes (haccess hf)) hw) hu
  · exact hunit hfetch hu

end Sys2Proof.Machine
end

section
/-!
Proofs of this sitting, HostSteps: what the host and the driver do, an equation for each case (O50).
-/
namespace Sys2Proof.Machine
set_option Elab.async false

/-! ### What the host does: an equation for each step and case (R221, R390, R412, R418, R422, R443, R446, R453) -/

section
variable {s : State}

theorem State.answering_recovery {o : Out} (h : s.recovery = true) : s.answering o = .next s := by
  unfold State.answering; rw [if_pos h]

theorem State.answering_running {o : Out} (h : s.recovery = false) : s.answering o = o := by
  unfold State.answering; rw [h]; rfl

/-! #### Memory (R14, R221) -/

theorem State.bytes_homeWrite_same {pa : Nat} {bs : List Byte} : (s.homeWrite pa bs).bytes pa bs.length = bs :=
  Memory.bytes_write_same _ _ _

theorem State.byte_homeWrite_out {pa x : Nat} {bs : List Byte} (h : x < pa ∨ pa + bs.length ≤ x) :
    Memory.byte (s.homeWrite pa bs).mem x = Memory.byte s.mem x := Memory.byte_write_out _ _ _ _ h

/-- Where no L2 holds a modified line, the vault has the bytes that the package sees. -/
theorem State.vaultByte_clean {x : Nat} (h : s.dirty = []) : s.vaultByte x = Memory.byte s.mem x := by
  unfold State.vaultByte; rw [h]; rfl

theorem execHostReadOfPackage_clean {pa n : Nat} (hrec : s.recovery = false) (hin : pa + n ≤ 2 ^ 39) (h : s.dirty = []) :
    execHostReadOfPackage pa n s = .next (s.tell (.readData pa (s.bytes pa n))) := by
  unfold execHostReadOfPackage
  rw [State.answering_running hrec, if_neg (Nat.not_lt.2 hin)]
  simp only [State.vaultByte_clean h]
  rfl

/-! #### Functions and queues (R444, R446) -/

theorem State.fnFrozen_setFrozen {fn : FnIx} {b : Bool} (h : fn.toNat < 65) : (s.setFrozen fn b).fnFrozen fn = b := by
  unfold State.fnFrozen State.setFrozen
  rw [dif_pos h, dif_pos h]
  exact Vector.getElem_set_self _

theorem State.lt_of_fnFrozen {fn : FnIx} (h : s.fnFrozen fn = true) : fn.toNat < 65 := by
  by_contra hn
  rw [State.fnFrozen, dif_neg hn] at h
  cases h

theorem State.queues_setFrozen {fn : FnIx} {b : Bool} : (s.setFrozen fn b).queues = s.queues := by
  unfold State.setFrozen; split <;> rfl

theorem State.fnFrozen_freezeFn {fn : FnIx} (h : fn.toNat < 65) : (s.freezeFn fn).fnFrozen fn = true :=
  State.fnFrozen_setFrozen h

theorem State.queues_freezeFn {fn : FnIx} (i : Fin 32) : (s.freezeFn fn).queues[i] =
    if s.queues[i].fn = fn then { s.queues[i] with state := 3 } else s.queues[i] := by
  unfold State.freezeFn
  simp only [State.queues_setFrozen]
  exact Vector.getElem_map _ _

theorem State.releaseFn_running {fn : FnIx} (h : s.fnFrozen fn = false) : s.releaseFn fn = s := by
  unfold State.releaseFn; rw [h]; rfl

theorem State.fnFrozen_releaseFn {fn : FnIx} (h : s.fnFrozen fn = true) : (s.releaseFn fn).fnFrozen fn = false := by
  unfold State.releaseFn
  rw [h]
  exact State.fnFrozen_setFrozen (State.lt_of_fnFrozen h)

theorem State.queues_releaseFn {fn : FnIx} (h : s.fnFrozen fn = true) (i : Fin 32) : (s.releaseFn fn).queues[i] =
    if s.queues[i].fn = fn ∧ s.queues[i].state = 3 then { s.queues[i] with state := 0 } else s.queues[i] := by
  unfold State.releaseFn
  rw [h]
  simp only [Bool.not_true, Bool.false_eq_true, if_false, State.queues_setFrozen]
  exact Vector.getElem_map _ _

section
variable {fn : FnIx} {q : BitVec 5} {v : Word} (hrec : s.recovery = false)
include hrec

theorem execKqTailWrite_disabled (h : s.pkg.vfs.toNat < fn.toNat) : execKqTailWrite fn q v s = .next s := by
  unfold execKqTailWrite
  simp only [State.answering_running hrec, if_pos h]

variable (hvf : fn.toNat ≤ s.pkg.vfs.toNat)
include hvf

theorem execKqTailWrite_foreign (h0 : fn ≠ 0) (h : (s.kq q).fn ≠ fn) :
    execKqTailWrite fn q v s = .next (s.freezeFn fn) := by
  unfold execKqTailWrite
  simp only [State.answering_running hrec, if_neg (Nat.not_lt.2 hvf), if_pos (And.intro h0 h)]

theorem execKqTailWrite_owner (h : fn = 0 ∨ (s.kq q).fn = fn) : execKqTailWrite fn q v s =
    if (s.kq q).size < (v.setWidth 32 - (s.kq q).tail).toNat ∨ (s.kq q).size < (v.setWidth 32 - (s.kq q).head).toNat then
      .next ((s.updKq q fun k => { k with state := 1 }).tell (.msix (s.kq q).fn (q.toNat + 1)))
    else .next (s.updKq q fun k => { k with tail := v.setWidth 32 }) := by
  have hown : ¬ (fn ≠ 0 ∧ (s.kq q).fn ≠ fn) := fun hn => h.elim hn.1 hn.2
  unfold execKqTailWrite
  simp only [State.answering_running hrec, if_neg (Nat.not_lt.2 hvf), if_neg hown]

end

/-! #### Engines and measurements (R412, R453) -/

theorem execMeasExtend_refused {fn : FnIx} {m : BitVec 3} {digest : BitVec 384}
    (h : fn ≠ 0 ∨ m.toNat < 5 ∨ s.recovery = true) : execMeasExtend fn m digest s = .next s := by
  unfold execMeasExtend; rw [if_pos h]

theorem execMeasExtend_accepted (m : BitVec 3) {digest : BitVec 384} (hrec : s.recovery = false) (h : ¬ m.toNat < 5) :
    let new := sha384Bits (toBytes (s.pkg.meas[m.toNat]'m.isLt).toNat 48 ++ toBytes digest.toNat 48)
    execMeasExtend 0 m digest s = .next { s with pkg := { s.pkg with meas := s.pkg.meas.set m.toNat new m.isLt } } := by
  unfold execMeasExtend
  exact if_neg (by simp [h, hrec])

theorem execEngThaw_unnamed {v : Word} (hrec : s.recovery = false)
    (h : 156 < (v.extractLsb' 0 8).toNat ∨ v.extractLsb' 17 47 ≠ 0) : execEngThaw v s = .next s := by
  unfold execEngThaw
  simp only [field, State.answering_running hrec]
  refine if_pos ?_
  rw [Bool.or_eq_true, bne_iff_ne]
  exact h.imp_left decide_eq_true

theorem execEngThaw_named {v : Word} (hrec : s.recovery = false) (he : (v.extractLsb' 0 8).toNat ≤ 156)
    (hz : v.extractLsb' 17 47 = 0) : execEngThaw v s = .next (s.updEngine (v.extractLsb' 0 8) fun g =>
      { g with frozen := g.frozen.filter fun x => x != v.extractLsb' 8 9 }) := by
  unfold execEngThaw
  simp only [field, State.answering_running hrec]
  refine if_neg ?_
  rw [Bool.or_eq_true, bne_iff_ne]
  exact fun hn => hn.elim (fun hlt => Nat.not_lt.2 he (of_decide_eq_true hlt)) fun hz' => hz' hz

/-! #### fq.done (R422) -/

theorem execFqDone_unknown {v : Word} (hrec : s.recovery = false)
    (h : s.faults.find? (fun r => r.written && r.index == v.extractLsb' 0 24) = none) : execFqDone v s = .next s := by
  unfold execFqDone
  simp only [field, State.answering_running hrec, h]

theorem execFqDone_known {v : Word} {r : FaultRec} (hrec : s.recovery = false)
    (h : s.faults.find? (fun r => r.written && r.index == v.extractLsb' 0 24) = some r) :
    execFqDone v s = .next (State.faultAnswered { s with faults := s.faults.erase r } r (!v.getLsbD 63)) := by
  unfold execFqDone
  simp only [field, State.answering_running hrec, h]

theorem State.faultAnswered_frozen {r : FaultRec} {id : BitVec 32} {pc : Word} {c : Ctx} (hw : r.waiter = .ctx id pc)
    (hc : s.getCtx id = some c) (hrun : c.run = .frozen) :
    s.faultAnswered r true = (s.thaw id pc).noteReady s c.gang := by
  unfold State.faultAnswered
  simp only [hw, hc, hrun]
  rfl

theorem State.updCtx_faults {id : BitVec 32} {f : Ctx → Ctx} : (s.updCtx id f).faults = s.faults := by
  unfold State.updCtx; split <;> rfl

/-- A change of a context that keeps its identity is what its identity then finds. -/
theorem State.getCtx_updCtx (s : State) {id : BitVec 32} {f : Ctx → Ctx} {c : Ctx} (h0 : id ≠ 0) (hf : ∀ c, (f c).id = c.id)
    (h : s.getCtx id = some c) : (s.updCtx id f).getCtx id = some (f c) := by
  unfold State.getCtx State.allCtxs at h ⊢
  unfold State.updCtx
  by_cases hcur : s.cx.id = id
  · rw [if_pos hcur]
    rw [if_neg (hcur ▸ h0), List.find?_cons_of_pos (by simpa using hcur)] at h
    rw [if_neg (by simpa [hf, hcur] using h0), List.find?_cons_of_pos (by simpa [hf] using hcur), Option.some.inj h]
  · rw [if_neg hcur]
    have hrest : s.ctxs.find? (fun c => c.id == id) = some c := by
      by_cases hnone : s.cx.id = 0
      · rwa [if_pos hnone] at h
      · rwa [if_neg hnone, List.find?_cons_of_neg (by simpa using hcur)] at h
    have hmap : (s.ctxs.map fun c => if c.id = id then f c else c).find? (fun c => c.id == id) = some (f c) := by
      rw [List.find?_map]
      have hid : ((fun c : Ctx => c.id == id) ∘ fun c => if c.id = id then f c else c) = fun c => c.id == id := by
        funext k
        by_cases hk : k.id = id <;> simp [hk, hf]
      have hcid : c.id = id := by simpa using List.find?_some hrest
      rw [hid, hrest, Option.map_some, if_pos hcid]
    by_cases hnone : s.cx.id = 0
    · exact (congrArg _ (if_pos hnone)).trans hmap
    · exact (congrArg _ (if_neg hnone)).trans ((List.find?_cons_of_neg (by simpa using hcur)).trans hmap)

/-! #### tlb.inv (R418) -/

/-- The contexts apart, and a pending memory error that a load may have taken: what settling accesses may change where no
store is queued. -/
def SameButCtxs (s t : State) : Prop :=
  t = { s with cx := t.cx, ctxs := t.ctxs, cur := t.cur, memErr := t.memErr }

/-- No context has a queued store or an open window. -/
def State.Quiet (s : State) : Prop := ∀ c ∈ s.allCtxs, c.storeQ = [] ∧ c.pend = []

theorem SameButCtxs.trans {t u : State} (h : SameButCtxs s t) (k : SameButCtxs t u) : SameButCtxs s u := by
  unfold SameButCtxs at *
  rw [k, h]

theorem State.mem_of_getCtx {id : BitVec 32} {c : Ctx} (h : s.getCtx id = some c) : c ∈ s.allCtxs :=
  List.mem_of_find?_eq_some h

theorem State.focus_sameButCtxs {id : BitVec 32} {sl : SlotId} : SameButCtxs s (s.focus id sl) := by
  unfold State.focus
  split
  · rfl
  · split <;> rfl

theorem State.eq_or_mem_of_allCtxs {c : Ctx} (h : c ∈ s.allCtxs) : c = s.cx ∨ c ∈ s.ctxs := by
  unfold State.allCtxs at h
  split at h
  · exact .inr h
  · exact List.mem_cons.1 h

theorem State.allCtxs_of_mem {c : Ctx} (h : c ∈ s.ctxs) : c ∈ s.allCtxs := by
  unfold State.allCtxs
  split
  · exact h
  · exact List.mem_cons_of_mem _ h

theorem State.allCtxs_focus {id : BitVec 32} {sl : SlotId} {c : Ctx} (h : c ∈ (s.focus id sl).allCtxs) :
    c ∈ s.allCtxs := by
  unfold State.focus at h
  split at h
  · exact h
  · split at h
    · exact h
    · rename_i k hk
      rcases State.eq_or_mem_of_allCtxs h with rfl | hc
      · exact State.allCtxs_of_mem (List.mem_of_find?_eq_some hk)
      · exact (List.mem_filter.1 hc).1

theorem State.resolvePend_frame (s : State) (i : Nat) :
    (s.resolvePend i).cx.id = s.cx.id ∧ (s.resolvePend i).ctxs = s.ctxs ∧ SameButCtxs s (s.resolvePend i) := by
  have hwrite (p : Pending) (v : RegVal) :
      (s.pendWrite p v).cx.id = s.cx.id ∧ (s.pendWrite p v).ctxs = s.ctxs ∧ SameButCtxs s (s.pendWrite p v) := by
    unfold State.pendWrite
    split
    · exact ⟨Ctx.setReg_id _ _ _, rfl, rfl⟩
    · exact ⟨rfl, rfl, rfl⟩
  have hsettle {u : State} (g : Ctx → Ctx) (hg : ∀ c, (g c).id = c.id)
      (h : u.cx.id = s.cx.id ∧ u.ctxs = s.ctxs ∧ SameButCtxs s u) :
      (u.updCx g).cx.id = s.cx.id ∧ (u.updCx g).ctxs = s.ctxs ∧ SameButCtxs s (u.updCx g) :=
    ⟨(hg _).trans h.1, h.2.1, h.2.2.trans rfl⟩
  unfold State.resolvePend
  split
  · exact ⟨rfl, rfl, rfl⟩
  · dsimp only
    split
    · exact hsettle _ (fun _ => rfl) (hwrite _ _)
    · split
      · exact hsettle _ (fun _ => rfl) ⟨rfl, rfl, rfl⟩
      · exact hsettle _ (fun _ => rfl) (hwrite _ _)
    · split
      · exact hsettle _ (fun _ => rfl) ⟨rfl, rfl, rfl⟩
      · exact hsettle _ (fun _ => rfl) (hwrite _ _)
    all_goals exact ⟨rfl, rfl, rfl⟩

theorem State.resolveAll_frame (s : State) :
    s.resolveAll.cx.id = s.cx.id ∧ s.resolveAll.ctxs = s.ctxs ∧ SameButCtxs s s.resolveAll := by
  unfold State.resolveAll
  generalize List.range s.cx.pend.length = is
  induction is generalizing s with
  | nil => exact ⟨rfl, rfl, rfl⟩
  | cons i is ih =>
    obtain ⟨hid, hctxs, hsame⟩ := s.resolvePend_frame i
    obtain ⟨hid', hctxs', hsame'⟩ := ih (s.resolvePend i)
    exact ⟨hid'.trans hid, hctxs'.trans hctxs, hsame.trans hsame'⟩

theorem State.Quiet.focus {id : BitVec 32} {sl : SlotId} (h : s.Quiet) : (s.focus id sl).Quiet :=
  fun c hc => h c (State.allCtxs_focus hc)

theorem State.Quiet.resolveAll (h : s.Quiet) : s.resolveAll.Quiet := by
  by_cases hnone : s.cx.id = 0
  · obtain ⟨hid, hctxs, -⟩ := s.resolveAll_frame
    have hall : s.resolveAll.allCtxs = s.allCtxs := by
      unfold State.allCtxs
      rw [if_pos hnone, if_pos (hid.trans hnone), hctxs]
    intro c hc
    exact h c (hall ▸ hc)
  · have hcur : s.cx ∈ s.allCtxs := by
      unfold State.allCtxs
      rw [if_neg hnone]
      exact List.mem_cons_self
    rwa [s.resolveAll_nil (h _ hcur).2]

theorem State.Quiet.asCtx (h : s.Quiet) (id : BitVec 32) :
    (s.asCtx id State.resolveAll).Quiet ∧ SameButCtxs s (s.asCtx id State.resolveAll) := by
  unfold State.asCtx
  split
  · exact ⟨h, rfl⟩
  · exact ⟨h.focus.resolveAll.focus,
      (State.focus_sameButCtxs.trans (State.resolveAll_frame _).2.2).trans State.focus_sameButCtxs⟩

theorem State.Quiet.settle (h : s.Quiet) (ids : List (BitVec 32)) : (s.settle ids).Quiet ∧ SameButCtxs s (s.settle ids) := by
  unfold State.settle
  induction ids generalizing s with
  | nil => exact ⟨h, rfl⟩
  | cons id ids ih =>
    obtain ⟨hquiet, hsame⟩ := h.asCtx id
    rw [List.foldl_cons, State.drain_nil _ _ fun c hc => (hquiet c (State.mem_of_getCtx hc)).1]
    exact ⟨(ih hquiet).1, hsame.trans (ih hquiet).2⟩

theorem State.Quiet.no_memAccessLeft {ids : List (BitVec 32)} (h : s.Quiet) :
    (ids.filterMap s.getCtx).any s.memAccessLeft = false := by
  rw [List.any_eq_false]
  intro c hc
  obtain ⟨id, -, hid⟩ := List.mem_filterMap.1 hc
  obtain ⟨hstore, hpend⟩ := h c (State.mem_of_getCtx hid)
  simp [State.memAccessLeft, hstore, hpend]

/-- The TLBs without the entries that an invalidation names (R418). -/
def State.tlbDrop (s : State) (x : Word) : State :=
  { s with clusters := s.clusters.map fun y => (y.1, { y.2 with tlb := y.2.tlb.filter fun e => !e.matches x })
           cores := s.cores.map fun y => (y.1, { y.2 with tlb := y.2.tlb.filter fun e => !e.matches x }) }

theorem execTlbInvComplete_cons {x : Word} {rest : List Word} (h : s.tlbInvs = x :: rest) (hquiet : s.Quiet) :
    ∃ u, SameButCtxs (s.tlbDrop x) u ∧ execTlbInvComplete s =
      .next { u with tlbInvs := rest, pkg := { u.pkg with tlbDone := u.pkg.tlbDone + 1 } } := by
  have hdrop : (s.tlbDrop x).Quiet := hquiet
  let ids := (s.tlbDrop x).ctxsOf (if x.getLsbD 10 then none else some (field x 0 9)) none
  obtain ⟨hq, hsame⟩ := hdrop.settle ids
  refine ⟨_, hsame, ?_⟩
  unfold execTlbInvComplete
  split
  · rename_i hnil
    rw [hnil] at h
    cases h
  · rename_i y rest' hcons
    obtain ⟨rfl, rfl⟩ := List.cons.inj (h.symm.trans hcons)
    exact if_neg (Bool.not_eq_true _ ▸ hq.no_memAccessLeft)

end

/-- Settles O50: each step is its case's equation. -/
theorem hostSteps : Obligations.HostSteps := by
  unfold Obligations.HostSteps
  intro s v fn q n num pa bytes digest prg k setPkg setKq
  refine ⟨fun hrec i hi => ?_, rfl, rfl, rfl, fun hrec => ?_, fun h => ?_, fun x rest hx hquiet => ?_⟩
  · have hstill (o : Out) : s.answering o = .next s := State.answering_recovery hrec
    simp only [List.mem_cons, List.not_mem_nil, or_false] at hi
    rcases hi with rfl | rfl | rfl | rfl | rfl | rfl | rfl | rfl | rfl | rfl
    case inr.inr.inr.inr.inr.inr.inr.inl => exact execMeasExtend_refused (.inr (.inr hrec))
    all_goals exact hstill _
  · have hrun (o : Out) : s.answering o = o := State.answering_running hrec
    refine ⟨fun h => ?_, fun h => ?_, fun h => ?_, fun h hd => ?_, fun m hm => ?_, ?_, ?_, ?_, ?_, ?_, ?_, ?_, fun hv => ?_, ?_,
      ⟨fun h => ?_, fun he hz => ?_⟩, fun h => ?_, fun r id pc c hr hw hid hc hfrozen hv => ?_, fun h => ?_,
      fun h h0 hown hlt => ?_, fun h hown => ⟨fun hover => ?_, fun htail hhead => ?_⟩, ?_, fun h => ?_, fun h => ?_,
      fun h m => ?_, fun m hm => ?_, ?_⟩
    · exact (hrun _).trans (if_pos h)
    · exact ⟨_, (hrun _).trans (if_neg (Nat.not_lt.2 h)), State.bytes_homeWrite_same, fun x hx => State.byte_homeWrite_out hx,
        rfl, rfl⟩
    · exact (hrun _).trans (if_pos h)
    · exact execHostReadOfPackage_clean hrec h hd
    · simp only [List.mem_cons, List.not_mem_nil, or_false] at hm
      rcases hm with rfl | rfl | rfl | rfl | rfl | rfl | rfl | rfl <;> exact hrun _
    · exact hrun _
    · exact hrun _
    · exact hrun _
    · exact hrun _
    · exact hrun _
    · exact hrun _
    · exact hrun _
    · show execRegisterWrite 0xA02 v s = _
      unfold execRegisterWrite
      rw [hrun, hv]
      rfl
    · exact hrun _
    · exact execEngThaw_unnamed hrec h
    · exact ⟨_, execEngThaw_named hrec he hz, State.engine_updEngine _ _ _, rfl, rfl⟩
    · exact execFqDone_unknown hrec h
    · let u : State := { s with faults := s.faults.erase r }
      have hthaw : execFqDone v s = .next ((u.thaw id pc).noteReady u c.gang) := by
        rw [execFqDone_known hrec hr, hv]
        exact congrArg _ (State.faultAnswered_frozen hw hc hfrozen)
      exact ⟨_, _, hthaw, State.updCtx_faults, u.getCtx_updCtx hid (fun _ => rfl) hc, rfl, Ctx.pc_setPc _ _, rfl, rfl⟩
    · exact execKqTailWrite_disabled hrec h
    · exact ⟨_, execKqTailWrite_foreign hrec h h0 hown, State.fnFrozen_freezeFn hlt, State.queues_freezeFn⟩
    · exact (execKqTailWrite_owner hrec h hown).trans (if_pos hover)
    · exact (execKqTailWrite_owner hrec h hown).trans (if_neg (not_or.2 ⟨Nat.not_lt.2 htail, Nat.not_lt.2 hhead⟩))
    · exact hrun _
    · exact (hrun _).trans (congrArg _ (State.releaseFn_running h))
    · exact ⟨_, hrun _, State.fnFrozen_releaseFn h, State.queues_releaseFn h⟩
    · exact execMeasExtend_refused (.inl h)
    · exact execMeasExtend_refused (.inr (.inl hm))
    · exact execMeasExtend_accepted 6 hrec (by decide)
  · show execTlbInvComplete s = _
    unfold execTlbInvComplete
    split
    · rfl
    · rename_i hcons
      rw [h] at hcons
      cases hcons
  · obtain ⟨u, hsame, hstep⟩ := execTlbInvComplete_cons hx hquiet
    refine ⟨_, hstep, rfl, ?_⟩
    rw [hsame]
    exact ⟨rfl, rfl, rfl, rfl⟩

end Sys2Proof.Machine
end

section
/-!
Proofs of this sitting, JobResults: the ENG forms past their check, and the completion of a job (O38).
-/
namespace Sys2Proof.Machine
set_option Elab.async false

/-! ### Ends of a unit: what they leave and what they give (R79, R82, R113, R238) -/

section
variable {s u : State}

theorem State.engine_congr (h : u.engines = s.engines) {e : EngineIx} : u.engine e = s.engine e := by
  unfold State.engine; rw [h]

theorem State.windowDone_frame (s : State) (i : Instr) (la : BitVec 4) :
    ∃ pend, s.windowDone i la = { s with cx := { s.cx with pend := pend } } := by
  unfold State.windowDone
  split
  · exact ⟨s.cx.pend, rfl⟩
  · exact ⟨_, rfl⟩

theorem State.clampScope_frame (s : State) (sc : Scope) : ∃ pkg, s.clampScope sc = { s with pkg := pkg } :=
  ⟨_, s.clampFn_frame _ _⟩

/-- A context whose registers are those of `s` with `v` in `d` has the result `v`, once its unit is done. -/
theorem Result.of_advance {d : Reg} {v : RegVal} (hregs : u.cx.regs = (s.cx.setReg d v).regs)
    (hunit : u.cx.unit = s.cx.unit) (hmem : u.mem = s.mem) (htags : u.tags = s.tags) : Result s u.advance d v := by
  have hreg (r : Reg) : u.advance.reg r = (s.cx.setReg d v).reg r := by
    show (u.cx.setPc _).reg r = _
    rw [Ctx.reg_setPc]
    unfold Ctx.reg
    rw [hregs]
  refine ⟨?_, fun r hr => ?_, ?_, hmem, htags⟩
  · rw [hreg, Ctx.reg_setReg_same]
  · rw [hreg, Ctx.reg_setReg_other _ _ _ _ hr]
    rfl
  · show (u.cx.setPc (u.cx.unit.addr + 4)).pc = s.cx.unit.addr + 4
    rw [Ctx.pc_setPc, hunit]

/-- A result written, a window opened or not: the value is in `d`, and nothing else of the state `u` that `s` has led to
has changed. -/
theorem State.written_frame (hcx : u.cx = s.cx) (d : Reg) (w : W256) (i : Instr) (la : BitVec 4) :
    ((u.setBits d w).windowDone i la).cx.regs = (s.cx.setReg d ⟨w, false⟩).regs ∧
      ((u.setBits d w).windowDone i la).cx.unit = s.cx.unit ∧
      ((u.setBits d w).windowDone i la) = { u with cx := ((u.setBits d w).windowDone i la).cx } := by
  obtain ⟨pend, hwin⟩ := (u.setBits d w).windowDone_frame i la
  rw [hwin]
  refine ⟨?_, ?_, rfl⟩
  · show (u.cx.setReg d _).regs = _
    rw [hcx]
  · show (u.cx.setReg d _).unit = _
    rw [hcx, Ctx.setReg_unit]

theorem Result.of_window (hcx : u.cx = s.cx) (hmem : u.mem = s.mem) (htags : u.tags = s.tags) (d : Reg) (w : W256) (i : Instr)
    (la : BitVec 4) : Result s ((u.setBits d w).windowDone i la).advance d ⟨w, false⟩ ∧
      ((u.setBits d w).windowDone i la).advance.engines = u.engines := by
  obtain ⟨hregs, hunit, hframe⟩ := State.written_frame hcx d w i la
  refine ⟨Result.of_advance hregs hunit ?_ ?_, ?_⟩
  · rw [hframe]; exact hmem
  · rw [hframe]; exact htags
  · rw [hframe]; rfl

theorem Result.of_wait (hcx : u.cx = s.cx) (hmem : u.mem = s.mem) (htags : u.tags = s.tags) (d : Reg) (w : W256) (i : Instr)
    (la : BitVec 4) : Result s ((u.setBits d w).windowDone i la).finishWait d ⟨w, false⟩ ∧
      ((u.setBits d w).windowDone i la).finishWait.engines = u.engines := by
  obtain ⟨hregs, hunit, hframe⟩ := State.written_frame hcx d w i la
  refine ⟨Result.of_advance hregs hunit ?_ ?_, ?_⟩
  · rw [hframe]; exact hmem
  · rw [hframe]; exact htags
  · rw [hframe]; rfl

/-! ### The checks of an ENG form (R300) -/

theorem State.eng_refused {a : Reg} {f : EngineIx → State} {c : Cause}
    (h : s.handleCheck s.cx.asid (s.reg a) permE [2] = some c) : s.eng a f = .next (s.takeTrap c (a.setWidth 64)) := by
  unfold State.eng State.withHandle; rw [h]

theorem State.eng_passed {a : Reg} {f : EngineIx → State} (h : s.handleCheck s.cx.asid (s.reg a) permE [2] = none) :
    s.eng a f = .next (f (s.targetEngine a)) := by
  unfold State.eng State.withHandle; rw [h]

/-! ### ENQ (R87, R290, R301) -/

/-- The extra registers of the command word in `c[b]` (R301). -/
def State.enqCaps (s : State) (b : Reg) : List RegVal :=
  (List.range (extras (s.bits b)).length).map fun i => s.reg (.ofNat 6 (b.toNat + 1 + i))

/-- What the checks of the word in `c[b]` refuse (R87, R301). -/
def State.enqBad (s : State) (e : EngineIx) (b : Reg) : Option Bad :=
  s.commandBad s.cx.asid (engineKind e) (s.bits b) (s.enqCaps b) fun i => (Cap.ofBits ((s.enqCaps b).getD i {}).val).offset

section
variable {e : EngineIx} {la : BitVec 4} {d a b : Reg}

theorem State.enqueue_beyond (h : 64 ≤ b.toNat + (extras (s.bits b)).length) :
    s.enqueue e la d a b none = s.takeTrap .enqInvalid 0x06 := by
  unfold State.enqueue
  exact if_pos h

variable (hin : b.toNat + (extras (s.bits b)).length < 64)
include hin

theorem State.enqueue_bad {x : Bad} (h : s.enqBad e b = some x) :
    s.enqueue e la d a b none = s.takeTrap x.1 x.2 := by
  unfold State.enqueue
  refine (if_neg (by omega)).trans ?_
  unfold State.enqBad State.enqCaps at h
  dsimp only
  rw [h]
  rfl

/-- A good word that is no TRIG waits for room and its turn, or is accepted. -/
theorem State.enqueue_good (hgood : s.enqBad e b = none) (hplain : wf (s.bits b) 0 8 ≠ 0x52) :
    s.enqueue e la d a b none =
      if (engineKind e).depth ≤ (s.engine e).jobs.length ∨ (s.engine e).turnTaken s.cycle s.cx.core = true then
        s.block (.enq la d a b none)
      else
        let p := (s.clampScope .pkg).acceptJob e (s.bits b) (s.enqCaps b) none
        ((p.2.setBits d (p.1.setWidth 256)).windowDone (.enq la d a b) la).finishWait := by
  have hcmd : (wf (s.bits b) 0 8 == 0x52) = false := by simpa using hplain
  have hinner : s.enqInner e (s.bits b) (s.enqCaps b) none = .ok (none, s) := by
    unfold State.enqInner
    rw [bne, hcmd]
    rfl
  unfold State.enqueue
  refine (if_neg (by omega)).trans ?_
  unfold State.enqBad State.enqCaps at hgood
  unfold State.enqCaps at hinner ⊢
  dsimp only
  rw [hgood, hinner, hcmd]
  dsimp only
  congr 1
  unfold State.engineRoom
  simp

end

/-- What the engine is once it has accepted a job: the job is its last, and the identifier is taken (R290). -/
theorem State.acceptJob_spec (s : State) (e : EngineIx) (w : W256) (caps : List RegVal) : ∃ j g accepts,
    s.acceptJob e w caps none = ((s.engine e).next, State.updEngine { s with accepts := accepts } e fun _ => g) ∧
    g.jobs = (s.engine e).jobs ++ [j] ∧ g.next = (if (s.engine e).next = 0xFFFF then 1 else (s.engine e).next + 1) ∧
    j.id = (s.engine e).next ∧ j.word = w ∧ j.caps = caps ∧ j.asid = s.cx.asid ∧ j.ctx = s.cx.id ∧
    j.launch = s.cx.launch ∧ j.stage = .queued ∧ j.inner = none :=
  ⟨_, _, _, rfl, rfl, rfl, rfl, rfl, rfl, rfl, rfl, rfl, rfl, rfl⟩

/-- An accepted job is the engine's last, and its identifier is in `d` (R290, R301). -/
theorem State.accept_result (s : State) (e : EngineIx) (w : W256) (caps : List RegVal) (d : Reg) (i : Instr)
    (la : BitVec 4) : ∃ t j,
    (let p := (s.clampScope .pkg).acceptJob e w caps none
     ((p.2.setBits d (p.1.setWidth 256)).windowDone i la).finishWait) = t ∧
    Result s t d ⟨(s.engine e).next.setWidth 256, false⟩ ∧ (t.engine e).jobs = (s.engine e).jobs ++ [j] ∧
    j.id = (s.engine e).next ∧ j.word = w ∧ j.caps = caps ∧ j.asid = s.cx.asid ∧ j.ctx = s.cx.id ∧
    j.launch = s.cx.launch ∧ j.stage = .queued ∧ j.inner = none ∧
    (t.engine e).next = if (s.engine e).next = 0xFFFF then 1 else (s.engine e).next + 1 := by
  obtain ⟨pkg, hclamp⟩ := s.clampScope_frame .pkg
  obtain ⟨j, g, accepts, hacc, hjobs, hnext, hid, hword, hcaps, hasid, hctx, hlaunch, hstage, hinner⟩ :=
    State.acceptJob_spec { s with pkg := pkg } e w caps
  rw [hclamp, hacc]
  let u := State.updEngine { s with pkg := pkg, accepts := accepts } e fun _ => g
  obtain ⟨hres, heng⟩ := Result.of_wait (show u.cx = s.cx from rfl) (show u.mem = s.mem from rfl)
    (show u.tags = s.tags from rfl)
    d ((s.engine e).next.setWidth 256) i la
  have hengine : ((((u.setBits d ((s.engine e).next.setWidth 256)).windowDone i la).finishWait).engine e) = g :=
    (State.engine_congr heng).trans (State.engine_updEngine _ _ _)
  refine ⟨_, j, rfl, hres, ?_, hid, hword, hcaps, hasid, hctx, hlaunch, hstage, hinner, ?_⟩
  · exact (congrArg Engine.jobs hengine).trans hjobs
  · exact (congrArg Engine.next hengine).trans hnext

/-- A wait changes the current context alone, and of it neither register nor program counter. -/
theorem Waits.block {w : Wait} : Waits s (s.block w) w := ⟨rfl, rfl, fun _ => rfl, rfl⟩

/-! ### JTEST, JWAIT and JSTAT (R302, R303) -/

/-- A status that reaches `d` is the write of `d` in a state that differs from `s` in the counts of clamps alone. -/
theorem State.takeStatus_frame (s : State) (e : EngineIx) (d : Reg) (w : W256) :
    ∃ pkg, s.takeStatus e d w = State.setBits { s with pkg := pkg } d w := by
  unfold State.takeStatus
  dsimp only
  split
  · obtain ⟨pkg, hclamp⟩ := s.clampScope_frame _
    exact ⟨pkg, by rw [hclamp]⟩
  · exact ⟨s.pkg, rfl⟩

theorem State.jtest_result (s : State) (e : EngineIx) (d : Reg) (w : W256) (i : Instr) (la : BitVec 4) :
    Result s ((s.takeStatus e d w).windowDone i la).advance d ⟨w, false⟩ ∧
      ((s.takeStatus e d w).windowDone i la).advance.engines = s.engines := by
  obtain ⟨pkg, hstatus⟩ := s.takeStatus_frame e d w
  rw [hstatus]
  exact Result.of_window rfl rfl rfl d w i la

theorem State.takeStatus_result (s : State) (e : EngineIx) (d : Reg) (w : W256) :
    Result s (s.takeStatus e d w).finishWait d ⟨w, false⟩ ∧ (s.takeStatus e d w).finishWait.engines = s.engines := by
  obtain ⟨pkg, hstatus⟩ := s.takeStatus_frame e d w
  rw [hstatus]
  exact Result.of_wait rfl rfl rfl d w .eret 0

theorem State.jwait_open {e : EngineIx} {d a b : Reg}
    (h : statusCode (s.jobStatus e b) = 1 ∨ statusCode (s.jobStatus e b) = 2) :
    s.jwait e d a b = s.block (.job d a b) := if_pos h

theorem State.jwait_final {e : EngineIx} {d a b : Reg} (h1 : statusCode (s.jobStatus e b) ≠ 1)
    (h2 : statusCode (s.jobStatus e b) ≠ 2) :
    s.jwait e d a b = (s.takeStatus e d (s.jobStatus e b)).finishWait := if_neg (not_or.2 ⟨h1, h2⟩)

theorem State.count8_spec (s : State) (n : Nat) :
    ∃ v free, s.count8 n = (v, { s with free := free }) ∧ (n < 256 → v = .ofNat 8 n) := by
  unfold State.count8
  split
  · exact ⟨_, s.free, rfl, fun _ => rfl⟩
  · rename_i h
    exact ⟨_, _, rfl, fun hn => absurd hn h⟩

/-- JSTAT past its check (R303). -/
def State.jstat (s : State) (e : EngineIx) (la : BitVec 4) (d a : Reg) : State :=
  let g := s.engine e
  let last := (g.last.lookup s.cx.asid).getD 0
  let (mine, s) := s.count8 (g.jobs.countP fun j => j.asid == s.cx.asid)
  let (free, s) := s.count8 ((engineKind e).depth - g.jobs.length)
  ((s.setBits d ((free ++ mine ++ last).setWidth 256)).windowDone (.jstat la d a) la).advance

/-- The fields of JSTAT's word (R303). -/
theorem jstat_fields (free mine : BitVec 8) (last : BitVec 16) :
    let v : W256 := (free ++ mine ++ last).setWidth 256
    v.extractLsb' 0 16 = last ∧ v.extractLsb' 16 8 = mine ∧ v.extractLsb' 24 8 = free ∧ v >>> 32 = 0 := by
  refine ⟨?_, ?_, ?_, ?_⟩
  · rw [BitVec.extractLsb'_setWidth_of_le (by decide), BitVec.extractLsb'_append_eq_of_add_le (by decide),
      BitVec.extractLsb'_eq_self]
  · rw [BitVec.extractLsb'_setWidth_of_le (by decide), BitVec.extractLsb'_append_eq_of_le (by decide),
      BitVec.extractLsb'_append_eq_of_add_le (by decide), BitVec.extractLsb'_eq_self]
  · rw [BitVec.extractLsb'_setWidth_of_le (by decide), BitVec.extractLsb'_append_eq_of_le (by decide),
      BitVec.extractLsb'_append_eq_of_le (by decide), BitVec.extractLsb'_eq_self]
  · apply BitVec.eq_of_toNat_eq
    rw [BitVec.toNat_ushiftRight, BitVec.toNat_setWidth, Nat.shiftRight_eq_div_pow]
    have := (free ++ mine ++ last).isLt
    exact Nat.div_eq_of_lt (by omega)

/-- JSTAT writes the last identifier and the two counts, each of which is a free value where it does not fit (R303). -/
theorem State.jstat_result (s : State) (e : EngineIx) (la : BitVec 4) (d a : Reg) : ∃ v : W256,
    Result s (s.jstat e la d a) d ⟨v, false⟩ ∧ (s.jstat e la d a).engines = s.engines ∧
    (let mine := (s.engine e).jobs.countP fun j => j.asid == s.cx.asid
     let room := (engineKind e).depth - (s.engine e).jobs.length
     v.extractLsb' 0 16 = ((s.engine e).last.lookup s.cx.asid).getD 0 ∧ (mine < 256 → v.extractLsb' 16 8 = .ofNat 8 mine) ∧
     (room < 256 → v.extractLsb' 24 8 = .ofNat 8 room) ∧ v >>> 32 = 0) := by
  obtain ⟨mine, free, hmine, hmine'⟩ := s.count8_spec ((s.engine e).jobs.countP fun j => j.asid == s.cx.asid)
  obtain ⟨room, free', hroom, hroom'⟩ :=
    State.count8_spec { s with free := free } ((engineKind e).depth - (s.engine e).jobs.length)
  have hstep : s.jstat e la d a = ((State.setBits { s with free := free' } d
      ((room ++ mine ++ ((s.engine e).last.lookup s.cx.asid).getD 0).setWidth 256)).windowDone (.jstat la d a) la).advance := by
    unfold State.jstat
    dsimp only
    rw [hmine]
    dsimp only
    rw [hroom]
  obtain ⟨hlast, hm, hr, hzero⟩ := jstat_fields room mine (((s.engine e).last.lookup s.cx.asid).getD 0)
  obtain ⟨hres, heng⟩ := Result.of_window (show State.cx { s with free := free' } = s.cx from rfl) rfl rfl d
    ((room ++ mine ++ ((s.engine e).last.lookup s.cx.asid).getD 0).setWidth 256) (.jstat la d a) la
  rw [hstep]
  exact ⟨_, hres, heng, hlast, fun h => hm.trans (hmine' h), fun h => hr.trans (hroom' h), hzero⟩

/-! ### The completion of a job (R111, R288, R292, R293) -/

theorem length_toBytes {v n : Nat} : (toBytes v n).length = n := by
  induction n generalizing v with
  | zero => rfl
  | succ n ih => exact congrArg (· + 1) ih

theorem ofBytes_toBytes {v n : Nat} : ofBytes (toBytes v n) = v % 256 ^ n := by
  induction n generalizing v with
  | zero => exact (Nat.mod_one v).symm
  | succ n ih =>
    have hb : (BitVec.ofNat 8 v).toNat = v % 256 := BitVec.toNat_ofNat v 8
    show (BitVec.ofNat 8 v).toNat + 256 * ofBytes (toBytes (v / 256) n) = _
    rw [ih, hb, Nat.pow_succ', Nat.mod_mul]

/-- A barrier's 16 bytes hold all its fields (R287). -/
theorem Bar.ofBits_toBits {b : Bar} : Bar.ofBits b.toBits = b := by
  obtain ⟨phase, poison, pending, expected, sectors, faulted⟩ := b
  simp only [Bar.ofBits, Bar.toBits, Bar.mk.injEq]
  refine ⟨?_, ?_, ?_, ?_, ?_, ?_⟩
  · rw [BitVec.extractLsb'_append_eq_of_add_le (by decide), BitVec.extractLsb'_eq_self]
  · rw [BitVec.getLsbD_append, BitVec.getLsbD_append]; simp
  · iterate 3 rw [BitVec.extractLsb'_append_eq_of_le (by decide)]
    rw [BitVec.extractLsb'_append_eq_of_add_le (by decide), BitVec.extractLsb'_eq_self]
  · iterate 4 rw [BitVec.extractLsb'_append_eq_of_le (by decide)]
    rw [BitVec.extractLsb'_append_eq_of_add_le (by decide), BitVec.extractLsb'_eq_self]
  · iterate 5 rw [BitVec.extractLsb'_append_eq_of_le (by decide)]
    rw [BitVec.extractLsb'_append_eq_of_add_le (by decide), BitVec.extractLsb'_eq_self]
  · iterate 6 rw [BitVec.extractLsb'_append_eq_of_le (by decide)]
    rw [BitVec.extractLsb'_append_eq_of_add_le (by decide), BitVec.extractLsb'_eq_self]

theorem statusId_word {t : Status} : statusId t.word = t.id := by
  unfold statusId Status.word
  iterate 2 rw [BitVec.extractLsb'_append_eq_of_le (by decide)]
  rw [BitVec.extractLsb'_append_eq_of_add_le (by decide), BitVec.extractLsb'_eq_self]

theorem State.barAt_updBar {key : Nat} {f : Bar → Bar} : (s.updBar key f).barAt key = f (s.barAt key) := by
  have hbytes : (s.updBar key f).bytes key 16 = toBytes (f (s.barAt key)).toBits.toNat 16 := by
    have h := Memory.bytes_write_same s.mem key (toBytes (f (s.barAt key)).toBits.toNat 16)
    rwa [length_toBytes] at h
  show Bar.ofBits (.ofNat 128 (ofBytes ((s.updBar key f).bytes key 16))) = _
  rw [hbytes, ofBytes_toBytes, Nat.mod_eq_of_lt (by have := (f (s.barAt key)).toBits.isLt; omega), BitVec.ofNat_toNat,
    BitVec.setWidth_eq, Bar.ofBits_toBits]

section
variable {e : EngineIx} {j : Job}

/-- The counts of a matrix job that is DONE enter its engine's sets (R111). -/
def State.countJob (s : State) (e : EngineIx) (j : Job) : State :=
  if j.code = 0 ∧ engineKind e = .matrix then s.addEngineCounts (engineCluster e) j.launch j.tid j.counts else s

/-- A job arrives at its completion barrier, or poisons it (R292). -/
def State.signalJob (s : State) (e : EngineIx) (j : Job) : State :=
  if j.arrives then
    match s.completionBar e j with
    | some key => s.updBar key (if j.code = 0 then Bar.arrive else Bar.poisoned)
    | none => s
  else s

/-- An engine without a job, whose final status it remembers (R293). -/
def Engine.retireJob (g : Engine) (j : Job) : Engine :=
  { (g.remember j.asid j.scope j.final).updPair j.asid (fun p => { p with head := p.head + 1 }) with
    jobs := g.jobs.filter fun x => x.id != j.id }

/-- A job that posts no record and names no completion queue. -/
theorem State.completeJob_plain (hev : j.ev = false) (hcq : j.cq = none) :
    s.completeJob e j = ((s.countJob e j).signalJob e j).updEngine e (·.retireJob j) := by
  unfold State.completeJob
  simp only [hev, hcq]
  rfl

theorem State.signalJob_frame (s : State) (e : EngineIx) (j : Job) :
    ∃ mem tags dirty, s.signalJob e j = { s with mem := mem, tags := tags, dirty := dirty } ∧
      (j.arrives = false → mem = s.mem ∧ tags = s.tags) := by
  unfold State.signalJob
  split
  · rename_i ha
    split
    · exact ⟨_, _, _, rfl, fun h => by rw [ha] at h; cases h⟩
    · exact ⟨_, _, _, rfl, fun _ => ⟨rfl, rfl⟩⟩
  · exact ⟨_, _, _, rfl, fun _ => ⟨rfl, rfl⟩⟩

/-- Where there is room for a set, the counts enter one of the launch and `TID`, and nothing else changes. -/
theorem State.addEngineCounts_spec {cl : ClusterIx} (h : (s.cluster cl).counters.length < 256) (launch : Nat)
    (tid : BitVec 16) (ns : List Nat) :
    ∃ c rest, s.addEngineCounts cl launch tid ns = s.updCluster cl (fun k => { k with counters := c :: rest }) ∧
      c.launch = launch ∧ c.tid = tid := by
  unfold State.addEngineCounts
  dsimp only
  split
  · rename_i c hc
    have hkey := List.find?_some hc
    rw [Bool.and_eq_true, beq_iff_eq, beq_iff_eq] at hkey
    exact ⟨_, _, rfl, hkey⟩
  · rw [if_pos h]
    exact ⟨_, _, rfl, rfl, rfl⟩

theorem State.countJob_frame (h : engineKind e = .matrix → j.code = 0 → (s.cluster (engineCluster e)).counters.length < 256) :
    ∃ clusters, s.countJob e j = { s with clusters := clusters } ∧
      (engineKind e = .matrix → j.code = 0 →
        ∃ c ∈ (State.cluster { s with clusters := clusters } (engineCluster e)).counters,
          c.launch = j.launch ∧ c.tid = j.tid) ∧
      (engineKind e ≠ .matrix → clusters = s.clusters) := by
  unfold State.countJob
  split
  · rename_i hdone
    obtain ⟨hcode, hkind⟩ := hdone
    obtain ⟨c, rest, hadd, hlaunch, htid⟩ := State.addEngineCounts_spec (h hkind hcode) j.launch j.tid j.counts
    rw [hadd]
    refine ⟨_, rfl, fun _ _ => ⟨c, ?_, hlaunch, htid⟩, fun hk => absurd hkind hk⟩
    show c ∈ ((s.updCluster (engineCluster e) fun k => { k with counters := c :: rest }).cluster (engineCluster e)).counters
    rw [State.cluster_updCluster]
    exact List.mem_cons_self
  · rename_i hdone
    exact ⟨s.clusters, rfl, fun hk hc => absurd ⟨hc, hk⟩ hdone, fun _ => rfl⟩

/-- What an engine remembers of the job that it completed last. -/
theorem Engine.statusOf_retireJob {g : Engine} (j : Job) (hx : ∀ x ∈ g.xfers, x.id ≠ j.id) :
    (g.retireJob j).statusOf j.asid j.id = j.final := by
  have hjobs : (g.retireJob j).jobs.find? (fun x => x.id == j.id && x.asid == j.asid) = none := by
    rw [List.find?_eq_none]
    intro x hx
    have hne := (List.mem_filter.1 hx).2
    rw [bne, Bool.not_eq_true'] at hne
    simp [hne]
  have hxfers : (g.retireJob j).xfers.find? (fun x => x.id == j.id && x.asid == j.asid) = none := by
    rw [List.find?_eq_none]
    intro x hmem
    simp [hx x hmem]
  have hpast : (g.retireJob j).pastOf j.asid j.id = some (j.asid, j.scope, j.final) := by
    refine List.find?_cons_of_pos ?_
    rw [Bool.and_eq_true, beq_iff_eq, beq_iff_eq]
    exact ⟨rfl, statusId_word⟩
  unfold Engine.statusOf
  rw [hjobs, hxfers, hpast]

/-- The completion barrier of a job that is neither CREPLAY nor CABORT lies in its launch's allotment (R292). -/
theorem State.completionBar_clusters {clusters : Table Cluster} (h30 : j.cmd ≠ 0x30)
    (h31 : j.cmd ≠ 0x31) : State.completionBar { s with clusters := clusters } e j = s.completionBar e j := by
  unfold State.completionBar
  have hcmd : ¬ (j.cmd = 0x30 ∨ j.cmd = 0x31) := not_or.2 ⟨h30, h31⟩
  simp only [if_neg hcmd]
  rfl

/-- What a completion leaves where the engine's sets have room: the job is out of its engine's queue, and its counts and
its barrier are done. -/
theorem State.completeJob_spec (s : State) (e : EngineIx) (j : Job) (hev : j.ev = false) (hcq : j.cq = none)
    (hroom : engineKind e = .matrix → j.code = 0 → (s.cluster (engineCluster e)).counters.length < 256) :
    ∃ clusters mem tags dirty, s.completeJob e j =
        State.updEngine { s with clusters := clusters, mem := mem, tags := tags, dirty := dirty } e (·.retireJob j) ∧
      (j.arrives = false → mem = s.mem ∧ tags = s.tags) ∧
      (engineKind e = .matrix → j.code = 0 →
        ∃ c ∈ (State.cluster { s with clusters := clusters } (engineCluster e)).counters,
          c.launch = j.launch ∧ c.tid = j.tid) := by
  obtain ⟨clusters, hcount, hset, -⟩ := s.countJob_frame hroom
  obtain ⟨mem, tags, dirty, hsignal, hstill⟩ := (s.countJob e j).signalJob_frame e j
  refine ⟨clusters, mem, tags, dirty, ?_, fun ha => ?_, hset⟩
  · rw [State.completeJob_plain hev hcq, hsignal, hcount]
  · obtain ⟨hmem, htags⟩ := hstill ha
    rw [hcount] at hmem htags
    exact ⟨hmem, htags⟩

/-- The barrier of a completion: an arrival for a job that is DONE, else the poison (R292). -/
theorem State.completeJob_bar (hev : j.ev = false) (hcq : j.cq = none)
    (hroom : engineKind e = .matrix → j.code = 0 → (s.cluster (engineCluster e)).counters.length < 256)
    (hcmd : engineKind e = .matrix → j.cmd ≠ 0x30 ∧ j.cmd ≠ 0x31) (ha : j.arrives = true) {key : Nat}
    (hbar : s.completionBar e j = some key) :
    (s.completeJob e j).barAt key = if j.code = 0 then (s.barAt key).arrive else (s.barAt key).poisoned := by
  obtain ⟨clusters, hcount, -, hother⟩ := s.countJob_frame hroom
  have hbar' : State.completionBar { s with clusters := clusters } e j = some key := by
    by_cases hk : engineKind e = .matrix
    · rw [State.completionBar_clusters (hcmd hk).1 (hcmd hk).2, hbar]
    · rw [hother hk, ← hbar]
  rw [State.completeJob_plain hev hcq, hcount]
  show (State.signalJob { s with clusters := clusters } e j).barAt key = _
  unfold State.signalJob
  rw [if_pos ha, hbar']
  show (State.updBar { s with clusters := clusters } key _).barAt key = _
  rw [State.barAt_updBar]
  split <;> rfl

theorem State.id_of_jobOf {id : BitVec 16} (h : s.jobOf e id = some j) : j.id = id := by
  simpa using List.find?_some h

/-! ### JCANCEL (R305) -/

section
variable {id : BitVec 16} (hjob : s.jobOf e id = some j) (hasid : j.asid = s.cx.asid)
include hjob hasid

theorem State.cancel_of_job :
    s.cancel e id = if j.stage = .queued then s.completeJob e { j with code := 6 } else s := by
  have hmine : (s.jobOf e id).filter (fun j => j.asid == s.cx.asid) = some j := by simp [hjob, hasid]
  unfold State.cancel
  rw [hmine]

theorem State.cancel_queued (hq : j.stage = .queued) (hev : j.ev = false) (ha : j.arrives = false) (hcq : j.cq = none) :
    ∃ clusters dirty, s.cancel e id =
      State.updEngine { s with clusters := clusters, dirty := dirty } e (·.retireJob { j with code := 6 }) := by
  obtain ⟨clusters, mem, tags, dirty, hdone, hstill, -⟩ := s.completeJob_spec e { j with code := 6 } hev hcq
    fun _ h => absurd h (show (6 : BitVec 8) ≠ 0 by decide)
  obtain ⟨rfl, rfl⟩ := hstill ha
  exact ⟨clusters, dirty, by rw [State.cancel_of_job hjob hasid, if_pos hq, hdone]⟩

end

end

/-- JCANCEL past its check (R305). -/
def State.jcancel (s : State) (e : EngineIx) (la : BitVec 4) (d a b : Reg) : State :=
  let s := s.cancel e ((s.bits b).setWidth 16)
  ((s.setBits d (s.jobStatus e b)).windowDone (.jcancel la d a b) la).advance

section
variable {e : EngineIx} {j : Job} {b : Reg} (hjob : s.jobOf e ((s.bits b).setWidth 16) = some j)
  (hasid : j.asid = s.cx.asid) (la : BitVec 4) (d a : Reg)
include hjob hasid

theorem State.jcancel_started (h : j.stage ≠ .queued) : Result s (s.jcancel e la d a b) d ⟨s.jobStatus e b, false⟩ ∧
    (s.jcancel e la d a b).engines = s.engines := by
  unfold State.jcancel
  rw [(State.cancel_of_job hjob hasid).trans (if_neg h)]
  exact Result.of_window rfl rfl rfl _ _ _ _

theorem State.jcancel_queued (hq : j.stage = .queued) (hev : j.ev = false) (ha : j.arrives = false) (hcq : j.cq = none)
    (hx : ∀ x ∈ (s.engine e).xfers, x.id ≠ (s.bits b).setWidth 16) :
    Result s (s.jcancel e la d a b) d ⟨{ j with code := 6 }.final, false⟩ ∧
      ((s.jcancel e la d a b).engine e).jobs = (s.engine e).jobs.filter fun x => x.id != (s.bits b).setWidth 16 := by
  have hid : j.id = (s.bits b).setWidth 16 := State.id_of_jobOf hjob
  obtain ⟨clusters, dirty, hcancel⟩ := State.cancel_queued hjob hasid hq hev ha hcq
  let u := State.updEngine { s with clusters := clusters, dirty := dirty } e (·.retireJob { j with code := 6 })
  have hengine : u.engine e = (s.engine e).retireJob { j with code := 6 } := State.engine_updEngine _ _ _
  have hstatus : u.jobStatus e b = { j with code := 6 }.final := by
    show (u.engine e).statusOf s.cx.asid ((s.bits b).setWidth 16) = _
    rw [hengine, ← hasid, ← hid]
    exact Engine.statusOf_retireJob { j with code := 6 } (by rw [hid]; exact hx)
  obtain ⟨hres, heng⟩ := Result.of_window (show u.cx = s.cx from rfl) (show u.mem = s.mem from rfl)
    (show u.tags = s.tags from rfl)
    d (u.jobStatus e b) (.jcancel la d a b) la
  have hstep : s.jcancel e la d a b = ((u.setBits d (u.jobStatus e b)).windowDone (.jcancel la d a b) la).advance := by
    unfold State.jcancel
    rw [hcancel]
  rw [hstep]
  refine ⟨hstatus ▸ hres, ?_⟩
  rw [State.engine_congr heng, hengine, ← hid]
  rfl

end

/-! ### JWAIT_RETURN (R302) -/

theorem State.id_of_getCtx {id : BitVec 32} {c : Ctx} (h : s.getCtx id = some c) : c.id = id := by
  simpa using List.find?_some h

theorem State.cx_focus {id : BitVec 32} {sl : SlotId} {c : Ctx} (h0 : id ≠ 0) (h : s.getCtx id = some c) :
    (s.focus id sl).cx = c := by
  by_cases hcur : s.cx.id = id
  · subst hcur
    rw [State.getCtx_current _ h0] at h
    rw [State.focus_current]
    exact Option.some.inj h
  · have hrest : s.ctxs.find? (fun c => c.id == id) = some c := by
      unfold State.getCtx State.allCtxs at h
      split at h
      · exact h
      · rwa [List.find?_cons_of_neg (by simpa using hcur)] at h
    unfold State.focus
    rw [if_neg hcur, hrest]

theorem State.getCtx_focus_away (h0 : s.cx.id ≠ 0) (id : BitVec 32) (sl : SlotId) :
    (s.focus id sl).getCtx s.cx.id = some s.cx := by
  by_cases hcur : s.cx.id = id
  · subst hcur
    rw [State.focus_current]
    exact State.getCtx_current _ h0
  · have hall : s.allCtxs = s.cx :: s.ctxs := if_neg h0
    unfold State.focus
    rw [if_neg hcur]
    split
    · show s.allCtxs.find? (fun c => c.id == s.cx.id) = _
      rw [hall]
      exact List.find?_cons_of_pos (by simp)
    · rename_i k hk
      have hkid : k.id = id := by simpa using List.find?_some hk
      have hkeep : s.allCtxs.filter (fun c => c.id != id) = s.cx :: s.ctxs.filter fun c => c.id != id := by
        rw [hall]
        exact List.filter_cons_of_pos (by simpa using hcur)
      unfold State.getCtx State.allCtxs
      dsimp only
      unfold State.allCtxs at hkeep
      rw [hkeep]
      split
      · exact List.find?_cons_of_pos (by simp)
      · rw [List.find?_cons_of_neg (by simpa [hkid] using fun h : id = s.cx.id => hcur h.symm)]
        exact List.find?_cons_of_pos (by simp)

theorem State.getCtx_asCtx {id : BitVec 32} {c : Ctx} {f : State → State} (h0 : id ≠ 0) (h : s.getCtx id = some c)
    (hf : (f (s.focus id ⟨c.core, c.slot⟩)).cx.id = id) :
    (s.asCtx id f).getCtx id = some (f (s.focus id ⟨c.core, c.slot⟩)).cx := by
  unfold State.asCtx
  rw [h]
  have haway := State.getCtx_focus_away (show (f (s.focus id ⟨c.core, c.slot⟩)).cx.id ≠ 0 from hf.symm ▸ h0) s.cx.id s.cur
  rwa [hf] at haway

theorem State.openNode_congr (h : u.spaces = s.spaces) {a : Asid} {x y : BitVec 24} : u.openNode a x y = s.openNode a x y := by
  unfold State.openNode State.nodeAt State.handleAt State.space
  rw [h]

theorem State.handleCheck_congr (h : u.spaces = s.spaces) {a : Asid} {v : RegVal} {need : BitVec 12} {kinds : List (BitVec 3)} :
    u.handleCheck a v need kinds = s.handleCheck a v need kinds := by
  unfold State.handleCheck
  dsimp only
  rw [State.openNode_congr h]

/-- A context that waits in a JWAIT looks at its job again (R302). -/
def State.jwaitAgain (s : State) : State :=
  match s.cx.wait with
  | .job d a b =>
    match s.handleCheck s.cx.asid (s.reg a) permE [2] with
    | some c => s.takeTrap c (a.setWidth 64)
    | none => s.jwait (s.targetEngine a) d a b
  | _ => s

theorem execJwaitReturn_eq {sl : SlotId} : execJwaitReturn sl s = .next (s.withSlot sl State.jwaitAgain) := rfl

theorem State.jwaitAgain_passed {d a b : Reg} (hwait : s.cx.wait = .job d a b)
    (h : s.handleCheck s.cx.asid (s.reg a) permE [2] = none) : s.jwaitAgain = s.jwait (s.targetEngine a) d a b := by
  unfold State.jwaitAgain
  rw [hwait]
  dsimp only
  rw [h]

theorem State.targetEngine_of_node {a : Reg} {nd : Node} {e : EngineIx}
    (hnode : s.openNode s.cx.asid (s.cap a).handle (s.cap a).gen = some nd) (hbody : nd.body = .engine e) :
    s.targetEngine a = e := by
  unfold State.targetEngine
  dsimp only
  rw [hnode, Option.map_some, hbody]

/-- The waiting context of a slot, at its JWAIT again: what that makes of it. -/
theorem execJwaitReturn_waiting {sl : SlotId} {id : BitVec 32} {c : Ctx} {d a b : Reg} {nd : Node} {e : EngineIx}
    (h0 : id ≠ 0) (hbound : s.boundAt sl = some id) (hc : s.getCtx id = some c) (hwait : c.wait = .job d a b)
    (hcheck : s.handleCheck c.asid (c.reg a) permE [2] = none)
    (hnode : s.openNode c.asid (Cap.ofBits (c.reg a).val).handle (Cap.ofBits (c.reg a).val).gen = some nd)
    (hbody : nd.body = .engine e) : ∃ u : State, u.cx = c ∧ u.engines = s.engines ∧
      ((u.jwait e d a b).cx.id = id → ∃ t, execJwaitReturn sl s = .next t ∧
        t.getCtx id = some (u.jwait e d a b).cx) := by
  have hcx : (s.focus id ⟨c.core, c.slot⟩).cx = c := State.cx_focus h0 hc
  have hsame : SameButCtxs s (s.focus id ⟨c.core, c.slot⟩) := State.focus_sameButCtxs
  have hspaces : (s.focus id ⟨c.core, c.slot⟩).spaces = s.spaces := by rw [hsame]
  have hagain : (s.focus id ⟨c.core, c.slot⟩).jwaitAgain = (s.focus id ⟨c.core, c.slot⟩).jwait e d a b := by
    refine (State.jwaitAgain_passed (by rw [hcx, hwait]) ?_).trans (congrArg (State.jwait _ · d a b)
      (State.targetEngine_of_node ?_ hbody))
    · unfold State.reg
      rw [State.handleCheck_congr hspaces, hcx]
      exact hcheck
    · rw [State.openNode_congr hspaces]
      unfold State.cap State.bits State.reg
      rw [hcx]
      exact hnode
  refine ⟨s.focus id ⟨c.core, c.slot⟩, hcx, by rw [hsame], fun hid => ⟨_, execJwaitReturn_eq, ?_⟩⟩
  unfold State.withSlot
  rw [hbound]
  dsimp only
  rw [State.getCtx_asCtx h0 hc (by rw [hagain]; exact hid), hagain]

/-! ### The forms as their checks and what follows them (R300) -/

section
variable {la : BitVec 4} {d a b : Reg}

theorem exec_enq : exec (.enq la d a b) s = s.eng a fun e => s.enqueue e la d a b none := rfl

theorem exec_jwait : exec (.jwait d a b) s = s.eng a fun e => s.jwait e d a b := rfl

theorem exec_jtest : exec (.jtest la d a b) s =
    s.eng a fun e => ((s.takeStatus e d (s.jobStatus e b)).windowDone (.jtest la d a b) la).advance := rfl

theorem exec_jcancel : exec (.jcancel la d a b) s = s.eng a fun e => s.jcancel e la d a b := rfl

theorem exec_jstat : exec (.jstat la d a) s = s.eng a fun e => s.jstat e la d a := rfl

end

end

/-- Settles O38: each form past its check is its case's equation, and a completion is a job's end at its engine. -/
theorem jobResults : Obligations.JobResults := by
  unfold Obligations.JobResults
  intro s la d a b asid e g depth w n caps id st bad
  refine ⟨fun c hc i hi => ?_, fun hok => ?_, fun e id j hj => ?_, ?_⟩
  · simp only [List.mem_cons, List.not_mem_nil, or_false] at hi
    rcases hi with rfl | rfl | rfl | rfl | rfl 
    · exact exec_enq.trans (State.eng_refused hc)
    · exact exec_jwait.trans (State.eng_refused hc)
    · exact exec_jtest.trans (State.eng_refused hc)
    · exact exec_jstat.trans (State.eng_refused hc)
    · exact exec_jcancel.trans (State.eng_refused hc)
  · refine ⟨fun h => ?_, fun hin x hx => ?_, fun hin hgood hplain => ⟨fun hroom hturn => ?_, fun hfull => ?_⟩, ?_,
      fun h1 h2 => ?_, fun hopen => ?_, ?_, fun j hj hasid hq => ?_, fun j hj hasid hq hev ha hcq hx => ?_⟩
    · exact (exec_enq.trans (State.eng_passed hok)).trans (congrArg _ (State.enqueue_beyond h))
    · exact (exec_enq.trans (State.eng_passed hok)).trans (congrArg _ (State.enqueue_bad hin hx))
    · have hfree : ¬ (depth ≤ g.jobs.length ∨ g.turnTaken s.cycle s.cx.core = true) := by
        rw [hturn]
        simpa using hroom
      obtain ⟨t, j, ht, hacc⟩ := s.accept_result e w caps d (.enq la d a b) la
      have hstep : exec (.enq la d a b) s = .next t := (exec_enq.trans (State.eng_passed hok)).trans
        (congrArg _ (((State.enqueue_good hin hgood hplain).trans (if_neg hfree)).trans ht))
      exact ⟨t, j, hstep, hacc⟩
    · have hstep : exec (.enq la d a b) s = .next (s.block (.enq la d a b none)) :=
        (exec_enq.trans (State.eng_passed hok)).trans (congrArg _ ((State.enqueue_good hin hgood hplain).trans (if_pos hfull)))
      exact ⟨_, hstep, Waits.block, rfl, rfl⟩
    · exact ⟨_, exec_jtest.trans (State.eng_passed hok), s.jtest_result _ _ _ _ _⟩
    · have hstep : exec (.jwait d a b) s = .next (s.takeStatus e d st).finishWait :=
        (exec_jwait.trans (State.eng_passed hok)).trans (congrArg _ (State.jwait_final h1 h2))
      obtain ⟨hres, heng⟩ := s.takeStatus_result e d st
      exact ⟨_, hstep, hres, rfl, heng⟩
    · have hstep : exec (.jwait d a b) s = .next (s.block (.job d a b)) :=
        (exec_jwait.trans (State.eng_passed hok)).trans (congrArg _ (State.jwait_open hopen))
      exact ⟨_, hstep, Waits.block, rfl, rfl⟩
    · obtain ⟨v, hres, heng, hfields⟩ := s.jstat_result e la d a
      exact ⟨_, v, exec_jstat.trans (State.eng_passed hok), hres, heng, hfields⟩
    · obtain ⟨hres, heng⟩ := State.jcancel_started hj hasid la d a hq
      exact ⟨_, exec_jcancel.trans (State.eng_passed hok), hres, heng⟩
    · obtain ⟨hres, hjobs⟩ := State.jcancel_queued hj hasid la d a hq hev ha hcq hx
      exact ⟨_, exec_jcancel.trans (State.eng_passed hok), hres, hjobs⟩
  · have hid : j.id = id := State.id_of_jobOf hj
    have hstep : exec (.jobCompletion e id) s = .next (if j.stage = .ended then s.completeJob e j else s) := by
      show execJobCompletion e id s = _
      unfold execJobCompletion
      rw [hj]
    refine ⟨fun hstage => by rw [hstep, if_neg hstage], fun hstage hev hcq hx hroom => ?_⟩
    rw [if_pos hstage] at hstep
    obtain ⟨clusters, mem, tags, dirty, hdone, hstill, hset⟩ := s.completeJob_spec e j hev hcq hroom
    refine ⟨_, hstep, ?_, ?_, ?_, ?_, fun ha => ?_, fun hk hcode => ?_, fun key ha hcmd hbar =>
      State.completeJob_bar hev hcq hroom hcmd ha hbar⟩
    · rw [hdone, State.engine_updEngine, ← hid]
      rfl
    · rw [hdone, State.engine_updEngine, ← hid]
      exact Engine.statusOf_retireJob j (by rw [hid]; exact hx)
    · rw [hdone]
      rfl
    · rw [hdone]
      rfl
    · rw [hdone]
      exact (hstill ha).1
    · rw [hdone]
      exact hset hk hcode
  · intro sl id c h0 hbound hc hwait hcheck nd e hnode hbody st
    obtain ⟨u, hcx, heng, hstep⟩ := execJwaitReturn_waiting h0 hbound hc hwait hcheck hnode hbody
    have hst : u.jobStatus e b = st := by
      unfold State.jobStatus State.bits State.reg
      rw [hcx, State.engine_congr heng]
    have hid : u.cx.id = id := hcx ▸ State.id_of_getCtx hc
    refine ⟨fun hopen => ?_, fun h1 h2 => ?_⟩
    · have hjwait : u.jwait e d a b = u.block (.job d a b) := State.jwait_open (by rw [hst]; exact hopen)
      rw [hjwait] at hstep
      obtain ⟨t, ht, hm⟩ := hstep hid
      exact ⟨t, _, ht, hm, rfl, by rw [← hcx]; rfl, by rw [← hcx]; rfl⟩
    · have hjwait : u.jwait e d a b = (u.takeStatus e d (u.jobStatus e b)).finishWait :=
        State.jwait_final (by rw [hst]; exact h1) (by rw [hst]; exact h2)
      rw [hjwait, hst] at hstep
      obtain ⟨pkg, hstatus⟩ := u.takeStatus_frame e d st
      obtain ⟨t, ht, hm⟩ := hstep (by
        rw [hstatus]
        exact (Ctx.setReg_id _ _ _).trans hid)
      obtain ⟨hd, hother, hpc, -⟩ := (u.takeStatus_result e d st).1
      refine ⟨t, _, ht, hm, rfl, rfl, ?_, hd, fun r hr => ?_⟩
      · rw [hpc]
        unfold State.here
        rw [hcx]
      · have hr' := hother r hr
        unfold State.reg at hr'
        rw [hr', hcx]

end Sys2Proof.Machine
end

section
/-!
Proofs of this sitting, SchedulingResults: bind records, quanta, aging, forced saves, and the fill of a quad (O36).
-/
namespace Sys2Proof.Machine
set_option Elab.async false

/-- What a key finds in a list, once what it finds has been changed under the key. -/
theorem find?_map_changed {α β : Type} [DecidableEq β] {key : α → β} {f : α → α} {xs : List α} {k : β} {c : α}
    (h : xs.find? (fun x => key x == k) = some c) (hf : key (f c) = k) :
    (xs.map fun x => if key x = k then f x else x).find? (fun x => key x == k) = some (f c) := by
  induction xs with
  | nil => cases h
  | cons x xs ih =>
    by_cases hx : key x = k
    · rw [List.find?_cons_of_pos (by simpa using hx)] at h
      cases h
      rw [List.map_cons, if_pos hx, List.find?_cons_of_pos (by simpa using hf)]
    · rw [List.find?_cons_of_neg (by simpa using hx)] at h
      rw [List.map_cons, if_neg hx, List.find?_cons_of_neg (by simpa using hx), ih h]

/-! ### The context of a slot (R152) -/

section
variable {s : State} {sl : SlotId} {id : BitVec 32} {c : Ctx}

/-- What an operation of a slot's context leaves: that context as the operation left it, and the rest of its state. -/
theorem State.withSlot_bound {f : State → State} (h0 : id ≠ 0) (hbound : s.boundAt sl = some id) (hc : s.getCtx id = some c)
    (hf : (f (s.focus id ⟨c.core, c.slot⟩)).cx.id = id) :
    (s.withSlot sl f).getCtx id = some (f (s.focus id ⟨c.core, c.slot⟩)).cx ∧
      SameButCtxs (f (s.focus id ⟨c.core, c.slot⟩)) (s.withSlot sl f) := by
  have hslot : s.withSlot sl f = s.asCtx id f := by
    unfold State.withSlot
    rw [hbound]
  rw [hslot]
  refine ⟨State.getCtx_asCtx h0 hc hf, ?_⟩
  unfold State.asCtx
  rw [hc]
  exact State.focus_sameButCtxs

theorem State.boundAt_congr {t : State} (h : t.cores = s.cores) : t.boundAt sl = s.boundAt sl := by
  unfold State.boundAt State.core
  rw [h]

theorem State.boundAt_setBound {o : Option (BitVec 32)} : (s.setBound sl o).boundAt sl = o := by
  unfold State.boundAt State.setBound
  rw [State.core_updCore]
  exact Vector.getElem_set_self _

theorem State.cores_updCtx {f : Ctx → Ctx} : (s.updCtx id f).cores = s.cores := by
  unfold State.updCtx; split <;> rfl

theorem State.cycle_updCtx {f : Ctx → Ctx} : (s.updCtx id f).cycle = s.cycle := by
  unfold State.updCtx; split <;> rfl

theorem State.getCtx_congr {t : State} (hcx : t.cx = s.cx) (hctxs : t.ctxs = s.ctxs) : t.getCtx id = s.getCtx id := by
  unfold State.getCtx State.allCtxs
  rw [hcx, hctxs]

/-- A context that is given new contents under its identity is found with them. -/
theorem State.getCtx_updCtx_found {f : Ctx → Ctx} (h0 : id ≠ 0) (hc : s.getCtx id = some c) (hf : (f c).id = id) :
    (s.updCtx id f).getCtx id = some (f c) := by
  by_cases hcur : s.cx.id = id
  · have hcx : s.cx = c := Option.some.inj ((State.getCtx_current s (hcur ▸ h0)).symm.trans (hcur ▸ hc))
    unfold State.updCtx
    rw [if_pos hcur, hcx]
    have := State.getCtx_current { s with cx := f c } (show (f c).id ≠ 0 from hf ▸ h0)
    rwa [show ({ s with cx := f c } : State).cx.id = id from hf] at this
  · unfold State.getCtx State.allCtxs at hc ⊢
    unfold State.updCtx
    rw [if_neg hcur]
    dsimp only
    split at hc
    · rename_i hnone
      rw [if_pos hnone]
      exact find?_map_changed hc hf
    · rename_i hsome
      rw [List.find?_cons_of_neg (by simpa using hcur)] at hc
      rw [if_neg hsome, List.find?_cons_of_neg (by simpa using hcur)]
      exact find?_map_changed hc hf

/-! ### Bind records (R152, R153, R400) -/

theorem State.slotRec_setSlotRec {r : BindRec} : (s.setSlotRec sl r).slotRec sl = r := by
  unfold State.slotRec State.setSlotRec
  rw [State.core_updCore]
  exact Vector.getElem_set_self _

theorem State.slotRec_congr {t : State} (h : t.cores = s.cores) : t.slotRec sl = s.slotRec sl := by
  unfold State.slotRec State.core
  rw [h]

theorem State.slotRec_setBound {o : Option (BitVec 32)} : (s.setBound sl o).slotRec sl = s.slotRec sl := by
  unfold State.slotRec State.setBound
  rw [State.core_updCore]

theorem State.boundAt_setSlotRec {r : BindRec} : (s.setSlotRec sl r).boundAt sl = s.boundAt sl := by
  unfold State.boundAt State.setSlotRec
  rw [State.core_updCore]

theorem State.slotRec_clearValid :
    (s.clearValid sl).slotRec sl = { s.slotRec sl with w2 := (s.slotRec sl).w2 &&& ~~~1#64 } := State.slotRec_setSlotRec

theorem State.boundAt_clearValid : (s.clearValid sl).boundAt sl = s.boundAt sl := State.boundAt_setSlotRec

section
variable (r : BindRec) (v : Word)

theorem BindRec.setWord_zero : r.setWord 0 v = { r with w0 := v &&& 0x3FFFFFFFFFFFFFFF } := rfl

theorem BindRec.setWord_one : r.setWord 1 v = { r with w1 := v } :=
  congrArg (fun w => { r with w1 := w }) BitVec.and_allOnes

theorem BindRec.setWord_two : r.setWord 2 v = { r with w2 := v &&& 7 } := rfl

theorem BindRec.setWord_three : r.setWord 3 v = { r with w3 := 0 } :=
  congrArg (fun w => { r with w3 := w }) BitVec.and_zero

end

theorem execBindRecord_eq {w0 w1 w2 w3 : Word} : execBindRecord sl w0 w1 w2 w3 s =
    execSlotBind sl (s.setSlotRec sl ⟨w0 &&& 0x3FFFFFFFFFFFFFFF, w1, w2 &&& 7, 0⟩) := by
  unfold execBindRecord
  rw [BindRec.setWord_zero, BindRec.setWord_one, BindRec.setWord_three, BindRec.setWord_two]
  rfl

theorem State.carryOut_invalid (h : (s.slotRec sl).valid = false) : s.carryOut sl = s := by
  unfold State.carryOut
  simp only [h, Bool.not_false, if_true]

theorem State.carryOut_unnamed (hv : (s.slotRec sl).valid = true) (hn : s.recordCtx sl (s.slotRec sl) = none) :
    s.carryOut sl = s.clearValid sl := by
  unfold State.carryOut
  simp only [hv, hn, Bool.not_true, Bool.false_eq_true, if_false]

theorem State.carryOut_free (hv : (s.slotRec sl).valid = true) (hn : s.recordCtx sl (s.slotRec sl) = some c)
    (hfree : s.slotFree sl = true) : s.carryOut sl = s.bindSlot sl (s.slotRec sl) c := by
  unfold State.carryOut
  simp only [hv, hn, hfree, Bool.not_true, Bool.false_eq_true, if_false, if_true]

theorem State.holdStack_held (hc : s.getCtx id = some c) (h : c.stackHeld = true) : s.holdStack id = some s := by
  unfold State.holdStack
  simp only [hc, Option.bind_some, h, if_true]

/-- A context whose binding in a slot has begun: it is placed there. -/
def Ctx.placedIn (sl : SlotId) (c : Ctx) : Ctx := { c with core := sl.core, slot := sl.slot }

/-- A placed context whose binding begins at a cycle, for a quantum (R153). -/
def Ctx.beginAt (cycle : Word) (quantum : BitVec 32) (c : Ctx) : Ctx :=
  { c with res := .bound, bindCyc := cycle, retireCyc := cycle, quantum := quantum, alone := false }

/-- A slot takes a context, its record's `VALID` goes, and the gang and the launch note it (R153, R155, R451). -/
def State.takeSlot (s : State) (sl : SlotId) (c : Ctx) : State :=
  (((s.setBound sl (some c.id)).clearValid sl).updGang c.gang Gang.rest).updLaunch c.launch (Launch.noteSlot c.id sl)

theorem State.boundAt_takeSlot : (s.takeSlot sl c).boundAt sl = some c.id :=
  (State.boundAt_congr (s := (s.setBound sl (some c.id)).clearValid sl) rfl).trans
    (State.boundAt_clearValid.trans State.boundAt_setBound)

theorem State.slotRec_takeSlot :
    (s.takeSlot sl c).slotRec sl = { s.slotRec sl with w2 := (s.slotRec sl).w2 &&& ~~~1#64 } := by
  rw [State.slotRec_congr (t := s.takeSlot sl c) (s := (s.setBound sl (some c.id)).clearValid sl) rfl,
    State.slotRec_clearValid, State.slotRec_setBound]

theorem State.getCtx_takeSlot : (s.takeSlot sl c).getCtx id = s.getCtx id := State.getCtx_congr rfl rfl

theorem State.enterSlot_of_hold {r : BindRec} {u : State} (h : (s.updCtx c.id (Ctx.placedIn sl)).holdStack c.id = some u) :
    s.enterSlot sl r c = (u.updCtx c.id (Ctx.beginAt u.cycle (r.w1.setWidth 32))).takeSlot sl c := by
  unfold State.enterSlot
  rw [show (s.updCtx c.id fun k => { k with core := sl.core, slot := sl.slot }).holdStack c.id = some u from h]
  rfl

/-- A context that holds its carve-out is bound in a slot at once (R53, R153). -/
theorem State.enterSlot_held {r : BindRec} (h0 : c.id ≠ 0) (hc : s.getCtx c.id = some c) (hstack : c.stackHeld = true) :
    (s.enterSlot sl r c).boundAt sl = some c.id ∧
      (s.enterSlot sl r c).slotRec sl = { s.slotRec sl with w2 := (s.slotRec sl).w2 &&& ~~~1#64 } ∧
      (s.enterSlot sl r c).getCtx c.id = some ((c.placedIn sl).beginAt s.cycle (r.w1.setWidth 32)) := by
  have hplaced : (s.updCtx c.id (Ctx.placedIn sl)).getCtx c.id = some (c.placedIn sl) :=
    State.getCtx_updCtx s h0 (fun _ => rfl) hc
  rw [State.enterSlot_of_hold (State.holdStack_held hplaced hstack)]
  refine ⟨State.boundAt_takeSlot, ?_, ?_⟩
  · rw [State.slotRec_takeSlot, State.slotRec_congr (State.cores_updCtx.trans State.cores_updCtx)]
  · rw [State.getCtx_takeSlot, State.cycle_updCtx]
    exact State.getCtx_updCtx _ h0 (fun _ => rfl) hplaced

/-! ### Pre-emption requests and aging (R153, R155, R393, R394) -/

/-- A context whose next image capability Barista has written. -/
def Ctx.asked (c : Ctx) : Ctx := { c with save := { c.save with imgCap := c.nextImage } }

theorem State.requestPreempt_granted (hc : s.getCtx id = some c) (hp : c.preempt = false)
    (hok : (s.updCtx id fun _ => c.asked).imageCapOk c.asked = true)
    (hkey : (s.updCtx id fun _ => c.asked).keyMissing c.asked = false) :
    s.requestPreempt id = (true, (s.updCtx id fun _ => c.asked).updCtx id fun k =>
      { k with preempt := true, preemptCyc := (s.updCtx id fun _ => c.asked).cycle }) := by
  unfold State.requestPreempt
  rw [hc]
  dsimp only
  rw [if_neg (by rw [hp]; decide)]
  refine if_neg fun h => ?_
  rcases Bool.or_eq_true_iff.1 h with h | h
  · cases hok.symm.trans (Bool.not_eq_true' _ ▸ h)
  · cases h.symm.trans hkey

/-- The occupant of a slot whose quantum has passed is asked to leave (R153, R393). -/
theorem execQuantumExpiry_asks (h0 : id ≠ 0) (hbound : s.boundAt sl = some id) (hc : s.getCtx id = some c)
    (hquantum : c.quantum ≠ 0) (hp : c.preempt = false) (hdue : c.bindCyc.toNat + c.quantum.toNat ≤ s.cycle.toNat)
    (hok : (s.updCtx id fun _ => c.asked).imageCapOk c.asked = true)
    (hkey : (s.updCtx id fun _ => c.asked).keyMissing c.asked = false) :
    ∃ t, execQuantumExpiry sl s = .next t ∧
      t.getCtx id = some { c.asked with preempt := true, preemptCyc := s.cycle } := by
  have hid : c.id = id := State.id_of_getCtx hc
  refine ⟨(s.requestPreempt id).2, ?_, ?_⟩
  · have hgo : ¬ (c.quantum = 0 || c.preempt || decide (s.cycle.toNat < c.bindCyc.toNat + c.quantum.toNat)) = true := by
      rw [hp, decide_eq_false (show ¬ c.quantum = 0 from hquantum), decide_eq_false (Nat.not_lt.2 hdue)]
      decide
    unfold execQuantumExpiry
    rw [hbound, Option.bind_some, hc]
    dsimp only
    rw [if_neg hgo, hid, State.requestPreempt_granted hc hp hok hkey]
  · have hasked : (s.updCtx id fun _ => c.asked).getCtx id = some c.asked := State.getCtx_updCtx_found h0 hc hid
    rw [State.requestPreempt_granted hc hp hok hkey, State.cycle_updCtx]
    exact State.getCtx_updCtx _ h0 (fun _ => rfl) hasked

theorem execQuantumExpiry_early (hbound : s.boundAt sl = some id) (hc : s.getCtx id = some c)
    (h : s.cycle.toNat < c.bindCyc.toNat + c.quantum.toNat) : execQuantumExpiry sl s = .next s := by
  unfold execQuantumExpiry
  rw [hbound, Option.bind_some, hc]
  dsimp only
  rw [if_pos (by rw [decide_eq_true h, Bool.or_true])]

theorem execAgingIntervalExpiry_eq {g : Gang} (h : s.gangs.find? (fun x => x.id == g.id) = some g) :
    execAgingIntervalExpiry g.id s =
      .next (if s.agingDue g then s.updGang g.id fun g => { g with level := g.level - 1 } else s) := by
  unfold execAgingIntervalExpiry
  rw [h]

/-! ### Forced saves (R393) -/

theorem State.drainStash_current (h0 : s.cx.id ≠ 0) (h : s.cx.stash = []) : s.drainStash s.cx.id = s := by
  unfold State.drainStash
  rw [State.getCtx_current _ h0]
  dsimp only
  rw [h]
  refine (State.updCtx_current s _).trans ?_
  show { s with cx := { s.cx with stash := [] } } = s
  rw [← h]

theorem State.drain_current (h0 : s.cx.id ≠ 0) (h : s.cx.storeQ = []) : s.drain s.cx.id = s :=
  State.drain_nil _ _ fun k hk => by
    rw [State.getCtx_current _ h0] at hk
    rw [← Option.some.inj hk, h]

/-- A context whose stores have all performed leaves its slot at once (R153, R154, R225). -/
theorem State.leaveSlot_current (h0 : s.cx.id ≠ 0) (hq : s.cx.storeQ = []) (hst : s.cx.stash = [])
    (hb : s.boundAt s.cxSlot = some s.cx.id) : s.leaveSlot s.cx.id = (s.setBound s.cxSlot none).updCx fun c =>
      { c with res := if c.qcached = 0 then .dormant else .resident, wait := .none, preempt := false } := by
  have hb' : s.boundAt ⟨s.cx.core, s.cx.slot⟩ = some s.cx.id := hb
  unfold State.leaveSlot
  rw [State.getCtx_current _ h0]
  dsimp only
  rw [State.drainStash_current h0 hst, State.drain_current h0 hq, if_pos hb']
  exact State.updCtx_current (s.setBound s.cxSlot none) _

theorem State.leave_save_current (full : Bool) (h0 : s.cx.id ≠ 0) (hq : s.cx.storeQ = []) (hst : s.cx.stash = []) :
    s.leave s.cx.id (.save full) = s.leaveForSave s.cx.id full := by
  unfold State.leave
  rw [State.drainStash_current h0 hst, State.drain_current h0 hq]
  dsimp only
  rw [State.getCtx_current _ h0]
  dsimp only
  rw [if_pos (by rw [hq]; rfl)]
  rfl

/-- A pre-empted context whose stores have all performed leaves its slot for its image (R393). -/
theorem State.leaveForSave_current (full : Bool) (h0 : s.cx.id ≠ 0) (hq : s.cx.storeQ = []) (hst : s.cx.stash = [])
    (hb : s.boundAt s.cxSlot = some s.cx.id) : ∃ clusters res, res ≠ .bound ∧ s.leaveForSave s.cx.id full =
      { s.setBound s.cxSlot none with clusters := clusters, cx := { s.cx with
        res := res, wait := .none, preempt := true, fullSave := full, run := .ready, alone := false } } := by
  obtain ⟨clusters, run, hstop⟩ : ∃ clusters run, s.stopWait s.cx.id =
      { s with clusters := clusters, cx := { s.cx with wait := .none, run := run } } :=
    ⟨_, _, State.updCtx_current { s with clusters := _ } _⟩
  have hleave := State.leaveSlot_current (s := { s with clusters := clusters, cx := { s.cx with wait := .none, run := run } })
    h0 hq hst hb
  refine ⟨clusters, if s.cx.qcached = 0 then .dormant else .resident, by split <;> simp, ?_⟩
  unfold State.leaveForSave
  rw [hstop]
  refine (congrArg (State.updCtx · s.cx.id _) hleave).trans ?_
  exact State.updCtx_current _ _

/-- What a forced save does, in the slot's context. -/
def State.forceSave (s : State) : State :=
  let c := s.cx
  let late := c.preemptCyc.toNat + 200000 ≤ s.cycle.toNat
  if c.preempt && (c.wait.stops || (c.wait == .none && late)) && !c.pend.any Pending.outside then
    s.completeAll.leave c.id (.save true)
  else
    match c.preempt, c.wait with
    | true, .txn label => s.askWithdraw label
    | _, _ => s

theorem execForcedSave_eq : execForcedSave sl s = .next (s.withSlot sl State.forceSave) := rfl

theorem State.forceSave_waits (hp : s.cx.preempt = true) (hw : s.cx.wait.stops = true) (hpend : s.cx.pend = []) :
    s.forceSave = s.leave s.cx.id (.save true) := by
  unfold State.forceSave
  dsimp only
  rw [if_pos (by rw [hp, hw, hpend]; rfl), State.completeAll_nil _ hpend]

/-! ### The fill of a quad (R148, R150) -/

/-- What fetching a unit leaves of a state: its contexts, and the lines of the register caches. -/
def FetchKeeps (s t : State) : Prop :=
  t.cx = s.cx ∧ t.ctxs = s.ctxs ∧ ∀ core, (t.core core).lines = (s.core core).lines

theorem FetchKeeps.refl : FetchKeeps s s := ⟨rfl, rfl, fun _ => rfl⟩

theorem FetchKeeps.trans {t u : State} (h : FetchKeeps s t) (k : FetchKeeps t u) : FetchKeeps s u :=
  ⟨k.1.trans h.1, k.2.1.trans h.2.1, fun core => (k.2.2 core).trans (h.2.2 core)⟩

theorem FetchKeeps.of_cores {t : State} (hcx : t.cx = s.cx) (hctxs : t.ctxs = s.ctxs) (hcores : t.cores = s.cores) :
    FetchKeeps s t :=
  ⟨hcx, hctxs, fun core => by unfold State.core; rw [hcores]⟩

theorem FetchKeeps.fillL1 {core : CoreIx} {e : TlbEntry} : FetchKeeps s (s.fillL1 core e) := by
  refine ⟨rfl, rfl, fun k => ?_⟩
  unfold State.fillL1
  by_cases hk : k = core
  · rw [hk, State.core_updCore]
  · rw [State.core_updCore_other _ _ _ _ hk]

theorem FetchKeeps.coreTranslate {core : CoreIx} {a : Asid} {va : Nat} {acc : Acc} {x : Xlate} {t : State}
    (h : s.coreTranslate core a va acc = .ok (x, t)) : FetchKeeps s t := by
  have hfill (l1 fresh : Bool) (e : TlbEntry) (u : State) : FetchKeeps u (
      let v := if fresh then u.fillTlb (clusterOf core) e else u
      if fresh || l1 then v.fillL1 core e else v) := by
    have htlb : FetchKeeps u (if fresh then u.fillTlb (clusterOf core) e else u) := by
      split
      · exact .of_cores rfl rfl rfl
      · exact .refl
    dsimp only
    split
    · exact htlb.trans .fillL1
    · exact htlb
  unfold State.coreTranslate State.translateBy at h
  dsimp only at h
  split at h
  · cases h
  split at h
  · cases h
  split at h
  · cases h
  obtain ⟨-, rfl⟩ := Prod.mk.inj (Except.ok.inj h)
  refine FetchKeeps.trans ?_ (hfill _ _ _ _)
  generalize HAdd.hAdd (_ : Nat) _ = bits
  split
  · exact .refl
  · exact .of_cores rfl rfl rfl

theorem FetchKeeps.reachMem {core : CoreIx} {a : Asid} {va : Nat} {q : Access} {eff : Word} {x : Target} {t : State}
    (h : s.reachMem core a va q eff = .ok (x, t)) : FetchKeeps s t := by
  unfold State.reachMem at h
  split at h
  · cases h
  split at h
  · cases h
  split at h
  · cases h
  all_goals
    rename_i htrans
    obtain ⟨-, rfl⟩ := Prod.mk.inj (Except.ok.inj h)
    exact .coreTranslate htrans

/-- Every node but one that MKNODE made asks the core's translation, or changes nothing. -/
theorem FetchKeeps.reach_plain {k : Ctx} {a : Asid} {eff : Word} {q : Access} {fuel : Nat} {body : NodeBody} {off : Nat}
    {hd : Option (BitVec 24)} {x : Target} {t : State} (hplain : ∀ h g base, body ≠ .sub h g base)
    (h : s.reach k a eff q fuel body off hd = .ok (x, t)) : FetchKeeps s t := by
  have hsame {y : Target} (h : (Except.ok (y, s) : Except Bad (Target × State)) = .ok (x, t)) : FetchKeeps s t := by
    obtain ⟨-, rfl⟩ := Prod.mk.inj (Except.ok.inj h)
    exact .refl
  have hspad {core : CoreIx} {base o : Nat} {tags : Bool} (h : reachSpad s core base o tags q eff = .ok (x, t)) :
      FetchKeeps s t := by
    rw [reachSpad_state _ _ _ _ _ _ _ _ _ h]
    exact .refl
  unfold State.reach at h
  cases body with
  | mem => exact .reachMem h
  | raw => exact hspad h
  | cx8 =>
    dsimp only at h
    split at h
    · cases h
    · exact hspad h
  | stack =>
    dsimp only at h
    split at h
    · cases h
    split at h
    · split at h
      · cases h
      split at h
      · exact hsame h
      · cases h
    · exact .reachMem h
  | sub => exact absurd rfl (hplain _ _ _)
  | _ =>
    dsimp only at h
    repeat' split at h
    all_goals simp only [reduceCtorEq, Except.ok.injEq, Prod.mk.injEq] at h
    all_goals exact h.2 ▸ .refl

/-- So does a node that MKNODE made, through the nodes it stands on. -/
theorem FetchKeeps.reach {k : Ctx} {a : Asid} {eff : Word} {q : Access} {fuel : Nat} {body : NodeBody} {off : Nat}
    {hd : Option (BitVec 24)} {x : Target} {t : State} (h : s.reach k a eff q fuel body off hd = .ok (x, t)) :
    FetchKeeps s t := by
  induction fuel generalizing body off hd with
  | zero =>
    cases body with
    | sub => cases h
    | _ => exact .reach_plain (fun _ _ _ e => by cases e) h
  | succ n ih =>
    cases body with
    | sub =>
      unfold State.reach at h
      dsimp only at h
      split at h
      · cases h
      · exact ih h
    | _ => exact .reach_plain (fun _ _ _ e => by cases e) h

theorem FetchKeeps.accessAt {k : Ctx} {v : RegVal} {need : BitVec 12} {eff : Word} {q : Access} {x : Target} {t : State}
    (h : s.accessAt k v need eff q = .ok (x, t)) : FetchKeeps s t := by
  unfold State.accessAt at h
  dsimp only at h
  split at h
  · cases h
  split at h
  · cases h
  split at h
  · cases h
  rename_i hreach
  obtain ⟨-, rfl⟩ := Prod.mk.inj (Except.ok.inj h)
  refine (FetchKeeps.reach hreach).trans ?_
  unfold State.cacheHandle State.cacheEntry
  split
  · exact .refl
  · exact .of_cores rfl rfl rfl

theorem FetchKeeps.fetchWord {addr : Word} {w : Nat} {t : State} (h : s.fetchWord addr = .ok (w, t)) : FetchKeeps s t := by
  unfold State.fetchWord at h
  split at h
  · cases h
  · rename_i haccess
    split at h
    · obtain ⟨-, rfl⟩ := Prod.mk.inj (Except.ok.inj h)
      exact .accessAt haccess
    · dsimp only at h
      split at h
      · cases h
      obtain ⟨-, rfl⟩ := Prod.mk.inj (Except.ok.inj h)
      exact (FetchKeeps.accessAt haccess).trans (.of_cores rfl rfl rfl)
  · rename_i haccess
    obtain ⟨-, rfl⟩ := Prod.mk.inj (Except.ok.inj h)
    exact .accessAt haccess

theorem FetchKeeps.fetchFrom {fuel : Nat} {addr : Word} {ws : List Nat} :
    FetchKeeps s (State.fetchFrom fuel addr ws s).2.2 := by
  induction fuel generalizing addr ws s with
  | zero => exact .refl
  | succ n ih =>
    unfold State.fetchFrom
    split
    · exact .refl
    · rename_i hword
      have hkeeps := FetchKeeps.fetchWord hword
      dsimp only
      split
      · exact hkeeps
      · exact hkeeps
      · exact hkeeps.trans ih

theorem FetchKeeps.fetchUnit : FetchKeeps s s.fetchUnit.2.2 := .fetchFrom

/-- A set of the register cache with a line to spare has room (R148). -/
theorem State.makeRoom_spare {core : CoreIx} {set fuel : Nat} (h : (s.core core).lines.length < 16) :
    State.makeRoom core set (fuel + 1) s = (true, s) := by
  unfold State.makeRoom
  exact if_pos (Nat.lt_of_le_of_lt (List.length_filter_le _ _) h)

/-- A quad that is neither cached nor in the descriptor is filled with zeros, where the cache has room (R150). -/
theorem State.fillQuad_zero {q : BitVec 4} (hcached : s.cx.qcached &&& quadBit q = 0) (hvalid : s.cx.qvalid &&& quadBit q = 0)
    (hroom : (s.core s.cx.core).lines.length < 16) : s.fillQuad q =
      (s.updCore s.cx.core fun k => { k with lines := (s.cx.id, q) :: k.lines }).updCx fun c =>
        { c with qcached := c.qcached ||| quadBit q } := by
  unfold State.fillQuad
  dsimp only
  rw [if_neg (by rw [hcached]; decide), if_pos hvalid, State.makeRoom_spare hroom]

/-- What QUAD_FILL does, in the slot's context. -/
def State.fillNamed (q : BitVec 4) (s : State) : State :=
  if s.cx.wait != .none || !s.namesQuad q then s
  else
    match s.fetchUnit with
    | (n, f, s) => (s.updCx fun c => { c with unit := unitInfo c.pc n f }).fillQuad q

theorem execQuadFill_eq {q : BitVec 4} : execQuadFill sl q s = .next (s.withSlot sl (State.fillNamed q)) := rfl

theorem State.fillNamed_absent {q : BitVec 4} (hwait : s.cx.wait = .none) (hnames : s.namesQuad q = true)
    (hcached : s.cx.qcached &&& quadBit q = 0) (hvalid : s.cx.qvalid &&& quadBit q = 0)
    (hroom : (s.core s.cx.core).lines.length < 16) :
    (∃ unit, (s.fillNamed q).cx = { s.cx with unit := unit, qcached := s.cx.qcached ||| quadBit q }) ∧
      ((s.fillNamed q).core s.cx.core).lines = (s.cx.id, q) :: (s.core s.cx.core).lines := by
  obtain ⟨hcx, -, hlines⟩ := FetchKeeps.fetchUnit (s := s)
  let u := s.fetchUnit.2.2.updCx fun c => { c with unit := unitInfo c.pc s.fetchUnit.1 s.fetchUnit.2.1 }
  have hu : u.cx = { s.cx with unit := unitInfo s.cx.pc s.fetchUnit.1 s.fetchUnit.2.1 } := by rw [← hcx]; rfl
  have hfill : s.fillNamed q = u.fillQuad q := by
    unfold State.fillNamed
    rw [hwait, hnames]
    rfl
  have hzero := State.fillQuad_zero (s := u) (q := q) (by rw [hu]; exact hcached) (by rw [hu]; exact hvalid)
    (by rw [hu]; exact (congrArg List.length (hlines _)).trans_lt hroom)
  rw [hfill, hzero]
  refine ⟨⟨unitInfo s.cx.pc s.fetchUnit.1 s.fetchUnit.2.1, ?_⟩, ?_⟩
  · show { u.cx with qcached := u.cx.qcached ||| quadBit q } = _
    rw [hu]
  · show ((u.updCore u.cx.core fun k => { k with lines := (u.cx.id, q) :: k.lines }).core s.cx.core).lines = _
    rw [hu, State.core_updCore]
    exact congrArg _ (hlines _)

/-! ### The slot's context, for each (R150, R393) -/

/-- A slot's waiting context with a request pending and no access outstanding leaves for its image (R393). -/
theorem execForcedSave_waiting (h0 : c.id ≠ 0) (hbound : s.boundAt ⟨c.core, c.slot⟩ = some c.id)
    (hc : s.getCtx c.id = some c) (hp : c.preempt = true) (hwait : c.wait.stops = true) (hpend : c.pend = [])
    (hq : c.storeQ = []) (hst : c.stash = []) : ∃ t res, execForcedSave ⟨c.core, c.slot⟩ s = .next t ∧ res ≠ .bound ∧
      t.boundAt ⟨c.core, c.slot⟩ = none ∧ t.mem = s.mem ∧ t.getCtx c.id = some { c with
        res := res, wait := .none, preempt := true, fullSave := true, run := .ready, alone := false } := by
  obtain ⟨f, hf⟩ : ∃ f, s.focus c.id ⟨c.core, c.slot⟩ = f := ⟨_, rfl⟩
  have hcx : f.cx = c := hf ▸ State.cx_focus h0 hc
  have hsame : SameButCtxs s f := hf ▸ State.focus_sameButCtxs
  have hslot : f.cxSlot = ⟨c.core, c.slot⟩ := by unfold State.cxSlot; rw [hcx]
  have hfbound : f.boundAt f.cxSlot = some f.cx.id := by
    rw [hslot, hcx, ← hbound]
    exact State.boundAt_congr (by rw [hsame])
  obtain ⟨clusters, res, hres, hleave⟩ := State.leaveForSave_current true (s := f) (hcx ▸ h0) (hcx ▸ hq) (hcx ▸ hst) hfbound
  have hforce : f.forceSave = f.leaveForSave f.cx.id true :=
    (State.forceSave_waits (hcx ▸ hp) (hcx ▸ hwait) (hcx ▸ hpend)).trans
      (State.leave_save_current true (hcx ▸ h0) (hcx ▸ hq) (hcx ▸ hst))
  rw [hleave, hslot, hcx] at hforce
  have hstep := State.withSlot_bound (f := State.forceSave) h0 hbound hc (by rw [hf, hforce])
  rw [hf, hforce] at hstep
  obtain ⟨hctx, hrest⟩ := hstep
  refine ⟨_, res, execForcedSave_eq, hres, ?_, ?_, hctx⟩
  · rw [State.boundAt_congr (s := f.setBound ⟨c.core, c.slot⟩ none) (by rw [hrest]), State.boundAt_setBound]
  · rw [hrest]
    show f.mem = s.mem
    rw [hsame]

/-- A quad that the next unit of a slot's context names comes into the register cache, as zeros where it was never written
(R150). -/
theorem execQuadFill_absent {q : BitVec 4} (h0 : id ≠ 0) (hbound : s.boundAt sl = some id) (hc : s.getCtx id = some c)
    (hcached : c.qcached &&& quadBit q = 0) (hvalid : c.qvalid &&& quadBit q = 0)
    (hroom : (s.core c.core).lines.length < 16) (hwait : c.wait = .none)
    (hnames : (s.focus id ⟨c.core, c.slot⟩).namesQuad q = true) : ∃ t unit, execQuadFill sl q s = .next t ∧
      t.getCtx id = some { c with unit := unit, qcached := c.qcached ||| quadBit q } ∧
      (t.core c.core).lines = (c.id, q) :: (s.core c.core).lines := by
  have hid : c.id = id := State.id_of_getCtx hc
  obtain ⟨f, hf⟩ : ∃ f, s.focus id ⟨c.core, c.slot⟩ = f := ⟨_, rfl⟩
  have hcx : f.cx = c := hf ▸ State.cx_focus h0 hc
  have hsame : SameButCtxs s f := hf ▸ State.focus_sameButCtxs
  have hcore (k : CoreIx) : f.core k = s.core k := by
    unfold State.core
    rw [hsame]
  obtain ⟨⟨unit, hfill⟩, hlines⟩ := State.fillNamed_absent (q := q) (s := f) (hcx ▸ hwait) (hf ▸ hnames) (hcx ▸ hcached)
    (hcx ▸ hvalid) (by rw [hcx, hcore]; exact hroom)
  rw [hcx] at hfill hlines
  have hstep := State.withSlot_bound (f := State.fillNamed q) h0 hbound hc
    (by rw [hf, hfill]; exact hid)
  rw [hf] at hstep
  obtain ⟨hctx, hrest⟩ := hstep
  refine ⟨_, unit, execQuadFill_eq, hctx.trans (congrArg some hfill), ?_⟩
  rw [← hcore, ← hlines]
  unfold State.core
  rw [hrest]

end

/-- Settles O36: each step is its case's equation. -/
theorem schedulingResults : Obligations.SchedulingResults := by
  unfold Obligations.SchedulingResults
  intro s sl w0 w1 w2 w3 id c q g r
  refine ⟨execBindRecord_eq, fun hv => congrArg Host.Outcome.next (State.carryOut_invalid hv), fun hv hn => ?_,
    fun hv hn hc h0 hfree hstack hcached => ?_, fun h0 hbound hc hid hquantum hp => ⟨execQuantumExpiry_early hbound hc, ?_⟩,
    fun hg => ⟨fun hdue => ?_, fun hdue => ?_⟩, fun h0 hbound hc hsl hp hwait hpend hq hst => ?_,
    fun h0 hbound hc hcached hvalid hroom hwait hnames => ?_⟩
  · exact ⟨_, congrArg Host.Outcome.next (State.carryOut_unnamed hv hn), State.slotRec_clearValid,
      State.boundAt_clearValid, rfl, rfl⟩
  · obtain ⟨hslot, hrec, hctx⟩ := State.enterSlot_held (sl := sl) (r := r) h0 hc hstack
    have hbind : s.bindSlot sl r c = s.enterSlot sl r c := if_pos (.inr hcached)
    exact ⟨_, _, congrArg Host.Outcome.next ((State.carryOut_free hv hn hfree).trans hbind), hslot, hrec, hctx,
      rfl, rfl, rfl, BitVec.setWidth_eq_extractLsb' (x := r.w1) (by decide), rfl, rfl, rfl⟩
  · intro asked u hdue hok hkey
    obtain ⟨t, ht, hctx⟩ := execQuantumExpiry_asks h0 hbound hc hquantum hp hdue hok hkey
    exact ⟨t, _, ht, hctx, rfl, rfl, rfl, rfl⟩
  · exact (execAgingIntervalExpiry_eq hg).trans (by rw [hdue]; rfl)
  · exact (execAgingIntervalExpiry_eq hg).trans (by rw [hdue]; rfl)
  · obtain rfl : c.id = id := State.id_of_getCtx hc
    subst hsl
    obtain ⟨t, res, ht, hres, hbare, hmem, hctx⟩ := execForcedSave_waiting h0 hbound hc hp hwait hpend hq hst
    exact ⟨t, _, ht, hbare, hctx, hres, rfl, rfl, rfl, rfl, rfl, rfl, hmem⟩
  · obtain ⟨t, unit, ht, hctx, hlines⟩ := execQuadFill_absent h0 hbound hc hcached hvalid hroom hwait hnames
    exact ⟨t, _, ht, hctx, rfl, rfl, hlines⟩

end Sys2Proof.Machine
end

section
/-!
Proofs of this sitting, KettleResults: Kettle's packets, a launch up to its placement, and the placement of a gang (O51).
-/
namespace Sys2Proof.Machine
set_option Elab.async false

/-! ### Queues and the start of a packet (R444, R445) -/

section
variable {s : State} {q : BitVec 5}

theorem State.kq_updKq {f : KQueue → KQueue} : (s.updKq q f).kq q = f (s.kq q) := Vector.getElem_set_self _

theorem State.kq_congr {t : State} (h : t.queues = s.queues) : t.kq q = s.kq q := by
  unfold State.kq
  rw [h]

/-- The packet at a queue's head has started (R445). -/
def State.takePacket (s : State) (q : BitVec 5) : State := s.updKq q fun k => { k with head := k.head + 1 }

theorem State.kq_takePacket : (s.takePacket q).kq q = { s.kq q with head := (s.kq q).head + 1 } := State.kq_updKq

section
variable {ty : Nat} {run : List Byte → State → State}

theorem State.startPacket_none (h : s.packetAt q = none) : s.startPacket q ty run = .next s := by
  unfold State.startPacket
  rw [h]

variable {bs : List Byte} (h : s.packetAt q = some bs)
include h

theorem State.startPacket_bad (hbad : badTrailer bs = true) :
    s.startPacket q ty run = .next (s.updKq q fun k => { k with state := 2 }) := by
  unfold State.startPacket
  rw [h]
  exact if_pos hbad

variable (hgood : badTrailer bs = false)
include hgood

theorem State.startPacket_waits (hw : (bs.getD 252 0).toNat ≠ ty ∨ ((bs.getD 253 0).toNat % 16 = 0 ∧ (s.kq q).open_ ≠ [])) :
    s.startPacket q ty run = .next s := by
  unfold State.startPacket
  rw [h]
  dsimp only
  rw [if_neg (by rw [hgood]; decide)]
  by_cases hty : (bs.getD 252 0).toNat = ty
  · obtain ⟨horder, hopen⟩ := hw.resolve_left (not_not.2 hty)
    rw [if_neg (not_not.2 hty), if_pos]
    rw [decide_eq_true horder]
    simpa using hopen
  · rw [if_pos hty]

theorem State.startPacket_starts (hty : (bs.getD 252 0).toNat = ty)
    (hgo : (bs.getD 253 0).toNat % 16 ≠ 0 ∨ (s.kq q).open_ = []) :
    s.startPacket q ty run = .next (run bs (s.takePacket q)) := by
  unfold State.startPacket
  rw [h]
  dsimp only
  rw [if_neg (by rw [hgood]; decide), if_neg (not_not.2 hty), if_neg]
  · rfl
  · rcases hgo with hgo | hgo
    · rw [decide_eq_false hgo]
      exact Bool.false_ne_true
    · rw [hgo]
      simp

end

/-! #### What each packet does once it has started (R447, R448) -/

/-- A WAIT goes on, or blocks its queue. -/
def runWait (q : BitVec 5) (bs : List Byte) (s : State) : State :=
  let addr : Word := .ofNat 64 (packetField bs 0 8)
  let value : Word := .ofNat 64 (packetField bs 8 8)
  let cond := bs.getD 16 0
  if 2 < cond.toNat then s.updKq q fun k => { k with state := 2 }
  else
    match kettleRead (s.kq q).asid 9 addr 8 s with
    | .error _ => s.freezeFn (s.kq q).fn
    | .ok (w, s) =>
      if waitHolds cond (.ofNat 64 (ofBytes w)) value then s.packetDone q (packetScope bs)
      else s.updKq q fun k => { k with blocked := some (addr, value, cond, packetScope bs) }

/-- A SIGNAL stores or adds. -/
def runSignal (q : BitVec 5) (bs : List Byte) (s : State) : State :=
  let addr : Word := .ofNat 64 (packetField bs 0 8)
  let value := packetField bs 8 8
  let op := bs.getD 16 0
  if 1 < op.toNat then s.updKq q fun k => { k with state := 2 }
  else
    match kettleRead (s.kq q).asid 9 addr 8 s with
    | .error _ => s.freezeFn (s.kq q).fn
    | .ok (w, s) =>
      match kettleWrite (s.kq q).asid .write 9 addr (toBytes (if op = 0 then value else ofBytes w + value) 8) s with
      | .error _ => s.freezeFn (s.kq q).fn
      | .ok s => s.packetDone q (packetScope bs)

/-- A FENCE joins the open packets. -/
def runFence (q : BitVec 5) (bs : List Byte) (s : State) : State :=
  let s := (s.openPacket q (some (packetScope bs))).2
  settleFences q (s.kq q).open_.length s

/-- The launch of a packet of a queue. -/
def KQueue.launchWith (k : KQueue) (q : BitVec 5) (ch : LoaderChoice) (n : Nat) (bs : List Byte) : Launch :=
  { id := n, queue := q, words := bs, asid := k.asid, fn := k.fn, deps := packetDeps bs, choice := ch
    fscope := packetScope bs }

/-- A launch joins the open packets and the launches that are there. -/
def State.addLaunch (s : State) (q : BitVec 5) (l : Launch) : State :=
  { (s.openPacket q none).2 with launches := s.launches ++ [l] }

/-- A LAUNCH begins. -/
def runLaunch (q : BitVec 5) (ch : LoaderChoice) (bs : List Byte) (s : State) : State :=
  let l := (s.kq q).launchWith q ch s.nextLaunch bs
  let u := s.addLaunch q l
  if !u.asidLive l.asid then u.failLaunch l 8 0
  else if 16 < l.tileReq then u.failLaunch l 5 0
  else advanceLaunch l.id launchFuel u

theorem exec_nopPacket : exec (.nopPacket q) s = s.startPacket q 5 fun bs s => s.packetDone q (packetScope bs) := rfl
theorem exec_waitPacket : exec (.waitPacket q) s = s.startPacket q 2 (runWait q) := rfl
theorem exec_signalPacket : exec (.signalPacket q) s = s.startPacket q 3 (runSignal q) := rfl
theorem exec_fencePacket : exec (.fencePacket q) s = s.startPacket q 4 (runFence q) := rfl
theorem exec_launch {ch : LoaderChoice} : exec (.launch q ch) s = s.startPacket q 1 (runLaunch q ch) := rfl

/-- Each packet step starts a packet of its own type. -/
theorem exec_packetForm {ch : LoaderChoice} {f : Instr × Nat} (hf : f ∈ ([(.launch q ch, 1), (.waitPacket q, 2),
    (.signalPacket q, 3), (.fencePacket q, 4), (.nopPacket q, 5)] : List (Instr × Nat))) :
    ∃ run, exec f.1 s = s.startPacket q f.2 run := by
  simp only [List.mem_cons, List.not_mem_nil, or_false] at hf
  rcases hf with rfl | rfl | rfl | rfl | rfl
  · exact ⟨_, exec_launch⟩
  · exact ⟨_, exec_waitPacket⟩
  · exact ⟨_, exec_signalPacket⟩
  · exact ⟨_, exec_fencePacket⟩
  · exact ⟨_, exec_nopPacket⟩

/-! ### Host memory as Kettle reaches it (R447) -/

theorem State.addrKey_host {cl : ClusterIx} {a : Asid} {addr : Word} {acc : Acc} (hhost : addr.toNat < 2 ^ 63)
    (hthere : s.hostAbsent.contains (addr.toNat / 4096) = false) :
    s.addrKey cl a addr acc = .ok (2 ^ 64 + addr.toNat, s) := by
  have hbit : addr.getLsbD 63 = false := by
    rw [BitVec.getLsbD, Nat.testBit_lt_two_pow hhost]
  unfold State.addrKey
  rw [hbit, hthere]
  rfl

theorem kettleRead_zero {a : Asid} {fuel : Nat} {addr : Word} : kettleRead a fuel addr 0 s = .ok ([], s) := by
  unfold kettleRead
  rfl

theorem kettleWrite_nil {a : Asid} {acc : Acc} {fuel : Nat} {addr : Word} : kettleWrite a acc fuel addr [] s = .ok s := by
  unfold kettleWrite
  rfl

theorem kettleRead_step {a : Asid} {fuel : Nat} {addr : Word} {n k key : Nat} {u v : State} {bs : List Byte} (hn : n ≠ 0)
    (hk : min n (4096 - addr.toNat % 4096) = k) (haddr : s.addrKey 0 a addr .read = .ok (key, u))
    (hrest : kettleRead a fuel (addr + .ofNat 64 k) (n - k) u = .ok (bs, v)) :
    kettleRead a (fuel + 1) addr n s = .ok (v.bytes key k ++ bs, v) := by
  subst hk
  cases n with
  | zero => exact absurd rfl hn
  | succ m =>
    rw [kettleRead, haddr]
    · dsimp only
      rw [show kettleRead a fuel _ _ u = _ from hrest]
    · exact hn

theorem Memory.bytes_append {m : Memory} {a k n : Nat} :
    Memory.bytes m a k ++ Memory.bytes m (a + k) n = Memory.bytes m a (k + n) := by
  unfold Memory.bytes
  rw [List.range_add, List.map_append, List.map_map]
  refine congrArg _ (List.map_congr_left fun i _ => ?_)
  show _ = Memory.byte m (a + (k + i))
  rw [Nat.add_assoc]

/-- Bytes of host memory whose pages are there are read as they stand. -/
theorem kettleRead_host {a : Asid} {fuel : Nat} {addr : Word} {n : Nat} (hhost : addr.toNat + n ≤ 2 ^ 63)
    (hthere : ∀ x, addr.toNat ≤ x → x < addr.toNat + n → s.hostAbsent.contains (x / 4096) = false)
    (hfuel : addr.toNat % 4096 + n ≤ 4096 * fuel) :
    kettleRead a fuel addr n s = .ok (s.bytes (2 ^ 64 + addr.toNat) n, s) := by
  induction fuel generalizing addr n with
  | zero =>
    obtain rfl : n = 0 := by omega
    exact kettleRead_zero
  | succ fuel ih =>
    by_cases hn : n = 0
    · subst hn
      exact kettleRead_zero
    · obtain ⟨k, hk⟩ : ∃ k, min n (4096 - addr.toNat % 4096) = k := ⟨_, rfl⟩
      have hkn : k ≤ n := hk ▸ Nat.min_le_left _ _
      have hnext : (addr + .ofNat 64 k).toNat = addr.toNat + k := by
        rw [BitVec.toNat_add, BitVec.toNat_ofNat, Nat.add_mod_mod, Nat.mod_eq_of_lt (by omega)]
      have hrest : kettleRead a fuel (addr + .ofNat 64 k) (n - k) s =
          .ok (s.bytes (2 ^ 64 + addr.toNat + k) (n - k), s) := by
        by_cases hlast : n - k = 0
        · rw [hlast]
          exact kettleRead_zero
        · rw [ih (by omega) (fun x hx hx' => hthere x (by omega) (by omega)) (by omega), hnext, Nat.add_assoc]
      rw [kettleRead_step hn hk (State.addrKey_host (by omega) (hthere _ (le_refl _) (by omega))) hrest, State.bytes,
        State.bytes, State.bytes, Memory.bytes_append, Nat.add_sub_cancel' hkn]

/-- Bytes within one page of host memory that is there are written at once. -/
theorem kettleWrite_page {a : Asid} {acc : Acc} {fuel : Nat} {addr : Word} {bs : List Byte} (hne : bs ≠ [])
    (hhost : addr.toNat < 2 ^ 63) (hthere : s.hostAbsent.contains (addr.toNat / 4096) = false)
    (hpage : addr.toNat % 4096 + bs.length ≤ 4096) :
    kettleWrite a acc (fuel + 1) addr bs s = .ok (s.homeWrite (2 ^ 64 + addr.toNat) bs) := by
  have hall : Nat.min bs.length (4096 - addr.toNat % 4096) = bs.length := Nat.min_eq_left (by omega)
  rw [kettleWrite, State.addrKey_host hhost hthere]
  · dsimp only
    rw [hall, List.drop_length, List.take_length, kettleWrite_nil]
  · exact hne

/-- A word of one page that is there: where bit 63 of its address is clear, it lies in host memory. -/
def HostWord (s : State) (addr : Word) : Prop :=
  addr.getLsbD 63 = false ∧ addr.toNat % 4096 ≤ 4088 ∧ s.hostAbsent.contains (addr.toNat / 4096) = false

theorem toNat_lt_of_bit {addr : Word} (h : addr.getLsbD 63 = false) : addr.toNat < 2 ^ 63 := by
  have hmsb : addr.msb = false := (BitVec.msb_eq_getLsbD_last addr).trans h
  have := BitVec.msb_eq_false_iff_two_mul_lt.1 hmsb
  omega

theorem HostWord.inHost {addr : Word} (h : HostWord s addr) : addr.toNat < 2 ^ 63 := toNat_lt_of_bit h.1

theorem HostWord.read {a : Asid} {addr : Word} (h : HostWord s addr) :
    kettleRead a 9 addr 8 s = .ok (s.bytes (2 ^ 64 + addr.toNat) 8, s) := by
  have hlt := h.inHost
  obtain ⟨-, hpage, hthere⟩ := h
  refine kettleRead_host (by omega) (fun x hx hx' => ?_) (by omega)
  rwa [show x / 4096 = addr.toNat / 4096 by omega]

theorem HostWord.write {a : Asid} {acc : Acc} {addr : Word} (h : HostWord s addr) (v : Nat) :
    kettleWrite a acc 9 addr (toBytes v 8) s = .ok (s.homeWrite (2 ^ 64 + addr.toNat) (toBytes v 8)) := by
  have hlt := h.inHost
  obtain ⟨-, hpage, hthere⟩ := h
  refine kettleWrite_page nofun hlt hthere ?_
  rw [length_toBytes]
  omega

theorem State.nat_homeWrite_word {key v : Nat} : (s.homeWrite key (toBytes v 8)).nat key 8 = v % 2 ^ 64 := by
  have hsame := State.bytes_homeWrite_same (s := s) (pa := key) (bs := toBytes v 8)
  rw [length_toBytes] at hsame
  unfold State.nat
  rw [hsame, ofBytes_toBytes, show 256 ^ 8 = 2 ^ 64 by decide]

theorem State.nat_congr {t : State} (h : t.mem = s.mem) {key n : Nat} : t.nat key n = s.nat key n := by
  unfold State.nat State.bytes
  rw [h]

/-! ### NOP, WAIT, SIGNAL, FENCE (R447) -/

theorem State.packetDone_takePacket {scope : BitVec 4} :
    (s.takePacket q).packetDone q scope = (s.takePacket q).clampFn (s.kq q).fn scope.toNat := by
  unfold State.packetDone
  rw [State.kq_takePacket]

/-- A WAIT whose word can be read goes on where its condition holds, and blocks its queue elsewhere. -/
theorem runWait_read {bs : List Byte} {w : List Byte} {u : State} (hop : (bs.getD 16 0).toNat ≤ 2)
    (hread : kettleRead (s.kq q).asid 9 (.ofNat 64 (packetField bs 0 8)) 8 s = .ok (w, u)) : runWait q bs s =
      if waitHolds (bs.getD 16 0) (.ofNat 64 (ofBytes w)) (.ofNat 64 (packetField bs 8 8)) then u.packetDone q (packetScope bs)
      else u.updKq q fun k => { k with
          blocked := some (.ofNat 64 (packetField bs 0 8), .ofNat 64 (packetField bs 8 8), bs.getD 16 0, packetScope bs) } := by
  unfold runWait
  dsimp only
  rw [if_neg (Nat.not_lt.2 hop), hread]

theorem runSignal_host {bs : List Byte} (hop : (bs.getD 16 0).toNat ≤ 1)
    (hword : HostWord s (.ofNat 64 (packetField bs 0 8))) : runSignal q bs s =
      let key := 2 ^ 64 + (BitVec.ofNat 64 (packetField bs 0 8)).toNat
      let v := if bs.getD 16 0 = 0 then packetField bs 8 8 else s.nat key 8 + packetField bs 8 8
      (s.homeWrite key (toBytes v 8)).packetDone q (packetScope bs) := by
  unfold runSignal
  dsimp only
  rw [if_neg (Nat.not_lt.2 hop), hword.read]
  dsimp only
  rw [hword.write]
  rfl

theorem execWaitPacketSatisfied_free (h : (s.kq q).blocked = none) : execWaitPacketSatisfied q s = .next s := by
  unfold execWaitPacketSatisfied
  rw [h]

theorem execWaitPacketSatisfied_read {addr w : Word} {cond : BitVec 8} {scope : BitVec 4} {x : List Byte} {u : State}
    (h : (s.kq q).blocked = some (addr, w, cond, scope)) (hstate : (s.kq q).state = 0)
    (hread : kettleRead (s.kq q).asid 9 addr 8 s = .ok (x, u)) : execWaitPacketSatisfied q s =
      .next (if waitHolds cond (.ofNat 64 (ofBytes x)) w then (u.updKq q fun k => { k with blocked := none }).packetDone q scope
        else u) := by
  unfold execWaitPacketSatisfied
  rw [h]
  dsimp only
  rw [if_neg (not_not.2 hstate), hread]

/-- Where the oldest open packet is no FENCE, none completes. -/
theorem settleFences_none {fuel : Nat} (h : ∀ p ∈ (s.kq q).open_.head?, p.2 = none) : settleFences q fuel s = s := by
  cases fuel with
  | zero => rfl
  | succ fuel =>
    unfold settleFences
    split
    · rename_i hopen
      rw [hopen] at h
      cases h _ rfl
    · rfl

theorem State.queues_packetDone {scope : BitVec 4} : (s.packetDone q scope).queues = s.queues := by
  unfold State.packetDone
  rw [State.clampFn_frame]

theorem State.mem_packetDone {scope : BitVec 4} : (s.packetDone q scope).mem = s.mem := by
  unfold State.packetDone
  rw [State.clampFn_frame]

theorem State.kq_openPacket {fence : Option (BitVec 4)} : (s.openPacket q fence).2.kq q =
    { s.kq q with open_ := (s.kq q).open_ ++ [(s.nextLaunch, fence)] } := State.kq_updKq

theorem settleFences_fence {fuel n : Nat} {scope : BitVec 4} {rest : List (Nat × Option (BitVec 4))}
    (h : (s.kq q).open_ = (n, some scope) :: rest) : settleFences q (fuel + 1) s =
      settleFences q fuel ((s.updKq q fun k => { k with open_ := rest }).packetDone q scope) := by
  rw [settleFences, h]

/-- A FENCE with nothing open completes at once. -/
theorem runFence_nil {bs : List Byte} (h : (s.kq q).open_ = []) : (runFence q bs s).kq q = { s.kq q with open_ := [] } ∧
    (runFence q bs s).mem = s.mem := by
  obtain ⟨u, hu⟩ : ∃ u, (s.openPacket q (some (packetScope bs))).2 = u := ⟨_, rfl⟩
  have hkq : u.kq q = { s.kq q with open_ := [(s.nextLaunch, some (packetScope bs))] } := by
    rw [← hu, State.kq_openPacket, h]
    rfl
  have hrun : runFence q bs s = (u.updKq q fun k => { k with open_ := [] }).packetDone q (packetScope bs) := by
    show settleFences q ((s.openPacket q (some (packetScope bs))).2.kq q).open_.length
      (s.openPacket q (some (packetScope bs))).2 = _
    rw [hu, hkq]
    exact settleFences_fence (by rw [hkq])
  rw [hrun]
  refine ⟨?_, ?_⟩
  · rw [State.kq_congr State.queues_packetDone, State.kq_updKq, hkq]
  · rw [State.mem_packetDone, ← hu]
    rfl

/-- A FENCE behind an open packet joins the open ones. -/
theorem runFence_cons {bs : List Byte} {n : Nat} {rest : List (Nat × Option (BitVec 4))}
    (h : (s.kq q).open_ = (n, none) :: rest) : runFence q bs s = (s.openPacket q (some (packetScope bs))).2 := by
  refine settleFences_none fun p hp => ?_
  rw [State.kq_openPacket] at hp
  dsimp only at hp
  rw [h] at hp
  cases hp
  rfl

/-! ### A launch that ends before its tasks (R62, R446, R448) -/

variable {l : Launch}

/-- Nothing has been made for a launch yet that its failure would give back. -/
def Launch.Bare (l : Launch) : Prop := l.caps = [] ∧ l.ctxs = [] ∧ l.tiles = [] ∧ l.textCap = 0

theorem State.failLaunch_bare {status detail : BitVec 8} (h : l.Bare) :
    s.failLaunch l status detail = (s.releaseLaunch l).writeCompletion l status detail 0 := by
  obtain ⟨hcaps, hctxs, -, htext⟩ := h
  unfold State.failLaunch
  rw [hcaps, hctxs, htext]
  rfl

theorem State.releaseLaunch_bare (h : l.Bare) : (s.releaseLaunch l).queues = s.queues ∧
    (s.releaseLaunch l).launches = s.launches ∧ (s.releaseLaunch l).mem = s.mem ∧
    (s.releaseLaunch l).hostAbsent = s.hostAbsent := by
  obtain ⟨-, -, htiles, -⟩ := h
  unfold State.releaseLaunch
  rw [htiles]
  exact ⟨rfl, rfl, rfl, rfl⟩

theorem State.closePacket_none {n : Nat} (h : ∀ p ∈ (s.kq q).open_, p.2 = none) :
    s.closePacket q n = s.updKq q fun k => { k with open_ := k.open_.filter fun p => p.1 != n } := by
  refine settleFences_none fun p hp => h p ?_
  rw [State.kq_updKq] at hp
  exact (List.mem_filter.1 (List.mem_of_mem_head? hp)).1

/-- A completion word that can be written goes to host memory, and the launch leaves its queue (R445, R448). -/
theorem State.writeCompletion_host {status detail : BitVec 8} {exit : BitVec 32} (hword : HostWord s l.doneAddr) :
    ∃ u, s.writeCompletion l status detail exit = State.closePacket u l.queue l.id ∧ u.queues = s.queues ∧
      u.launches = s.launches.filter (fun x => x.id != l.id) ∧ u.mem = Memory.write s.mem (2 ^ 64 + l.doneAddr.toNat)
        (toBytes (status.toNat + detail.toNat * 2 ^ 8 + exit.toNat * 2 ^ 32) 8) := by
  obtain ⟨pkg, hclamp⟩ : ∃ pkg, s.clampFn l.fn l.fscope.toNat = { s with pkg := pkg } := ⟨_, s.clampFn_frame _ _⟩
  have hword' : HostWord { s with pkg := pkg } l.doneAddr := hword
  unfold State.writeCompletion
  rw [hclamp]
  dsimp only
  rw [hword'.write]
  exact ⟨_, rfl, rfl, rfl, rfl⟩

/-- A launch that fails with nothing made writes its status word and leaves its queue (R445, R448). -/
theorem State.failLaunch_host {status : BitVec 8} (h : l.Bare) (hword : HostWord s l.doneAddr)
    (hopen : ∀ p ∈ (s.kq l.queue).open_, p.2 = none) :
    (s.failLaunch l status 0).nat (2 ^ 64 + l.doneAddr.toNat) 8 = status.toNat ∧
      (s.failLaunch l status 0).launches = s.launches.filter (fun x => x.id != l.id) ∧
      (s.failLaunch l status 0).kq l.queue =
        { s.kq l.queue with open_ := (s.kq l.queue).open_.filter fun p => p.1 != l.id } := by
  obtain ⟨hq, hl, hm, ha⟩ := State.releaseLaunch_bare (s := s) h
  obtain ⟨u, hwrite, hqueues, hlaunches, hmem⟩ := State.writeCompletion_host (s := s.releaseLaunch l) (status := status)
    (detail := 0) (exit := 0) (l := l) (by unfold HostWord; rw [ha]; exact hword)
  rw [hl] at hlaunches
  rw [hm] at hmem
  have hkq : u.kq l.queue = s.kq l.queue := State.kq_congr (hqueues.trans hq)
  rw [State.failLaunch_bare h, hwrite, State.closePacket_none (by rw [hkq]; exact hopen)]
  refine ⟨?_, hlaunches, by rw [State.kq_updKq, hkq]⟩
  have hval : status.toNat + (0#8).toNat * 2 ^ 8 + (0#32).toNat * 2 ^ 32 = status.toNat := by simp
  show u.nat _ 8 = _
  rw [State.nat_congr (s := s.homeWrite (2 ^ 64 + l.doneAddr.toNat)
    (toBytes (status.toNat + (0#8).toNat * 2 ^ 8 + (0#32).toNat * 2 ^ 32) 8)) hmem, State.nat_homeWrite_word, hval]
  exact Nat.mod_eq_of_lt (by have := status.isLt; omega)

/-! ### How far a launch goes on in one step (R62, R448) -/

theorem State.launchOf_none {id : Nat} (h : ∀ x ∈ s.launches, x.id ≠ id) : s.launchOf id = none :=
  List.find?_eq_none.2 (by simpa using h)

theorem advanceLaunch_gone {id fuel : Nat} (h : s.launchOf id = none) : advanceLaunch id fuel s = s := by
  cases fuel with
  | zero => rfl
  | succ fuel =>
    unfold advanceLaunch
    rw [h]

section
variable {fuel : Nat} (h : s.launchOf l.id = some l)
include h

theorem advanceLaunch_ends (hend : (s.launchStage l).launchOf l.id = none) :
    advanceLaunch l.id (fuel + 1) s = s.launchStage l := by
  unfold advanceLaunch
  rw [h]
  dsimp only
  rw [hend]

variable {m : Launch} (hnext : (s.launchStage l).launchOf l.id = some m)
include hnext

theorem advanceLaunch_moves (hmove : m.stage ≠ l.stage) :
    advanceLaunch l.id (fuel + 1) s = advanceLaunch l.id fuel (s.launchStage l) := by
  rw [advanceLaunch, h]
  dsimp only
  rw [hnext]
  dsimp only
  rw [if_neg]
  simp [hmove]

theorem advanceLaunch_stays (hstage : m.stage = l.stage) (hbinds : m.bindsLeft = l.bindsLeft) (hhead : m.headed = l.headed) :
    advanceLaunch l.id (fuel + 1) s = s.launchStage l := by
  rw [advanceLaunch, h]
  dsimp only
  rw [hnext]
  dsimp only
  rw [if_pos]
  simp [hstage, hbinds, hhead]

end

/-! #### Event records (R448) -/

/-- Where no record satisfies any `DEP`, none is consumed. -/
theorem consumeDeps_none {a : Asid} {ds : List (ClusterIx × BitVec 32)}
    (h : ∀ d ∈ ds, ∀ r ∈ s.unclaimed d.1, recordMatches r (a, d.2) = false) : consumeDeps a ds s = (ds, s) := by
  induction ds with
  | nil => rfl
  | cons d ds ih =>
    obtain ⟨cl, key⟩ := d
    have hnone : (s.unclaimed cl).find? (recordMatches · (a, key)) = none :=
      List.find?_eq_none.2 fun r hr => by rw [h _ List.mem_cons_self r hr]; exact Bool.false_ne_true
    unfold consumeDeps
    rw [hnone, ih fun d hd => h d (List.mem_cons_of_mem _ hd)]

/-- A launch whose `DEP`s are left in part: it goes on to its object once none is. -/
def Launch.leaveDeps (ds : List (ClusterIx × BitVec 32)) (l : Launch) : Launch :=
  { l with deps := ds, stage := if ds.isEmpty then .load else .deps }

theorem Launch.leaveDeps_self (hstage : l.stage = .deps) (h : l.deps ≠ []) : l.leaveDeps l.deps = l := by
  have hfull : l.deps.isEmpty = false := by simpa using h
  unfold Launch.leaveDeps
  rw [hfull, ← hstage]
  rfl

theorem Launch.leaveDeps_nil (h : l.deps = []) : l.leaveDeps l.deps = { l with stage := .load } := by
  unfold Launch.leaveDeps
  rw [h]
  rfl

/-- Where no record satisfies a `DEP`, all are left. -/
theorem State.launchStage_deps (hstage : l.stage = .deps)
    (h : ∀ d ∈ l.deps, ∀ r ∈ s.unclaimed d.1, recordMatches r (l.asid, d.2) = false) :
    s.launchStage l = s.updLaunch l.id (Launch.leaveDeps l.deps) := by
  unfold State.launchStage
  rw [hstage]
  dsimp only
  rw [consumeDeps_none h]
  rfl

/-! ### The loader's memory beside the work that goes on (R62, R413 to R418)

What the loader reads and writes of memory does not depend on queues, launches and gangs: it is the same whatever these are,
and leaves them as they are. -/

/-- A state with the queues, launches and gangs of another. -/
def State.withWork (s w : State) : State :=
  { s with queues := w.queues, nextLaunch := w.nextLaunch, launches := w.launches, gangs := w.gangs, nextGang := w.nextGang }

variable {w : State}

theorem State.asidEntry_withWork {a : Asid} : (s.withWork w).asidEntry a = s.asidEntry a := rfl

theorem State.walkLevels_withWork {va table : Nat} {levels : List (Nat × Nat × Nat)} {l0 : Bool} :
    (s.withWork w).walkLevels va levels table l0 = s.walkLevels va levels table l0 := by
  induction levels generalizing table l0 with
  | nil => rfl
  | cons x levels ih =>
    unfold State.walkLevels
    dsimp only
    rw [ih]
    rfl

theorem State.walk_withWork {a : Asid} {va : Nat} : (s.withWork w).walk a va = s.walk a va := by
  unfold State.walk
  dsimp only
  rw [State.walkLevels_withWork, State.asidEntry_withWork]

theorem State.segmentOk_withWork {a : Asid} {va : Word} {n : Nat} {text : Bool} :
    (s.withWork w).segmentOk a va n text = s.segmentOk a va n text := by
  have hpage (va : Nat) : (s.withWork w).pageFor a va text = s.pageFor a va text := by
    unfold State.pageFor
    rw [State.walk_withWork]
    rfl
  unfold State.segmentOk
  simp only [hpage]

/-- A result of an operation on the state, with the work put back. -/
def putWork {ε α : Type} (w : State) (r : Except ε (α × State)) : Except ε (α × State) := r.map fun x => (x.1, x.2.withWork w)

theorem State.translateBy_withWork {hit : Option TlbEntry} {fill : Bool → TlbEntry → State → State} {a : Asid} {va : Nat}
    {acc : Acc} (hfill : ∀ b e (u : State), fill b e (u.withWork w) = (fill b e u).withWork w) :
    (s.withWork w).translateBy hit fill a va acc = putWork w (s.translateBy hit fill a va acc) := by
  have horPte (pa bits : Nat) : (if bits = 0 then s.withWork w else (s.withWork w).orPte pa bits) =
      (if bits = 0 then s else s.orPte pa bits).withWork w := by
    split <;> rfl
  unfold State.translateBy
  rw [State.walk_withWork]
  split
  · rfl
  · rename_i leaf _
    rw [show (s.withWork w).leafCheck a leaf.pte acc = s.leafCheck a leaf.pte acc from rfl]
    split
    · rfl
    · rw [show (s.withWork w).leafAddr leaf.pte leaf.shift va = s.leafAddr leaf.pte leaf.shift va from rfl]
      split
      · rfl
      · dsimp only
        rw [horPte, hfill]
        rfl

theorem State.translate_withWork {cl : ClusterIx} {a : Asid} {va : Nat} {acc : Acc} :
    (s.withWork w).translate cl a va acc = putWork w (s.translate cl a va acc) :=
  State.translateBy_withWork fun b _ _ => by cases b <;> rfl

theorem State.addrKey_withWork {cl : ClusterIx} {a : Asid} {addr : Word} {acc : Acc} :
    (s.withWork w).addrKey cl a addr acc = putWork w (s.addrKey cl a addr acc) := by
  unfold State.addrKey
  rw [State.translate_withWork]
  split
  · rcases s.translate cl a (addr.toNat - 2 ^ 63) acc with _ | ⟨_ | _ | _, _⟩ <;> rfl
  · rw [show (s.withWork w).hostAbsent = s.hostAbsent from rfl]
    split <;> rfl

theorem kettleWrite_withWork {a : Asid} {acc : Acc} {fuel : Nat} {addr : Word} {bs : List Byte} :
    kettleWrite a acc fuel addr bs (s.withWork w) = (kettleWrite a acc fuel addr bs s).map (State.withWork · w) := by
  induction fuel generalizing addr bs s with
  | zero => cases bs <;> rfl
  | succ fuel ih =>
    cases bs with
    | nil => rfl
    | cons b bs =>
      unfold kettleWrite
      rw [State.addrKey_withWork]
      rcases s.addrKey 0 a addr acc with _ | ⟨key, u⟩
      · rfl
      · exact ih (s := u.homeWrite key _)

theorem State.putSegment_withWork {a : Asid} {va : Word} {bs : List Byte} {text : Bool} :
    (s.withWork w).putSegment a va bs text = (s.putSegment a va bs text).map (State.withWork · w) := by
  unfold State.putSegment
  rw [kettleWrite_withWork]
  cases kettleWrite a _ _ _ bs s <;> rfl

/-! ### Loading an object (R62) -/

theorem launches_map_last {xs : List Launch} {f : Launch → Launch} (h : ∀ x ∈ xs, x.id ≠ l.id) :
    ((xs ++ [l]).map fun k => if k.id = l.id then f k else k) = xs ++ [f l] := by
  rw [List.map_append, List.map_cons, List.map_nil, if_pos rfl]
  congr 1
  refine (List.map_congr_left fun x hx => if_neg (h x hx)).trans ?_
  exact List.map_id' _

/-- The regions chosen for a launch are new beside itself as they are without it. -/
theorem State.regionsNew_added {t : State} {m : Launch} {h : ObjHead} (hl : t.launches = s.launches ++ [m]) (hid : m.id = l.id)
    (hasid : m.asid = l.asid) (hchoice : m.choice = l.choice) : t.regionsNew m h = s.regionsNew l h := by
  unfold State.regionsNew Launch.regions
  rw [hl, hid, hasid, hchoice, List.filter_append]
  simp [hid]

/-- A launch with its object taken apart: what the loader notes of it where it replays nothing. -/
def Launch.withObject (l : Launch) (h : ObjHead) (image spad : List Byte) : Launch :=
  { l with
    image := image, prio := .ofNat 2 h.prio, stack := h.stack, spad := h.spad, spadImage := spad, argOff := h.args
    argSize := h.argSz, tasks := (Obj.ofBytes image).tasks.map (Obj.ofBytes image).task
    binds := (Obj.ofBytes image).binds.map (Obj.ofBytes image).bind, replay := none }

section
variable {hd : List Byte} (hhead : kettleRead l.asid 3 l.objAddr 64 s = .ok (hd, s))
include hhead

theorem State.loadObject_bad (h : (ObjHead.ofBytes hd).magic ≠ 0x424F5747 ∨ (ObjHead.ofBytes hd).version ≠ 1) :
    s.loadObject l = s.failLaunch l 1 0 := by
  unfold State.loadObject
  rw [hhead]
  refine if_pos ?_
  simpa using h

/-- An object that passes every check, whose segments have been put in memory, is loaded: its gangs are made. -/
theorem State.loadObject_good {image : List Byte} {images : List Byte × List Byte} {u : State}
    (hmagic : (ObjHead.ofBytes hd).magic = 0x424F5747) (hversion : (ObjHead.ofBytes hd).version = 1)
    (himage : kettleRead l.asid ((ObjHead.ofBytes hd).size / 4096 + 2) l.objAddr (ObjHead.ofBytes hd).size s = .ok (image, s))
    (hok : (Obj.ofBytes image).ok = true)
    (hpriv : l.fn = 0 ∨ ((Obj.ofBytes image).tasks.map (Obj.ofBytes image).task).any (fun t => t.flags.getLsbD 0) = false)
    (hplaces : (s.segmentOk l.asid l.choice.textVa (ObjHead.ofBytes hd).textSz true &&
      s.segmentOk l.asid l.choice.dataVa (ObjHead.ofBytes hd).dataSz false && l.choice.argVa.toNat % 32 = 0 &&
      l.choice.argVa.toNat + (ObjHead.ofBytes hd).argSz ≤ 2 ^ 48 && s.regionsNew l (ObjHead.ofBytes hd)) = true)
    (hrel : relocate l.choice.dataVa.toNat (Obj.ofBytes image).rels ((Obj.ofBytes image).data, (Obj.ofBytes image).spad) =
      some images)
    (hput : ((s.putSegment l.asid l.choice.textVa (Obj.ofBytes image).text true).bind fun s =>
      s.putSegment l.asid l.choice.dataVa images.1 false) = some u)
    (hreplay : l.replays = false) : s.loadObject l =
      (u.updLaunch l.id fun _ => l.withObject (ObjHead.ofBytes hd) image images.2).makeGangs
        (l.withObject (ObjHead.ofBytes hd) image images.2) := by
  unfold State.loadObject
  rw [hhead]
  dsimp only
  rw [if_neg (by rw [hmagic, hversion]; simp), himage]
  dsimp only
  rw [if_neg (by rw [hok]; decide), if_neg (by simpa using hpriv.resolve_left), if_neg (by rw [hplaces]; decide), hrel]
  dsimp only [Option.map_some, Option.getD_some]
  rw [hput, hreplay]
  rfl

end

end

section
variable {s : State} {q : BitVec 5} {l : Launch}

/-! #### The gangs of a launch, to be placed (R54, R62) -/

/-- The gang numbers that tasks of a launch have. -/
def Launch.gangNums (l : Launch) : List Nat := (List.range 64).filter fun g => l.tasks.any fun t => t.gang == g

/-- The identities of the gangs that are made for a launch. -/
def State.newGangs (s : State) (l : Launch) : List (BitVec 32) :=
  (List.range l.gangNums.length).map fun i => s.nextGang + .ofNat 32 i

/-- A gang of a launch, as it is made. -/
def Launch.newGang (l : Launch) (id : BitVec 32) : Gang :=
  { id := id, launch := l.id, asid := l.asid, members := [], level := l.prio, home := l.prio }

theorem Launch.length_gangNums : l.gangNums.length ≤ 64 :=
  (List.length_filter_le _ _).trans_eq List.length_range

theorem State.length_newGangs : (s.newGangs l).length = l.gangNums.length := by
  rw [State.newGangs, List.length_map, List.length_range]

theorem State.mem_newGangs {id : BitVec 32} (h : id ∈ s.newGangs l) : ∃ i < 64, id = s.nextGang + .ofNat 32 i := by
  obtain ⟨i, hi, rfl⟩ := List.mem_map.1 h
  exact ⟨i, (List.mem_range.1 hi).trans_le Launch.length_gangNums, rfl⟩

theorem State.launchOf_makeGangs (h : s.launchOf l.id = some l) :
    (s.makeGangs l).launchOf l.id = some { l with gangs := s.newGangs l, stage := .place } :=
  find?_map_changed h rfl

/-- Each of the gangs made is there, not placed and with no member. -/
theorem State.newGang_mem {id : BitVec 32} (h : id ∈ s.newGangs l) : l.newGang id ∈ (s.makeGangs l).gangs :=
  List.mem_append_right _ (List.mem_map_of_mem h)

/-- Under a fresh identity the gang made is the only one that is there. -/
theorem State.newGang_unplaced (hfresh : ∀ g ∈ s.gangs, ∀ i, i < 64 → g.id ≠ s.nextGang + .ofNat 32 i) {id : BitVec 32}
    (h : id ∈ s.newGangs l) : ∀ g ∈ (s.makeGangs l).gangs, g.id = id → g.cluster = none := by
  intro g hg hid
  rcases List.mem_append.1 hg with hold | hnew
  · obtain ⟨i, hi, rfl⟩ := State.mem_newGangs h
    exact absurd hid (hfresh g hold i hi)
  · obtain ⟨_, -, rfl⟩ := List.mem_map.1 hnew
    rfl

/-! #### A launch that waits for its placement (R53, R143) -/

theorem State.clusterOf_none {id : BitVec 32} (h : ∀ g ∈ s.gangs, g.id = id → g.cluster = none) :
    (s.gangs.find? fun g => g.id == id).bind Gang.cluster = none := by
  cases hfind : s.gangs.find? fun g => g.id == id with
  | none => rfl
  | some g => exact h g (List.mem_of_find?_eq_some hfind) (by simpa using List.find?_some hfind)

section
variable (h : ∀ id ∈ l.gangs, ∀ g ∈ s.gangs, g.id = id → g.cluster = none)
include h

theorem State.launchCores_unplaced : s.launchCores l = [] := by
  unfold State.launchCores
  rw [List.flatMap_eq_nil_iff.2]
  · rfl
  · intro x hx
    dsimp only
    rw [State.clusterOf_none (h _ (List.fst_mem_of_mem_zipIdx hx))]

theorem State.reserve_unplaced {bases : List (CoreIx × Nat)} : s.reserve l bases = s := by
  unfold State.reserve
  rw [State.launchCores_unplaced h]
  rfl

theorem State.allotTiles_unplaced : s.allotTiles l = s := by
  have hnone : l.gangs.filterMap (fun id => (s.gangs.find? fun g => g.id == id).bind Gang.cluster) = [] :=
    List.filterMap_eq_nil_iff.2 fun id hid => State.clusterOf_none (h id hid)
  unfold State.allotTiles
  rw [hnone]
  rfl

/-- While none of its gangs is placed, a launch waits as it is. -/
theorem State.launchStage_unplaced (hstage : l.stage = .place) (hne : l.gangs ≠ []) : s.launchStage l = s := by
  obtain ⟨id, hid⟩ := List.exists_mem_of_ne_nil _ hne
  have hplaced : s.placed l = false := by
    unfold State.placed
    rw [List.all_eq_false.2 ⟨id, hid, by rw [State.clusterOf_none (h id hid)]; exact Bool.false_ne_true⟩, Bool.false_and]
  unfold State.launchStage
  rw [hstage]
  dsimp only
  rw [State.reserve_unplaced h, State.allotTiles_unplaced h, hplaced]
  exact if_neg Bool.false_ne_true

end

/-! ### The placement of a gang (R53, R143) -/

/-- A gang's cluster is chosen, and the choice is noted. -/
def State.placeGang (s : State) (id : BitVec 32) (cl : ClusterIx) : State :=
  { s with
    gangs := s.gangs.map fun g => if g.id = id then { g with cluster := some cl } else g
    placePtr := cl + 1
    placements := (cl :: s.placements).take 63 }

section
variable {g : Gang} {cl : ClusterIx} {bases : List (CoreIx × Nat)}
  (hg : s.gangs.find? (fun x => x.id == g.id) = some g)
include hg

theorem execGangPlacement_refused (h : g.cluster ≠ none ∨ s.placementOk g cl = false) :
    execGangPlacement g.id cl bases s = .next s := by
  unfold execGangPlacement
  rw [hg]
  refine if_pos ?_
  rcases h with h | h
  · rw [Option.isSome_iff_ne_none.2 h, Bool.true_or]
  · rw [h, Bool.not_false, Bool.or_true]

theorem execGangPlacement_placed (hcl : g.cluster = none) (hok : s.placementOk g cl = true)
    (hlaunch : s.launchOf g.launch = none) : execGangPlacement g.id cl bases s = .next (s.placeGang g.id cl) := by
  have hnone : (s.placeGang g.id cl).launchOf g.launch = none := hlaunch
  unfold execGangPlacement
  rw [hg]
  dsimp only
  rw [if_neg (by rw [hcl, hok]; exact Bool.false_ne_true)]
  show (.next (advanceLaunch g.launch launchFuel (match (s.placeGang g.id cl).launchOf g.launch with
    | some l => (s.placeGang g.id cl).reserve l bases
    | none => s.placeGang g.id cl)) : Out) = _
  rw [hnone]
  exact congrArg _ (advanceLaunch_gone hnone)

end

end

section
variable {s : State} {q : BitVec 5} {l : Launch}

/-! #### What is legal of an object (R60 to R62) -/

theorem State.bytes_congr {t : State} (h : t.mem = s.mem) {key n : Nat} : t.bytes key n = s.bytes key n := by
  unfold State.bytes
  rw [h]

/-- A field of bytes of memory is what memory holds there. -/
theorem imageNat_bytes {key n a k : Nat} (h : a + k ≤ n) : imageNat (s.bytes key n) a k = s.nat (key + a) k := by
  obtain ⟨r, rfl⟩ := Nat.exists_eq_add_of_le h
  have hlen (x n : Nat) : (Memory.bytes s.mem x n).length = n := by rw [Memory.bytes, List.length_map, List.length_range]
  unfold imageNat State.nat State.bytes
  rw [Nat.add_assoc, ← Memory.bytes_append, List.drop_left' (hlen _ _), ← Memory.bytes_append, List.take_left' (hlen _ _)]

theorem Obj.ok_tasksOk {o : Obj} (h : o.ok = true) : o.tasksOk = true := by
  unfold Obj.ok at h
  simp only [Bool.and_eq_true] at h
  obtain ⟨⟨⟨-, htasks⟩, -⟩, -⟩ := h
  exact htasks

/-- An object that passes its checks has a task, and each task a gang number. -/
theorem Obj.tasksOk_gang {o : Obj} (h : o.tasksOk = true) :
    o.head.nTask ≠ 0 ∧ ∀ b ∈ o.tasks, (o.task b).gang ≤ 63 := by
  unfold Obj.tasksOk at h
  simp only [Bool.and_eq_true, List.all_eq_true, bne_iff_ne, decide_eq_true_eq] at h
  obtain ⟨⟨hn, htasks⟩, -⟩ := h
  refine ⟨hn, fun b hb => ?_⟩
  obtain ⟨⟨⟨⟨⟨⟨⟨⟨-, hgang⟩, -⟩, -⟩, -⟩, -⟩, -⟩, -⟩, -⟩ := htasks b hb
  exact hgang

theorem Launch.gangNums_ne_nil {t : TaskEnt} (ht : t ∈ l.tasks) (hgang : t.gang ≤ 63) : l.gangNums ≠ [] :=
  List.ne_nil_of_mem (List.mem_filter.2 ⟨List.mem_range.2 (Nat.lt_succ_of_le hgang),
    List.any_eq_true.2 ⟨t, ht, beq_self_eq_true _⟩⟩)

/-- A launch whose object passes its checks has a gang. -/
theorem Launch.gangNums_withObject {h : ObjHead} {image spad : List Byte} (hok : (Obj.ofBytes image).ok = true) :
    (l.withObject h image spad).gangNums ≠ [] := by
  obtain ⟨hn, hgang⟩ := Obj.tasksOk_gang (Obj.ok_tasksOk hok)
  have hlen : (Obj.ofBytes image).tasks.length = (Obj.ofBytes image).head.nTask := by
    show (List.map _ (List.range _)).length = _
    rw [List.length_map, List.length_range]
    rfl
  obtain ⟨b, hb⟩ := List.exists_mem_of_ne_nil (Obj.ofBytes image).tasks fun hnil => hn (by rw [← hlen, hnil]; rfl)
  exact Launch.gangNums_ne_nil (List.mem_map_of_mem hb) (hgang b hb)

/-! ### A LAUNCH that begins (R448) -/

/-- Of a state only that has changed which a launch changes that joins the open packets of a queue. -/
structure LaunchBegun (s : State) (q : BitVec 5) (m : Launch) (u : State) : Prop where
  launches : u.launches = s.launches ++ [m]
  kq : u.kq q = { s.kq q with head := (s.kq q).head + 1, open_ := (s.kq q).open_ ++ [(s.nextLaunch, none)] }
  gangs : u.gangs = s.gangs
  nextGang : u.nextGang = s.nextGang
  rest : u = s.withWork u

variable {u : State} {m : Launch}

theorem LaunchBegun.mem (h : LaunchBegun s q m u) : u.mem = s.mem := (congrArg State.mem h.rest).trans rfl
theorem LaunchBegun.hostAbsent (h : LaunchBegun s q m u) : u.hostAbsent = s.hostAbsent :=
  (congrArg State.hostAbsent h.rest).trans rfl

theorem LaunchBegun.addLaunch : LaunchBegun s q l ((s.takePacket q).addLaunch q l) where
  launches := rfl
  kq := by
    show (State.openPacket (s.takePacket q) q none).2.kq q = _
    rw [State.kq_openPacket, State.kq_takePacket]
    rfl
  gangs := rfl
  nextGang := rfl
  rest := rfl

/-- The launch that joined last is found. -/
theorem State.launchOf_last (h : u.launches = s.launches ++ [m]) (hid : m.id = s.nextLaunch)
    (hfresh : ∀ x ∈ s.launches, x.id ≠ s.nextLaunch) : u.launchOf m.id = some m := by
  show u.launches.find? _ = _
  rw [h, List.find?_append, List.find?_eq_none.2 fun x hx => by simpa [hid] using hfresh x hx]
  simp

/-- A launch has come to its end with a status: of its queue only the head has moved (R445, R448). -/
def LaunchEnded (s : State) (q : BitVec 5) (l : Launch) (status : BitVec 8) (t : State) : Prop :=
  t.nat (2 ^ 64 + l.doneAddr.toNat) 8 = status.toNat ∧ t.launches = s.launches ∧
    (t.kq q).head = (s.kq q).head + 1 ∧ (t.kq q).open_ = (s.kq q).open_

section
variable (h : LaunchBegun s q m u) (hid : m.id = s.nextLaunch) (hfresh : ∀ x ∈ s.launches, x.id ≠ s.nextLaunch)
include h hid hfresh

theorem LaunchBegun.launchOf : u.launchOf m.id = some m := State.launchOf_last h.launches hid hfresh

theorem LaunchBegun.updLaunch {f : Launch → Launch} : LaunchBegun s q (f m) (u.updLaunch m.id f) where
  launches := by
    show u.launches.map _ = _
    rw [h.launches]
    exact launches_map_last fun x hx => hid ▸ hfresh x hx
  kq := h.kq
  gangs := h.gangs
  nextGang := h.nextGang
  rest := congrArg (State.updLaunch · m.id f) h.rest

/-- A launch that ends before anything is made leaves a status word, and its queue as it was but for its head. -/
theorem LaunchBegun.failLaunch {status : BitVec 8} (hq : m.queue = q) (hbare : m.Bare)
    (hopen : ∀ p ∈ (s.kq q).open_, p.2 = none ∧ p.1 ≠ s.nextLaunch) (hword : HostWord s m.doneAddr) :
    LaunchEnded s q m status (u.failLaunch m status 0) := by
  subst hq
  obtain ⟨hnat, hlaunches, hkq⟩ := State.failLaunch_host (s := u) (status := status) hbare
    (by unfold HostWord; rw [h.hostAbsent]; exact hword) (by
      rw [h.kq]
      intro p hp
      rcases List.mem_append.1 hp with hp | hp
      · exact (hopen p hp).1
      · rw [List.mem_singleton.1 hp])
  refine ⟨hnat, ?_, ?_, ?_⟩
  · rw [hlaunches, h.launches, List.filter_append, List.filter_eq_self.2 fun x hx => by simpa [hid] using hfresh x hx]
    simp
  · rw [hkq, h.kq]
  · rw [hkq, h.kq]
    dsimp only
    rw [List.filter_append, List.filter_eq_self.2 fun p hp => by simpa [hid] using (hopen p hp).2]
    simp [hid]

end

end

section
variable {s : State} {q : BitVec 5} {l m : Launch} {u : State}

section
variable {ch : LoaderChoice} {bs : List Byte} (hl : (s.kq q).launchWith q ch s.nextLaunch bs = l)
include hl

theorem launchWith_takePacket : ((s.takePacket q).kq q).launchWith q ch (s.takePacket q).nextLaunch bs = l := by
  rw [State.kq_takePacket]
  exact hl

theorem asidLive_addLaunch : ((s.takePacket q).addLaunch q l).asidLive l.asid = s.asidLive (s.kq q).asid := by
  subst hl
  rfl

theorem runLaunch_noAsid (hasid : s.asidLive (s.kq q).asid = false) :
    runLaunch q ch bs (s.takePacket q) = ((s.takePacket q).addLaunch q l).failLaunch l 8 0 := by
  unfold runLaunch
  rw [launchWith_takePacket hl]
  refine if_pos ?_
  rw [asidLive_addLaunch hl, hasid]
  rfl

variable (hasid : s.asidLive (s.kq q).asid = true)
include hasid

theorem runLaunch_noTile (htiles : 16 < l.tileReq) :
    runLaunch q ch bs (s.takePacket q) = ((s.takePacket q).addLaunch q l).failLaunch l 5 0 := by
  unfold runLaunch
  rw [launchWith_takePacket hl]
  refine (if_neg ?_).trans (if_pos htiles)
  rw [asidLive_addLaunch hl, hasid]
  exact Bool.false_ne_true

theorem runLaunch_begins (htiles : l.tileReq ≤ 16) :
    runLaunch q ch bs (s.takePacket q) = advanceLaunch l.id (8190 + 1 + 1) ((s.takePacket q).addLaunch q l) := by
  unfold runLaunch
  rw [launchWith_takePacket hl]
  refine (if_neg ?_).trans (if_neg (Nat.not_lt.2 htiles))
  rw [asidLive_addLaunch hl, hasid]
  exact Bool.false_ne_true

end

section
variable (h : LaunchBegun s q l u) (hid : l.id = s.nextLaunch) (hfresh : ∀ x ∈ s.launches, x.id ≠ s.nextLaunch)
  (hstage : l.stage = .deps)
include h hid hfresh hstage

/-- While no event record satisfies a `DEP`, the launch waits for them all. -/
theorem LaunchBegun.advance_deps {fuel : Nat} (hdeps : l.deps ≠ [])
    (hnone : ∀ d ∈ l.deps, ∀ r ∈ u.unclaimed d.1, recordMatches r (l.asid, d.2) = false) :
    LaunchBegun s q l (advanceLaunch l.id (fuel + 1) u) := by
  have hnext := h.updLaunch hid hfresh (f := Launch.leaveDeps l.deps)
  rw [Launch.leaveDeps_self hstage hdeps, ← State.launchStage_deps hstage hnone] at hnext
  rwa [advanceLaunch_stays (h.launchOf hid hfresh) (hnext.launchOf hid hfresh) rfl rfl rfl]

/-- With no `DEP` a launch goes on to its object. -/
theorem LaunchBegun.advance_load {fuel : Nat} (hdeps : l.deps = []) :
    ∃ v, LaunchBegun s q { l with stage := .load } v ∧ advanceLaunch l.id (fuel + 1) u = advanceLaunch l.id fuel v := by
  have hnext := h.updLaunch hid hfresh (f := Launch.leaveDeps l.deps)
  rw [← State.launchStage_deps hstage (by rw [hdeps]; simp), Launch.leaveDeps_nil hdeps] at hnext
  refine ⟨_, hnext, advanceLaunch_moves (h.launchOf hid hfresh) (hnext.launchOf hid hfresh) ?_⟩
  rw [hstage]
  exact nofun

end

section
variable (h : LaunchBegun s q m u) (hid : m.id = s.nextLaunch) (hfresh : ∀ x ∈ s.launches, x.id ≠ s.nextLaunch)
  (hstage : m.stage = .load) (hhost : s.hostAbsent = [])
include h hhost

/-- A launch reads host memory as it stood before it. -/
theorem LaunchBegun.read {fuel n : Nat} (haddr : m.objAddr.toNat + n ≤ 2 ^ 63) (hfuel : 4095 + n ≤ 4096 * fuel) :
    kettleRead m.asid fuel m.objAddr n u = .ok (s.bytes (2 ^ 64 + m.objAddr.toNat) n, u) := by
  rw [kettleRead_host haddr (fun x _ _ => by rw [h.hostAbsent, hhost]; rfl) (by omega), State.bytes_congr h.mem]

include hid hfresh hstage

/-- A launch whose object is none fails. -/
theorem LaunchBegun.advance_bad {fuel : Nat} (hq : m.queue = q) (hbare : m.Bare)
    (hopen : ∀ p ∈ (s.kq q).open_, p.2 = none ∧ p.1 ≠ s.nextLaunch) (hword : HostWord s m.doneAddr)
    (haddr : m.objAddr.toNat + 64 ≤ 2 ^ 63)
    (hbad : s.nat (2 ^ 64 + m.objAddr.toNat) 4 ≠ 0x424F5747 ∨ s.nat (2 ^ 64 + m.objAddr.toNat + 4) 2 ≠ 1) :
    advanceLaunch m.id (fuel + 1) u = u.failLaunch m 1 0 := by
  have hfail : u.launchStage m = u.failLaunch m 1 0 := by
    unfold State.launchStage
    rw [hstage]
    refine State.loadObject_bad (h.read hhost haddr (by decide)) ?_
    show imageNat _ 0 4 ≠ _ ∨ imageNat _ 4 2 ≠ _
    rwa [imageNat_bytes (by decide), imageNat_bytes (by decide)]
  have hend : (u.failLaunch m 1 0).launchOf m.id = none := by
    obtain ⟨-, hlaunches, -⟩ := h.failLaunch hid hfresh (status := 1) hq hbare hopen hword
    rw [hid]
    exact State.launchOf_none (hlaunches ▸ hfresh)
  rw [← hfail] at hend ⊢
  exact advanceLaunch_ends (h.launchOf hid hfresh) hend

end

end

section
variable {s : State} {q : BitVec 5} {l m : Launch} {u : State}

theorem State.launchStage_load (hstage : l.stage = .load) : s.launchStage l = s.loadObject l := by
  unfold State.launchStage
  rw [hstage]

/-! #### A launch whose object is loaded (R62) -/

/-- The object that a launch names in host memory passes the loader's checks, and its relocated images can be put where
they were chosen to go (R62). -/
structure State.Loads (s : State) (l : Launch) (h : ObjHead) (image : List Byte) (images : List Byte × List Byte) : Prop where
  head : ObjHead.ofBytes (s.bytes (2 ^ 64 + l.objAddr.toNat) 64) = h
  bytes : s.bytes (2 ^ 64 + l.objAddr.toNat) h.size = image
  inHost : l.objAddr.toNat + h.size + 64 < 2 ^ 63
  magic : h.magic = 0x424F5747
  version : h.version = 1
  ok : (Obj.ofBytes image).ok = true
  priv : l.fn = 0 ∨ ((Obj.ofBytes image).tasks.map (Obj.ofBytes image).task).any (fun t => t.flags.getLsbD 0) = false
  text : s.segmentOk l.asid l.choice.textVa h.textSz true = true
  data : s.segmentOk l.asid l.choice.dataVa h.dataSz false = true
  argStart : l.choice.argVa.toNat % 32 = 0
  argEnd : l.choice.argVa.toNat + h.argSz ≤ 2 ^ 48
  new : s.regionsNew l h = true
  relocated : relocate l.choice.dataVa.toNat (Obj.ofBytes image).rels ((Obj.ofBytes image).data, (Obj.ofBytes image).spad) =
    some images
  put : ((s.putSegment l.asid l.choice.textVa (Obj.ofBytes image).text true).bind fun s =>
    s.putSegment l.asid l.choice.dataVa images.1 false).isSome = true
  noReplay : l.replays = false

section
variable (h : LaunchBegun s q m u) (hhost : s.hostAbsent = []) {hd : ObjHead} {image : List Byte}
  {images : List Byte × List Byte} (hloads : s.Loads m hd image images)
include h hloads

/-- The segments of a launch go to memory beside it as they would without it. -/
theorem LaunchBegun.putSegments : ∃ v, ((u.putSegment m.asid m.choice.textVa (Obj.ofBytes image).text true).bind fun s =>
      s.putSegment m.asid m.choice.dataVa images.1 false) = some v ∧
    v.launches = s.launches ++ [m] ∧ v.gangs = s.gangs ∧ v.nextGang = s.nextGang := by
  obtain ⟨v, hv⟩ := Option.isSome_iff_exists.1 hloads.put
  obtain ⟨v1, hv1, hv2⟩ := Option.bind_eq_some_iff.1 hv
  refine ⟨v.withWork u, ?_, h.launches, h.gangs, h.nextGang⟩
  calc ((u.putSegment m.asid m.choice.textVa (Obj.ofBytes image).text true).bind fun s =>
        s.putSegment m.asid m.choice.dataVa images.1 false)
      = (((s.withWork u).putSegment m.asid m.choice.textVa (Obj.ofBytes image).text true).bind fun s =>
        s.putSegment m.asid m.choice.dataVa images.1 false) := by rw [← h.rest]
    _ = some (v.withWork u) := by
      rw [State.putSegment_withWork, hv1, Option.map_some, Option.bind_some, State.putSegment_withWork, hv2, Option.map_some]

/-- The places chosen for a launch are as good beside it as without it. -/
theorem LaunchBegun.placesOk : (u.segmentOk m.asid m.choice.textVa hd.textSz true &&
    u.segmentOk m.asid m.choice.dataVa hd.dataSz false && m.choice.argVa.toNat % 32 = 0 &&
    m.choice.argVa.toNat + hd.argSz ≤ 2 ^ 48 && u.regionsNew m hd) = true := by
  have hseg {va : Word} {n : Nat} {text : Bool} : u.segmentOk m.asid va n text = s.segmentOk m.asid va n text := by
    rw [h.rest, State.segmentOk_withWork]
  rw [hseg, hseg, State.regionsNew_added h.launches rfl rfl rfl, hloads.text, hloads.data, hloads.new,
    decide_eq_true hloads.argStart, decide_eq_true hloads.argEnd]
  rfl

include hhost

theorem LaunchBegun.loadObject : ∃ v : State, u.loadObject m =
      (v.updLaunch m.id fun _ => m.withObject hd image images.2).makeGangs (m.withObject hd image images.2) ∧
    v.launches = s.launches ++ [m] ∧ v.gangs = s.gangs ∧ v.nextGang = s.nextGang := by
  obtain ⟨v, hput, hv⟩ := h.putSegments hloads
  have hplaces := h.placesOk hloads
  have himage := hloads.bytes
  have hin := hloads.inHost
  have hhead := hloads.head
  subst hhead himage
  exact ⟨v, State.loadObject_good (h.read hhost (by omega) (by decide)) hloads.magic hloads.version
    (h.read hhost (by omega) (by omega)) hloads.ok hloads.priv hplaces hloads.relocated hput hloads.noReplay, hv⟩

/-- A launch whose object is loaded waits for the placement of its gangs. -/
theorem LaunchBegun.advance_good {fuel : Nat} (hid : m.id = s.nextLaunch) (hfresh : ∀ x ∈ s.launches, x.id ≠ s.nextLaunch)
    (hstage : m.stage = .load) (hgangs : ∀ g ∈ s.gangs, ∀ i, i < 64 → g.id ≠ s.nextGang + .ofNat 32 i) :
    ∃ v o, advanceLaunch m.id (fuel + 1 + 1) u = State.makeGangs v o ∧ o = m.withObject hd image images.2 ∧
      (v.makeGangs o).launchOf m.id = some { o with gangs := v.newGangs o, stage := .place } := by
  obtain ⟨w, hload, hlaunches, hwgangs, hwnext⟩ := h.loadObject hhost hloads
  obtain ⟨o, ho⟩ : ∃ o, m.withObject hd image images.2 = o := ⟨_, rfl⟩
  have hoid : o.id = m.id := by rw [← ho]; rfl
  have hgangNums : o.gangNums ≠ [] := ho ▸ Launch.gangNums_withObject hloads.ok
  rw [ho] at hload
  obtain ⟨v, hv⟩ : ∃ v, (w.updLaunch m.id fun _ => o) = v := ⟨_, rfl⟩
  have hvo : v.launchOf o.id = some o := by
    refine State.launchOf_last (s := s) ?_ (hoid.trans hid) hfresh
    rw [← hv, State.updLaunch, hlaunches]
    exact launches_map_last fun x hx => hid ▸ hfresh x hx
  have hfreshGangs : ∀ g ∈ v.gangs, ∀ i, i < 64 → g.id ≠ v.nextGang + .ofNat 32 i := by
    rw [← hv, State.updLaunch, hwgangs, hwnext]
    exact hgangs
  rw [hv] at hload
  obtain ⟨k, hk⟩ : ∃ k : Launch, { o with gangs := v.newGangs o, stage := .place } = k := ⟨_, rfl⟩
  have hkid : k.id = m.id := by rw [← hk]; exact hoid
  have hkgangs : k.gangs = v.newGangs o := by rw [← hk]
  have hkstage : k.stage = .place := by rw [← hk]
  have hfound : (v.makeGangs o).launchOf m.id = some k := by
    rw [← hk, ← hoid]
    exact State.launchOf_makeGangs hvo
  have hstep : u.launchStage m = v.makeGangs o := (State.launchStage_load hstage).trans hload
  have hwaits : (v.makeGangs o).launchStage k = v.makeGangs o := by
    refine State.launchStage_unplaced (fun id hid => State.newGang_unplaced hfreshGangs (hkgangs ▸ hid)) hkstage ?_
    rw [hkgangs, ← List.length_pos_iff, State.length_newGangs, List.length_pos_iff]
    exact hgangNums
  refine ⟨v, o, ?_, ho.symm, by rw [hk, hfound]⟩
  rw [advanceLaunch_moves (h.launchOf hid hfresh) (hstep ▸ hfound) (by rw [hkstage, hstage]; exact nofun), hstep, ← hkid]
  rw [← hkid] at hfound
  rw [advanceLaunch_stays hfound (by rw [hwaits, hfound]) rfl rfl rfl, hwaits]

end

end

section
variable {s : State} {q : BitVec 5}

/-! ### What a LAUNCH comes to in its step (R62, R448) -/

section
variable {ch : LoaderChoice} {bs : List Byte} {l : Launch} (hl : (s.kq q).launchWith q ch s.nextLaunch bs = l)
  (hfresh : ∀ x ∈ s.launches, x.id ≠ s.nextLaunch)
include hl hfresh

section
variable (hopen : ∀ p ∈ (s.kq q).open_, p.2 = none ∧ p.1 ≠ s.nextLaunch) (hword : HostWord s l.doneAddr)
include hopen hword

theorem runLaunch_noAsid_ended (hasid : s.asidLive (s.kq q).asid = false) :
    LaunchEnded s q l 8 (runLaunch q ch bs (s.takePacket q)) := by
  rw [runLaunch_noAsid hl hasid]
  subst hl
  exact LaunchBegun.addLaunch.failLaunch rfl hfresh rfl ⟨rfl, rfl, rfl, rfl⟩ hopen hword

variable (hasid : s.asidLive (s.kq q).asid = true)
include hasid

theorem runLaunch_noTile_ended (htiles : 16 < l.tileReq) : LaunchEnded s q l 5 (runLaunch q ch bs (s.takePacket q)) := by
  rw [runLaunch_noTile hl hasid htiles]
  subst hl
  exact LaunchBegun.addLaunch.failLaunch rfl hfresh rfl ⟨rfl, rfl, rfl, rfl⟩ hopen hword

theorem runLaunch_bad_ended (htiles : l.tileReq ≤ 16) (hdeps : l.deps = []) (hhost : s.hostAbsent = [])
    (haddr : l.objAddr.toNat + 64 ≤ 2 ^ 63)
    (hbad : s.nat (2 ^ 64 + l.objAddr.toNat) 4 ≠ 0x424F5747 ∨ s.nat (2 ^ 64 + l.objAddr.toNat + 4) 2 ≠ 1) :
    LaunchEnded s q l 1 (runLaunch q ch bs (s.takePacket q)) := by
  rw [runLaunch_begins hl hasid htiles]
  subst hl
  obtain ⟨v, hv, hadvance⟩ := LaunchBegun.addLaunch.advance_load (fuel := 8190 + 1) rfl hfresh rfl hdeps
  rw [hadvance]
  have hend := hv.failLaunch rfl hfresh (status := 1) rfl ⟨rfl, rfl, rfl, rfl⟩ hopen hword
  rw [← hv.advance_bad (fuel := 8190) rfl hfresh rfl hhost rfl ⟨rfl, rfl, rfl, rfl⟩ hopen hword haddr hbad] at hend
  exact hend

end

variable (hasid : s.asidLive (s.kq q).asid = true) (htiles : l.tileReq ≤ 16)
include hasid htiles

theorem runLaunch_deps (hdeps : l.deps ≠ [])
    (hnone : ∀ d ∈ l.deps, ∀ r ∈ s.unclaimed d.1, recordMatches r ((s.kq q).asid, d.2) = false) :
    LaunchBegun s q l (runLaunch q ch bs (s.takePacket q)) := by
  rw [runLaunch_begins hl hasid htiles]
  subst hl
  exact LaunchBegun.addLaunch.advance_deps rfl hfresh rfl hdeps hnone

theorem runLaunch_loaded {hd : ObjHead} {image : List Byte} {images : List Byte × List Byte} (hdeps : l.deps = [])
    (hhost : s.hostAbsent = []) (hloads : s.Loads l hd image images)
    (hgangs : ∀ g ∈ s.gangs, ∀ i, i < 64 → g.id ≠ s.nextGang + .ofNat 32 i) :
    ∃ v o, runLaunch q ch bs (s.takePacket q) = State.makeGangs v o ∧
      o = Launch.withObject { l with stage := .load } hd image images.2 ∧
      (v.makeGangs o).launchOf s.nextLaunch = some { o with gangs := v.newGangs o, stage := .place } := by
  rw [runLaunch_begins hl hasid htiles]
  subst hl
  obtain ⟨v, hv, hadvance⟩ := LaunchBegun.addLaunch.advance_load (fuel := 8190 + 1) rfl hfresh rfl hdeps
  rw [hadvance]
  have hloads' : s.Loads { (s.kq q).launchWith q ch s.nextLaunch bs with stage := .load } hd image images := { hloads with }
  exact hv.advance_good hhost hloads' rfl hfresh rfl hgangs

end

end

section
variable {s : State} {q : BitVec 5}

/-- A launch that is loaded has its tasks and its gangs, and waits for their placement. -/
theorem runLaunch_placing {ch : LoaderChoice} {bs : List Byte} {l : Launch}
    (hl : (s.kq q).launchWith q ch s.nextLaunch bs = l) (hfresh : ∀ x ∈ s.launches, x.id ≠ s.nextLaunch)
    (hasid : s.asidLive (s.kq q).asid = true) (htiles : l.tileReq ≤ 16)
    {hd : ObjHead} {image : List Byte} {images : List Byte × List Byte} (hdeps : l.deps = [])
    (hhost : s.hostAbsent = []) (hloads : s.Loads l hd image images)
    (hgangs : ∀ g ∈ s.gangs, ∀ i, i < 64 → g.id ≠ s.nextGang + .ofNat 32 i) :
    ∃ m, (runLaunch q ch bs (s.takePacket q)).launchOf s.nextLaunch = some m ∧ m.stage = .place ∧ m.image = image ∧
      m.tasks = (Obj.ofBytes image).tasks.map (Obj.ofBytes image).task ∧ m.ctxs = [] ∧ m.gangs.length = m.gangNums.length ∧
      ∀ id ∈ m.gangs, ∃ g ∈ (runLaunch q ch bs (s.takePacket q)).gangs,
        g.id = id ∧ g.launch = s.nextLaunch ∧ g.cluster = none ∧ g.members = [] := by
  obtain ⟨v, o, hrun, ho, hfound⟩ := runLaunch_loaded hl hfresh hasid htiles hdeps hhost hloads hgangs
  rw [hrun]
  refine ⟨_, hfound, rfl, ?_, ?_, ?_, State.length_newGangs, fun id hid => ⟨_, State.newGang_mem hid, rfl, ?_, rfl, rfl⟩⟩
  all_goals
    subst hl ho
    rfl

end

/-! ### The obligation -/

section
variable {s : State} {q : BitVec 5} {bs : List Byte}

section
variable (hp : s.packetAt q = some bs) (hgood : badTrailer bs = false)
  (hgo : (bs.getD 253 0).toNat % 16 ≠ 0 ∨ (s.kq q).open_ = [])
include hp hgood hgo

theorem exec_nopPacket_passes (hty : (bs.getD 252 0).toNat = 5) :
    exec (.nopPacket q) s = .next ((s.takePacket q).clampFn (s.kq q).fn (packetScope bs).toNat) := by
  rw [exec_nopPacket, State.startPacket_starts hp hgood hty hgo, State.packetDone_takePacket]

theorem exec_waitPacket_reads {w : List Byte} {u : State} (hty : (bs.getD 252 0).toNat = 2)
    (hop : (bs.getD 16 0).toNat ≤ 2)
    (hread : kettleRead (s.kq q).asid 9 (.ofNat 64 (packetField bs 0 8)) 8 (s.takePacket q) = .ok (w, u))
    (hqueues : u.queues = (s.takePacket q).queues) : exec (.waitPacket q) s = .next
      (if waitHolds (bs.getD 16 0) (.ofNat 64 (ofBytes w)) (.ofNat 64 (packetField bs 8 8)) then
        u.clampFn (s.kq q).fn (packetScope bs).toNat
      else u.updKq q fun k => { k with
          blocked := some (.ofNat 64 (packetField bs 0 8), .ofNat 64 (packetField bs 8 8), bs.getD 16 0, packetScope bs) }) := by
  have hkq := State.kq_takePacket (s := s) (q := q)
  rw [exec_waitPacket, State.startPacket_starts hp hgood hty hgo, runWait_read hop (by rw [hkq]; exact hread),
    State.packetDone, State.kq_congr hqueues, hkq]

/-- A SIGNAL stores or adds its 8 bytes in host memory, and changes no other. -/
theorem exec_signalPacket_host (hty : (bs.getD 252 0).toNat = 3) (hop : (bs.getD 16 0).toNat ≤ 1)
    (hword : HostWord s (.ofNat 64 (packetField bs 0 8))) : ∃ t, exec (.signalPacket q) s = .next t ∧
      t.nat (2 ^ 64 + (BitVec.ofNat 64 (packetField bs 0 8)).toNat) 8 = (if bs.getD 16 0 = 0 then packetField bs 8 8
        else s.nat (2 ^ 64 + (BitVec.ofNat 64 (packetField bs 0 8)).toNat) 8 + packetField bs 8 8) % 2 ^ 64 ∧
      (∀ x, x < 2 ^ 64 + (BitVec.ofNat 64 (packetField bs 0 8)).toNat ∨
          2 ^ 64 + (BitVec.ofNat 64 (packetField bs 0 8)).toNat + 8 ≤ x → Memory.byte t.mem x = Memory.byte s.mem x) ∧
      t.queues = (s.takePacket q).queues := by
  have hword : HostWord (s.takePacket q) (.ofNat 64 (packetField bs 0 8)) := hword
  rw [exec_signalPacket, State.startPacket_starts hp hgood hty hgo, runSignal_host hop hword]
  refine ⟨_, rfl, ?_, fun x hx => ?_, State.queues_packetDone⟩
  · rw [State.nat_congr State.mem_packetDone, State.nat_homeWrite_word]
    rfl
  · rw [State.mem_packetDone]
    exact State.byte_homeWrite_out (by rwa [length_toBytes])

theorem exec_fencePacket_nil (hty : (bs.getD 252 0).toNat = 4) (hopen : (s.kq q).open_ = []) :
    ∃ t, exec (.fencePacket q) s = .next t ∧ (t.kq q).open_ = [] ∧ (t.kq q).head = (s.kq q).head + 1 ∧ t.mem = s.mem := by
  obtain ⟨hkq, hmem⟩ := runFence_nil (s := s.takePacket q) (bs := bs) (by rw [State.kq_takePacket]; exact hopen)
  rw [exec_fencePacket, State.startPacket_starts hp hgood hty hgo]
  refine ⟨_, rfl, ?_, ?_, hmem⟩
  · rw [hkq]
  · rw [hkq, State.kq_takePacket]

theorem exec_fencePacket_cons {n : Nat} {rest : List (Nat × Option (BitVec 4))} (hty : (bs.getD 252 0).toNat = 4)
    (hopen : (s.kq q).open_ = (n, none) :: rest) : ∃ t, exec (.fencePacket q) s = .next t ∧
      (t.kq q).open_ = (s.kq q).open_ ++ [(s.nextLaunch, some (packetScope bs))] ∧
      (t.kq q).head = (s.kq q).head + 1 ∧ t.mem = s.mem := by
  rw [exec_fencePacket, State.startPacket_starts hp hgood hty hgo,
    runFence_cons (by rw [State.kq_takePacket]; exact hopen)]
  refine ⟨_, rfl, ?_, ?_, rfl⟩
  · rw [State.kq_openPacket, State.kq_takePacket]
    rfl
  · rw [State.kq_openPacket, State.kq_takePacket]

theorem exec_launch_starts {ch : LoaderChoice} (hty : (bs.getD 252 0).toNat = 1) :
    exec (.launch q ch) s = .next (runLaunch q ch bs (s.takePacket q)) := by
  rw [exec_launch, State.startPacket_starts hp hgood hty hgo]

end

theorem exec_waitPacketSatisfied_reads {a w : Word} {c : BitVec 8} {sc : BitVec 4} {x : List Byte} {u : State}
    (hblocked : (s.kq q).blocked = some (a, w, c, sc)) (hstate : (s.kq q).state = 0)
    (hread : kettleRead (s.kq q).asid 9 a 8 s = .ok (x, u)) (hqueues : u.queues = s.queues) :
    exec (.waitPacketSatisfied q) s = .next (if waitHolds c (.ofNat 64 (ofBytes x)) w then
      (u.updKq q fun k => { k with blocked := none }).clampFn (s.kq q).fn sc.toNat else u) := by
  refine (execWaitPacketSatisfied_read hblocked hstate hread).trans ?_
  rw [State.packetDone, State.kq_updKq, State.kq_congr hqueues]

/-- Settles O51: each packet's step is taken apart by how its packet starts and what it then does; a launch is followed
through its stages up to its placement. -/
theorem kettleResults : Obligations.KettleResults := by
  unfold Obligations.KettleResults
  intro s q ch bs k forms upd taken addr value opcode scope
  refine ⟨fun hnone f hf => ?_, fun hp => ⟨fun hbad f hf => ?_, fun hgood f hf hw => ?_, fun hgood hgo =>
    ⟨exec_nopPacket_passes hp hgood hgo, fun hty hop w u hread hqueues => ?_,
      fun hty hop hbit hpage hthere => exec_signalPacket_host hp hgood hgo hty hop ⟨hbit, hpage, hthere⟩,
      fun hty => ⟨exec_fencePacket_nil hp hgood hgo hty, fun n rest => exec_fencePacket_cons hp hgood hgo hty⟩,
      fun hty hfresh _ _ _ => ?_⟩⟩, fun a w c sc hblocked hstate x u hread hqueues => ?_,
    execWaitPacketSatisfied_free,
    fun g cl bases hg => ⟨fun h => execGangPlacement_refused hg h, fun hcl hok hl => execGangPlacement_placed hg hcl hok hl⟩⟩
  · obtain ⟨run, hrun⟩ := exec_packetForm (s := s) hf
    rw [hrun, State.startPacket_none hnone]
  · obtain ⟨run, hrun⟩ := exec_packetForm (s := s) hf
    rw [hrun, State.startPacket_bad hp hbad]
  · obtain ⟨run, hrun⟩ := exec_packetForm (s := s) hf
    rw [hrun, State.startPacket_waits hp hgood hw]
  · have hstep := exec_waitPacket_reads hp hgood hgo hty hop hread hqueues
    refine ⟨fun hholds => hstep.trans ?_, fun hholds => hstep.trans ?_⟩
    · rw [if_pos hholds]
    · rw [if_neg (by rw [hholds]; exact Bool.false_ne_true)]
  · have hrun := exec_launch_starts (ch := ch) hp hgood hgo hty
    intro l done obj word ends
    refine ⟨fun hopen hword => ⟨fun hasid => ⟨_, hrun, runLaunch_noAsid_ended rfl hfresh hopen hword hasid⟩,
        fun hasid htiles => ⟨_, hrun, runLaunch_noTile_ended rfl hfresh hopen hword hasid htiles⟩,
        fun hasid htiles hdeps hhost haddr hbad =>
          ⟨_, hrun, runLaunch_bad_ended rfl hfresh hopen hword hasid htiles hdeps hhost haddr hbad⟩⟩,
      fun hasid htiles hdeps hnone => ?_, ?_⟩
    · have hbegun := runLaunch_deps (ch := ch) (bs := bs) rfl hfresh hasid htiles hdeps hnone
      refine ⟨_, l, hrun, hbegun.launchOf rfl hfresh, rfl, rfl, rfl, ?_, hbegun.mem⟩
      rw [hbegun.kq]
    · intro hasid htiles hdeps hreplay hhost hbit hmagic hversion hgangs hd image o tasks hin hok hpriv htext hdata hargStart
        hargEnd hnew hput hrel
      obtain ⟨images, himages⟩ := Option.isSome_iff_exists.1 hrel
      have hloads : s.Loads l hd image images :=
        { head := rfl, bytes := rfl, inHost := hin, magic := (imageNat_bytes (by decide)).trans hmagic
          version := (imageNat_bytes (by decide)).trans hversion, ok := hok
          priv := hpriv.imp_right fun h => List.any_eq_false.2 fun t ht => by simpa using List.all_eq_true.1 h t ht
          text := htext, data := hdata, argStart := hargStart, argEnd := hargEnd, new := hnew, relocated := himages
          put := hput images himages, noReplay := hreplay }
      obtain ⟨m, hfound, hstage, himage, htasks, hctxs, hlength, hmade⟩ :=
        runLaunch_placing (ch := ch) (bs := bs) rfl hfresh hasid htiles hdeps hhost hloads hgangs
      refine ⟨_, m, hrun, hfound, hstage, himage, htasks, hctxs, ?_, hmade⟩
      rw [hlength, Launch.gangNums, htasks]
  · have hstep := exec_waitPacketSatisfied_reads hblocked hstate hread hqueues
    refine ⟨fun hholds => hstep.trans ?_, fun hholds => hstep.trans ?_⟩
    · rw [if_neg (by rw [hholds]; exact Bool.false_ne_true)]
    · rw [if_pos hholds]

end

end Sys2Proof.Machine
end

section
/-!
Proofs of this sitting, LaneResults: the lanes of a register, what a vector form writes and counts, and the lane-wise
forms (O53).
-/
namespace Sys2Proof
set_option Elab.async false

/-! ### Integers of n bits (R88, R261) -/

theorem wrapNat_eq_emod (v : Int) (n : Nat) : wrapNat v n = (v % (2 ^ n : Nat)).toNat := by
  unfold wrapNat; push_cast; rfl

theorem cast_wrapNat (v : Int) (n : Nat) : (wrapNat v n : Int) = v % 2 ^ n :=
  Int.toNat_of_nonneg (Int.emod_nonneg _ (by positivity))

theorem wrapNat_lt (v : Int) (n : Nat) : wrapNat v n < 2 ^ n := by
  have h : (wrapNat v n : Int) < 2 ^ n := cast_wrapNat v n ▸ Int.emod_lt_of_pos _ (by positivity)
  exact_mod_cast h

theorem wrapNat_natCast (v n : Nat) : wrapNat v n = v % 2 ^ n := by
  have h : (wrapNat v n : Int) = (v % 2 ^ n : Nat) := by rw [cast_wrapNat]; push_cast; rfl
  exact_mod_cast h

theorem ofNat_wrapNat (v : Int) (n : Nat) : BitVec.ofNat n (wrapNat v n) = .ofInt n v := by
  apply BitVec.eq_of_toNat_eq
  rw [BitVec.toNat_ofNat, BitVec.toNat_ofInt, Nat.mod_eq_of_lt (wrapNat_lt v n), wrapNat_eq_emod]

theorem sextInt_emod (v n : Nat) : sextInt v n % 2 ^ n = (v % 2 ^ n : Nat) := by
  unfold sextInt
  split
  · push_cast; exact Int.emod_emod_of_dvd _ (dvd_refl _)
  · push_cast; rw [Int.sub_emod_right, Int.emod_emod_of_dvd _ (dvd_refl _)]

/-- A sign extension keeps the low bits, so different values of n bits are different integers. -/
theorem sextInt_inj {v u n : Nat} (hv : v < 2 ^ n) (hu : u < 2 ^ n) : sextInt v n = sextInt u n ↔ v = u := by
  refine ⟨fun h => ?_, fun h => by rw [h]⟩
  have hmod := congrArg (· % (2 ^ n : Int)) h
  simp only [sextInt_emod, Nat.mod_eq_of_lt hv, Nat.mod_eq_of_lt hu] at hmod
  exact_mod_cast hmod

theorem sextInt_range (v n : Nat) : -(2 ^ n : Nat) ≤ sextInt v n ∧ sextInt v n < (2 ^ n : Nat) := by
  have hm : v % 2 ^ n < 2 ^ n := Nat.mod_lt _ (by positivity)
  have hpow : (2 : Int) ^ n = (2 ^ n : Nat) := by push_cast; rfl
  unfold sextInt
  rw [hpow]
  split <;> omega

/-- Every bit shifted out, the sign remains (R261). -/
theorem wrapNat_sextInt_shift_out (v n : Nat) :
    wrapNat (sextInt v n / (2 ^ n : Nat)) n = if sextInt v n < 0 then 2 ^ n - 1 else 0 := by
  obtain ⟨hlow, hhigh⟩ := sextInt_range v n
  split
  case isTrue hneg =>
    have hdiv : sextInt v n / (2 ^ n : Nat) = -1 := by
      rw [Int.ediv_eq_iff_of_pos (by positivity)]
      omega
    have hcast : (wrapNat (-1) n : Int) = (2 ^ n - 1 : Nat) := by
      have hpos : (0 : Int) < 2 ^ n := by positivity
      rw [cast_wrapNat, ← Int.add_emod_right, Int.emod_eq_of_lt (by omega) (by omega), Nat.cast_sub Nat.one_le_two_pow]
      push_cast
      ring
    rw [hdiv]
    exact_mod_cast hcast
  case isFalse hpos =>
    rw [Int.ediv_eq_zero_of_lt (by omega) hhigh, wrapNat_eq_emod, Int.zero_emod]
    rfl

/-- Inverting the top bit of n bits is adding it (R261). -/
theorem xor_two_pow_top {x n : Nat} (hn : 0 < n) (hx : x < 2 ^ n) :
    x ^^^ 2 ^ (n - 1) = (x + 2 ^ (n - 1)) % 2 ^ n := by
  apply Nat.eq_of_testBit_eq
  intro i
  rw [Nat.testBit_xor, Nat.testBit_two_pow, Nat.testBit_mod_two_pow, Nat.add_comm]
  rcases lt_trichotomy i (n - 1) with h | h | h
  · rw [Nat.testBit_two_pow_add_gt h]
    simp [show i < n by omega, show ¬ n - 1 = i by omega]
  · subst h
    rw [Nat.testBit_two_pow_add_eq]
    simp [show n - 1 < n by omega]
  · have hbit : x.testBit i = false := Nat.testBit_lt_two_pow (hx.trans_le (Nat.pow_le_pow_right (by omega) (by omega)))
    simp [hbit, show ¬ i < n by omega, show ¬ n - 1 = i by omega]

/-! ### Lane types (R256) -/

theorem LaneType.width_pos (ty : LaneType) : 0 < ty.width := by cases ty <;> decide

theorem LaneType.width_mul_lanes (ty : LaneType) : ty.width * ty.lanes = 256 := by cases ty <;> decide

end Sys2Proof

namespace Sys2Proof.Machine
set_option Elab.async false

/-! ### Lanes of a register (R256) -/

theorem laneOf_lt (v : W256) (w i : Nat) : laneOf v w i < 2 ^ w := Nat.mod_lt _ (by positivity)

theorem testBit_laneOf (v : W256) (w i j : Nat) : (laneOf v w i).testBit j = (decide (j < w) && v.getLsbD (w * i + j)) := by
  unfold laneOf bitsOf
  rw [Nat.testBit_mod_two_pow, Nat.testBit_div_two_pow, BitVec.getLsbD, Nat.add_comm]

theorem laneOf_and (u v : W256) (w i : Nat) : laneOf (u &&& v) w i = laneOf u w i &&& laneOf v w i := by
  apply Nat.eq_of_testBit_eq
  intro j
  simp only [Nat.testBit_and, testBit_laneOf, BitVec.getLsbD_and]
  cases decide (j < w) <;> simp

theorem laneOf_or (u v : W256) (w i : Nat) : laneOf (u ||| v) w i = laneOf u w i ||| laneOf v w i := by
  apply Nat.eq_of_testBit_eq
  intro j
  simp only [Nat.testBit_or, testBit_laneOf, BitVec.getLsbD_or]
  cases decide (j < w) <;> simp

theorem laneOf_xor (u v : W256) (w i : Nat) : laneOf (u ^^^ v) w i = laneOf u w i ^^^ laneOf v w i := by
  apply Nat.eq_of_testBit_eq
  intro j
  simp only [Nat.testBit_xor, testBit_laneOf, BitVec.getLsbD_xor]
  cases decide (j < w) <;> simp

theorem laneOf_not (v : W256) {w i : Nat} (h : w * (i + 1) ≤ 256) : laneOf (~~~v) w i = 2 ^ w - 1 - laneOf v w i := by
  rw [show 2 ^ w - 1 - laneOf v w i = 2 ^ w - (laneOf v w i + 1) by omega]
  apply Nat.eq_of_testBit_eq
  intro j
  rw [Nat.testBit_two_pow_sub_succ (laneOf_lt v w i), testBit_laneOf, testBit_laneOf, BitVec.getLsbD_not]
  by_cases hj : j < w
  · have hin : w * i + j < 256 := by rw [Nat.mul_succ] at h; omega
    simp [hj, hin]
  · simp [hj]

/-- A list of lanes is a numeral in base 2^w. -/
theorem fromLanes_eq_ofDigits (w : Nat) (xs : List Nat) :
    fromLanes w xs = .ofNat 256 (Nat.ofDigits (2 ^ w) (xs.map (· % 2 ^ w))) := by
  have hfold : ∀ (xs : List Nat) (n v : Nat),
      (xs.zipIdx n).foldl (fun v (x, i) => v + x % 2 ^ w * 2 ^ (w * i)) v =
        v + 2 ^ (w * n) * Nat.ofDigits (2 ^ w) (xs.map (· % 2 ^ w)) := by
    intro xs
    induction xs with
    | nil => intro n v; simp
    | cons x xs ih =>
      intro n v
      rw [List.zipIdx_cons, List.foldl_cons, ih, List.map_cons, Nat.ofDigits_cons, Nat.mul_add w n 1, Nat.pow_add]
      ring
  unfold fromLanes
  rw [hfold xs 0 0, Nat.mul_zero, Nat.pow_zero, Nat.one_mul, Nat.zero_add]

section
variable {w : Nat} {xs : List Nat}

theorem digits_lt (x : Nat) (hx : x ∈ xs.map (· % 2 ^ w)) : x < 2 ^ w := by
  obtain ⟨y, -, rfl⟩ := List.mem_map.1 hx
  exact Nat.mod_lt _ (by positivity)

variable (hlen : w * xs.length ≤ 256)
include hlen

theorem toNat_fromLanes (hw : 0 < w) : (fromLanes w xs).toNat = Nat.ofDigits (2 ^ w) (xs.map (· % 2 ^ w)) ∧
    (fromLanes w xs).toNat < 2 ^ (w * xs.length) := by
  have hlt : Nat.ofDigits (2 ^ w) (xs.map (· % 2 ^ w)) < 2 ^ (w * xs.length) := by
    have h := Nat.ofDigits_lt_base_pow_length (Nat.one_lt_two_pow hw.ne') (digits_lt (xs := xs))
    rwa [List.length_map, ← Nat.pow_mul] at h
  have heq : (fromLanes w xs).toNat = Nat.ofDigits (2 ^ w) (xs.map (· % 2 ^ w)) := by
    rw [fromLanes_eq_ofDigits, BitVec.toNat_ofNat,
      Nat.mod_eq_of_lt (hlt.trans_le (Nat.pow_le_pow_right (by omega) hlen))]
  exact ⟨heq, heq ▸ hlt⟩

theorem laneOf_fromLanes (hw : 0 < w) {k : Nat} (hk : k < xs.length) : laneOf (fromLanes w xs) w k = xs[k] % 2 ^ w := by
  unfold laneOf bitsOf
  rw [(toNat_fromLanes hlen hw).1, Nat.pow_mul, Nat.ofDigits_div_pow_eq_ofDigits_drop k (by positivity) _ digits_lt,
    ← List.map_drop, List.drop_eq_getElem_cons hk, List.map_cons, Nat.ofDigits_cons, Nat.add_mul_mod_self_left,
    Nat.mod_mod]

end

/-- One bit for each lane (R264). -/
theorem getLsbD_fromLanes_one {n : Nat} (hn : n ≤ 256) (g : Nat → Bool) (k : Nat) :
    (fromLanes 1 ((List.range n).map fun i => (g i).toNat)).getLsbD k = (decide (k < n) && g k) := by
  have hlen : 1 * ((List.range n).map fun i => (g i).toNat).length ≤ 256 := by simpa using hn
  by_cases hk : k < n
  · have h := laneOf_fromLanes hlen Nat.one_pos (k := k) (by simpa using hk)
    have hbit := testBit_laneOf (fromLanes 1 ((List.range n).map fun i => (g i).toNat)) 1 k 0
    rw [h] at hbit
    simp only [List.getElem_map, List.getElem_range] at hbit
    cases hg : g k <;> simp_all
  · have h := (toNat_fromLanes hlen Nat.one_pos).2
    rw [List.length_map, List.length_range, Nat.one_mul] at h
    rw [BitVec.getLsbD, Nat.testBit_lt_two_pow (h.trans_le (Nat.pow_le_pow_right (by omega) (by omega)))]
    simp [hk]

/-! ### Ends of a vector form: what it writes and counts (R113, R258) -/

section
variable {s : State} {i : Instr} {d : Reg}

theorem State.countLanes_cx (s : State) (evs : List Ev) :
    (s.countLanes evs).cx.regs = s.cx.regs ∧ (s.countLanes evs).cx.pcCap = s.cx.pcCap ∧
      (s.countLanes evs).here = s.here := by
  unfold State.countLanes
  split <;> exact ⟨rfl, rfl, rfl⟩

/-- Events counted, a register written, and the unit done. -/
theorem countedForm_of {v : W256} {evs : List Ev} (h : exec i s = .next ((s.countLanes evs).setBits d v).advance) :
    CountedForm s i d v evs := by
  obtain ⟨hregs, hpc, hhere⟩ := s.countLanes_cx evs
  refine ⟨_, h, ?_⟩
  have hend : ((s.countLanes evs).setBits d v).advance = ((s.countLanes evs).setReg d ⟨v, false⟩).setPc (s.here + 4) := by
    unfold State.setBits State.advance
    rw [State.here_setReg, hhere]
  rw [hend]
  exact regWritten_of s _ d _ _ hregs hpc (s.countLanes_frame evs)

/-- A form that counts nothing only writes. -/
theorem CountedForm.writes {v : W256} {evs : List Ev} (h : CountedForm s i d v evs) (hzero : ∀ e ∈ evs, e = 0) :
    Writes s i d ⟨v, false⟩ := by
  obtain ⟨t, ht, hw⟩ := h
  rw [s.countLanes_zero evs hzero] at hw
  exact ⟨t, ht, hw⟩

/-! ### Lane-wise forms (R257, R258) -/

section
variable {ty : LaneType} {m : BitVec 3} {f g : Nat → Nat × Ev}

/-- A lane-wise form, its results and its events apart. -/
theorem State.lanewise_eq (s : State) (ty : LaneType) (m : BitVec 3) (d : Reg) (f : Nat → Nat × Ev) :
    s.lanewise ty m d f = .next ((s.countLanes ((List.range ty.lanes).map fun k =>
      if s.laneOn m k then (f k).2 else 0)).setBits d (fromLanes ty.width
        ((List.range ty.lanes).map fun k => if s.laneOn m k then (f k).1 else s.lane ty d k))).advance := by
  unfold State.lanewise State.lane
  simp only [List.map_map, Function.comp_def, apply_ite Prod.fst, apply_ite Prod.snd]

/-- A lane-wise form whose function gives each lane the bits and the events that `g` does. -/
theorem laneForm_of_lanewise (h : exec i s = s.lanewise ty m d f)
    (hval : ∀ k, k < ty.lanes → (f k).1 % 2 ^ ty.width = (g k).1 % 2 ^ ty.width)
    (hev : ∀ k, k < ty.lanes → (f k).2 = (g k).2) : LaneForm s i ty m d g := by
  have hevs : ((List.range ty.lanes).map fun k => if s.laneOn m k then (f k).2 else 0) =
      (List.range ty.lanes).map fun k => if s.laneOn m k then (g k).2 else 0 :=
    List.map_congr_left fun k hk => by rw [hev k (List.mem_range.1 hk)]
  rw [State.lanewise_eq, hevs] at h
  obtain ⟨t, ht, hw⟩ := countedForm_of h
  refine ⟨t, _, ht, hw, fun k hk => ?_⟩
  rw [laneOf_fromLanes (by simp [ty.width_mul_lanes]) ty.width_pos (by simpa using hk), List.getElem_map, List.getElem_range]
  split
  · exact hval k hk
  · exact Nat.mod_eq_of_lt (laneOf_lt _ _ _)

/-- A lane-wise form that counts nothing. -/
theorem laneForm_of_values {p q : Nat → Nat} (h : exec i s = s.lanewise ty m d fun k => (p k, 0))
    (hval : ∀ k, k < ty.lanes → p k % 2 ^ ty.width = q k % 2 ^ ty.width) : LaneForm s i ty m d fun k => (q k, 0) :=
  laneForm_of_lanewise h hval fun _ _ => rfl

theorem laneForm_of_eq (h : exec i s = s.lanewise ty m d f) (hfg : ∀ k, k < ty.lanes → f k = g k) :
    LaneForm s i ty m d g :=
  laneForm_of_lanewise h (fun k hk => by rw [hfg k hk]) fun k hk => by rw [hfg k hk]

/-- The results of a lane-wise form that counts nothing matter up to the width of its lanes. -/
theorem LaneForm.congr {p q : Nat → Nat} (h : LaneForm s i ty m d fun k => (p k, 0))
    (hpq : ∀ k, p k % 2 ^ ty.width = q k % 2 ^ ty.width) : LaneForm s i ty m d fun k => (q k, 0) := by
  obtain ⟨t, w, ht, hw, hl⟩ := h
  exact ⟨t, w, ht, hw, fun k hk => by rw [hl k hk]; dsimp only; rw [hpq k]⟩

end

end

/-! ### The forms as the shared operations (R261, R267, R273) -/

section
variable {s : State} {ty : LaneType} {m : BitVec 3} {d a b : Reg}

theorem exec_vadd : exec (.vadd ty m d a b) s = s.lane2 ty m d a b (fun x y => x + y) (Num.add s.rm) := rfl
theorem exec_vsub :
    exec (.vsub ty m d a b) s = s.lane2 ty m d a b (fun x y => x - y) fun x y => x.add s.rm y.negate := rfl
theorem exec_vmul : exec (.vmul ty m d a b) s = s.lane2 ty m d a b (fun x y => x * y) Num.mul := rfl
theorem exec_vmin : exec (.vmin ty m d a b) s = s.laneExtreme ty m d a b (fun x y => x < y) Num.min := rfl
theorem exec_vmax : exec (.vmax ty m d a b) s = s.laneExtreme ty m d a b (fun x y => y ≤ x) Num.max := rfl
theorem exec_vsll : exec (.vsll ty m d a b) s =
    s.laneInt ty m d a b fun x n => if ty.width ≤ n then 0 else ((x * 2 ^ n : Nat) : Int) := rfl
theorem exec_vsrl : exec (.vsrl ty m d a b) s =
    s.laneInt ty m d a b fun x n => if ty.width ≤ n then 0 else ((x / 2 ^ n : Nat) : Int) := rfl
theorem exec_vsra : exec (.vsra ty m d a b) s = s.laneInt ty m d a b fun x n =>
    sextInt x ty.width / ((2 ^ (if ty.width ≤ n then ty.width else n) : Nat) : Int) := rfl
theorem exec_vmulh : exec (.vmulh ty m d a b) s = s.laneInt ty m d a b fun x y =>
    sextInt x ty.width * sextInt y ty.width / ((2 ^ ty.width : Nat) : Int) := rfl

theorem exec_vfma_int (hty : ty.elem.fmt = none) : exec (.vfma ty m d a b) s = s.lanewise ty m d fun k =>
    ((s.lane ty d k + s.lane ty a k * s.lane ty b k) % 2 ^ ty.width, 0) := by
  show execVfma ty m d a b s = _
  unfold execVfma
  rw [hty]
  rfl

theorem exec_vfma_float {f : Fmt} (hty : ty.elem.fmt = some f) : exec (.vfma ty m d a b) s = s.lanewise ty m d fun k =>
    ((s.floatOp f (Num.fma s.rm (f.decode (dazOperand s.daz f (s.lane ty d k)).1)) (s.lane ty a k) (s.lane ty b k)).1,
      (dazOperand s.daz f (s.lane ty d k)).2 |||
      (s.floatOp f (Num.fma s.rm (f.decode (dazOperand s.daz f (s.lane ty d k)).1)) (s.lane ty a k) (s.lane ty b k)).2) := by
  show execVfma ty m d a b s = _
  unfold execVfma
  rw [hty]
  rfl

theorem exec_vabs_int (hty : ty.elem.fmt = none) : exec (.vabs ty m d a) s = s.lanewise ty m d fun k =>
    ((sextInt (s.lane ty a k) ty.width).natAbs, 0) := by
  show execVabs ty m d a s = _
  unfold execVabs
  rw [hty]
  rfl

theorem exec_vabs_float {f : Fmt} (hty : ty.elem.fmt = some f) : exec (.vabs ty m d a) s = s.lanewise ty m d fun k =>
    signOp f (fun x => x % 2 ^ (ty.width - 1)) (s.lane ty a k) := by
  show execVabs ty m d a s = _
  unfold execVabs
  rw [hty]
  rfl

theorem exec_vneg_int (hty : ty.elem.fmt = none) : exec (.vneg ty m d a) s = s.lanewise ty m d fun k =>
    (wrapNat (-(s.lane ty a k : Int)) ty.width, 0) := by
  show execVneg ty m d a s = _
  unfold execVneg
  rw [hty]
  rfl

theorem exec_vneg_float {f : Fmt} (hty : ty.elem.fmt = some f) : exec (.vneg ty m d a) s = s.lanewise ty m d fun k =>
    signOp f (fun x => x ^^^ 2 ^ (ty.width - 1)) (s.lane ty a k) := by
  show execVneg ty m d a s = _
  unfold execVneg
  rw [hty]
  rfl

theorem exec_vand :
    exec (.vand ty m d a b) s = s.lanewise ty m d fun k => (laneOf (s.bits a &&& s.bits b) ty.width k, 0) := rfl
theorem exec_vor :
    exec (.vor ty m d a b) s = s.lanewise ty m d fun k => (laneOf (s.bits a ||| s.bits b) ty.width k, 0) := rfl
theorem exec_vxor :
    exec (.vxor ty m d a b) s = s.lanewise ty m d fun k => (laneOf (s.bits a ^^^ s.bits b) ty.width k, 0) := rfl
theorem exec_vandn :
    exec (.vandn ty m d a b) s = s.lanewise ty m d fun k => (laneOf (s.bits a &&& ~~~s.bits b) ty.width k, 0) := rfl
theorem exec_vshuf : exec (.vshuf ty m d a b) s = s.lanewise ty m d fun k =>
    (s.lane ty a (s.lane ty b k % ty.lanes), 0) := rfl
theorem exec_vbcast : exec (.vbcast ty m d a b) s = s.lanewise ty m d fun _ =>
    (s.lane ty a ((s.bits b).toNat % ty.lanes), 0) := rfl
theorem exec_vslide : exec (.vslide ty m d a b) s = s.lanewise ty m d fun k =>
    (if 0 ≤ k + (s.x b).toInt ∧ k + (s.x b).toInt < ty.lanes then s.lane ty a (k + (s.x b).toInt).toNat else 0, 0) := rfl
theorem exec_vzip : exec (.vzip ty m d a b) s = s.lanewise ty m d fun k =>
    (s.lane ty (if k % 2 = 0 then a else b) (k / 2), 0) := rfl
theorem exec_viota : exec (.viota ty m d) s = s.lanewise ty m d fun k =>
    ((ty.elem.round .rne false (.ofInt ((List.range k).countP fun j => s.laneOn m j))).1, 0) := rfl
theorem exec_vdup : exec (.vdup ty m d a) s = s.lanewise ty m d fun _ => (s.lane ty a 0, 0) := rfl
theorem exec_vsel : exec (.vsel ty m d a b) s = .next (s.setBits d (fromLanes ty.width
    ((List.range ty.lanes).map fun k => s.lane ty (if s.laneOn m k then a else b) k))).advance := rfl
theorem exec_vext : exec (.vext ty d a b) s = s.scalar d (.ofNat 64 (if ty.elem.isInt
    then wrapNat (sextInt (s.lane ty a ((s.bits b).toNat % ty.lanes)) ty.width) 64
    else s.lane ty a ((s.bits b).toNat % ty.lanes))) := rfl

end

/-! ### Lane arithmetic on integers (R261) -/

section
variable {s : State} {ty : LaneType} {m : BitVec 3} {d a b : Reg} {i : Instr}

theorem lane_lt (s : State) (ty : LaneType) (r : Reg) (k : Nat) : s.lane ty r k < 2 ^ ty.width := laneOf_lt _ _ _

/-- A lane-wise form of two sources on integers: the low bits of what `g` gives. -/
theorem laneForm_lane2_int {gi : Nat → Nat → Int} {gf : Num → Num → Num × Ev} (hty : ty.elem.fmt = none)
    (h : exec i s = s.lane2 ty m d a b gi gf) :
    LaneForm s i ty m d fun k => (wrapNat (gi (s.lane ty a k) (s.lane ty b k)) ty.width, 0) := by
  refine laneForm_of_values (h.trans ?_) fun _ _ => rfl
  unfold State.lane2
  rw [hty]
  rfl

/-- An integer-only form. -/
theorem laneForm_laneInt {g : Nat → Nat → Int} (h : exec i s = s.laneInt ty m d a b g) :
    LaneForm s i ty m d fun k => (wrapNat (g (s.lane ty a k) (s.lane ty b k)) ty.width, 0) :=
  laneForm_of_values h fun _ _ => rfl

theorem laneForm_vadd_int (hty : ty.elem.fmt = none) :
    LaneForm s (.vadd ty m d a b) ty m d fun k => (s.lane ty a k + s.lane ty b k, 0) := by
  refine (laneForm_lane2_int hty exec_vadd).congr fun k => ?_
  rw [← Nat.cast_add, wrapNat_natCast, Nat.mod_mod]

theorem laneForm_vsub_int (hty : ty.elem.fmt = none) :
    LaneForm s (.vsub ty m d a b) ty m d fun k => (wrapNat (s.lane ty a k - s.lane ty b k) ty.width, 0) :=
  laneForm_lane2_int hty exec_vsub

theorem laneForm_vmul_int (hty : ty.elem.fmt = none) :
    LaneForm s (.vmul ty m d a b) ty m d fun k => (s.lane ty a k * s.lane ty b k, 0) := by
  refine (laneForm_lane2_int hty exec_vmul).congr fun k => ?_
  rw [← Nat.cast_mul, wrapNat_natCast, Nat.mod_mod]

theorem laneForm_vfma_int (hty : ty.elem.fmt = none) :
    LaneForm s (.vfma ty m d a b) ty m d fun k => (s.lane ty d k + s.lane ty a k * s.lane ty b k, 0) := by
  exact laneForm_of_values (exec_vfma_int hty) fun k _ => Nat.mod_mod _ _

theorem laneForm_laneExtreme_int {gi : Int → Int → Bool} {g : Num → Num → Num} (hty : ty.elem.fmt = none)
    (h : exec i s = s.laneExtreme ty m d a b gi g) : LaneForm s i ty m d fun k =>
      (if gi (sextInt (s.lane ty a k) ty.width) (sextInt (s.lane ty b k) ty.width) then s.lane ty a k
        else s.lane ty b k, 0) := by
  refine laneForm_of_values (h.trans ?_) fun _ _ => rfl
  unfold State.laneExtreme
  rw [hty]
  rfl

/-- VMIN: of equal lanes either is the smaller. -/
theorem laneForm_vmin_int (hty : ty.elem.fmt = none) : LaneForm s (.vmin ty m d a b) ty m d fun k =>
    (if sextInt (s.lane ty a k) ty.width ≤ sextInt (s.lane ty b k) ty.width then s.lane ty a k else s.lane ty b k, 0) := by
  refine (laneForm_laneExtreme_int hty exec_vmin).congr fun k => ?_
  have hinj := sextInt_inj (lane_lt s ty a k) (lane_lt s ty b k)
  rcases lt_trichotomy (sextInt (s.lane ty a k) ty.width) (sextInt (s.lane ty b k) ty.width) with h | h | h
  · simp [h, h.le]
  · rw [hinj.1 h, ite_self, ite_self]
  · simp [h.not_gt, h.not_ge]

theorem laneForm_vmax_int (hty : ty.elem.fmt = none) : LaneForm s (.vmax ty m d a b) ty m d fun k =>
    (if sextInt (s.lane ty a k) ty.width ≤ sextInt (s.lane ty b k) ty.width then s.lane ty b k else s.lane ty a k, 0) := by
  refine (laneForm_laneExtreme_int hty exec_vmax).congr fun k => ?_
  have hinj := sextInt_inj (lane_lt s ty a k) (lane_lt s ty b k)
  rcases lt_trichotomy (sextInt (s.lane ty a k) ty.width) (sextInt (s.lane ty b k) ty.width) with h | h | h
  · simp [h.not_ge, h.le]
  · rw [hinj.1 h, ite_self, ite_self]
  · simp [h.le, h.not_ge]

theorem laneForm_vabs_int (hty : ty.elem.fmt = none) : LaneForm s (.vabs ty m d a) ty m d fun k =>
    (wrapNat (if sextInt (s.lane ty a k) ty.width < 0 then -sextInt (s.lane ty a k) ty.width
      else sextInt (s.lane ty a k) ty.width) ty.width, 0) := by
  refine laneForm_of_values (exec_vabs_int hty) fun k _ => ?_
  have habs (v : Int) : (if v < 0 then -v else v) = v.natAbs := by split <;> omega
  rw [habs, wrapNat_natCast, Nat.mod_mod]

theorem laneForm_vneg_int (hty : ty.elem.fmt = none) : LaneForm s (.vneg ty m d a) ty m d fun k =>
    (wrapNat (-sextInt (s.lane ty a k) ty.width) ty.width, 0) := by
  refine laneForm_of_values (exec_vneg_int hty) fun k _ => ?_
  have hneg : -(s.lane ty a k : Int) % 2 ^ ty.width = -sextInt (s.lane ty a k) ty.width % 2 ^ ty.width := by
    refine Int.ModEq.neg ?_
    rw [Int.ModEq, sextInt_emod]
    push_cast
    rfl
  unfold wrapNat
  rw [hneg]

theorem laneForm_vsll : LaneForm s (.vsll ty m d a b) ty m d fun k =>
    (if ty.width ≤ s.lane ty b k then 0 else s.lane ty a k * 2 ^ s.lane ty b k, 0) := by
  refine (laneForm_laneInt exec_vsll).congr fun k => ?_
  split
  · rfl
  · rw [wrapNat_natCast, Nat.mod_mod]

theorem laneForm_vsrl : LaneForm s (.vsrl ty m d a b) ty m d fun k =>
    (if ty.width ≤ s.lane ty b k then 0 else s.lane ty a k / 2 ^ s.lane ty b k, 0) := by
  refine (laneForm_laneInt exec_vsrl).congr fun k => ?_
  split
  · rfl
  · rw [wrapNat_natCast, Nat.mod_mod]

/-- VSRA: a shift by the width or more leaves the sign in every bit. -/
theorem laneForm_vsra : LaneForm s (.vsra ty m d a b) ty m d fun k =>
    (if ty.width ≤ s.lane ty b k then (if sextInt (s.lane ty a k) ty.width < 0 then 2 ^ ty.width - 1 else 0)
      else wrapNat (sextInt (s.lane ty a k) ty.width / (2 ^ s.lane ty b k : Nat)) ty.width, 0) := by
  refine (laneForm_laneInt exec_vsra).congr fun k => ?_
  by_cases hfar : ty.width ≤ s.lane ty b k
  · rw [if_pos hfar, if_pos hfar, wrapNat_sextInt_shift_out]
  · rw [if_neg hfar, if_neg hfar]

theorem laneForm_vmulh : LaneForm s (.vmulh ty m d a b) ty m d fun k =>
    (wrapNat (sextInt (s.lane ty a k) ty.width * sextInt (s.lane ty b k) ty.width / (2 ^ ty.width : Nat)) ty.width, 0) :=
  laneForm_laneInt exec_vmulh

/-! ### Lane arithmetic on floats (R258, R261) -/

section
variable {f : Fmt} (hty : ty.elem.fmt = some f)
include hty

theorem laneForm_lane2_float {gi : Nat → Nat → Int} {gf : Num → Num → Num × Ev}
    (h : exec i s = s.lane2 ty m d a b gi gf) :
    LaneForm s i ty m d fun k => s.floatOp f gf (s.lane ty a k) (s.lane ty b k) := by
  refine laneForm_of_eq (h.trans ?_) fun _ _ => rfl
  unfold State.lane2
  rw [hty]
  rfl

theorem laneForm_vfma_float : LaneForm s (.vfma ty m d a b) ty m d fun k =>
    ((s.floatOp f (Num.fma s.rm (f.decode (dazOperand s.daz f (s.lane ty d k)).1)) (s.lane ty a k) (s.lane ty b k)).1,
      (dazOperand s.daz f (s.lane ty d k)).2 |||
      (s.floatOp f (Num.fma s.rm (f.decode (dazOperand s.daz f (s.lane ty d k)).1)) (s.lane ty a k) (s.lane ty b k)).2) := by
  exact laneForm_of_eq (exec_vfma_float hty) fun _ _ => rfl

theorem laneForm_laneExtreme_float {gi : Int → Int → Bool} {g : Num → Num → Num}
    (h : exec i s = s.laneExtreme ty m d a b gi g) : LaneForm s i ty m d fun k =>
      ((s.floatOp f (fun p q => (g p q, p.sigEv ||| q.sigEv)) (s.lane ty a k) (s.lane ty b k)).1,
        (s.floatOp f (fun p q => (g p q, p.sigEv ||| q.sigEv)) (s.lane ty a k) (s.lane ty b k)).2 &&& ~~~evInexact) := by
  refine laneForm_of_eq (h.trans ?_) fun _ _ => rfl
  unfold State.laneExtreme
  rw [hty]
  rfl

theorem laneForm_vabs_float : LaneForm s (.vabs ty m d a) ty m d fun k =>
    if (f.decode (s.lane ty a k)).isNan then (f.nanBits, evNan ||| (f.decode (s.lane ty a k)).sigEv)
    else (s.lane ty a k % 2 ^ (ty.width - 1), 0) := by
  exact laneForm_of_eq (exec_vabs_float hty) fun _ _ => rfl

theorem laneForm_vneg_float : LaneForm s (.vneg ty m d a) ty m d fun k =>
    if (f.decode (s.lane ty a k)).isNan then (f.nanBits, evNan ||| (f.decode (s.lane ty a k)).sigEv)
    else ((s.lane ty a k + 2 ^ (ty.width - 1)) % 2 ^ ty.width, 0) := by
  refine laneForm_of_eq (exec_vneg_float hty) fun k _ => ?_
  rw [← xor_two_pow_top ty.width_pos (lane_lt s ty a k)]
  rfl

end

/-! ### Logical forms, permutations and builds (R261, R267, R273) -/

theorem laneForm_vand :
    LaneForm s (.vand ty m d a b) ty m d fun k => (Nat.land (s.lane ty a k) (s.lane ty b k), 0) :=
  laneForm_of_eq exec_vand fun _ _ => congrArg (·, 0) (laneOf_and _ _ _ _)

theorem laneForm_vor : LaneForm s (.vor ty m d a b) ty m d fun k => (Nat.lor (s.lane ty a k) (s.lane ty b k), 0) :=
  laneForm_of_eq exec_vor fun _ _ => congrArg (·, 0) (laneOf_or _ _ _ _)

theorem laneForm_vxor : LaneForm s (.vxor ty m d a b) ty m d fun k => (Nat.xor (s.lane ty a k) (s.lane ty b k), 0) :=
  laneForm_of_eq exec_vxor fun _ _ => congrArg (·, 0) (laneOf_xor _ _ _ _)

theorem laneForm_vandn : LaneForm s (.vandn ty m d a b) ty m d fun k =>
    (Nat.land (s.lane ty a k) (2 ^ ty.width - 1 - s.lane ty b k), 0) := by
  refine laneForm_of_eq exec_vandn fun k hk => ?_
  have hin : ty.width * (k + 1) ≤ 256 := ty.width_mul_lanes ▸ Nat.mul_le_mul_left _ hk
  rw [laneOf_and, laneOf_not _ hin]
  rfl

/-- The lanes of a register are a power of two in number, so bits [63:0] of a lane number give the same lane. -/
theorem bits_mod_lanes (s : State) (ty : LaneType) (r : Reg) : (s.bits r).toNat % ty.lanes = (s.x r).toNat % ty.lanes := by
  have hdvd : ty.lanes ∣ 2 ^ 64 := by cases ty <;> decide
  unfold State.x
  rw [BitVec.toNat_setWidth, Nat.mod_mod_of_dvd _ hdvd]

theorem laneForm_vbcast : LaneForm s (.vbcast ty m d a b) ty m d fun _ =>
    (s.lane ty a ((s.x b).toNat % ty.lanes), 0) :=
  laneForm_of_eq exec_vbcast fun _ _ => by rw [bits_mod_lanes]

theorem laneForm_vzip : LaneForm s (.vzip ty m d a b) ty m d fun k =>
    (if k % 2 = 0 then s.lane ty a (k / 2) else s.lane ty b (k / 2), 0) := by
  refine laneForm_of_eq exec_vzip fun k _ => ?_
  split <;> rfl

theorem laneForm_viota : LaneForm s (.viota ty m d) ty m d fun k =>
    ((ty.elem.round .rne false (.ofInt ((List.range k).filter fun j => s.laneOn m j).length)).1, 0) :=
  laneForm_of_eq exec_viota fun _ _ => by rw [List.countP_eq_length_filter]

theorem writesBits_vsel : ∃ v, WritesBits s (.vsel ty m d a b) d v ∧ ∀ k, k < ty.lanes →
    laneOf v ty.width k = if s.laneOn m k then s.lane ty a k else s.lane ty b k := by
  refine ⟨_, writes_of _ _ _ _ exec_vsel, fun k hk => ?_⟩
  rw [laneOf_fromLanes (by simp [ty.width_mul_lanes]) ty.width_pos (by simpa using hk), List.getElem_map,
    List.getElem_range, Nat.mod_eq_of_lt (lane_lt _ _ _ _)]
  split <;> rfl

theorem writesX_vext : WritesX s (.vext ty d a b) d (if ty.elem.isInt
    then .ofInt 64 (sextInt (s.lane ty a ((s.x b).toNat % ty.lanes)) ty.width)
    else .ofNat 64 (s.lane ty a ((s.x b).toNat % ty.lanes))) := by
  refine writesX_of _ _ _ _ (exec_vext.trans ?_)
  rw [bits_mod_lanes]
  split
  · rw [ofNat_wrapNat]
  · rfl

end

/-- Settles O53: each form is a lane-wise function of its sources' lanes; per form, what remains is that the function
gives the lane of the rule. -/
theorem laneResults : Obligations.LaneResults := by
  unfold Obligations.LaneResults
  intro s ty m d a b w x y z sx sy low
  have hlow : low = fun v => wrapNat v w := funext fun v => (wrapNat_eq_emod v w).symm
  clear_value low
  subst hlow
  exact ⟨fun hty => ⟨laneForm_vadd_int hty, laneForm_vsub_int hty, laneForm_vmul_int hty, laneForm_vfma_int hty,
      laneForm_vmin_int hty, laneForm_vmax_int hty, laneForm_vabs_int hty, laneForm_vneg_int hty, laneForm_vsll,
      laneForm_vsrl, laneForm_vsra, laneForm_vmulh⟩,
    fun f hty => ⟨laneForm_lane2_float hty exec_vadd, laneForm_lane2_float hty exec_vsub,
      laneForm_lane2_float hty exec_vmul, laneForm_vfma_float hty, laneForm_laneExtreme_float hty exec_vmin,
      laneForm_laneExtreme_float hty exec_vmax, laneForm_vabs_float hty, laneForm_vneg_float hty⟩,
    laneForm_vand, laneForm_vor, laneForm_vxor, laneForm_vandn, laneForm_of_eq exec_vshuf fun _ _ => rfl, laneForm_vbcast,
    laneForm_of_eq exec_vslide fun _ _ => rfl, laneForm_vzip, laneForm_viota, laneForm_of_eq exec_vdup fun _ _ => rfl,
    writesBits_vsel, writesX_vext⟩

end Sys2Proof.Machine
end

section
/-!
Proofs of this sitting, VectorOther: compares, reductions, conversions and lane witnesses (O55).
-/
namespace Sys2Proof.Machine
set_option Elab.async false

/-! ### The forms as the shared operations (R264, R265, R269) -/

section
variable {s : State} {ty : LaneType} {tgt : ElemType} {m : BitVec 3} {d a b : Reg}

theorem exec_vcmpeq : exec (.vcmpeq ty m d a b) s = s.laneCompare ty m d a b true false (· == ·) Num.eq := rfl
theorem exec_vcmplt : exec (.vcmplt ty m d a b) s = s.laneCompare ty m d a b false false (fun x y => x < y) Num.lt := rfl
theorem exec_vcmple :
    exec (.vcmple ty m d a b) s = s.laneCompare ty m d a b false false (fun x y => x ≤ y) fun x y => !y.lt x := rfl
theorem exec_vcmpun :
    exec (.vcmpun ty m d a b) s = s.laneCompare ty m d a b true true (fun _ _ => false) fun _ _ => false := rfl
theorem exec_vcvt : exec (.vcvt ty tgt m d a) s = s.convert ty tgt m d a s.rm false := rfl
theorem exec_vcvtz : exec (.vcvtz ty tgt m d a) s = s.convert ty tgt m d a .rz false := rfl
theorem exec_vcvts : exec (.vcvts ty tgt m d a) s = s.convert ty tgt m d a .rne true := rfl
theorem exec_vcvtr : exec (.vcvtr ty tgt m d a) s = s.convert ty tgt m d a .rne false := rfl
theorem exec_vrmax : exec (.vrmax ty m d a) s = s.reduceExtreme ty m d a true := rfl
theorem exec_vrmin : exec (.vrmin ty m d a) s = s.reduceExtreme ty m d a false := rfl
theorem exec_vclmpw : exec (.vclmpw ty m d a b) s = s.pairwise ty m d a fun _ x _ _ =>
    if laneNan ty x then (laneNanBits ty, 3, laneSig ty [x, s.lane ty b 0, s.lane ty b 1] ||| evNan)
    else if laneLt ty x (s.lane ty b 0) then (s.lane ty b 0, 1, laneSig ty [x, s.lane ty b 0, s.lane ty b 1])
    else if laneLt ty (s.lane ty b 1) x then (s.lane ty b 1, 2, laneSig ty [x, s.lane ty b 0, s.lane ty b 1])
    else (x, 0, laneSig ty [x, s.lane ty b 0, s.lane ty b 1]) := rfl

theorem exec_vadjb_int (hty : ty.elem.fmt = none) : exec (.vadjb ty m d a b) s = s.pairwise ty m d a fun j x v q =>
    if s.lane ty b (2 * j + 1) ≠ q then (v, q, 0) else ((v + x) % 2 ^ ty.width, q, 0) := by
  show execVadjb ty m d a b s = _
  unfold execVadjb
  simp only [hty, bne_iff_ne]
  rfl

theorem exec_vadjb_float {f : Fmt} (hty : ty.elem.fmt = some f) : exec (.vadjb ty m d a b) s =
    s.pairwise ty m d a fun j x v q => if s.lane ty b (2 * j + 1) ≠ q then (v, q, 0)
      else ((s.floatOp f (Num.add s.rm) v x).1, q, (s.floatOp f (Num.add s.rm) v x).2) := by
  show execVadjb ty m d a b s = _
  unfold execVadjb
  simp only [hty, bne_iff_ne]
  rfl

theorem exec_vmaxw : exec (.vmaxw ty m d a b) s = s.witnessExtreme ty m d a b true := rfl
theorem exec_vminw : exec (.vminw ty m d a b) s = s.witnessExtreme ty m d a b false := rfl

end

/-! ### Compares (R264) -/

/-- A compare writes the condition `g` of each enabled lane as a bit, all other bits clear, and counts the events `ev`
of the enabled lanes. -/
def CompareForm (s : State) (i : Instr) (ty : LaneType) (m : BitVec 3) (d : Reg) (g : Nat → Bool) (ev : Nat → Ev) : Prop :=
  ∃ v, CountedForm s i d v ((List.range ty.lanes).map fun k => if s.laneOn m k then ev k else 0) ∧
    ∀ k, k < 256 → v.getLsbD k = (decide (k < ty.lanes) && s.laneOn m k && g k)

section
variable {s : State} {ty : LaneType} {m : BitVec 3} {d a b : Reg} {i : Instr} {quiet onNan : Bool}
  {gi : Int → Int → Bool} {gf : Num → Num → Bool}

/-- What a form of compares writes and counts, from its list of lanes. -/
theorem compareForm_of {g : Nat → Bool} {ev : Nat → Ev} {rs : List (Nat × Ev)}
    (h : exec i s = .next ((s.countLanes (rs.map (·.2))).setBits d (fromLanes 1 (rs.map (·.1)))).advance)
    (hrs : rs = (List.range ty.lanes).map fun k => if !s.laneOn m k then (0, 0) else ((g k).toNat, ev k)) :
    CompareForm s i ty m d g ev := by
  have hvals : rs.map (·.1) = (List.range ty.lanes).map fun k => (s.laneOn m k && g k).toNat := by
    rw [hrs, List.map_map]
    refine List.map_congr_left fun k _ => ?_
    cases hon : s.laneOn m k <;> simp [hon]
  have hevs : rs.map (·.2) = (List.range ty.lanes).map fun k => if s.laneOn m k then ev k else 0 := by
    rw [hrs, List.map_map]
    refine List.map_congr_left fun k _ => ?_
    cases hon : s.laneOn m k <;> simp [hon]
  have hlanes : ty.lanes ≤ 256 := by cases ty <;> decide
  rw [hvals, hevs] at h
  exact ⟨_, countedForm_of h, fun k _ => by rw [getLsbD_fromLanes_one hlanes, Bool.and_assoc]⟩

theorem compareForm_int (hty : ty.elem.fmt = none) (h : exec i s = s.laneCompare ty m d a b quiet onNan gi gf) :
    CompareForm s i ty m d (fun k => gi (sextInt (s.lane ty a k) ty.width) (sextInt (s.lane ty b k) ty.width))
      fun _ => 0 := by
  refine compareForm_of (h.trans ?_) rfl
  unfold State.laneCompare
  rw [hty]
  rfl

/-- A floating source lane as an operation reads it: its value, and the events that reading it counts (R92). -/
def State.operand (s : State) (f : Fmt) (x : Nat) : Num × Ev :=
  (f.decode (dazOperand s.daz f x).1, (dazOperand s.daz f x).2)

theorem compareForm_float {f : Fmt} (hty : ty.elem.fmt = some f)
    (h : exec i s = s.laneCompare ty m d a b quiet onNan gi gf) {g : Nat → Bool} {ev : Nat → Ev}
    (hg : ∀ k, g k = if (s.operand f (s.lane ty a k)).1.isNan || (s.operand f (s.lane ty b k)).1.isNan then onNan
      else gf (s.operand f (s.lane ty a k)).1 (s.operand f (s.lane ty b k)).1)
    (hev : ∀ k, ev k = (s.operand f (s.lane ty a k)).2 ||| (s.operand f (s.lane ty b k)).2 |||
      ((s.operand f (s.lane ty a k)).1.sigEv ||| (s.operand f (s.lane ty b k)).1.sigEv |||
        evIf (((s.operand f (s.lane ty a k)).1.isNan || (s.operand f (s.lane ty b k)).1.isNan) && !quiet) evInvalid)) :
    CompareForm s i ty m d g ev := by
  obtain rfl : g = _ := funext hg
  obtain rfl : ev = _ := funext hev
  refine compareForm_of (h.trans ?_) rfl
  unfold State.laneCompare
  rw [hty]
  rfl

theorem compareForm_vcmpeq_int (hty : ty.elem.fmt = none) :
    CompareForm s (.vcmpeq ty m d a b) ty m d (fun k => s.lane ty a k == s.lane ty b k) fun _ => 0 := by
  have hsext (k : Nat) : (sextInt (s.lane ty a k) ty.width == sextInt (s.lane ty b k) ty.width) =
      (s.lane ty a k == s.lane ty b k) := by
    rw [Bool.eq_iff_iff, beq_iff_eq, beq_iff_eq, sextInt_inj (lane_lt s ty a k) (lane_lt s ty b k)]
  have h := compareForm_int hty (exec_vcmpeq (s := s) (m := m) (d := d) (a := a) (b := b))
  simpa only [hsext] using h

section
variable {f : Fmt} (hty : ty.elem.fmt = some f)
include hty

/-- A quiet compare of floats counts invalid for a signalling NaN only (R264). -/
theorem compareForm_quiet (h : exec i s = s.laneCompare ty m d a b true onNan gi gf) : CompareForm s i ty m d
    (fun k => if (s.operand f (s.lane ty a k)).1.isNan || (s.operand f (s.lane ty b k)).1.isNan then onNan
      else gf (s.operand f (s.lane ty a k)).1 (s.operand f (s.lane ty b k)).1)
    fun k => (s.operand f (s.lane ty a k)).2 ||| (s.operand f (s.lane ty b k)).2 |||
      ((s.operand f (s.lane ty a k)).1.sigEv ||| (s.operand f (s.lane ty b k)).1.sigEv) := by
  refine compareForm_float hty h (fun _ => rfl) fun k => ?_
  rw [Bool.not_true, Bool.and_false]
  simp [evIf]

/-- The other compares of floats count invalid for any NaN (R264). -/
theorem compareForm_loud (h : exec i s = s.laneCompare ty m d a b false onNan gi gf) : CompareForm s i ty m d
    (fun k => if (s.operand f (s.lane ty a k)).1.isNan || (s.operand f (s.lane ty b k)).1.isNan then onNan
      else gf (s.operand f (s.lane ty a k)).1 (s.operand f (s.lane ty b k)).1)
    fun k => (s.operand f (s.lane ty a k)).2 ||| (s.operand f (s.lane ty b k)).2 |||
      ((s.operand f (s.lane ty a k)).1.sigEv ||| (s.operand f (s.lane ty b k)).1.sigEv) |||
      evIf ((s.operand f (s.lane ty a k)).1.isNan || (s.operand f (s.lane ty b k)).1.isNan) evInvalid := by
  refine compareForm_float hty h (fun _ => rfl) fun k => ?_
  rw [Bool.not_false, Bool.and_true]
  simp only [BitVec.or_assoc]

end

theorem CompareForm.congr {g g' : Nat → Bool} {ev : Nat → Ev} (h : CompareForm s i ty m d g ev) (hg : ∀ k, g k = g' k) :
    CompareForm s i ty m d g' ev := funext hg ▸ h

/-- A condition that a NaN makes false. -/
theorem ite_false_eq_not_and (nan c : Bool) : (if nan then false else c) = (!nan && c) := by cases nan <;> rfl

/-- A condition that only a NaN makes true. -/
theorem ite_true_false_eq (nan : Bool) : (if nan then true else false) = nan := by cases nan <;> rfl

end

/-! ### Reductions (R107, R268) -/

theorem setWidth_ofNat_of_lt {n : Nat} (h : n < 2 ^ 64) : (BitVec.ofNat 64 n).setWidth 256 = .ofNat 256 n := by
  apply BitVec.eq_of_toNat_eq
  rw [BitVec.toNat_setWidth, BitVec.toNat_ofNat, BitVec.toNat_ofNat, Nat.mod_eq_of_lt h]

/-- A running best of integers is in relation to all of them, and is one of them or where it started. -/
theorem foldl_best {α : Type} {better : Int → Int → Prop} [∀ m v, Decidable (better m v)] {R : Int → Int → Prop}
    (hrefl : ∀ v, R v v) (htrans : ∀ u v w, R u v → R v w → R u w) (hyes : ∀ m v, better m v → R m v)
    (hno : ∀ m v, ¬ better m v → R v m) (val : α → Int) : ∀ (xs : List α) (start : Int),
    R start (xs.foldl (fun m x => if better m (val x) then val x else m) start) ∧
    (∀ x ∈ xs, R (val x) (xs.foldl (fun m x => if better m (val x) then val x else m) start)) ∧
    (xs.foldl (fun m x => if better m (val x) then val x else m) start = start ∨
      ∃ x ∈ xs, xs.foldl (fun m x => if better m (val x) then val x else m) start = val x) := by
  intro xs
  induction xs with
  | nil => exact fun start => ⟨hrefl _, fun x hx => (List.not_mem_nil hx).elim, .inl rfl⟩
  | cons x xs ih =>
    intro start
    rw [List.foldl_cons]
    by_cases hb : better start (val x)
    · rw [if_pos hb]
      obtain ⟨hstart, hall, hone⟩ := ih (val x)
      refine ⟨htrans _ _ _ (hyes _ _ hb) hstart, List.forall_mem_cons.2 ⟨hstart, hall⟩, .inr ?_⟩
      rcases hone with hone | ⟨y, hy, hone⟩
      · exact ⟨x, List.mem_cons_self, hone⟩
      · exact ⟨y, List.mem_cons_of_mem _ hy, hone⟩
    · rw [if_neg hb]
      obtain ⟨hstart, hall, hone⟩ := ih start
      refine ⟨hstart, List.forall_mem_cons.2 ⟨htrans _ _ _ (hno _ _ hb) hstart, hall⟩, hone.imp_right ?_⟩
      exact fun ⟨y, hy, hone⟩ => ⟨y, List.mem_cons_of_mem _ hy, hone⟩

section
variable {s : State} {ty : LaneType} {m : BitVec 3} {d a b : Reg} {i : Instr}

/-- An integer result is a scalar, and counts nothing. -/
theorem State.reduced_int (s : State) (d : Reg) (v : Int) : s.reduced d (wrapNat v 64) [] = s.scalar d (.ofInt 64 v) := by
  unfold State.reduced State.scalar State.setX
  rw [← ofNat_wrapNat, setWidth_ofNat_of_lt (wrapNat_lt v 64), State.countLanes_nil]

theorem writesX_of_reduced_int {v : Int} (h : exec i s = s.reduced d (wrapNat v 64) []) : WritesX s i d (.ofInt 64 v) :=
  writesX_of _ _ _ _ (h.trans (s.reduced_int d v))

theorem countedForm_of_reduced {v : Nat} {evs : List Ev} (h : exec i s = s.reduced d v evs) :
    CountedForm s i d (.ofNat 256 v) evs := countedForm_of h

theorem writesX_of_reduced {v : Nat} (hv : v < 2 ^ 64) (h : exec i s = s.reduced d v []) : WritesX s i d (.ofNat 64 v) := by
  have hw := (countedForm_of_reduced h).writes (by simp)
  rwa [← setWidth_ofNat_of_lt hv] at hw

section
variable (hty : ty.elem.fmt = none)
include hty

theorem writesX_vrsum_int : WritesX s (.vrsum ty m d a) d
    (.ofInt 64 ((s.onLanes ty m).map fun k => sextInt (s.lane ty a k) ty.width).sum) := by
  refine writesX_of_reduced_int ?_
  show execVrsum ty m d a s = _
  unfold execVrsum
  rw [hty]
  simp only [List.map_map]
  rfl

theorem writesX_vrdot_int : WritesX s (.vrdot ty m d a b) d (.ofInt 64 ((s.onLanes ty m).map fun k =>
    sextInt (s.lane ty a k) ty.width * sextInt (s.lane ty b k) ty.width).sum) := by
  refine writesX_of_reduced_int ?_
  show execVrdot ty m d a b s = _
  unfold execVrdot
  rw [hty]
  simp only [List.map_map]
  rfl

theorem reduceExtreme_int (s : State) (m : BitVec 3) (d a : Reg) (max : Bool) : s.reduceExtreme ty m d a max =
    s.reduced d (wrapNat ((s.onLanes ty m).foldl (fun r k =>
      if (if max then r < sextInt (s.lane ty a k) ty.width else sextInt (s.lane ty a k) ty.width < r)
      then sextInt (s.lane ty a k) ty.width else r) (if max then ty.elem.lo else ty.elem.hi)) 64) [] := by
  unfold State.reduceExtreme
  rw [hty]
  simp only [List.foldl_map]
  rfl

theorem lane_isSigned : ty.elem.isSigned = true := by
  revert hty
  cases ty <;> decide

theorem lane_lo : ty.elem.lo = -(2 ^ (ty.width - 1) : Nat) := if_pos (lane_isSigned hty)

theorem lane_hi : ty.elem.hi = (2 ^ (ty.width - 1) : Nat) - 1 := if_pos (lane_isSigned hty)

theorem writesX_vrmax_int : ∃ r : Int, WritesX s (.vrmax ty m d a) d (.ofInt 64 r) ∧
    (∀ k ∈ s.onLanes ty m, sextInt (s.lane ty a k) ty.width ≤ r) ∧
    (r = -(2 ^ (ty.width - 1) : Nat) ∨ ∃ k ∈ s.onLanes ty m, r = sextInt (s.lane ty a k) ty.width) := by
  obtain ⟨-, hall, hone⟩ := foldl_best (better := (· < ·)) (R := (· ≤ ·)) le_refl (fun _ _ _ => le_trans)
    (fun _ _ => le_of_lt) (fun _ _ => le_of_not_gt) (fun k => sextInt (s.lane ty a k) ty.width) (s.onLanes ty m) ty.elem.lo
  refine ⟨_, writesX_of_reduced_int (exec_vrmax.trans (reduceExtreme_int hty s m d a true)), hall, ?_⟩
  rwa [← lane_lo hty]

theorem writesX_vrmin_int : ∃ r : Int, WritesX s (.vrmin ty m d a) d (.ofInt 64 r) ∧
    (∀ k ∈ s.onLanes ty m, r ≤ sextInt (s.lane ty a k) ty.width) ∧
    (r = (2 ^ (ty.width - 1) : Nat) - 1 ∨ ∃ k ∈ s.onLanes ty m, r = sextInt (s.lane ty a k) ty.width) := by
  obtain ⟨-, hall, hone⟩ := foldl_best (better := (· > ·)) (R := (· ≥ ·)) le_refl (fun _ _ _ h g => le_trans g h)
    (fun _ _ => le_of_lt) (fun _ _ => le_of_not_gt) (fun k => sextInt (s.lane ty a k) ty.width) (s.onLanes ty m) ty.elem.hi
  refine ⟨_, writesX_of_reduced_int (exec_vrmin.trans (reduceExtreme_int hty s m d a false)), hall, ?_⟩
  rwa [← lane_hi hty]

end

section
variable {f : Fmt} (hty : ty.elem.fmt = some f)
include hty

theorem exec_vrsum_float : exec (.vrsum ty m d a) s =
    s.reduced d (reduceFp (s.floatOp f (Num.add s.rm)) 0 ((s.onLanes ty m).map (s.lane ty a))).1
      (reduceFp (s.floatOp f (Num.add s.rm)) 0 ((s.onLanes ty m).map (s.lane ty a))).2 := by
  show execVrsum ty m d a s = _
  unfold execVrsum
  rw [hty]
  rfl

theorem exec_vrdot_float : exec (.vrdot ty m d a b) s =
    s.reduced d (reduceFp (s.floatOp f (Num.add s.rm)) 0
        ((s.onLanes ty m).map fun k => (s.floatOp f Num.mul (s.lane ty a k) (s.lane ty b k)).1)).1
      ((s.onLanes ty m).map (fun k => (s.floatOp f Num.mul (s.lane ty a k) (s.lane ty b k)).2) ++
        (reduceFp (s.floatOp f (Num.add s.rm)) 0
          ((s.onLanes ty m).map fun k => (s.floatOp f Num.mul (s.lane ty a k) (s.lane ty b k)).1)).2) := by
  show execVrdot ty m d a b s = _
  unfold execVrdot
  rw [hty]
  simp only [List.map_map]
  rfl

theorem reduceExtreme_float (s : State) (m : BitVec 3) (d a : Reg) (max : Bool) : s.reduceExtreme ty m d a max =
    s.reduced d
      (reduceFp (s.fpExtreme f (if max then Num.max else Num.min)) (f.infBits max) ((s.onLanes ty m).map (s.lane ty a))).1
      (reduceFp (s.fpExtreme f (if max then Num.max else Num.min)) (f.infBits max) ((s.onLanes ty m).map (s.lane ty a))).2 := by
  unfold State.reduceExtreme
  rw [hty]
  rfl

theorem lane_infBits_lt (neg : Bool) : f.infBits neg < 2 ^ 64 := by
  cases ty <;> cases hty <;> cases neg <;> decide

/-- With no lane enabled a reduction is zero, or the infinity that no value is beyond (R268). -/
theorem writesX_reductions_nil (hon : s.onLanes ty m = []) :
    WritesX s (.vrsum ty m d a) d 0 ∧ WritesX s (.vrdot ty m d a b) d 0 ∧
      WritesX s (.vrmax ty m d a) d (.ofNat 64 (f.infBits true)) ∧
      WritesX s (.vrmin ty m d a) d (.ofNat 64 (f.infBits false)) := by
  have hsum := exec_vrsum_float (s := s) (m := m) (d := d) (a := a) hty
  have hdot := exec_vrdot_float (s := s) (m := m) (d := d) (a := a) (b := b) hty
  have hmax := reduceExtreme_float hty s m d a true
  have hmin := reduceExtreme_float hty s m d a false
  rw [hon] at hsum hdot hmax hmin
  exact ⟨writesX_of_reduced (by decide) hsum, writesX_of_reduced (by decide) hdot,
    writesX_of_reduced (lane_infBits_lt hty true) (exec_vrmax.trans hmax),
    writesX_of_reduced (lane_infBits_lt hty false) (exec_vrmin.trans hmin)⟩

/-- With a lane enabled a reduction goes on from the first of them: each step is an operation of its own (R107, R268). -/
theorem countedForm_reductions_cons {k : Nat} {rest : List Nat} (hon : s.onLanes ty m = k :: rest) :
    let product (k : Nat) : Nat × Ev := s.floatOp f Num.mul (s.lane ty a k) (s.lane ty b k)
    let sum (first : Nat) (xs : List Nat) := reduceFp (s.floatOp f (Num.add s.rm)) 0 (first :: xs)
    let best (g : Num → Num → Num) := reduceFp (s.fpExtreme f g) 0 (s.lane ty a k :: rest.map (s.lane ty a))
    let all := sum (s.lane ty a k) (rest.map (s.lane ty a))
    let dot := sum (product k).1 (rest.map fun k => (product k).1)
    CountedForm s (.vrsum ty m d a) d (.ofNat 256 all.1) all.2 ∧
      CountedForm s (.vrdot ty m d a b) d (.ofNat 256 dot.1) ((k :: rest).map (fun k => (product k).2) ++ dot.2) ∧
      CountedForm s (.vrmax ty m d a) d (.ofNat 256 (best Num.max).1) (best Num.max).2 ∧
      CountedForm s (.vrmin ty m d a) d (.ofNat 256 (best Num.min).1) (best Num.min).2 := by
  have hsum := exec_vrsum_float (s := s) (m := m) (d := d) (a := a) hty
  have hdot := exec_vrdot_float (s := s) (m := m) (d := d) (a := a) (b := b) hty
  have hmax := reduceExtreme_float hty s m d a true
  have hmin := reduceExtreme_float hty s m d a false
  rw [hon] at hsum hdot hmax hmin
  exact ⟨countedForm_of_reduced hsum, countedForm_of_reduced hdot, countedForm_of_reduced (exec_vrmax.trans hmax),
    countedForm_of_reduced (exec_vrmin.trans hmin)⟩

end

end

/-! ### Conversions (R93, R97, R265) -/

section
variable {s : State} {ty : LaneType} {tgt : ElemType} {m : BitVec 3} {d a : Reg} {i : Instr} {rm : Rounding} {sat : Bool}

/-- The value of a source lane, and the events that reading it counts (R92, R265). -/
def State.laneValue (s : State) (ty : LaneType) (r : Reg) (k : Nat) : Num × Ev :=
  match ty.elem.fmt with
  | none => (.ofInt (sextInt (s.lane ty r k) ty.width), 0)
  | some f => s.operand f (s.lane ty r k)

/-- A value converted into a type other than cx8, with the events of its source and its own (R92, R93, R265). -/
def State.converted (s : State) (tgt : ElemType) (rm : Rounding) (sat : Bool) (v : Num × Ev) : Nat × Ev :=
  match tgt.fmt with
  | none => ((tgt.round rm sat v.1).1, v.2 ||| (tgt.round rm sat v.1).2)
  | some f => ((ftzResult s.ftz f (tgt.round rm sat v.1).1).1,
      v.2 ||| (tgt.round rm sat v.1).2 ||| (ftzResult s.ftz f (tgt.round rm sat v.1).1).2)

theorem round_zero (tgt : ElemType) (rm : Rounding) (sat : Bool) : tgt.round rm sat (.fin false 0 0) = (0, 0) := by
  cases tgt <;> rfl

theorem ftzResult_zero (ftz : Bool) (f : Fmt) : ftzResult ftz f 0 = (0, 0) := by
  have hzero : f.isSubnormal 0 = false := by simp [Fmt.isSubnormal, bitsOf]
  unfold ftzResult
  rw [hzero, Bool.and_false]
  rfl

/-- A disabled lane gives zero and counts nothing, whatever the rounding (R265). -/
theorem State.converted_zero (s : State) (tgt : ElemType) (rm : Rounding) (sat : Bool) :
    s.converted tgt rm sat (.fin false 0 0, 0) = (0, 0) := by
  unfold State.converted
  rw [round_zero]
  cases tgt.fmt with
  | none => rfl
  | some f => simp only [ftzResult_zero]; rfl

/-- The source lanes of a conversion: zero where a lane is disabled (R265). -/
def State.convertSources (s : State) (ty : LaneType) (m : BitVec 3) (a : Reg) (n : Nat) : List (Num × Ev) :=
  (List.range n).map fun k => if !s.laneOn m k then (.fin false 0 0, 0) else s.laneValue ty a k

theorem convert_cx8 (s : State) (ty : LaneType) (m : BitVec 3) (d a : Reg) (rm : Rounding) (sat : Bool) :
    ∃ evs, s.convert ty .cx8 m d a rm sat = .next ((s.countLanes evs).setBits d (.ofNat 256 (cxEncode
      ((s.convertSources ty m a (Nat.min ty.lanes 32)).map (·.1) ++
        List.replicate (32 - Nat.min ty.lanes 32) (.fin false 0 0))).1)).advance := ⟨_, rfl⟩

theorem convert_plain (hcx : tgt ≠ .cx8) : s.convert ty tgt m d a rm sat =
    .next ((s.countLanes (((s.convertSources ty m a (Nat.min ty.lanes (256 / tgt.bits))).map (s.converted tgt rm sat)).map
      (·.2))).setBits d (fromLanes tgt.bits
        (((s.convertSources ty m a (Nat.min ty.lanes (256 / tgt.bits))).map (s.converted tgt rm sat)).map (·.1)))).advance := by
  unfold State.convert State.converted
  simp only [if_neg hcx]
  cases tgt.fmt <;> rfl

/-- The source values of a block: those of the enabled lanes, then zeros up to 32. -/
theorem convertSources_values (n : Nat) (hn : n ≤ 32) :
    (s.convertSources ty m a n).map (·.1) ++ List.replicate (32 - n) (.fin false 0 0) =
      (List.range 32).map fun k => if k < n ∧ s.laneOn m k = true then (s.laneValue ty a k).1 else .fin false 0 0 := by
  have hsplit : List.range 32 = List.range n ++ (List.range (32 - n)).map (n + ·) := by
    rw [← List.range_add, Nat.add_sub_cancel' hn]
  rw [hsplit, List.map_append, State.convertSources, List.map_map, List.map_map]
  congr 1
  · refine List.map_congr_left fun k hk => ?_
    have hlt : k < n := List.mem_range.1 hk
    cases hon : s.laneOn m k <;> simp [hon, hlt]
  · rw [eq_comm, List.eq_replicate_iff]
    refine ⟨by simp, fun v hv => ?_⟩
    obtain ⟨k, -, rfl⟩ := List.mem_map.1 hv
    rw [Function.comp_apply, if_neg (by omega)]

theorem countedForm_convert_cx8 (h : exec i s = s.convert ty .cx8 m d a rm sat) :
    ∃ evs, CountedForm s i d (.ofNat 256 (cxEncode ((List.range 32).map fun k =>
      if k < Nat.min ty.lanes 32 ∧ s.laneOn m k = true then (s.laneValue ty a k).1 else .fin false 0 0)).1) evs := by
  obtain ⟨evs, hconv⟩ := convert_cx8 s ty m d a rm sat
  rw [convertSources_values _ (Nat.min_le_right _ _)] at hconv
  exact ⟨evs, countedForm_of (h.trans hconv)⟩

theorem convertSources_converted (n : Nat) : (s.convertSources ty m a n).map (s.converted tgt rm sat) =
    (List.range n).map fun k => if s.laneOn m k then s.converted tgt rm sat (s.laneValue ty a k) else (0, 0) := by
  rw [State.convertSources, List.map_map]
  refine List.map_congr_left fun k _ => ?_
  rw [Function.comp_apply]
  cases s.laneOn m k
  · exact s.converted_zero tgt rm sat
  · rfl

theorem countedForm_convert (hcx : tgt ≠ .cx8) (h : exec i s = s.convert ty tgt m d a rm sat) :
    ∃ v, CountedForm s i d v ((List.range (Nat.min ty.lanes (256 / tgt.bits))).map fun k =>
        if s.laneOn m k then (s.converted tgt rm sat (s.laneValue ty a k)).2 else 0) ∧
      v.toNat < 2 ^ (Nat.min ty.lanes (256 / tgt.bits) * tgt.bits) ∧
      ∀ k, k < Nat.min ty.lanes (256 / tgt.bits) → laneOf v tgt.bits k =
        if s.laneOn m k then (s.converted tgt rm sat (s.laneValue ty a k)).1 % 2 ^ tgt.bits else 0 := by
  have hbits : 0 < tgt.bits := by cases tgt <;> decide
  have hfit : tgt.bits * Nat.min ty.lanes (256 / tgt.bits) ≤ 256 :=
    (Nat.mul_le_mul_left _ (Nat.min_le_right _ _)).trans (Nat.mul_div_le 256 _)
  rw [convert_plain hcx, convertSources_converted] at h
  generalize Nat.min ty.lanes (256 / tgt.bits) = n at h hfit ⊢
  simp only [List.map_map, Function.comp_def, apply_ite Prod.fst, apply_ite Prod.snd] at h
  refine ⟨_, countedForm_of h, ?_, fun k hk => ?_⟩
  · have hlt := (toNat_fromLanes (w := tgt.bits) (xs := (List.range n).map fun k =>
      if s.laneOn m k then (s.converted tgt rm sat (s.laneValue ty a k)).1 else 0) (by simpa using hfit) hbits).2
    rwa [List.length_map, List.length_range, Nat.mul_comm] at hlt
  · rw [laneOf_fromLanes (by simpa using hfit) hbits (by simpa using hk), List.getElem_map, List.getElem_range]
    split
    · rfl
    · exact Nat.zero_mod _

/-- A conversion writes its source values packed densely, zero for disabled lanes and beyond the last (R97, R265). -/
def ConvertForm (s : State) (i : Instr) (ty : LaneType) (tgt : ElemType) (m : BitVec 3) (d a : Reg) (rm : Rounding)
    (sat : Bool) : Prop :=
  if tgt = .cx8 then
    ∃ evs, CountedForm s i d (.ofNat 256 (cxEncode ((List.range 32).map fun k =>
      if k < Nat.min ty.lanes 32 ∧ s.laneOn m k = true then (s.laneValue ty a k).1 else .fin false 0 0)).1) evs
  else
    ∃ v, CountedForm s i d v ((List.range (Nat.min ty.lanes (256 / tgt.bits))).map fun k =>
        if s.laneOn m k then (s.converted tgt rm sat (s.laneValue ty a k)).2 else 0) ∧
      v.toNat < 2 ^ (Nat.min ty.lanes (256 / tgt.bits) * tgt.bits) ∧
      ∀ k, k < Nat.min ty.lanes (256 / tgt.bits) → laneOf v tgt.bits k =
        if s.laneOn m k then (s.converted tgt rm sat (s.laneValue ty a k)).1 % 2 ^ tgt.bits else 0

theorem convertForm_of (h : exec i s = s.convert ty tgt m d a rm sat) : ConvertForm s i ty tgt m d a rm sat := by
  unfold ConvertForm
  split
  case isTrue hcx =>
    subst hcx
    exact countedForm_convert_cx8 h
  case isFalse hcx => exact countedForm_convert hcx h

end

/-! ### Lane witnesses (R269) -/

/-- A form over pairs: where the pair is enabled its value and witness become those that `g` gives of the old ones; the
other pairs stay, and the events of the enabled pairs are counted. -/
def PairForm (s : State) (i : Instr) (ty : LaneType) (m : BitVec 3) (d : Reg) (g : Nat → Nat → Nat → Nat × Nat × Ev) : Prop :=
  ∃ v, CountedForm s i d v ((List.range (ty.lanes / 2)).map fun j =>
      if s.laneOn m j then (g j (s.lane ty d (2 * j)) (s.lane ty d (2 * j + 1))).2.2 else 0) ∧
    ∀ j, j < ty.lanes / 2 →
      laneOf v ty.width (2 * j) = (if s.laneOn m j
        then (g j (s.lane ty d (2 * j)) (s.lane ty d (2 * j + 1))).1 % 2 ^ ty.width else s.lane ty d (2 * j)) ∧
      laneOf v ty.width (2 * j + 1) = (if s.laneOn m j
        then (g j (s.lane ty d (2 * j)) (s.lane ty d (2 * j + 1))).2.1 % 2 ^ ty.width else s.lane ty d (2 * j + 1))

section
variable {α β : Type} (f g : α → β)

theorem length_flatMap_pair (xs : List α) : (xs.flatMap fun x => [f x, g x]).length = 2 * xs.length := by
  simp [List.length_flatMap, Nat.mul_comm]

theorem getElem?_flatMap_pair : ∀ (xs : List α) (j : Nat),
    (xs.flatMap fun x => [f x, g x])[2 * j]? = xs[j]?.map f ∧
      (xs.flatMap fun x => [f x, g x])[2 * j + 1]? = xs[j]?.map g := by
  intro xs
  induction xs with
  | nil => intro j; simp
  | cons x xs ih =>
    intro j
    cases j with
    | zero => simp
    | succ j => simpa [Nat.mul_succ] using ih j

end

section
variable {s : State} {ty : LaneType} {m : BitVec 3} {d a b : Reg} {i : Instr}

/-- What a form over pairs gives of pair `j`, and its events. -/
def State.pairOf (s : State) (ty : LaneType) (m : BitVec 3) (d a : Reg) (f : Nat → Nat → Nat → Nat → Nat × Nat × Ev)
    (j : Nat) : Nat × Nat × Ev :=
  if s.laneOn m j then f j (s.lane ty a j) (s.lane ty d (2 * j)) (s.lane ty d (2 * j + 1))
  else (s.lane ty d (2 * j), s.lane ty d (2 * j + 1), 0)

theorem State.pairwise_eq (s : State) (ty : LaneType) (m : BitVec 3) (d a : Reg)
    (f : Nat → Nat → Nat → Nat → Nat × Nat × Ev) : s.pairwise ty m d a f =
      .next ((s.countLanes ((List.range (ty.lanes / 2)).map fun j => (s.pairOf ty m d a f j).2.2)).setBits d
        (fromLanes ty.width ((List.range (ty.lanes / 2)).flatMap fun j =>
          [(s.pairOf ty m d a f j).1, (s.pairOf ty m d a f j).2.1]))).advance := by
  unfold State.pairwise
  simp only [List.map_map, List.flatMap_map]
  rfl

theorem laneOf_fromLanes_of_getElem? {w : Nat} {xs : List Nat} {k x : Nat} (hw : 0 < w) (hlen : w * xs.length ≤ 256)
    (hx : xs[k]? = some x) : laneOf (fromLanes w xs) w k = x % 2 ^ w := by
  obtain ⟨hk, rfl⟩ := List.getElem?_eq_some_iff.1 hx
  exact laneOf_fromLanes hlen hw hk

theorem pairForm_of {f : Nat → Nat → Nat → Nat → Nat × Nat × Ev} {g : Nat → Nat → Nat → Nat × Nat × Ev}
    (h : exec i s = s.pairwise ty m d a f)
    (hval : ∀ j v q, (f j (s.lane ty a j) v q).1 % 2 ^ ty.width = (g j v q).1 % 2 ^ ty.width)
    (hrest : ∀ j v q, (f j (s.lane ty a j) v q).2 = (g j v q).2) : PairForm s i ty m d g := by
  have hevs : ((List.range (ty.lanes / 2)).map fun j => (s.pairOf ty m d a f j).2.2) =
      (List.range (ty.lanes / 2)).map fun j =>
        if s.laneOn m j then (g j (s.lane ty d (2 * j)) (s.lane ty d (2 * j + 1))).2.2 else 0 := by
    refine List.map_congr_left fun j _ => ?_
    rw [State.pairOf, apply_ite Prod.snd, apply_ite Prod.snd, hrest]
  rw [State.pairwise_eq, hevs] at h
  have hfit : ty.width * ((List.range (ty.lanes / 2)).flatMap fun j =>
      [(s.pairOf ty m d a f j).1, (s.pairOf ty m d a f j).2.1]).length ≤ 256 := by
    rw [length_flatMap_pair, List.length_range, ← ty.width_mul_lanes]
    exact Nat.mul_le_mul_left _ (Nat.mul_div_le _ _)
  refine ⟨_, countedForm_of h, fun j hj => ?_⟩
  obtain ⟨hvalue, hwitness⟩ := getElem?_flatMap_pair (fun j => (s.pairOf ty m d a f j).1)
    (fun j => (s.pairOf ty m d a f j).2.1) (List.range (ty.lanes / 2)) j
  rw [List.getElem?_range hj, Option.map_some] at hvalue hwitness
  rw [laneOf_fromLanes_of_getElem? ty.width_pos hfit hvalue, laneOf_fromLanes_of_getElem? ty.width_pos hfit hwitness]
  unfold State.pairOf
  split
  · exact ⟨hval _ _ _, by rw [hrest]⟩
  · exact ⟨Nat.mod_eq_of_lt (lane_lt _ _ _ _), Nat.mod_eq_of_lt (lane_lt _ _ _ _)⟩

theorem pairForm_of_eq {f : Nat → Nat → Nat → Nat → Nat × Nat × Ev} {g : Nat → Nat → Nat → Nat × Nat × Ev}
    (h : exec i s = s.pairwise ty m d a f) (hfg : ∀ j v q, f j (s.lane ty a j) v q = g j v q) : PairForm s i ty m d g :=
  pairForm_of h (fun j v q => by rw [hfg]) fun j v q => by rw [hfg]

theorem lt_eq_false_of_isNan {x y : Num} (h : x.isNan = true ∨ y.isNan = true) : x.lt y = false := by
  rcases h with h | h
  · cases x with
    | nan => rfl
    | inf | fin => cases h
  · cases y with
    | nan => cases x <;> rfl
    | inf | fin => cases h

theorem laneSig_pair (ty : LaneType) (x v : Nat) :
    laneSig ty [x, v] = (ty.elem.decode x).sigEv ||| (ty.elem.decode v).sigEv := by
  simp [laneSig]

theorem laneSig_triple (ty : LaneType) (x u v : Nat) :
    laneSig ty [x, u, v] = (ty.elem.decode x).sigEv ||| (ty.elem.decode u).sigEv ||| (ty.elem.decode v).sigEv := by
  simp [laneSig]

/-- VMAXW and VMINW of a pair: a NaN input replaces a value that is not one, and otherwise the input replaces a value
that `lt` puts below it (R269). -/
def State.extremePair (s : State) (ty : LaneType) (a b : Reg) (lt : Num → Num → Bool) (j v q : Nat) : Nat × Nat × Ev :=
  let x := ty.elem.decode (s.lane ty a j)
  let r := ty.elem.decode v
  if x.isNan then
    if r.isNan then (v, q, x.sigEv ||| r.sigEv) else (laneNanBits ty, s.lane ty b 0, x.sigEv ||| r.sigEv ||| evNan)
  else if lt r x then (s.lane ty a j, s.lane ty b 0, x.sigEv ||| r.sigEv) else (v, q, x.sigEv ||| r.sigEv)

theorem State.witnessExtreme_eq (s : State) (ty : LaneType) (m : BitVec 3) (d a b : Reg) (max : Bool) :
    s.witnessExtreme ty m d a b max = s.pairwise ty m d a fun _ x v q =>
      if !((laneNan ty x && !laneNan ty v) || (if max then laneLt ty v x else laneLt ty x v)) then (v, q, laneSig ty [x, v])
      else if laneNan ty x then (laneNanBits ty, s.lane ty b 0, laneSig ty [x, v] ||| evNan)
      else (x, s.lane ty b 0, laneSig ty [x, v]) := rfl

/-- Replacing a value that is not a NaN by one, or a value by a better one, where a NaN is better than nothing. -/
theorem ite_replace_eq {α : Type} {nan old better : Bool} (h : nan = true → better = false) (keep blank take : α) :
    (if !((nan && !old) || better) then keep else if nan then blank else take) =
      if nan then (if old then keep else blank) else if better then take else keep := by
  cases nan with
  | true =>
    rw [h rfl]
    cases old <;> rfl
  | false => cases better <;> rfl

/-- VMAXW and VMINW, with the comparison that says when an input replaces the value (R269). -/
theorem pairForm_witnessExtreme {max : Bool} {lt : Num → Num → Bool} (h : exec i s = s.witnessExtreme ty m d a b max)
    (hlt : ∀ r x : Num, (if max then r.lt x else x.lt r) = lt r x) : PairForm s i ty m d (s.extremePair ty a b lt) := by
  refine pairForm_of_eq (h.trans (s.witnessExtreme_eq ty m d a b max)) fun j v q => ?_
  have hless : (if max then laneLt ty v (s.lane ty a j) else laneLt ty (s.lane ty a j) v) =
      lt (ty.elem.decode v) (ty.elem.decode (s.lane ty a j)) := hlt _ _
  have hnone (hx : laneNan ty (s.lane ty a j) = true) : lt (ty.elem.decode v) (ty.elem.decode (s.lane ty a j)) = false := by
    rw [← hlt, lt_eq_false_of_isNan (.inr hx), lt_eq_false_of_isNan (.inl hx), ite_self]
  rw [laneSig_pair, hless]
  exact ite_replace_eq hnone _ _ _

theorem pairForm_vmaxw : PairForm s (.vmaxw ty m d a b) ty m d (s.extremePair ty a b Num.lt) :=
  pairForm_witnessExtreme exec_vmaxw fun _ _ => if_pos rfl

theorem pairForm_vminw : PairForm s (.vminw ty m d a b) ty m d (s.extremePair ty a b fun r x => x.lt r) :=
  pairForm_witnessExtreme exec_vminw fun _ _ => if_neg Bool.false_ne_true

theorem pairForm_vclmpw : PairForm s (.vclmpw ty m d a b) ty m d fun j _ _ =>
    let x := ty.elem.decode (s.lane ty a j)
    let lo := ty.elem.decode (s.lane ty b 0)
    let hi := ty.elem.decode (s.lane ty b 1)
    let ev := x.sigEv ||| lo.sigEv ||| hi.sigEv
    if x.isNan then (laneNanBits ty, 3, ev ||| evNan)
    else if x.lt lo then (s.lane ty b 0, 1, ev)
    else if hi.lt x then (s.lane ty b 1, 2, ev) else (s.lane ty a j, 0, ev) := by
  refine pairForm_of_eq exec_vclmpw fun j v q => ?_
  rw [laneSig_triple]
  rfl

theorem pairForm_vadjb : PairForm s (.vadjb ty m d a b) ty m d fun j v q =>
    if s.lane ty b (2 * j + 1) ≠ q then (v, q, 0)
    else match ty.elem.fmt with
      | none => (v + s.lane ty a j, q, 0)
      | some f => ((s.floatOp f (Num.add s.rm) v (s.lane ty a j)).1, q,
          (s.floatOp f (Num.add s.rm) v (s.lane ty a j)).2) := by
  cases hty : ty.elem.fmt with
  | none =>
    refine pairForm_of (exec_vadjb_int hty) (fun j v q => ?_) fun j v q => ?_
    · dsimp only
      split
      · rfl
      · exact Nat.mod_mod _ _
    · dsimp only
      split <;> rfl
  | some f => exact pairForm_of_eq (exec_vadjb_float hty) fun _ _ _ => rfl

end

/-- Settles O55: each form is taken as the shared operation of its major; a compare writes a bit for each lane, a
conversion and a pair form lanes, a reduction a scalar that a fold gives. -/
theorem vectorOther : Obligations.VectorOther := by
  unfold Obligations.VectorOther
  intro s ty tgt m d a b w x y z sx sy on compare pairs
  refine ⟨fun hty => ?_, fun f hty => ⟨?_, ?_, ?_, ?_, fun hon => writesX_reductions_nil hty hon, fun k rest hon => ?_⟩,
    ?_, ?_⟩
  · exact ⟨compareForm_vcmpeq_int hty, compareForm_int hty exec_vcmplt, compareForm_int hty exec_vcmple,
      compareForm_int hty exec_vcmpun, writesX_vrsum_int hty, writesX_vrdot_int hty, writesX_vrmax_int hty,
      writesX_vrmin_int hty⟩
  · exact (compareForm_quiet hty exec_vcmpeq).congr fun _ => ite_false_eq_not_and _ _
  · exact (compareForm_loud hty exec_vcmplt).congr fun _ => ite_false_eq_not_and _ _
  · exact (compareForm_loud hty exec_vcmple).congr fun _ => ite_false_eq_not_and _ _
  · exact (compareForm_quiet hty exec_vcmpun).congr fun _ => ite_true_false_eq _
  · subst on
    have h := countedForm_reductions_cons (d := d) (a := a) (b := b) hty hon
    rw [hon]
    exact h
  · exact ⟨convertForm_of exec_vcvt, convertForm_of exec_vcvtz, convertForm_of exec_vcvts, convertForm_of exec_vcvtr⟩
  · exact ⟨pairForm_vmaxw, pairForm_vminw, pairForm_vclmpw, pairForm_vadjb⟩

end Sys2Proof.Machine
end

section
/-!
Proofs of this sitting, ControlWrites: the RW fields of the control registers, and the three forms that write them (O33).
-/
namespace Sys2Proof.Machine
set_option Elab.async false

/-! ### The CTL forms as what they write (R391, R392) -/

section
variable {s : State} {r : Reg} {n : BitVec 12}

/-- The mode allows the number: the context is privileged, or the number lies below 0x100 (R389, R392). -/
def State.mayCtl (s : State) (n : BitVec 12) : Prop := s.cx.priv = true ∨ n.toNat < 0x100

theorem State.ctlForm_of_may (h : s.mayCtl n) (i : Instr) (f : Out) : s.ctlForm i n f = f := by
  unfold State.ctlForm ctlPrivileged
  rcases h with h | h
  · rw [h, Bool.not_true, Bool.and_false]
    rfl
  · rw [decide_eq_false (Nat.not_le.2 h), Bool.false_and]
    rfl

theorem exec_ctlw_of_may (h : s.mayCtl n) (hwide : ctlWide n = false) (hflags : n ≠ 0x008) :
    exec (.ctlw r n) s = .next (s.advance.ctlWrite n.toNat (s.x r)) := by
  show execCtlw r n s = _
  unfold execCtlw
  rw [State.ctlForm_of_may h, hwide, if_neg Bool.false_ne_true, if_neg hflags]

theorem exec_ctls_of_may (h : s.mayCtl n) (hflags : n ≠ 0x008) :
    exec (.ctls r n) s = .next (s.advance.ctlWrite n.toNat (s.ctlRead n.toNat ||| s.x r)) := by
  show execCtls r n s = _
  unfold execCtls
  rw [State.ctlForm_of_may h, if_neg hflags]

theorem exec_ctlc_of_may (h : s.mayCtl n) :
    exec (.ctlc r n) s = .next (s.advance.ctlWrite n.toNat (s.ctlRead n.toNat &&& ~~~s.x r)) := by
  show execCtlc r n s = _
  unfold execCtlc
  rw [State.ctlForm_of_may h]

end

/-! ### What a write of a control register leaves (R391) -/

section
variable {s : State}

theorem State.onlyPc_advance (s : State) (f : Ctx → Ctx) (hpc : (f s.cx).pcCap = s.cx.pcCap)
    (hunit : (f s.cx).unit = s.cx.unit) : OnlyPc s (s.updCx f).advance (f s.cx) (s.here + 4) := by
  have hhere : (s.updCx f).here = s.here := by
    unfold State.here
    show (f s.cx).unit.addr = _
    rw [hunit]
  unfold State.advance
  rw [hhere]
  exact onlyPc_setPc s (s.updCx f) _ hpc rfl

theorem State.onlyPc_advance_same (s : State) : OnlyPc s s.advance s.cx (s.here + 4) := s.onlyPc_advance id rfl rfl

/-- The registers, the mode and, of the trap registers, cause and program counter are as they were. -/
def CtxKept (c k : Ctx) : Prop :=
  k.regs = c.regs ∧ k.pcCap = c.pcCap ∧ k.priv = c.priv ∧ k.trap.cause = c.trap.cause ∧ k.trap.pc = c.trap.pc

/-- Where one of a context's control registers is written, the rest of the context stays. -/
theorem Ctx.setCtl_kept (c : Ctx) (n : Nat) (y : Word) : CtxKept c (c.setCtl n y) := by
  unfold Ctx.setCtl
  by_cases hnec : 0x010 ≤ n ∧ n < 0x018
  · rw [dif_pos hnec]
    exact ⟨rfl, rfl, rfl, rfl, rfl⟩
  rw [dif_neg hnec]
  iterate 10 refine iteInduction (motive := CtxKept c) (fun _ => ⟨rfl, rfl, rfl, rfl, rfl⟩) fun _ => ?_
  exact ⟨rfl, rfl, rfl, rfl, rfl⟩

/-- What the statements name of a CTL form's frame: no general register, no memory, no other context, neither the mode nor
the cause and program counter of the last trap; and the unit is done (R391). -/
def CtlKept (s t : State) : Prop :=
  (∀ x, t.reg x = s.reg x) ∧ t.mem = s.mem ∧ t.cx.pc = s.here + 4 ∧ t.ctxs = s.ctxs ∧ t.cx.priv = s.cx.priv ∧
    t.cx.trap.cause = s.cx.trap.cause ∧ t.cx.trap.pc = s.cx.trap.pc

theorem CtlKept.of_ctxKept {t : State} (hcx : CtxKept s.advance.cx t.cx) (hmem : t.mem = s.mem) (hctxs : t.ctxs = s.ctxs) :
    CtlKept s t := by
  obtain ⟨hregs, hpc, hpriv, hcause, htpc⟩ := hcx
  refine ⟨fun x => ?_, hmem, ?_, hctxs, hpriv, hcause, htpc⟩
  · unfold State.reg Ctx.reg
    rw [hregs]
    rfl
  · unfold Ctx.pc
    rw [hpc]
    exact Ctx.pc_setPc _ _

/-- The RW fields of register `n` are the bits of `mask`: a write replaces those and keeps the others, and the frame
(R391). -/
def WritesUnder (s : State) (n : Nat) (mask : Word) : Prop :=
  ∀ v, (s.ctlRead n).and (~~~mask) ||| (v &&& mask) = (s.advance.ctlWrite n v).ctlRead n ∧
    CtlKept s (s.advance.ctlWrite n v)

/-- A CTL form gives the RW fields of register `n` the bits of `v` (R391). -/
def CtlWrote (s : State) (i : Instr) (n : BitVec 12) (mask v : Word) : Prop :=
  ∃ t, exec i s = .next t ∧ (s.ctlRead n.toNat).and (~~~mask) ||| (v &&& mask) = t.ctlRead n.toNat ∧ CtlKept s t

/-- CTLW, CTLS and CTLC give the RW fields the bits of y, of old OR y, and of old AND NOT y (R391). -/
theorem WritesUnder.forms {n : BitVec 12} {mask : Word} (hw : WritesUnder s n.toNat mask) (h : s.mayCtl n)
    (hwide : ctlWide n = false) (hflags : n ≠ 0x008) (r : Reg) :
    CtlWrote s (.ctlw r n) n mask (s.x r) ∧ CtlWrote s (.ctls r n) n mask (s.ctlRead n.toNat ||| s.x r) ∧
      CtlWrote s (.ctlc r n) n mask (s.ctlRead n.toNat &&& ~~~s.x r) :=
  ⟨⟨_, exec_ctlw_of_may h hwide hflags, hw _⟩, ⟨_, exec_ctls_of_may h hflags, hw _⟩, ⟨_, exec_ctlc_of_may h, hw _⟩⟩

/-! ### The fields of each register (R389) -/

/-- A register that is one field of `k` bits from bit 0. -/
theorem field_low {k : Nat} (old : BitVec k) (v : Word) {mask : Word} (hmask : mask = (BitVec.allOnes k).setWidth 64) :
    (old.setWidth 64).and (~~~mask) ||| (v &&& mask) = (v.setWidth k).setWidth 64 := by
  subst hmask
  apply BitVec.eq_of_getLsbD_eq
  intro i hi
  show (old.setWidth 64 &&& ~~~(BitVec.allOnes k).setWidth 64 ||| v &&& (BitVec.allOnes k).setWidth 64).getLsbD i = _
  by_cases hk : i < k
  · simp [hi, hk]
  · simp [hi, hk, BitVec.getLsbD_of_ge old i (by omega)]

/-- A copy register, whose reserved bits are clear. -/
theorem field_reserved {old mask : Word} (v : Word) (h : old.and (~~~mask) = 0) :
    old.and (~~~mask) ||| (v &&& mask) = v &&& mask := by
  rw [h]
  exact BitVec.zero_or

theorem stateBits_ie : ∀ handler old priv new : Bool,
    ((BitVec.ofBool handler ++ BitVec.ofBool old ++ BitVec.ofBool priv).setWidth 64).and (~~~2#64) |||
      (if new then 2#64 else 0) = (BitVec.ofBool handler ++ BitVec.ofBool new ++ BitVec.ofBool priv).setWidth 64 := by
  decide

/-- IE is bit 1 of ctx.state; PRIV and HANDLER are RO (R386). -/
theorem field_ie (c : Ctx) (v : Word) :
    c.stateWord.and (~~~2) ||| (v &&& 2) = ({ c with ie := v.getLsbD 1 } : Ctx).stateWord := by
  have hbit : v &&& 2 = if v.getLsbD 1 then 2 else 0 := BitVec.and_twoPow v 1
  rw [hbit]
  exact stateBits_ie c.handler c.ie c.priv (v.getLsbD 1)

/-- All bits of trap.vec are RW. -/
theorem field_all (old v : Word) : old.and (~~~.allOnes 64) ||| (v &&& .allOnes 64) = v := by
  rw [BitVec.not_allOnes, BitVec.and_allOnes]
  exact (congrArg (· ||| v) BitVec.and_zero).trans BitVec.zero_or

/-- A register of the context. -/
theorem writesUnder_ctx {n : Nat} {mask : Word} (hn : n < 0x200) (hcyc : n ≠ 0x004)
    (hfield : ∀ v, (s.cx.ctl n).and (~~~mask) ||| (v &&& mask) = (s.advance.cx.setCtl n v).ctl n) :
    WritesUnder s n mask := by
  intro v
  have hwrite : s.advance.ctlWrite n v = s.advance.updCx fun c => c.setCtl n v := if_pos hn
  have hread (t : State) : t.ctlRead n = t.cx.ctl n := (if_neg hcyc).trans (if_pos hn)
  rw [hwrite, hread, hread]
  exact ⟨hfield v, .of_ctxKept (Ctx.setCtl_kept _ n v) rfl rfl⟩

theorem writesUnder_nec0 : WritesUnder s 0x010 0xFFFFFFFF := writesUnder_ctx (by decide) (by decide) fun v =>
  (field_low s.cx.nec[0] v (by decide)).trans (congrArg (BitVec.setWidth 64) (Vector.getElem_set_self _).symm)

theorem writesUnder_nec7 : WritesUnder s 0x017 0xFFFFFFFF := writesUnder_ctx (by decide) (by decide) fun v =>
  (field_low s.cx.nec[7] v (by decide)).trans (congrArg (BitVec.setWidth 64) (Vector.getElem_set_self _).symm)

theorem writesUnder_fpctl : WritesUnder s 0x020 0xF :=
  writesUnder_ctx (by decide) (by decide) fun v => field_low s.cx.fpctl v (by decide)

theorem writesUnder_vec : WritesUnder s 0x104 (.allOnes 64) :=
  writesUnder_ctx (by decide) (by decide) fun v => field_all s.cx.trap.vec v

theorem writesUnder_state : WritesUnder s 0x108 2 :=
  writesUnder_ctx (by decide) (by decide) fun v => field_ie s.cx v

theorem writesUnder_prio : WritesUnder s 0x109 3 :=
  writesUnder_ctx (by decide) (by decide) fun v => field_low s.cx.prio v (by decide)

theorem writesUnder_keySlot : WritesUnder s 0x10D 0xFF :=
  writesUnder_ctx (by decide) (by decide) fun v => field_low s.cx.keySlot v (by decide)

/-- The copy registers, where their reserved bits are clear (R275 to R278). -/
theorem writesUnder_copy {n : Nat} (hn : n ∈ [0x042, 0x043, 0x044, 0x045, 0x047])
    (hres : (s.ctlRead n).and (~~~copyMask n) = 0) : WritesUnder s n (copyMask n) := by
  simp only [List.mem_cons, List.not_mem_nil, or_false] at hn
  rcases hn with rfl | rfl | rfl | rfl | rfl
  all_goals exact writesUnder_ctx (by decide) (by decide) fun v => field_reserved v hres

theorem writesUnder_buddy : WritesUnder s 0x220 0x1FFF := fun v => by
  have hwrite : s.advance.ctlWrite 0x220 v = s.advance.updCore s.cx.core fun k => { k with buddy := v.setWidth 13 } := rfl
  refine ⟨(field_low (s.core s.cx.core).buddy v (by decide)).trans ?_, .of_ctxKept ⟨rfl, rfl, rfl, rfl, rfl⟩ rfl rfl⟩
  show _ = ((s.advance.updCore s.cx.core fun k => { k with buddy := v.setWidth 13 }).core s.cx.core).buddy.setWidth 64
  rw [State.core_updCore]

theorem writesUnder_wdog : WritesUnder s 0x223 0xFFFFFFFF := fun v => by
  refine ⟨(field_low (s.core s.cx.core).wdog v (by decide)).trans ?_, .of_ctxKept ⟨rfl, rfl, rfl, rfl, rfl⟩ rfl rfl⟩
  show _ = ((s.advance.updCore s.cx.core fun k => { k with wdog := v.setWidth 32 }).core s.cx.core).wdog.setWidth 64
  rw [State.core_updCore]

theorem writesUnder_heapSpill : WritesUnder s 0x310 0xFFFFFFFFFFFF := fun v => by
  refine ⟨(field_low (s.cluster s.cxCluster).heapSpill v (by decide)).trans ?_, .of_ctxKept ⟨rfl, rfl, rfl, rfl, rfl⟩ rfl rfl⟩
  show _ = ((s.advance.updCluster s.cxCluster fun k => { k with heapSpill := v.setWidth 48 }).cluster
    s.cxCluster).heapSpill.setWidth 64
  rw [State.cluster_updCluster]

theorem writesUnder_aging : WritesUnder s 0x318 0xFFFFFFFF := fun v => by
  refine ⟨(field_low (s.cluster s.cxCluster).aging v (by decide)).trans ?_, .of_ctxKept ⟨rfl, rfl, rfl, rfl, rfl⟩ rfl rfl⟩
  show _ = ((s.advance.updCluster s.cxCluster fun k => { k with aging := v.setWidth 32 }).cluster
    s.cxCluster).aging.setWidth 64
  rw [State.cluster_updCluster]

/-! ### Registers that a CTL form does not change, clears, or writes whole (R109, R274, R391) -/

/-- The RO numbers of the statement: nothing of them takes a bit (R389; log entry 60). -/
def readOnlyNumbers : List (BitVec 12) :=
  [0x000, 0x001, 0x002, 0x003, 0x004, 0x00C, 0x030, 0x100, 0x101, 0x102, 0x103, 0x10A, 0x10C, 0x221, 0x222, 0x224, 0x300,
    0x350, 0x35F]

theorem State.ctlWrite_readOnly (s : State) {n : BitVec 12} (hn : n ∈ readOnlyNumbers) (v : Word) :
    s.ctlWrite n.toNat v = s := by
  simp only [readOnlyNumbers, List.mem_cons, List.not_mem_nil, or_false] at hn
  rcases hn with rfl | rfl | rfl | rfl | rfl | rfl | rfl | rfl | rfl | rfl | rfl | rfl | rfl | rfl | rfl | rfl | rfl |
    rfl | rfl
  all_goals rfl

theorem onlyPc_readOnly {n : BitVec 12} (hn : n ∈ readOnlyNumbers) (h : s.mayCtl n) (r : Reg) :
    ∀ i ∈ ([.ctlw r n, .ctls r n, .ctlc r n] : List Instr), ∃ t, exec i s = .next t ∧ OnlyPc s t s.cx (s.here + 4) := by
  have hplain : ∀ n ∈ readOnlyNumbers, ctlWide n = false ∧ n ≠ 0x008 := by simp [readOnlyNumbers, ctlWide]
  obtain ⟨hwide, hflags⟩ := hplain n hn
  have hdone (i : Instr) (v : Word) (hi : exec i s = .next (s.advance.ctlWrite n.toNat v)) :
      ∃ t, exec i s = .next t ∧ OnlyPc s t s.cx (s.here + 4) := by
    rw [State.ctlWrite_readOnly _ hn] at hi
    exact ⟨_, hi, s.onlyPc_advance_same⟩
  simp only [List.forall_mem_cons]
  exact ⟨hdone _ _ (exec_ctlw_of_may h hwide hflags), hdone _ _ (exec_ctls_of_may h hflags), hdone _ _ (exec_ctlc_of_may h),
    fun _ hi => (List.not_mem_nil hi).elim⟩

theorem exec_ctlw_flags (r : Reg) :
    exec (.ctlw r 0x008) s = .next (s.updCx fun c => c.clearSticky (s.x r)).advance := by
  show execCtlw r 0x008 s = _
  unfold execCtlw
  rw [State.ctlForm_of_may (.inr (by decide))]
  rfl

theorem exec_ctls_flags (r : Reg) :
    exec (.ctls r 0x008) s = .next (s.updCx fun c => c.clearSticky (s.x r)).advance := by
  show execCtls r 0x008 s = _
  unfold execCtls
  rw [State.ctlForm_of_may (.inr (by decide))]
  rfl

/-- STICKY bits are W1C: CTLW and CTLS clear those that are set in y (R109). -/
theorem onlyPc_clearSticky (r : Reg) : ∀ i ∈ ([.ctlw r 0x008, .ctls r 0x008] : List Instr), ∃ t, exec i s = .next t ∧
    OnlyPc s t { s.cx with necFlags := s.cx.necFlags &&& ~~~((s.x r).setWidth 8) } (s.here + 4) := by
  have hpc := s.onlyPc_advance (fun c => c.clearSticky (s.x r)) rfl rfl
  simp only [List.forall_mem_cons]
  exact ⟨⟨_, exec_ctlw_flags r, hpc⟩, ⟨_, exec_ctls_flags r, hpc⟩, fun _ hi => (List.not_mem_nil hi).elim⟩

theorem onlyPc_ctlc_flags (r : Reg) : ∃ t, exec (.ctlc r 0x008) s = .next t ∧ OnlyPc s t s.cx (s.here + 4) :=
  ⟨_, exec_ctlc_of_may (.inr (by decide)), s.onlyPc_advance_same⟩

/-- CTLW of a wide copy register takes all of the source with its tag (R274). -/
theorem onlyPc_ctlw_wide {n : BitVec 12} (hwide : ctlWide n = true) (hmay : s.mayCtl n) (r : Reg) : ∃ t,
    exec (.ctlw r n) s = .next t ∧
      OnlyPc s t { s.cx with copy := s.cx.copy.setWide n.toNat (s.reg r) } (s.here + 4) := by
  refine ⟨(s.updCx fun c => { c with copy := c.copy.setWide n.toNat (s.reg r) }).advance, ?_,
    s.onlyPc_advance (fun c => { c with copy := c.copy.setWide n.toNat (s.reg r) }) rfl rfl⟩
  show execCtlw r n s = _
  unfold execCtlw
  rw [State.ctlForm_of_may hmay, hwide]
  rfl

/-- CTLW of clu.ncinv drops the names of an ASID (R389). -/
theorem exec_ctlw_ncinv (h : s.mayCtl 0x320) (r : Reg) :
    exec (.ctlw r 0x320) s = exec (.cluNcinv s.cxCluster (s.x r)) s.advance :=
  exec_ctlw_of_may h (by decide) (by decide)

/-- CTLW of mx.own0 without the valid bit takes the tile away (R313). -/
theorem exec_ctlw_own (h : s.mayCtl 0x340) (r : Reg) (hvalid : (s.x r).getLsbD 9 = false) :
    exec (.ctlw r 0x340) s = exec (.mxOwnWrite s.cxCluster 0 (s.x r)) s.advance := by
  have hown : s.advance.writeOwner s.cxCluster 0 (s.x r) = s.advance.setOwner s.cxCluster 0 (s.x r) := by
    unfold State.writeOwner
    rw [hvalid]
    rfl
  exact (exec_ctlw_of_may h (by decide) (by decide)).trans (congrArg Host.Outcome.next hown.symm)

/-! ### The obligation -/

/-- The numbers with RW fields that the statement names, and the masks of their fields (R389). -/
def writableFields : List (BitVec 12 × Word) :=
  [(0x010, 0xFFFFFFFF), (0x017, 0xFFFFFFFF), (0x020, 0xF), (0x042, copyMask 0x042), (0x043, copyMask 0x043),
   (0x044, copyMask 0x044), (0x045, copyMask 0x045), (0x047, copyMask 0x047), (0x104, .allOnes 64), (0x108, 2),
   (0x109, 3), (0x10D, 0xFF), (0x220, 0x1FFF), (0x223, 0xFFFFFFFF), (0x310, 0xFFFFFFFFFFFF), (0x318, 0xFFFFFFFF)]

theorem writesUnder_of_mem {x : BitVec 12 × Word} (hx : x ∈ writableFields)
    (hres : x.1 ≠ 0x042 ∧ x.1 ≠ 0x043 ∧ x.1 ≠ 0x044 ∧ x.1 ≠ 0x045 ∧ x.1 ≠ 0x047 ∨
      (s.ctlRead x.1.toNat).and (~~~x.2) = 0) : WritesUnder s x.1.toNat x.2 := by
  simp only [writableFields, List.mem_cons, List.not_mem_nil, or_false] at hx
  rcases hx with rfl | rfl | rfl | rfl | rfl | rfl | rfl | rfl | rfl | rfl | rfl | rfl | rfl | rfl | rfl | rfl
  · exact writesUnder_nec0
  · exact writesUnder_nec7
  · exact writesUnder_fpctl
  · exact writesUnder_copy (by decide) (hres.resolve_left (by decide))
  · exact writesUnder_copy (by decide) (hres.resolve_left (by decide))
  · exact writesUnder_copy (by decide) (hres.resolve_left (by decide))
  · exact writesUnder_copy (by decide) (hres.resolve_left (by decide))
  · exact writesUnder_copy (by decide) (hres.resolve_left (by decide))
  · exact writesUnder_vec
  · exact writesUnder_state
  · exact writesUnder_prio
  · exact writesUnder_keySlot
  · exact writesUnder_buddy
  · exact writesUnder_wdog
  · exact writesUnder_heapSpill
  · exact writesUnder_aging

end

/-- Settles O33: each number has its mask, under which a write puts its bits; the three forms differ in what they write. -/
theorem controlWrites : Obligations.ControlWrites := by
  unfold Obligations.ControlWrites
  intro s r y may rw ro wrote
  refine ⟨fun x hx hmay hres => ?_, fun n hn hmay => onlyPc_readOnly hn hmay r, onlyPc_clearSticky r, onlyPc_ctlc_flags r,
    onlyPc_ctlw_wide rfl (.inr (by decide)) r, onlyPc_ctlw_wide rfl (.inr (by decide)) r,
    onlyPc_ctlw_wide rfl (.inr (by decide)) r, fun hmay => exec_ctlw_ncinv hmay r, fun hmay => exec_ctlw_own hmay r⟩
  have hplain : ∀ x ∈ writableFields, ctlWide x.1 = false ∧ x.1 ≠ 0x008 := by simp [writableFields, ctlWide]
  obtain ⟨hwide, hflags⟩ := hplain x hx
  exact (writesUnder_of_mem hx hres).forms hmay hwide hflags r

end Sys2Proof.Machine
end

section
/-!
Proofs of this sitting, StoreResults: what a store whose checks pass does, target by target, and the entry it queues (O15).
-/
namespace Sys2Proof.Machine
set_option Elab.async false

/-! ### A store after its checks (R121, R220, R225) -/

section
variable {s : State} {i : Instr} {src a : Reg} {size : MemSize} {eff : Word} {strong : Bool} {o : MemOrder}

/-- The access that a store asks for (R120, R243). -/
def State.storeAccess (s : State) (a : Reg) (size : MemSize) (eff : Word) (strong : Bool) : Except Bad (Target × State) :=
  s.accessAt s.cx (s.reg a) permW eff { acc := .write, n := size.bytes, size := size, strong := strong }

theorem State.storeAt_error {c : Cause} {v : Word} (h : s.storeAccess a size eff strong = .error (c, v)) :
    s.storeAt src a size eff strong o = .next (s.takeTrap c v) :=
  congrArg (s.orTrap · _) h

theorem State.storeAt_ok {t : Target} {u : State} (h : s.storeAccess a size eff strong = .ok (t, u)) :
    s.storeAt src a size eff strong o = .next
      ((u.orderAccess o.order o.scope).issueStore t size.bytes size (u.reg src) (u.cap a).handle o.order) :=
  congrArg (s.orTrap · _) h

end

/-- A store to a queue is a push: what its release asks first (R195, R211). -/
def State.pushReleases (s : State) (t : Target) : State :=
  match s.entryScope t with
  | some scope => (s.clampScope scope).resolveAll.drainStash s.cx.id
  | none => s

/-- How a store ends: an acquire waits until the stores have performed (R234). -/
def State.storeEnds (s : State) (o : Order) : State := if Order.acquires o then s.awaitStores else s.advance

/-- Whether a store's entry is a release: by its order, or as a push (R195, R234). -/
def State.entryReleases (s : State) (t : Target) (o : Order) : Bool := (o == .rel || o == .ar) || (s.entryScope t).isSome

section
variable {s : State} {t : Target} {size : MemSize} {v : RegVal} {handle : BitVec 24} {key : Nat} {o : Order}

/-- A relaxed store through a stash window is gathered (R225). -/
theorem State.issueStore_gathered (ho : o = .rlx) : s.issueStore (.stash key) size.bytes size v handle o =
    (((s.pushReleases (.stash key)).resolveFor (.stash key) size.bytes).stashPut key
      (toBytes v.val.toNat size.bytes)).advance := by
  rw [ho]
  rfl

/-- With an order it queues an entry for the scratchpad bytes (R225, R234). -/
theorem State.issueStore_stash (ho : o ≠ .rlx) : s.issueStore (.stash key) size.bytes size v handle o =
    ((s.pushReleases (.stash key)).enqueueStore ((s.pushReleases (.stash key)).storeOf (.bytes key false) size.bytes size v
      handle (s.entryReleases (.stash key) o))).storeEnds o := by
  cases o with
  | rlx => exact absurd rfl ho
  | acq | rel | ar => rfl

/-- No size code of a store is the line that CLZERO writes (R68). -/
theorem MemSize.bytes_ne_line : size.bytes ≠ 64 := by cases size <;> decide

/-- Through any other window a store queues an entry for its own target (R220). -/
theorem State.issueStore_queued (ht : ∀ key, t ≠ .stash key) : s.issueStore t size.bytes size v handle o =
    ((s.pushReleases t).enqueueStore ((s.pushReleases t).storeOf t size.bytes size v handle
      (s.entryReleases t o))).storeEnds o := by
  have hrel : s.entryReleases t o = (Order.releases o || (s.entryScope t).isSome) := by cases o <;> rfl
  rw [hrel]
  cases t with
  | stash key => exact absurd rfl (ht key)
  | peer a h off =>
    unfold State.issueStore
    simp only [if_neg MemSize.bytes_ne_line]
    rfl
  | _ => rfl

end

/-! ### The entry at the young end of the queue (R220, R234) -/

section
variable {s w : State} {i : Instr} {e : StoreEntry} {o : Order}

/-- The state with the entry at the young end of the current context's store queue (R220). -/
def State.withEntry (w : State) (e : StoreEntry) : State := w.updCx fun c => { c with storeQ := c.storeQ ++ [e] }

/-- An order that does not acquire goes on, and only the store queue and the program counter have changed. -/
theorem State.storeEnds_goes_on (ho : o = .rlx ∨ o = .rel) : (w.withEntry e).storeEnds o = (w.withEntry e).advance := by
  rcases ho with rfl | rfl <;> rfl

theorem State.storeEnds_waits (ho : o = .acq ∨ o = .ar) : (w.withEntry e).storeEnds o = (w.withEntry e).awaitStores := by
  rcases ho with rfl | rfl <;> rfl

theorem State.enqueued_of_exec (h : exec i s = .next ((w.enqueueStore e).storeEnds o)) :
    (o = .rlx ∨ o = .rel → ∃ v, exec i s = .next v ∧ v.mem = (w.resolveFor e.target e.n).mem ∧
      v.tags = (w.resolveFor e.target e.n).tags ∧ OnlyPc (w.resolveFor e.target e.n) v
        { (w.resolveFor e.target e.n).cx with storeQ := (w.resolveFor e.target e.n).cx.storeQ ++ [e] }
        ((w.resolveFor e.target e.n).here + 4)) ∧
    (o = .acq ∨ o = .ar → exec i s = .next ((w.resolveFor e.target e.n).withEntry e).awaitStores) :=
  ⟨fun ho => ⟨_, h.trans (congrArg _ (State.storeEnds_goes_on ho)), rfl, rfl, State.onlyPc_advance _ _ rfl rfl⟩,
    fun ho => h.trans (congrArg _ (State.storeEnds_waits ho))⟩

end

/-- Settles O15: a store whose checks pass goes on as `issueStore` at its target; all but a relaxed one through a stash
window queue one entry. -/
theorem storeResults : Obligations.StoreResults := by
  unfold Obligations.StoreResults
  intro s ord size src a b imm scope store
  have form (i : Instr) (strong : Bool) (eff : Word) (o : MemOrder)
      (hexec : exec i s = s.storeAt src a size eff strong o) : store i strong eff o := by
    refine ⟨fun c v h => hexec.trans (State.storeAt_error h), fun t u h => ?_⟩
    have hissue := hexec.trans (State.storeAt_ok h)
    intro w0 w1 released queued
    by_cases ht : ∀ key, t ≠ .stash key
    · have hqueued : queued t := State.enqueued_of_exec (hissue.trans (congrArg _ (State.issueStore_queued ht)))
      cases t with
      | stash key => exact absurd rfl (ht key)
      | _ => exact hqueued
    · obtain ⟨key, rfl⟩ := not_forall_not.1 ht
      exact ⟨fun ho => hissue.trans (congrArg _ (State.issueStore_gathered ho)),
        fun ho => State.enqueued_of_exec (hissue.trans (congrArg _ (State.issueStore_stash ho)))⟩
  exact ⟨form _ _ _ _ rfl, form _ _ _ _ rfl, form _ _ _ _ rfl⟩

end Sys2Proof.Machine
end

section
/-!
Proofs of this sitting, IntResults: the functions of the INT class, and one bit changed among 256 (O1).
-/
namespace Sys2Proof.Machine
set_option Elab.async false

/-! ### One bit changed (R123, R125, R129) -/

theorem getLsbD_withBit (v : W256) (n : Nat) (b : Bool) {i : Nat} (hi : i < 256) :
    (withBit v n b).getLsbD i = if i = n then b else v.getLsbD i := by
  have hone : (1#256 <<< n).getLsbD i = decide (i = n) := by
    rw [BitVec.getLsbD_shiftLeft, BitVec.getLsbD_one, decide_eq_true hi, decide_eq_true (Nat.succ_pos 255), Bool.true_and,
      Bool.true_and, Bool.eq_iff_iff]
    simp only [Bool.and_eq_true, Bool.not_eq_true', decide_eq_false_iff_not, decide_eq_true_iff]
    omega
  unfold withBit
  rw [BitVec.getLsbD_or, BitVec.getLsbD_and, BitVec.getLsbD_not, decide_eq_true hi, hone]
  by_cases h : i = n
  · subst h
    cases b <;> simp [hone]
  · cases b <;> simp [h, hone]

theorem bitChanged_withBit (v : W256) (n : Nat) (b : Bool) : BitChanged v (withBit v n b) n b :=
  fun _ hi => getLsbD_withBit v n b hi

section
variable {s : State} {i : Instr} {d a : Reg}

/-- A form that writes 256 bits of plain data (R113). -/
theorem writesBits_of {v : W256} (h : exec i s = .next (s.setBits d v).advance) : WritesBits s i d v := writes_of s i d _ h

/-- A copy of a register with one bit changed (R123). -/
theorem bitForm_of_copyBit {n : Nat} {b : Bool} (h : exec i s = s.copyBit d a n b) :
    ∃ w, WritesBits s i d w ∧ BitChanged (s.bits a) w n b :=
  ⟨_, writesBits_of h, bitChanged_withBit _ _ _⟩

theorem setWidth_ofBool_eq_ite (b : Bool) : ((BitVec.ofBool b).setWidth 64 : Word) = if b then 1 else 0 := by
  cases b <;> rfl

/-- One bit as a scalar (R125, R129). -/
theorem writesX_of_bit {b : Bool} (h : exec i s = s.scalar d ((BitVec.ofBool b).setWidth 64)) :
    WritesX s i d (if b then 1 else 0) :=
  setWidth_ofBool_eq_ite b ▸ writesX_of s i d _ h

end

/-! ### Minima, maxima and words (R125) -/

/-- Where equal keys give equal results, the comparison may be strict or not. -/
theorem ite_lt_eq_ite_le {α β : Type} [LinearOrder α] {u v : α} {p q : β} (h : u = v → p = q) :
    (if u < v then p else q) = if u ≤ v then p else q := by
  rcases lt_trichotomy u v with hlt | heq | hgt
  · rw [if_pos hlt, if_pos hlt.le]
  · rw [h heq, ite_self, ite_self]
  · rw [if_neg hgt.not_gt, if_neg hgt.not_ge]

theorem ite_slt {x y p q : Word} (h : x = y → p = q) :
    (if x.slt y then p else q) = if x.toInt ≤ y.toInt then p else q := by
  simp only [BitVec.slt_iff_toInt_lt]
  exact ite_lt_eq_ite_le fun he => h (BitVec.toInt_inj.1 he)

theorem ite_ult {x y p q : Word} (h : x = y → p = q) :
    (if x.ult y then p else q) = if x.toNat ≤ y.toNat then p else q := by
  simp only [BitVec.ult_iff_lt, BitVec.lt_def]
  exact ite_lt_eq_ite_le fun he => h (BitVec.toNat_inj.1 he)

section
variable (x y : Word)

theorem sext32_add : sext32 (x + y) = (x.setWidth 32 + y.setWidth 32).signExtend 64 := by
  unfold sext32
  rw [BitVec.setWidth_add _ _ (by decide)]

theorem sext32_sub : sext32 (x - y) = (x.setWidth 32 - y.setWidth 32).signExtend 64 := by
  unfold sext32
  rw [BitVec.sub_eq_add_neg, BitVec.sub_eq_add_neg, BitVec.setWidth_add _ _ (by decide), BitVec.setWidth_neg_of_le (by decide)]

end

/-! ### Counts of bits (R125) -/

section
variable {x : Word}

theorem leadingZeros_le (x : Word) : leadingZeros x ≤ 64 := by
  unfold leadingZeros
  split <;> omega

theorem leadingZeros_of_ne_zero (hx : x ≠ 0) : leadingZeros x + x.toNat.log2 = 63 := by
  have hne : x.toNat ≠ 0 := fun h => hx (BitVec.eq_of_toNat_eq h)
  have hlog : x.toNat.log2 < 64 := (Nat.log2_lt hne).2 x.isLt
  unfold leadingZeros
  rw [if_neg hx]
  omega

theorem getLsbD_above_leadingZeros {i : Nat} (hi : i < leadingZeros x) : x.getLsbD (63 - i) = false := by
  by_cases hx : x = 0
  · rw [hx]
    exact BitVec.getLsbD_zero
  · have hlog := leadingZeros_of_ne_zero hx
    have hlt : x.toNat < 2 ^ (63 - i) :=
      Nat.lt_log2_self.trans_le (Nat.pow_le_pow_right Nat.two_pos (show x.toNat.log2 + 1 ≤ 63 - i by omega))
    exact Nat.testBit_lt_two_pow hlt

theorem getLsbD_at_leadingZeros (h : leadingZeros x < 64) : x.getLsbD (63 - leadingZeros x) = true := by
  have hx : x ≠ 0 := by
    rintro rfl
    exact absurd h (by decide)
  have hlog := leadingZeros_of_ne_zero hx
  rw [show 63 - leadingZeros x = x.toNat.log2 by omega]
  exact Nat.testBit_log2 fun h0 => hx (BitVec.eq_of_toNat_eq h0)

/-- The lowest set bit is the first of 64 that the search finds; where it finds none, all are clear. -/
theorem trailingZeros_spec (x : Word) : trailingZeros x ≤ 64 ∧ (∀ i < trailingZeros x, x.getLsbD i = false) ∧
    (trailingZeros x < 64 → x.getLsbD (trailingZeros x) = true) := by
  unfold trailingZeros
  cases h : (List.range 64).find? (fun i => x.getLsbD i) with
  | none =>
    have hclear := List.find?_range_eq_none.1 h
    exact ⟨le_rfl, fun i hi => by simpa using hclear i hi, fun h => absurd h (lt_irrefl _)⟩
  | some m =>
    obtain ⟨hset, hm, hclear⟩ := List.find?_range_eq_some.1 h
    exact ⟨(List.mem_range.1 hm).le, fun i hi => by simpa using hclear i hi, fun _ => hset⟩

end

/-! ### Bytes in reverse order (R125) -/

theorem getElem_toBytes {v n i : Nat} (h : i < (toBytes v n).length) : (toBytes v n)[i] = BitVec.ofNat 8 (v / 256 ^ i) := by
  induction n generalizing v i with
  | zero => exact absurd h (Nat.not_lt_zero _)
  | succ n ih =>
    cases i with
    | zero => rw [Nat.pow_zero, Nat.div_one]; rfl
    | succ i =>
      rw [Nat.pow_succ', ← Nat.div_div_eq_div_mul]
      exact ih _

theorem ofBytes_div_mod {bs : List Byte} {i : Nat} (h : i < bs.length) : ofBytes bs / 256 ^ i % 256 = bs[i].toNat := by
  induction bs generalizing i with
  | nil => exact absurd h (Nat.not_lt_zero _)
  | cons b bs ih =>
    have hb : b.toNat < 256 := b.isLt
    cases i with
    | zero =>
      show (b.toNat + 256 * ofBytes bs) / 256 ^ 0 % 256 = b.toNat
      omega
    | succ i =>
      show (b.toNat + 256 * ofBytes bs) / 256 ^ (i + 1) % 256 = _
      rw [Nat.pow_succ', ← Nat.div_div_eq_div_mul, show (b.toNat + 256 * ofBytes bs) / 256 = ofBytes bs by omega]
      exact ih _

/-- Byte `i` of a word, as a number. -/
theorem toNat_extractLsb'_byte (x : Word) (i : Nat) : (x.extractLsb' (8 * i) 8).toNat = x.toNat / 256 ^ i % 256 := by
  rw [BitVec.extractLsb'_toNat, Nat.shiftRight_eq_div_pow, Nat.pow_mul]

theorem toNat_extractLsb'_byte_ofNat (v : Nat) {i : Nat} (hi : i < 8) :
    ((BitVec.ofNat 64 v).extractLsb' (8 * i) 8).toNat = v / 256 ^ i % 256 := by
  have hsplit : 2 ^ 64 = 256 ^ i * 256 ^ (8 - i) := by rw [← Nat.pow_add, Nat.add_sub_cancel' hi.le]; rfl
  rw [toNat_extractLsb'_byte, BitVec.toNat_ofNat, hsplit, Nat.mod_mul_right_div_self,
    Nat.mod_mod_of_dvd _ (dvd_pow_self 256 (Nat.sub_ne_zero_of_lt hi))]

theorem byteReverse_byte (x : Word) {i : Nat} (hi : i < 8) :
    (byteReverse x).extractLsb' (8 * i) 8 = x.extractLsb' (8 * (7 - i)) 8 := by
  have hlen : i < (toBytes x.toNat 8).reverse.length := by rwa [List.length_reverse, length_toBytes]
  apply BitVec.eq_of_toNat_eq
  unfold byteReverse
  rw [toNat_extractLsb'_byte_ofNat _ hi, ofBytes_div_mod hlen, List.getElem_reverse, getElem_toBytes, BitVec.toNat_ofNat,
    toNat_extractLsb'_byte]
  simp only [length_toBytes]

/-! ### Fields of w bits (R125) -/

theorem shamt_le (y : Word) : shamt y ≤ 63 := Nat.le_of_lt_succ (y.extractLsb' 0 6).isLt

/-- EXTS repeats bit n above it: the word is shifted up and comes back with its sign. -/
theorem getLsbD_exts (x : Word) {n i : Nat} (hn : n ≤ 63) (hi : i < 64) :
    ((x <<< (63 - n)).sshiftRight (63 - n)).getLsbD i = x.getLsbD (Nat.min i n) := by
  rw [BitVec.getLsbD_sshiftRight, decide_eq_false (Nat.not_le.2 hi), Bool.not_false, Bool.true_and]
  split
  case isTrue h =>
    rw [BitVec.getLsbD_shiftLeft, decide_eq_true h, decide_eq_false (by omega), Nat.add_sub_cancel_left,
      show Nat.min i n = i from Nat.min_eq_left (by omega)]
    rfl
  case isFalse h =>
    rw [BitVec.msb_eq_getLsbD_last, BitVec.getLsbD_shiftLeft, decide_eq_true (by decide), decide_eq_false (by omega),
      show 64 - 1 - (63 - n) = Nat.min i n by rw [show Nat.min i n = n from Nat.min_eq_right (by omega)]; omega]
    rfl

/-- EXTZ clears the bits above n. -/
theorem getLsbD_extz (x : Word) {n i : Nat} (hn : n ≤ 63) :
    ((x <<< (63 - n)) >>> (63 - n)).getLsbD i = (decide (i ≤ n) && x.getLsbD i) := by
  have hin : 63 - n + i < 64 ↔ i ≤ n := by omega
  rw [BitVec.getLsbD_ushiftRight, BitVec.getLsbD_shiftLeft, Nat.add_sub_cancel_left,
    decide_eq_false (Nat.not_lt.2 (Nat.le_add_right _ i)), decide_eq_decide.2 hin, Bool.not_false, Bool.and_true]

/-- Settles O1: each form is one function of its sources; those that the table describes by bits have their lemmas above. -/
theorem intResults : Obligations.IntResults := by
  unfold Obligations.IntResults
  intro s d a b x y n k
  have scalar {i : Instr} {w : Word} (h : exec i s = s.scalar d w) : WritesX s i d w := writesX_of s i d w h
  refine ⟨scalar rfl, scalar rfl, scalar rfl, scalar rfl, scalar rfl, scalar rfl, scalar rfl, scalar rfl, scalar rfl,
    scalar rfl, scalar rfl, ite_slt id ▸ scalar rfl, ite_slt Eq.symm ▸ scalar rfl, ite_ult id ▸ scalar rfl,
    ite_ult Eq.symm ▸ scalar rfl, sext32_add x y ▸ scalar rfl, sext32_sub x y ▸ scalar rfl, scalar rfl, scalar rfl,
    scalar rfl, scalar rfl, ?clead, ?ctrail, ?cones, ?byterev, ?exts, ?extz, writes_of s _ d _ rfl,
    bitForm_of_copyBit rfl, bitForm_of_copyBit rfl, bitForm_of_copyBit rfl, writesX_of_bit rfl⟩
  case clead =>
    exact ⟨_, leadingZeros_le x, scalar rfl, fun _ => getLsbD_above_leadingZeros, getLsbD_at_leadingZeros⟩
  case ctrail =>
    obtain ⟨hle, hclear, hset⟩ := trailingZeros_spec x
    exact ⟨_, hle, scalar rfl, hclear, hset⟩
  case cones =>
    rw [← List.countP_eq_length_filter]
    exact scalar rfl
  case byterev => exact ⟨_, scalar rfl, fun _ => byteReverse_byte x⟩
  case exts => exact ⟨_, scalar rfl, fun _ => getLsbD_exts x (shamt_le y)⟩
  case extz => exact ⟨_, scalar rfl, fun _ _ => getLsbD_extz x (shamt_le y)⟩

end Sys2Proof.Machine
end

section
/-!
Proofs of this sitting, BitResults: the condition table, and the forms that write one bit (O3).
-/
namespace Sys2Proof.Machine
set_option Elab.async false

/-! ### The condition table (R130) -/

section
variable (x y : Word)

theorem condHolds_lt : condHolds .lt x y = decide (x.toInt < y.toInt) := BitVec.slt_eq_decide

theorem condHolds_ge : condHolds .ge x y = decide (y.toInt ≤ x.toInt) := by
  show (!x.slt y) = _
  rw [BitVec.slt_eq_decide, ← decide_not, decide_eq_decide]
  exact not_lt

theorem condHolds_ltu : condHolds .ltu x y = decide (x.toNat < y.toNat) := BitVec.ult_eq_decide

theorem condHolds_geu : condHolds .geu x y = decide (y.toNat ≤ x.toNat) := by
  show (!x.ult y) = _
  rw [BitVec.ult_eq_decide, ← decide_not, decide_eq_decide]
  exact not_lt

end

/-- Settles O3: each form copies a register with one bit changed; the compares take the bit from the condition table. -/
theorem bitResults : Obligations.BitResults := by
  unfold Obligations.BitResults
  intro s d a b bit p h i6 v o n holds
  have htable (c : Cond) (x y : Word) : condHolds c x y = holds c x y := by
    cases c with
    | eq | ne | tst | ntst => rfl
    | lt => exact condHolds_lt x y
    | ge => exact condHolds_ge x y
    | ltu => exact condHolds_ltu x y
    | geu => exact condHolds_geu x y
  exact ⟨bitForm_of_copyBit rfl, bitForm_of_copyBit rfl, bitForm_of_copyBit rfl, writesX_of_bit rfl, bitForm_of_copyBit rfl,
    bitForm_of_copyBit rfl, fun c => htable c _ _ ▸ bitForm_of_copyBit rfl, fun c => htable c _ _ ▸ bitForm_of_copyBit rfl,
    fun c => htable c _ _ ▸ bitForm_of_copyBit rfl⟩

end Sys2Proof.Machine
end

section
/-!
Proofs of this sitting, CapabilityReads: the bits of a view and its fields, the getters, CPROBE and CDIST (O6).
-/
namespace Sys2Proof.Machine
set_option Elab.async false

/-! ### The fields of a view and its bits (R115) -/

/-- Two views rest on the same opening exactly where their handles and their generations agree (R136, R137). -/
theorem extractLsb'_opening (v u : W256) : v.extractLsb' 192 48 = u.extractLsb' 192 48 ↔
    (Cap.ofBits v).handle = (Cap.ofBits u).handle ∧ (Cap.ofBits v).gen = (Cap.ofBits u).gen := by
  have hsplit (x : W256) : x.extractLsb' 192 48 = (Cap.ofBits x).gen ++ (Cap.ofBits x).handle :=
    (BitVec.extractLsb'_append_extractLsb'_eq_extractLsb' (start₁ := 192) (len₁ := 24) (len₂ := 24) rfl).symm
  constructor
  · intro h
    have hbit (i : Nat) (hi : i < 48) : v.getLsbD (192 + i) = u.getLsbD (192 + i) := by
      have hi' := congrArg (·.getLsbD i) h
      simpa [BitVec.getLsbD_extractLsb', hi] using hi'
    constructor
    · apply BitVec.eq_of_getLsbD_eq
      intro i hi
      simpa [Cap.ofBits, hi] using hbit i (by omega)
    · apply BitVec.eq_of_getLsbD_eq
      intro i hi
      simpa [Cap.ofBits, hi, ← Nat.add_assoc] using hbit (24 + i) (by omega)
  · rintro ⟨hhandle, hgen⟩
    rw [hsplit, hsplit, hhandle, hgen]

theorem opening_differs (v u : W256) : ((Cap.ofBits v).handle != (Cap.ofBits u).handle ||
    (Cap.ofBits v).gen != (Cap.ofBits u).gen) = true ↔ v.extractLsb' 192 48 ≠ u.extractLsb' 192 48 := by
  rw [Ne, extractLsb'_opening, not_and_or, Bool.or_eq_true, bne_iff_ne, bne_iff_ne]

/-! ### The getters and CPROBE (R134, R137) -/

section
variable {s : State} {i : Instr} {d a b : Reg}

theorem writesX_of_getter {w : Word} (h : exec i s = s.getter d w) : WritesX s i d w := writes_of s i d _ h

/-- CGETKIND gives KIND with SEALED above it: the top 4 bits of the view. -/
theorem Cap.sealed_kind (v : W256) :
    (BitVec.ofBool (Cap.ofBits v).sealed_ ++ (Cap.ofBits v).kind : BitVec 4) = v.extractLsb' 252 4 := by
  have htop : BitVec.ofBool (v.getLsbD 255) = v.extractLsb' 255 1 := by
    apply BitVec.eq_of_getLsbD_eq
    intro i hi
    obtain rfl : i = 0 := by omega
    simp
  show BitVec.ofBool (v.getLsbD 255) ++ v.extractLsb' 252 3 = _
  rw [htop]
  exact BitVec.extractLsb'_append_extractLsb'_eq_extractLsb' rfl

/-- Four bits as a scalar, the lowest last. -/
def fourBits (b3 b2 b1 b0 : Bool) : Word :=
  (BitVec.ofBool b3 ++ BitVec.ofBool b2 ++ BitVec.ofBool b1 ++ BitVec.ofBool b0).setWidth 64

theorem getLsbD_fourBits : ∀ b3 b2 b1 b0 : Bool, (fourBits b3 b2 b1 b0).getLsbD 0 = b0 ∧
    (fourBits b3 b2 b1 b0).getLsbD 1 = b1 ∧ (fourBits b3 b2 b1 b0).getLsbD 2 = b2 ∧
    (fourBits b3 b2 b1 b0).getLsbD 3 = b3 := by decide

theorem getLsbD_fourBits_above (b3 b2 b1 b0 : Bool) {i : Nat} (hi : 4 ≤ i) : (fourBits b3 b2 b1 b0).getLsbD i = false := by
  unfold fourBits
  rw [BitVec.getLsbD_setWidth, BitVec.getLsbD_of_ge _ _ hi, Bool.and_false]

theorem cursor_inside (k : Cap) : (k.base.ule k.offset && k.offset.ult k.limit) =
    decide (k.base.toNat ≤ k.offset.toNat ∧ k.offset.toNat < k.limit.toNat) := by
  rw [BitVec.ule_eq_decide, BitVec.ult_eq_decide, Bool.decide_and]

/-! ### CDIST (R137) -/

theorem traps_cdist_untagged (ha : (s.reg a).tag = false) : Traps s (.cdist d a b) .capTag (regVal a) := by
  show execCdist d a b s = _
  unfold execCdist
  rw [ha]
  rfl

theorem traps_cdist_second (ha : (s.reg a).tag = true) (hb : (s.reg b).tag = false) :
    Traps s (.cdist d a b) .capTag (regVal b) := by
  show execCdist d a b s = _
  unfold execCdist
  rw [ha, hb]
  rfl

theorem exec_cdist (ha : (s.reg a).tag = true) (hb : (s.reg b).tag = true) : exec (.cdist d a b) s =
    if (s.bits a).extractLsb' 192 48 ≠ (s.bits b).extractLsb' 192 48 then .next (s.takeTrap .capPerm (regVal b))
    else s.getter d ((s.cap a).offset - (s.cap b).offset) := by
  show execCdist d a b s = _
  unfold execCdist
  simp only [ha, hb, Bool.not_true, Bool.false_eq_true, if_false]
  exact if_congr (opening_differs _ _) rfl rfl

end

/-- Settles O6: a getter's field is that of R115 by definition; KIND with SEALED, the four bits of CPROBE and the comparison
of openings by CDIST have their lemmas above. -/
theorem capabilityReads : Obligations.CapabilityReads := by
  unfold Obligations.CapabilityReads
  intro s d a b v u inside
  refine ⟨writesX_of_getter rfl, writesX_of_getter rfl, writesX_of_getter rfl, writesX_of_getter rfl, writesX_of_getter rfl,
    writesX_of_getter rfl, Cap.sealed_kind v ▸ writesX_of_getter rfl, writesBits_of rfl, ?probe, fun ha hb hsame => ?dist,
    traps_cdist_untagged, traps_cdist_second, fun ha hb hdiffer => (exec_cdist ha hb).trans (if_pos hdiffer)⟩
  case probe =>
    obtain ⟨htag, hinside, hsealed, hwalk⟩ := getLsbD_fourBits (s.cap a).isWalkRef (s.cap a).sealed_
      ((s.cap a).base.ule (s.cap a).offset && (s.cap a).offset.ult (s.cap a).limit) (s.reg a).tag
    refine ⟨_, writesX_of_getter rfl, htag, hinside.trans (cursor_inside _), hsealed, hwalk.trans ?_,
      fun _ hi => getLsbD_fourBits_above _ _ _ _ hi⟩
    show (v.extractLsb' 192 24).getLsbD 23 = v.getLsbD 215
    simp
  case dist => exact writesX_of_getter ((exec_cdist ha hb).trans (if_neg (not_not.2 hsame)))

end Sys2Proof.Machine
end

section
/-!
Proofs of this sitting, CapabilityDerivations: a view with one field changed, bit by bit, and the derivation forms (O7).
-/
namespace Sys2Proof.Machine
set_option Elab.async false

/-! ### A view with one field changed (R115, R135, R136) -/

/-- A view is its fields: nothing is lost in reading them (R115). -/
theorem Cap.toBits_ofBits (v : W256) : (Cap.ofBits v).toBits = v := by
  have join (lo n m : Nat) : v.extractLsb' (lo + n) m ++ v.extractLsb' lo n = v.extractLsb' lo (m + n) :=
    BitVec.extractLsb'_append_extractLsb'_eq_extractLsb' rfl
  show BitVec.ofBool (Cap.ofBits v).sealed_ ++ (Cap.ofBits v).kind ++ v.extractLsb' 240 12 ++ v.extractLsb' 216 24 ++
    v.extractLsb' 192 24 ++ v.extractLsb' 128 64 ++ v.extractLsb' 64 64 ++ v.extractLsb' 0 64 = v
  rw [Cap.sealed_kind]
  calc v.extractLsb' 252 4 ++ v.extractLsb' 240 12 ++ v.extractLsb' 216 24 ++ v.extractLsb' 192 24 ++
        v.extractLsb' 128 64 ++ v.extractLsb' 64 64 ++ v.extractLsb' 0 64
    _ = v.extractLsb' 240 16 ++ v.extractLsb' 216 24 ++ v.extractLsb' 192 24 ++ v.extractLsb' 128 64 ++
        v.extractLsb' 64 64 ++ v.extractLsb' 0 64 := by rw [join 240 12 4]
    _ = v.extractLsb' 192 64 ++ v.extractLsb' 128 64 ++ v.extractLsb' 64 64 ++ v.extractLsb' 0 64 := by
        rw [join 216 24 16, join 192 24 40]
    _ = v.extractLsb' 0 256 := by rw [join 128 64 64, join 64 64 128, join 0 64 192]
    _ = v := BitVec.extractLsb'_eq_self

/-- `w` differs from `v` at most in the bits [lo + n - 1 : lo], which hold `p`. -/
def PartChanged {N : Nat} (v w : BitVec N) (lo n : Nat) (p : BitVec n) : Prop :=
  w.extractLsb' lo n = p ∧ ∀ i, i < lo ∨ lo + n ≤ i → w.getLsbD i = v.getLsbD i

section
variable {N l m n lo : Nat}

/-- The whole word changed. -/
theorem partChanged_whole (q p : BitVec n) : PartChanged q p 0 n p :=
  ⟨BitVec.extractLsb'_eq_self, fun i hi => by
    rw [BitVec.getLsbD_of_ge _ _ (by omega), BitVec.getLsbD_of_ge _ _ (by omega)]⟩

/-- The lowest part of a word changed. -/
theorem partChanged_low (above : BitVec m) (q p : BitVec n) : PartChanged (above ++ q) (above ++ p) 0 n p := by
  refine ⟨BitVec.eq_of_getLsbD_eq fun i hi => ?_, fun i hi => ?_⟩
  · rw [BitVec.getLsbD_extractLsb', decide_eq_true hi, Nat.zero_add, BitVec.getLsbD_append, if_pos hi, Bool.true_and]
  · have hout : ¬ i < n := by omega
    rw [BitVec.getLsbD_append, BitVec.getLsbD_append, if_neg hout, if_neg hout]

/-- The two lowest parts changed together. -/
theorem partChanged_low_two (above : BitVec l) (q p : BitVec m) (q' p' : BitVec n) :
    PartChanged (above ++ q ++ q') (above ++ p ++ p') 0 (m + n) (p ++ p') := by
  refine ⟨BitVec.eq_of_getLsbD_eq fun i hi => ?_, fun i hi => ?_⟩
  · rw [BitVec.getLsbD_extractLsb', decide_eq_true hi, Nat.zero_add, Bool.true_and, BitVec.getLsbD_append,
      BitVec.getLsbD_append, BitVec.getLsbD_append]
    by_cases hlow : i < n
    · rw [if_pos hlow, if_pos hlow]
    · rw [if_neg hlow, if_neg hlow, if_pos (by omega)]
  · have hlow : ¬ i < n := by omega
    have hout : ¬ i - n < m := by omega
    simp only [BitVec.getLsbD_append, if_neg hlow, if_neg hout]

/-- Bits below the change shift it up. -/
theorem PartChanged.append {v w : BitVec N} {p : BitVec n} (h : PartChanged v w lo n p) (below : BitVec m) :
    PartChanged (v ++ below) (w ++ below) (lo + m) n p := by
  obtain ⟨hpart, hrest⟩ := h
  refine ⟨?_, fun i hi => ?_⟩
  · rw [← hpart]
    apply BitVec.eq_of_getLsbD_eq
    intro i hi
    rw [BitVec.getLsbD_extractLsb', BitVec.getLsbD_extractLsb', BitVec.getLsbD_append, if_neg (by omega),
      show lo + m + i - m = lo + i by omega]
  · rw [BitVec.getLsbD_append, BitVec.getLsbD_append]
    by_cases hb : i < m
    · rw [if_pos hb, if_pos hb]
    · rw [if_neg hb, if_neg hb]
      exact hrest _ (by omega)

end

section
variable (k : Cap)

theorem partChanged_offset (y : Word) : PartChanged k.toBits { k with offset := y }.toBits 0 64 y := partChanged_low _ _ _

theorem partChanged_perm (p : BitVec 12) : PartChanged k.toBits { k with perm := p }.toBits 240 12 p :=
  (partChanged_low (BitVec.ofBool k.sealed_ ++ k.kind) k.perm p).append k.gen |>.append k.handle |>.append k.limit
    |>.append k.base |>.append k.offset

theorem partChanged_window (base limit : Word) :
    PartChanged k.toBits { k with base := base, limit := limit }.toBits 64 128 (limit ++ base) :=
  (partChanged_low_two (BitVec.ofBool k.sealed_ ++ k.kind ++ k.perm ++ k.gen ++ k.handle) k.limit limit k.base base).append
    k.offset

theorem partChanged_sealed (b : Bool) :
    PartChanged k.toBits { k with sealed_ := b }.toBits 255 1 (BitVec.ofBool b) :=
  (partChanged_whole (BitVec.ofBool k.sealed_) (BitVec.ofBool b)).append k.kind |>.append k.perm |>.append k.gen
    |>.append k.handle |>.append k.limit |>.append k.base |>.append k.offset

end

theorem PartChanged.bitChanged {v w : W256} {n : Nat} {b : Bool} (h : PartChanged v w n 1 (BitVec.ofBool b)) :
    BitChanged v w n b := by
  obtain ⟨hpart, hrest⟩ := h
  intro i hi
  by_cases hn : i = n
  · have hbit := congrArg (·.getLsbD 0) hpart
    rw [hn, if_pos rfl]
    simpa [BitVec.getLsbD_extractLsb'] using hbit
  · rw [if_neg hn]
    exact hrest i (by omega)

/-! ### The derivation forms (R135, R138) -/

section
variable {s : State} {i : Instr} {d a b : Reg} {f : Cap → Except Bad Cap}

theorem State.derive_untagged (ht : (s.reg a).tag = false) : s.derive d a f = .next (s.takeTrap .capTag (regVal a)) := by
  unfold State.derive
  rw [ht]
  rfl

section
variable (ht : (s.reg a).tag = true)
include ht

theorem State.derive_sealed (hs : (s.bits a).getLsbD 255 = true) :
    s.derive d a f = .next (s.takeTrap .capSealed (regVal a)) := by
  unfold State.derive
  rw [ht, show (s.cap a).sealed_ = true from hs]
  rfl

variable (hs : (s.bits a).getLsbD 255 = false)
include hs

theorem State.derive_plain : s.derive d a f = s.orTrap (f (s.cap a)) fun k => (s.setCap d k).advance := by
  unfold State.derive
  rw [ht, show (s.cap a).sealed_ = false from hs]
  rfl

/-- A derivation that goes on writes the view its function gives, tagged; what differs is what differs in the fields. -/
theorem writes_of_derive {k : Cap} {lo n : Nat} {p : BitVec n} (hexec : exec i s = s.derive d a f) (hf : f (s.cap a) = .ok k)
    (hpart : PartChanged (s.cap a).toBits k.toBits lo n p) :
    ∃ w, Writes s i d ⟨w, true⟩ ∧ PartChanged (s.bits a) w lo n p := by
  rw [State.derive_plain ht hs, hf] at hexec
  rw [show (s.cap a).toBits = s.bits a from Cap.toBits_ofBits _] at hpart
  exact ⟨_, writes_of s i d _ hexec, hpart⟩

end

/-! The five forms as derivations. -/

theorem exec_ccur : exec (.ccur d a b) s = s.derive d a fun k => .ok { k with offset := s.x b } := rfl
theorem exec_cstep : exec (.cstep d a b) s = s.derive d a fun k => .ok { k with offset := k.offset + s.x b } := rfl
theorem exec_cinci {imm : Imm 14} : exec (.cinci d a imm) s = s.derive d a fun k =>
    .ok { k with offset := k.offset + immValue imm } := rfl
theorem exec_cdrop : exec (.cdrop d a b) s = s.derive d a fun k =>
    .ok { k with perm := k.perm &&& ~~~((s.x b).setWidth 12) } := rfl

/-- The view with the window [cursor, y), where that lies within the old one (R135). -/
def Cap.narrow (k : Cap) (y : Word) (b : Reg) : Except Bad Cap :=
  if k.offset.ult k.base || y.ult k.offset || k.limit.ult y then .error (.capBounds, regVal b)
  else .ok { k with base := k.offset, limit := y }

theorem exec_cnarrow : exec (.cnarrow d a b) s = s.derive d a fun k => k.narrow (s.x b) b := rfl

theorem Cap.leaves_window (k : Cap) (y : Word) : (k.offset.ult k.base || y.ult k.offset || k.limit.ult y) = true ↔
    ¬ (k.base.toNat ≤ k.offset.toNat ∧ k.offset.toNat ≤ y.toNat ∧ y.toNat ≤ k.limit.toNat) := by
  rw [Bool.or_eq_true, Bool.or_eq_true, BitVec.ult_iff_lt, BitVec.ult_iff_lt, BitVec.ult_iff_lt, BitVec.lt_def, BitVec.lt_def,
    BitVec.lt_def]
  omega

theorem Cap.narrow_within {k : Cap} {y : Word} (h : k.base.toNat ≤ k.offset.toNat ∧ k.offset.toNat ≤ y.toNat ∧
    y.toNat ≤ k.limit.toNat) : k.narrow y b = .ok { k with base := k.offset, limit := y } :=
  if_neg (mt (k.leaves_window y).1 (not_not.2 h))

theorem Cap.narrow_outside {k : Cap} {y : Word} (h : ¬ (k.base.toNat ≤ k.offset.toNat ∧ k.offset.toNat ≤ y.toNat ∧
    y.toNat ≤ k.limit.toNat)) : k.narrow y b = .error (.capBounds, regVal b) :=
  if_pos ((k.leaves_window y).2 h)

end

/-- Settles O7: the five forms are derivations, which check first and then write the view with the one field changed. -/
theorem capabilityDerivations : Obligations.CapabilityDerivations := by
  unfold Obligations.CapabilityDerivations
  intro s d a b i14 v y off base limit part forms
  have hderive : ∀ i ∈ forms, ∃ f, exec i s = s.derive d a f := by
    simp only [forms, List.forall_mem_cons]
    exact ⟨⟨_, exec_ccur⟩, ⟨_, exec_cstep⟩, ⟨_, exec_cnarrow⟩, ⟨_, exec_cdrop⟩, ⟨_, exec_cinci⟩, List.forall_mem_nil _⟩
  refine ⟨fun ht i hi => ?untagged, fun ht hs i hi => ?covered, fun ht hs => ⟨writes_of_derive ht hs exec_ccur rfl ?_,
    writes_of_derive ht hs exec_cstep rfl ?_, writes_of_derive ht hs exec_cinci rfl ?_,
    writes_of_derive ht hs exec_cdrop rfl ?_, fun hoff hlow hhigh => ?within, fun hout => ?outside⟩⟩
  case untagged =>
    obtain ⟨f, hf⟩ := hderive i hi
    exact hf.trans (State.derive_untagged ht)
  case covered =>
    obtain ⟨f, hf⟩ := hderive i hi
    exact hf.trans (State.derive_sealed ht hs)
  case within =>
    exact writes_of_derive ht hs exec_cnarrow (Cap.narrow_within ⟨hoff, hlow, hhigh⟩) (partChanged_window _ _ _)
  case outside =>
    have hnarrow : (s.cap a).narrow y b = .error (.capBounds, regVal b) := Cap.narrow_outside hout
    exact (exec_cnarrow.trans (State.derive_plain ht hs)).trans (congrArg (s.orTrap · _) hnarrow)
  · exact partChanged_offset _ _
  · exact partChanged_offset _ _
  · exact partChanged_offset _ _
  · exact partChanged_perm _ _

end Sys2Proof.Machine
end

section
/-!
Proofs of this sitting, CoverResults: the checks of CCOVER and CUNCOVER, and the view with SEALED changed (O8).
-/
namespace Sys2Proof.Machine
set_option Elab.async false

/-! ### The checks of covering, in their order (R136) -/

section
variable {s : State} {d a b : Reg}

theorem Cap.has_permS (k : Cap) : k.has permS = k.perm.getLsbD 6 := by
  have hbit : permS = BitVec.twoPow 12 6 := rfl
  unfold Cap.has
  rw [hbit, BitVec.and_twoPow]
  cases k.perm.getLsbD 6 <;> rfl

/-- The checks as one chain of conditions on the two views. -/
theorem State.coverCheck_eq : s.coverCheck a b =
    if (s.reg a).tag = false then some (.capTag, regVal a)
    else if (s.reg b).tag = false then some (.capTag, regVal b)
    else if (s.bits b).getLsbD 255 = true then some (.capSealed, regVal b)
    else if (s.bits b).getLsbD 246 = false then some (.capPerm, regVal b)
    else if (s.bits b).extractLsb' 192 48 ≠ (s.bits a).extractLsb' 192 48 then some (.capPerm, regVal b)
    else none := by
  have hright : (s.cap b).has permS = (s.bits b).getLsbD 246 := by
    rw [Cap.has_permS]
    show ((s.bits b).extractLsb' 240 12).getLsbD 6 = _
    rw [BitVec.getLsbD_extractLsb']
    rfl
  unfold State.coverCheck
  simp only [hright, Bool.not_eq_true']
  exact if_congr Iff.rfl rfl (if_congr Iff.rfl rfl (if_congr Iff.rfl rfl (if_congr Iff.rfl rfl
    (if_congr (opening_differs _ _) rfl rfl))))

theorem traps_cover {c : Cause} {v : Word} (h : s.coverCheck a b = some (c, v)) :
    Traps s (.ccover d a b) c v ∧ Traps s (.cuncover d a b) c v := by
  constructor
  · show execCcover d a b s = _
    unfold execCcover
    rw [h]
    rfl
  · show execCuncover d a b s = _
    unfold execCuncover
    rw [h]
    rfl

section
variable (h : s.coverCheck a b = none)
include h

theorem exec_cuncover : exec (.cuncover d a b) s = .next (s.setCap d { s.cap a with sealed_ := false }).advance := by
  show execCuncover d a b s = _
  unfold execCuncover
  rw [h]

theorem exec_ccover : exec (.ccover d a b) s = if (s.bits a).getLsbD 255 = true then
      .next (s.takeTrap .capSealed (regVal a))
    else .next (s.setCap d { s.cap a with sealed_ := true }).advance := by
  show execCcover d a b s = _
  unfold execCcover
  rw [h]
  rfl

end

/-- A form that writes c[a] with SEALED changed. -/
theorem writes_of_sealed {i : Instr} {x : Bool}
    (h : exec i s = .next (s.setCap d { s.cap a with sealed_ := x }).advance) :
    ∃ w, Writes s i d ⟨w, true⟩ ∧ BitChanged (s.bits a) w 255 x := by
  have hchanged := (partChanged_sealed (s.cap a) x).bitChanged
  rw [show (s.cap a).toBits = s.bits a from Cap.toBits_ofBits _] at hchanged
  exact ⟨_, writes_of s i d _ h, hchanged⟩

end

/-- Settles O8: the checks in their order; where they pass, each form writes c[a] with SEALED changed. -/
theorem coverResults : Obligations.CoverResults := by
  unfold Obligations.CoverResults
  intro s d a b k u av bv both
  have hcheck := s.coverCheck_eq (a := a) (b := b)
  split_ifs at hcheck ⊢
  case pos | pos | pos | pos | pos => exact traps_cover hcheck
  · exact ⟨writes_of_sealed (exec_cuncover hcheck), (exec_ccover hcheck).trans (if_pos ‹_›)⟩
  · exact ⟨writes_of_sealed (exec_cuncover hcheck), writes_of_sealed ((exec_ccover hcheck).trans (if_neg ‹_›))⟩

end Sys2Proof.Machine
end
